-- ==== Sys2Proof/Word.lean ====
section
/-! DEFINITION. Word.lean: the plain number types of the model (R5, R7). -/

namespace Sys2Proof

/-- A byte; multi-byte quantities are little-endian (R5). -/
abbrev Byte := BitVec 8

/-- A BAR0 register or a 32-bit memory word (R7). -/
abbrev Word := BitVec 32

end Sys2Proof
end

