-- ==== Sys2Proof/Syntax.lean ====
section
/-! DEFINITION. Syntax.lean: the commands of the block, one constructor per row of spec/opcode_table.json, and the
plain data their operands are made of. An operand is what reaches the device from outside, or what a part that the
specification does not describe (Bailiff's choices of place, a codec, a sensor, a network's weights) contributes to the step. -/

namespace Sys2Proof

/-- A 64-byte command packet (R31). Byte `8 + k` of the packet is bits [8k+7:8k] of `params`. -/
structure Packet where
  opcode : Byte
  flags : Byte
  tag : BitVec 16
  ctx : BitVec 16
  length : Byte
  rsv : Byte
  params : BitVec 448
  deriving DecidableEq, Repr

/-- What a host read that a command needs brings: the data, or the DMA fault code of R297 (R39). -/
inductive HostRead (α : Type) where
  | data (a : α)
  | fault (code : Byte)
  deriving DecidableEq, Repr

/-- The three kinds of ring (R24). -/
inductive RingKind where
  | submission | completion | metadata
  deriving DecidableEq, Repr

/-- The kinds of video engine (R18). -/
inductive VideoKind where
  | decode | prep | encode
  deriving DecidableEq, Repr

/-- DMA engines of R289. -/
inductive DmaEngine where
  | timed (n : BitVec 4)
  | bulk (n : BitVec 2)
  | host (n : BitVec 3)
  deriving DecidableEq, Repr

/-- Meter readings of the telemetry block (R340) that no other command carries. -/
structure PowerSample where
  power : Word
  peak : Word
  energy : BitVec 64
  rails : List (BitVec 16)
  deriving DecidableEq, Repr

/-- The descriptor and lists a CLIP_REQUEST names (R254). -/
structure ClipLists where
  desc : List Byte
  roi : List Byte
  source : List Byte
  deriving DecidableEq, Repr

/-- Header facts of a received Ethernet frame (R86, R89). `proto`: 17 UDP, 1 ICMP, 58 ICMPv6 and MLD, 2 IGMP. `held` is
how many bytes the port's write buffer still holds when the frame arrives (R277). `vlan` is the tag's control field: [11:0]
the VLAN identifier, [15:13] the priority. `formatOk`: the lengths inside the payload fit, and an AV1 stream has one layer
(R93); `begins`: the payload begins an AV1 temporal unit (R104). -/
structure Frame where
  fcsOk : Bool
  length : Nat
  tags : Nat
  dstMac : BitVec 48
  vlan : BitVec 16
  etherType : BitVec 16
  ipVersion : Nat
  ihl : Nat
  ipChecksumOk : Bool
  extBytes : Nat
  extOther : Bool
  fragment : Bool
  proto : Nat
  udpChecksumZero : Bool
  udpChecksumOk : Bool
  srcIp : BitVec 128
  dstIp : BitVec 128
  srcPort : BitVec 16
  dstPort : BitVec 16
  payload : List Byte
  ssrc : Word
  version : Nat
  second : Byte
  seq : BitVec 16
  ts : Word
  marker : Bool
  payloadOffset : Nat
  payloadLength : Nat
  formatOk : Bool
  begins : Bool
  refFree : Bool
  rtcpNtp : BitVec 64
  rtcpTs : Word
  srtpIndex : Nat
  held : Nat := 0
  deriving DecidableEq, Repr

/-- Control traffic that reaches Bailiff (R90). -/
inductive ControlKind where
  | arpRequest (target : BitVec 32)
  | neighbourSolicit (target : BitVec 128)
  | icmpEcho (dst : BitVec 32)
  | icmpv6Echo (dst : BitVec 128)
  | igmpQuery (version : Nat)
  | mldQuery (version : Nat)
  | routerAdvert (router : BitVec 128)
  | other
  deriving DecidableEq, Repr

/-- A parameter set or sequence header in an access unit (R123, R132). `chroma`: 0 4:2:0, 1 4:2:2, 2 4:0:0. The others are
what the table of R122 asks for: frame_mbs_only_flag and the number of slice groups of H.264, field_seq_flag of HEVC, the
operating point, large-scale tile mode and the number of spatial or temporal layers of AV1, and how many reference pictures
the header requires. -/
structure ParamSet where
  id : Nat
  width : Nat
  height : Nat
  bitDepth : Nat
  chroma : Nat
  matrix : Nat
  fullRange : Bool
  valid : Bool := true
  frameMbsOnly : Bool := true
  sliceGroups : Nat := 1
  fieldSeq : Bool := false
  operatingPoint : Nat := 0
  largeScaleTile : Bool := false
  layers : Nat := 1
  refsRequired : Nat := 0
  deriving DecidableEq, Repr

/-- A block of a reference picture whose samples a prediction reads: the picture's FRAME_SEQ (2^32 * h more for the
`h`-th picture of its access unit that is not shown), the block, and the output position expected of the picture (R133). -/
structure RefUse where
  seq : Nat
  block : Nat
  pos : Int := 0
  deriving DecidableEq, Repr

/-- What the bitstream says of one 16 x 16 luma block, in raster order (R132 to R138). `units` is the entropy count of
the access unit when the block ends; `refs` what its prediction reads. -/
structure BlockFacts where
  covered : Bool
  missing : Bool
  syntaxErr : Bool
  units : Nat
  intra : Bool
  refs : List RefUse
  mv : Nat
  levels : Nat
  deriving DecidableEq, Repr

/-- A coded frame of an AV1 temporal unit that is not shown (R128). -/
structure HiddenFrame where
  outPos : Int
  blocks : List BlockFacts
  kept : List Nat
  isRef : Bool
  luma : List Byte
  chroma : List Byte
  deriving DecidableEq, Repr

/-- The facts of one access unit as its codec's standard defines them (R122, R132): of the primary coded picture where an
H.264 access unit holds redundant ones, and of the samples before film grain where AV1 signals it (R122). `hidden`: the
frames before it that are not shown. `partitioned`: slice data partitioning; `layerId`: the highest nuh_layer_id. `chroma`
of a 4:2:2 picture holds its rows at full height (R126). `poison`: blocks of a clip's picture for which the clip working area
returned poisoned data (R259); a stream's own pictures find theirs by their reads (R132). -/
structure PicFacts where
  coded : Bool
  stored : List ParamSet
  active : Option Nat
  partitioned : Bool := false
  layerId : Nat := 0
  profileMismatch : Bool
  intraOnly : Bool
  outPos : Int
  blocks : List BlockFacts
  kept : List Nat
  isRef : Bool
  hidden : List HiddenFrame := []
  cycles : Nat
  luma : List Byte
  chroma : List Byte
  poison : List Nat := []
  deriving DecidableEq, Repr

/-- What an extension record reports (R250): the class indices of a plate's characters with the lowest and the mean
confidence, or an event's class, confidence and the values its layer wrote. -/
inductive Extension where
  | plate (characters : List Nat) (lowest mean : BitVec 16)
  | event (cls conf : BitVec 16) (values : List Byte)
  deriving DecidableEq, Repr

/-- One entry of a box list or record list (R182); coordinates and score are FP32 bit patterns. `ext` is what its
extension record reports (R250), `emb` the detection's embedding (R239). -/
structure BoxEntry where
  x0 : Word
  y0 : Word
  x1 : Word
  y1 : Word
  score : Word
  cls : BitVec 16
  level : BitVec 16
  track : Word
  flags : BitVec 16
  emb : List Word
  ext : Option Extension
  /-- Of a network fed by regions: the entry of the upstream list whose region this one describes (R247). -/
  region : Option Nat
  deriving DecidableEq, Repr

/-- A record list that a network wrote for one frame of the round's frame list (R239, R247). -/
structure RecList where
  frame : Nat
  net : BitVec 16
  entries : List BoxEntry
  /-- Granary offset of the list, where it lies there: no rule gives where a network writes it (notes/assumptions/86.md). -/
  base : Option Nat
  deriving DecidableEq, Repr

/-- A predicted embedding of the association network for a track (R239). -/
structure Predicted where
  track : Nat
  emb : List Word
  deriving DecidableEq, Repr

/-- Where Bailiff placed a best-effort network's parts in an area (R208, R211): first tile-program word, and first
entry of the DMA, crop and row-map tables. -/
structure BeBase where
  net : Nat
  prog : Nat
  dma : Nat
  crop : Nat
  rowMap : Nat
  deriving DecidableEq, Repr

/-- A timetable area as Bailiff writes it (R190), the network handle of each row map, and the core images of R200 it
builds for the area, by physical core. -/
structure AreaContent where
  slots : List (BitVec 4096)
  lanes : List (List (BitVec 12))
  dma : List (BitVec 512)
  crops : List (BitVec 256)
  rowMaps : List (BitVec 128)
  rowNets : List Nat
  images : List (BitVec 128)
  coreImages : List (List Byte)
  bases : List BeBase
  deriving DecidableEq, Repr

/-- What R201 and R211 leave to Bailiff when it assembles an area: the fc left idle before each layer, the lane lists, the
places of the core images by physical core, and the best-effort networks that the area runs. -/
structure AreaPlan where
  idle : List Nat
  lanes : List (List (BitVec 12))
  images : List Nat
  bestEffort : List Nat
  deriving DecidableEq, Repr

/-- How an area was written: assembled as R201 says, or otherwise, which the check of R202 is there to find. -/
inductive AreaWrite where
  | assembled (p : AreaPlan)
  | other (c : AreaContent)
  deriving DecidableEq, Repr

/-- Units whose finish the Bell sequencer waits for (R195). -/
inductive UnitId where
  | core (n : BitVec 7)
  | channel (n : BitVec 4)
  | crop (n : BitVec 7)
  | track
  deriving DecidableEq, Repr

/-- Outcomes of the fallow slot's tests (R317): which cores of the tested group, which video engine and which HBM
controller group failed, which of the cores hung and whether the engine did, and the stacks' on-die counters. -/
structure FallowResult where
  coreFail : List (BitVec 7)
  videoFail : Bool
  trainFail : Bool
  onDie : List Word
  coreHang : List (BitVec 7) := []
  videoHang : Bool := false
  deriving DecidableEq, Repr

/-- A completion, or a piece of one, for a host read (R346). -/
inductive Cpl where
  | piece (bytes : List Byte)
  | unsupported
  | abort
  | poisoned
  deriving DecidableEq, Repr

/-- Requests without a row of their own: those that the endpoint answers Unsupported Request, Completer Abort, or not at
all (R345), a read of one dword of BAR4, which returns zero (R25), and a read of one dword of configuration space (R343). -/
inductive BadRequest where
  | io | atomic | noBar | disabledRead | disabledWrite | oddRead (bar : Nat) | oddWrite (bar : Nat) | vendorType1
  | bar4Read (offset : BitVec 16) | configRead (offset : BitVec 12)
  deriving DecidableEq, Repr

/-- A host read of BAR0: one dword, or two from a multiple of 8 (R7, R345). -/
structure RegRead where
  offset : BitVec 24
  both : Bool
  deriving DecidableEq, Repr

/-- The real-time ports at the end of a refresh interval (R276, R277): whether one in panic has a request waiting at the
group, and the levels, in bytes, that their buffers have reached since the last, as (port, level). -/
structure RefreshPorts where
  waiting : Bool
  levels : List (Nat × Nat)
  deriving DecidableEq, Repr

/-- Sensors of R397 in 0.1 degrees C: compute die, base die, four stacks. -/
structure Temps where
  compute : Int
  base : Int
  hbm0 : Int
  hbm1 : Int
  hbm2 : Int
  hbm3 : Int
  deriving DecidableEq, Repr

/-- Units that failed the two runs of the power-on self-test (R318): (unit kind code of R300, index, runs failed). -/
structure PostFail where
  kind : Nat
  index : Nat
  runs : Nat
  deriving DecidableEq, Repr

/-- The commands: one constructor per row of spec/opcode_table.json. -/
inductive Instr where
  -- packets of the submission rings (R31, R38)
  | identify (ring : BitVec 6) (p : Packet)
  | telemetryRead (ring : BitVec 6) (p : Packet) (m : PowerSample)
  | faultLogRead (ring : BitVec 6) (p : Packet)
  | portConfigPort (ring : BitVec 6) (p : Packet)
  | portConfigDatagram (ring : BitVec 6) (p : Packet)
  | streamOpen (ring : BitVec 6) (p : Packet)
  | streamAdmit (ring : BitVec 6) (p : Packet) (pages units : List Nat)
  | streamClose (ring : BitVec 6) (p : Packet)
  | streamQuery (ring : BitVec 6) (p : Packet)
  | keyLoad (ring : BitVec 6) (p : Packet) (blob : HostRead (List Byte))
  | sheafDefine (ring : BitVec 6) (p : Packet)
  | sheafDissolve (ring : BitVec 6) (p : Packet)
  | shedRankSet (ring : BitVec 6) (p : Packet)
  | networkLoad (ring : BitVec 6) (p : Packet) (image : HostRead (List Byte)) (pages : List Nat)
  | networkUnload (ring : BitVec 6) (p : Packet)
  | roundConfig (ring : BitVec 6) (p : Packet)
  | clipRequest (ring : BitVec 6) (p : Packet) (lists : HostRead ClipLists)
  | clipCancel (ring : BitVec 6) (p : Packet)
  | selftestRequest (ring : BitVec 6) (p : Packet)
  | serviceRestore (ring : BitVec 6) (p : Packet)
  | recessEnter (ring : BitVec 6) (p : Packet)
  | recessExit (ring : BitVec 6) (p : Packet)
  | recessExitRoundStart
  | fwStageBailiff (ring : BitVec 6) (p : Packet) (image : HostRead (List Byte)) (programmed : Bool)
  | fwStagePatch (ring : BitVec 6) (p : Packet) (image : HostRead (List Byte)) (programmed : Bool)
  | fwArmBailiff (ring : BitVec 6) (p : Packet)
  | fwArmPatch (ring : BitVec 6) (p : Packet)
  | fwActivate (ring : BitVec 6) (p : Packet)
  | fwDisarm (ring : BitVec 6) (p : Packet)
  | quiesceTimeout
  | bootLoadComplete (blocksOk : Bool)
  | auPush (ring : BitVec 6) (p : Packet)
  | auPushComplete (ring : BitVec 6) (tag : BitVec 16) (refFree : Bool)
  | jobSubmit (ring : BitVec 6) (p : Packet)
  | jobCancel (ring : BitVec 6) (p : Packet)
  | ringCredit (ring : BitVec 6) (p : Packet)
  | maintEcho (ring : BitVec 6) (p : Packet)
  | maintPeek (ring : BitVec 6) (p : Packet)
  | maintErrInject (ring : BitVec 6) (p : Packet)
  | maintCountersClear (ring : BitVec 6) (p : Packet)
  | replyDeadline (ring : BitVec 6) (tag : BitVec 16)
  -- host accesses (R7, R25, R345)
  | doorbellWrite (offset : BitVec 16) (value : Word)
  | ringEnable (kind : RingKind) (ring : BitVec 6) (cfg : Word)
  | ringDisable (kind : RingKind) (ring : BitVec 6) (cfg : Word)
  | registerWrite (offset : BitVec 24) (value : BitVec 64) (be : BitVec 8)
  | registerReadClear (offset : RegRead)
  | hostAccessWake (offset : BitVec 24) (stallUs : BitVec 16)
  | recessDomainRevert (domain : BitVec 9)
  | tlbInvalidate (value : Word)
  | fwConfirm (value : Word)
  | fwReject (value : Word)
  | bar2Read (offset : BitVec 29) (dwords : Nat)
  | bar2Write (offset : BitVec 29) (bytes : List Byte)
  | pcieRequestUnsupported (r : BadRequest)
  | poisonedWrite (bar : Nat) (offset : BitVec 29)
  -- the device as requester, DMA (R289 to R296, R346)
  | hostReadCompletion (engine : BitVec 3) (granule : Nat) (c : Cpl)
  | completionTimeout (engine : BitVec 3) (granule : Nat)
  | parkRecordAction (index : BitVec 10)
  | dmaGranuleLand (engine : DmaEngine) (granule : Nat)
  -- interrupts, resets, power states, link (R348 to R359)
  | intCoalTimer
  | interruptDisableWrite (command : BitVec 16)
  | flr
  | flrComplete
  | d3hotEntry (pmcsr : BitVec 16)
  | d0Return (pmcsr : BitVec 16)
  | pmeTurnOff
  | l0sEntry (transmit : Bool)
  | l1Request (substate : Bool)
  | linkLoss
  | linkReturnL0
  | refclkLost
  | perstAssert
  | perstDeassert (fails : List PostFail)
  | bootComplete
  | presenceLost
  | presenceRestored
  | attnBtnPress
  | mainPwrgdRise
  | mainPwrgdFall
  | aonPowerUp
  | railFault (rails : List (BitVec 4))
  | brownout
  | aonFullReached
  | syncInEdge
  | thermalSample (t : Temps)
  | thermalShedTimer
  | thermalTrip
  -- ingest (R85 to R120)
  | frameReceive (port : BitVec 1) (f : Frame)
  | pauseFrame (port : BitVec 1) (quanta : BitVec 16)
  | controlPacket (port : BitVec 1) (k : ControlKind)
  | reorderWaitExpiry (ctx : BitVec 12)
  | portLinkChange (port : BitVec 1) (up : Bool)
  | truantTimeout (ctx : BitVec 12)
  | slipRollCall (ctx : BitVec 12)
  | relockRollCall (ctx : BitVec 12)
  | stashMove
  | poolStage3Shed
  -- decoding and preparation (R121 to R147)
  | decodePicture (engine : BitVec 5) (f : PicFacts)
  | decodeWatchdog (engine : BitVec 5)
  | prepareInput (engine : BitVec 4) (ctx : BitVec 12) (seq : Word) (input : Nat) (cycles : Nat)
  | prepWatchdog (engine : BitVec 4)
  -- the Bell sequencer (R190 to R208)
  | slotIssue
  | coreReady (core : BitVec 7)
  | unitFinish (u : UnitId) (poisonRows : List Nat)
  | actionHang (u : UnitId)
  | wakeTimeout (core : BitVec 7)
  | roundBoundary
  | fallowSlot (r : FallowResult)
  | hbmRefresh (pc : BitVec 7) (ports : RefreshPorts)
  | patrolScrub (addr : BitVec 40)
  | substituteCopy (granules : List Nat)
  | timetableMarkComplete (standby : Bool) (area : BitVec 2) (w : AreaWrite)
  | timetableCheckComplete (standby : Bool)
  | standbyRebuild
  | engineRebind (kind : VideoKind) (index : BitVec 5)
  -- tracking and records (R233 to R253)
  | rows (lists : List RecList)
  | apply (lists : List RecList) (predicted : List Predicted)
  | emit (lists : List RecList)
  | recordEgress (mr : BitVec 6)
  | datagramSend (mr : BitVec 6)
  | nextHopResolved (mr : BitVec 6)
  -- tile instructions (R216 to R232): the word as the core sequencer fetched it
  | wloadWeights (core : BitVec 7) (w : BitVec 128)
  | wloadScales (core : BitVec 7) (w : BitVec 128)
  | matmul (core : BitVec 7) (w : BitVec 128)
  | conv (core : BitVec 7) (w : BitVec 128)
  | pool (core : BitVec 7) (w : BitVec 128)
  | crop (core : BitVec 7) (w : BitVec 128)
  | vecRequantise (core : BitVec 7) (w : BitVec 128)
  | vecAdd (core : BitVec 7) (w : BitVec 128)
  | vecSubtract (core : BitVec 7) (w : BitVec 128)
  | vecMultiply (core : BitVec 7) (w : BitVec 128)
  | vecFusedMultiplyAdd (core : BitVec 7) (w : BitVec 128)
  | vecMinimum (core : BitVec 7) (w : BitVec 128)
  | vecMaximum (core : BitVec 7) (w : BitVec 128)
  | vecCompare (core : BitVec 7) (w : BitVec 128)
  | vecSelect (core : BitVec 7) (w : BitVec 128)
  | vecRelu (core : BitVec 7) (w : BitVec 128)
  | vecClip (core : BitVec 7) (w : BitVec 128)
  | vecLeakyRelu (core : BitVec 7) (w : BitVec 128)
  | vecShift (core : BitVec 7) (w : BitVec 128)
  | vecConversion (core : BitVec 7) (w : BitVec 128)
  | vecDivide (core : BitVec 7) (w : BitVec 128)
  | vecReciprocal (core : BitVec 7) (w : BitVec 128)
  | vecSquareRoot (core : BitVec 7) (w : BitVec 128)
  | vecReciprocalSquareRoot (core : BitVec 7) (w : BitVec 128)
  | vecExp (core : BitVec 7) (w : BitVec 128)
  | vecExp2 (core : BitVec 7) (w : BitVec 128)
  | vecLog (core : BitVec 7) (w : BitVec 128)
  | vecLog2 (core : BitVec 7) (w : BitVec 128)
  | vecSigmoid (core : BitVec 7) (w : BitVec 128)
  | vecTanh (core : BitVec 7) (w : BitVec 128)
  | vecSoftplus (core : BitVec 7) (w : BitVec 128)
  | vecSilu (core : BitVec 7) (w : BitVec 128)
  | vecGelu (core : BitVec 7) (w : BitVec 128)
  | vecSoftmax (core : BitVec 7) (w : BitVec 128)
  | vecLayerNormalisation (core : BitVec 7) (w : BitVec 128)
  | vecSum (core : BitVec 7) (w : BitVec 128)
  | vecAxisMaximum (core : BitVec 7) (w : BitVec 128)
  | vecAxisMinimum (core : BitVec 7) (w : BitVec 128)
  | vecArgmax (core : BitVec 7) (w : BitVec 128)
  | vecTopK (core : BitVec 7) (w : BitVec 128)
  | vecDepthwiseConvolution (core : BitVec 7) (w : BitVec 128)
  | vecResampling (core : BitVec 7) (w : BitVec 128)
  | vecRepacking (core : BitVec 7) (w : BitVec 128)
  | vecTranspose (core : BitVec 7) (w : BitVec 128)
  | vecConcatenation (core : BitVec 7) (w : BitVec 128)
  | vecSplit (core : BitVec 7) (w : BitVec 128)
  | vecBoxDecoding (core : BitVec 7) (w : BitVec 128)
  | vecNonMaximumSuppression (core : BitVec 7) (w : BitVec 128)
  | syncEnd (core : BitVec 7) (w : BitVec 128)
  | syncSteps (core : BitVec 7) (w : BitVec 128)
  | syncQuiet (core : BitVec 7) (w : BitVec 128)
  | syncMarks (core : BitVec 7) (w : BitVec 128)
  | syncParam (core : BitVec 7) (w : BitVec 128)
  | claim (core : BitVec 7) (w : BitVec 128)
  | dmaIn (core : BitVec 7) (w : BitVec 128)
  | dmaOut (core : BitVec 7) (w : BitVec 128)
  -- faults and recovery (R300 to R322)
  | fabricError (index : BitVec 12)
  | computeResetComplete
  | resetTimeout
  | faultLogCopy
  -- power domains (R323 to R341)
  | engineIdleOff (kind : VideoKind) (index : BitVec 5)
  | offReq (domain : BitVec 9) (mode : BitVec 2)
  | wakeReq (domain : BitVec 9)
  | ack (domain : BitVec 9)
  | delay (domain : BitVec 9) (reason : Byte) (us : Nat)
  | refuse (domain : BitVec 9) (reason : Byte)
  | ready (domain : BitVec 9)
  | delayExpired (domain : BitVec 9)
  -- evidence clips (R254 to R268)
  | clipStart
  | clipDecodePicture (clip : BitVec 16) (f : PicFacts)
  | clipEncodePicture (clip : BitVec 16) (header : Nat) (rowBits : List (Nat × Nat × Nat)) (stream : List Byte)
  | clipPacketSend (clip : BitVec 16)
  | encWatchdog (engine : BitVec 3)
  -- firmware and trust (R360 to R385)
  | aliveTimeout
  | firewallBlock (write : Bool)
  | mgmtSramError
  | confirmRequest
  | trialTimeout
  | getVersion
  | getCapabilities
  | negotiateAlgorithms
  | getDigests
  | getCertificate (slot : Nat) (offset : Nat) (length : Nat)
  | challenge (slot : Nat) (nonce : List Byte)
  | getMeasurements (nonce : List Byte)
  | spdmUnsupportedRequest (code : Byte)
  | doeAbort
  | clkreqLinkExit
  | refclkReturn
  | brownoutRecovery
  | remainingBlockLoad (block : Nat) (ok : Bool)
  deriving DecidableEq, Repr

end Sys2Proof
end

