-- ==== Sys2Proof/Config.lean ====
section
/-! DEFINITION. Config.lean: what one part is fused with, what the specification leaves free, and results of
cryptography that the specification names by standard. None of these constants has a body: nothing can be proved of
a value of theirs (notes/assumptions/2.md, 3.md, 4.md). -/

namespace Sys2Proof.Config

/-- SALT of R95, fused at manufacture. -/
opaque salt : BitVec 12
/-- Silicon stepping (R343, R362), fused. -/
opaque stepping : BitVec 8
/-- Subsystem Vendor ID and Subsystem ID, from the board record (R343). -/
opaque subsystem : Word
/-- Dwords of configuration space beyond what R343 states of them, by offset. -/
opaque configOpen : Nat → Word
/-- MAC address of port 0 and port 1 (R86), fused; bits 47:40 are byte 0. -/
opaque mac : Nat → BitVec 48
/-- Rollback counters as fused when the part is first powered (R381). -/
opaque bailiffCtr : BitVec 7
opaque patchCtr : BitVec 6
/-- Signing keys already revoked (R370), one bit per key. -/
opaque revoked : BitVec 4
/-- Whether the identity certificate matches the derived key (R383). -/
opaque certGood : Bool
/-- Revision of the Proctor mask ROM (R44). -/
opaque romRevision : BitVec 8
/-- Firmware banks as the flash of this part holds them at power-on (R366, R372). -/
opaque flashBuild : Nat → Word
opaque flashSvn : Nat → BitVec 7
opaque flashHandoverOut : Nat → BitVec 16
opaque flashKey : Nat → BitVec 2
opaque flashDigest : Nat → List Byte

/-- A free byte: the contents of core memory after a compute reset (R308). Arguments: a count that State holds, the
memory and the address. -/
opaque freeByte : Nat → Nat → Nat → Byte
/-- A free 32-bit value, from a count that State holds. -/
opaque freeWord : Nat → Word
/-- Which FP32 word inside an accuracy class of R168 the hardware gives; the caller takes it where it lies within the
bound of the class. Arguments: operation, operand bits. -/
opaque freeNear : Nat → Nat → Word
/-- The result of an FP32 operation on operands for which the specification states none (a logarithm of zero, a division
by zero, a difference of infinities). Arguments: operation, operand bits. -/
opaque openResult : Nat → Nat → Word

/-- What the specification leaves open of the vector unit (R186, R220): the code a compare writes for a relation (0 below,
1 equal, 2 above, 3 unordered), which source select takes, the bounds of clip (0 lower, 1 upper), the mode of a shift
by IMM (0 left, 1 right with rounding, 2 right without), and an element of a resampling mode that has no number. -/
opaque compareCode : Nat → Nat → Nat
opaque selectFirst : Nat → Nat → Bool
opaque clipBound : Nat → Nat → Nat → Nat
opaque shiftMode : Nat → Nat
opaque resampleOpen : Nat → Nat → Nat

/-- The axis of a VEC whose IMM names none: top-k, whose IMM holds k − 1, or an IMM beyond 2. Arguments: FUNC and IMM. -/
opaque openAxis : Nat → Nat → Nat
/-- How many of the blocks, or accumulator rows, of a VEC along the channel axis belong to one position. Argument: the
instruction's word. -/
opaque channelBlocks : Nat → Nat
/-- Whether element j of what an instruction writes lies past the channel count C of its tensor, which no field of VEC or
POOL holds (R171). Arguments: the instruction's word and j. -/
opaque padPosition : Nat → Nat → Bool

/-- For how many fc an array pass stalls its core, which the timing of R152 to R154 decides: 0 feeders dry, 1 drain full,
2 the longest dry period. Arguments: which, the core, how many passes it has run. -/
opaque stallFc : Nat → Nat → Nat → Nat

/-- How long, in fc, the running Bailiff image takes to quiesce for a switch (R376), from the instant of the trigger. -/
opaque quiesceFc : Nat → Nat

/-- AES-256-GCM opening of block i of an image under the product image key (R369): plaintext, or none. -/
opaque gcmOpen : BitVec 64 → List Byte → Nat → List Byte → List Byte → Option (List Byte)
/-- ML-DSA-65 verification (R369) of a signature under mask-ROM key k over the SHAKE256 digest of the input. -/
opaque mldsaVerify : BitVec 2 → List Byte → List Byte → Bool
/-- Proctor's unwrapping of a KEY_LOAD blob (R384): ephemeral key, context, slot, wrapped bytes. -/
opaque keyUnwrap : List Byte → BitVec 12 → BitVec 1 → List Byte → Option (List Byte)
/-- SRTP: authentication tag check of a packet under a suite and key, with packet index (R100). -/
opaque srtpAuthentic : Nat → List Byte → Nat → List Byte → Bool
/-- SRTP: a packet of the suite, key and index without its protection (R100). -/
opaque srtpPlain : Nat → List Byte → Nat → List Byte → List Byte
/-- SHA-384 (R361). -/
opaque sha384 : List Byte → List Byte
/-- ECDSA P-384 signature with the identity key (R360). -/
opaque identitySign : List Byte → List Byte
/-- The certificate chains of slot 0 and slot 1 (R360, R383). -/
opaque certChain : Nat → List Byte
/-- Fuse state as measured by measurement block 2 (R361). -/
opaque fuseImage : List Byte

end Sys2Proof.Config
end

