-- ==== Sys2Proof/Machine/State.lean ====
section
/-! DEFINITION. Machine/State.lean: everything the specification gives the KV-4096 to hold, as plain data. A field's
default is its value at reset: the P column of its register table, or the power-on state of R321. Where the
specification gives no reset value the docstring says DESIGN CHOICE and names notes/assumptions/<n>.md. -/

namespace Sys2Proof.Machine

/-- Replicated things by index, ascending; an index not listed has its reset contents. -/
abbrev SMap (α : Type) := List (Nat × α)

/-- Stream states of R47, numbered as encoded there. -/
inductive StreamState where
  | closed | opened | admitted | running | truant | shed | faulted
  deriving DecidableEq, Repr

/-! ## Memories -/

/-- A byte memory in canonical form (addresses strictly rising, no entry equal to what an unlisted address reads as)
and, beside it, the syndromes of R279: stored check bits XOR the check bits of the stored data, by word address.
`gen` 0: unlisted bytes read zero; above 0 the contents are undefined (R308) and a free value. `bad` is the first
address whose word holds the poison marker while unlisted, and `badEnd` the end of that range (R283). -/
structure Mem where
  id : Nat := 0
  gen : Nat := 0
  bad : Nat := 0
  badEnd : Nat := 0
  cells : List Host.Cell := []
  syn : List (Nat × BitVec 7) := []
  deriving DecidableEq, Repr

/-! ## Command rings and replies -/

/-- A submission ring (R24, R29): base, ENABLE, SIZE_LOG2, CQ_SEL, HEAD; `tail` as published by doorbells; `times`
the doorbell instants of published packets, oldest first, each with the time its completion ring had by then kept fetching
stopped for want of credit (R28); `parked` a class 0 park (R293). -/
structure SubRing where
  base : BitVec 64 := 0
  enable : Bool := false
  sizeLog2 : BitVec 4 := 0
  cqSel : BitVec 6 := 0
  head : Nat := 0
  tail : Nat := 0
  times : List (Nat × Nat) := []
  parked : Bool := false
  deriving DecidableEq, Repr

/-- The status reply of R35, PHASE and SQ_HEAD filled in when it is written. -/
structure Reply where
  tag : BitVec 16 := 0
  status : BitVec 16 := 0
  opcode : Byte := 0
  ring : BitVec 6 := 0
  interim : Bool := false
  ctx : BitVec 12 := 0
  state : BitVec 4 := 0
  late : Bool := false
  stateValid : Bool := false
  detail : Byte := 0
  round : Word := 0xFFFFFFFF
  steps : BitVec 16 := 0
  result : BitVec 96 := 0
  deriving DecidableEq, Repr

/-- A completion ring (R24, R27 to R29); `held` replies without credit, oldest first; `fullFrom` since when 64 or more are
held, and `fullFor` for how long that has been so before (R28). -/
structure ComRing where
  base : BitVec 64 := 0
  enable : Bool := false
  sizeLog2 : BitVec 4 := 0
  intEn : Bool := false
  tail : Nat := 0
  phase : Bool := true
  credit : Nat := 0
  held : List Reply := []
  fullFrom : Option Nat := none
  fullFor : Nat := 0
  parked : Bool := false
  deriving DecidableEq, Repr

/-- A record waiting for egress: its 64 bytes as built, the stream, when its frame completed (R54) or none, when it was
produced, when it began to wait for credit, its metadata-pool block, its extension record's bytes and block, and whether an
earlier state of the stream produced it than one that a reply still has to tell (R52). -/
structure QRec where
  ctx : BitVec 12 := 0
  bytes : List Byte := []
  born : Option Nat := none
  made : Nat := 0
  waitFrom : Option Nat := none
  waited : Nat := 0
  frozen : Nat := 0
  block : Nat := 0
  ext : Option (List Byte × Nat) := none
  old : Bool := false
  deriving DecidableEq, Repr

/-- A metadata ring (R24, R27 to R29); `queue` records for the ring, oldest first; `retries` of a class 2 park. -/
structure MetaRing where
  base : BitVec 64 := 0
  enable : Bool := false
  sizeLog2 : BitVec 4 := 0
  intEn : Bool := false
  tail : Nat := 0
  phase : Bool := true
  credit : Nat := 0
  stall : Word := 0
  queue : List QRec := []
  parked : Bool := false
  deriving DecidableEq, Repr

/-- A datagram destination of one metadata ring (R88, R252); `queue` datagram copies not handed to the port. -/
structure DgDest where
  enable : Bool := false
  port : BitVec 1 := 0
  ipv6 : Bool := false
  dstPort : BitVec 16 := 0
  srcPort : BitVec 16 := 0
  dstIp : BitVec 128 := 0
  dscp : BitVec 6 := 0
  resolved : Bool := false
  seq : Word := 0
  lost : Nat := 0
  queue : List QRec := []
  deriving DecidableEq, Repr

/-- Why a command has no final reply yet (R36, R38). -/
inductive WaitCause where
  | boundary          -- a change waits for a round boundary (R21)
  | lastRecord (round : Word) -- took effect in this round; waits for records of the stream's earlier state (R49, R52)
  | transfer          -- AU_PUSH or job data under way (R42, R77)
  | clipEnd (clip : Nat)
  | jobEnd (ring : Nat) (tag : Nat)
  | selftest
  | fallow            -- MAINT_ERR_INJECT waits for the fallow slot (R46)
  | recess            -- RECESS_ENTER or RECESS_EXIT under way
  | switching         -- FW_ACTIVATE (R376)
  | queued (p : Packet) -- fetched; waits for the management command of its ring that executes (R51)
  | ready (r : Reply) -- executed; its reply waits for the replies before it (R51)
  deriving DecidableEq, Repr

/-- What an accepted AU_PUSH says of its access unit (R42). -/
structure AuPush where
  bytes : Nat
  ts : Word
  capture : BitVec 64
  discontinuity : Bool
  deriving DecidableEq, Repr

/-- A command fetched and without its final reply (R34, R36, R37). -/
structure Outstanding where
  ring : BitVec 6
  tag : BitVec 16
  opcode : Byte
  ctx : BitVec 12
  published : Nat
  deadline : Nat
  interim : Bool := false
  quiet : Bool := false
  cause : WaitCause
  result : BitVec 96 := 0
  au : Option AuPush := none
  deriving DecidableEq, Repr

/-- The CMD block (R29). -/
structure Cmd where
  maintEn : Bool := false
  cfgWhileEnabled : Bool := false
  badSize : Bool := false
  doorbellRefused : Bool := false
  disableBusy : Bool := false
  errRing : BitVec 6 := 0
  errKind : BitVec 2 := 0
  sq : SMap SubRing := []
  cq : SMap ComRing := []
  mr : SMap MetaRing := []
  outstanding : List Outstanding := []
  deriving DecidableEq, Repr

/-- The GLB block (R362) and the interrupt wire with its coalescing (R348, R349). -/
structure Glb where
  ready : Bool := false
  streamCause : Bool := false
  poolCause : Bool := false
  fwCause : Bool := false
  mask : BitVec 12 := 0xFFF
  coalCount : Byte := 1
  coalTime : BitVec 16 := 0
  cqCause : BitVec 64 := 0
  mrCause : BitVec 64 := 0
  entries : Nat := 0
  timerStart : Option Nat := none
  due : Bool := false
  wire : Bool := false
  deriving DecidableEq, Repr

/-! ## Streams -/

/-- An SRTP key slot (R101, R102). -/
structure KeySlot where
  suite : Nat := 0
  fromValid : Bool := false
  fromIndex : Nat := 0
  roc : Word := 0
  material : List Byte := []
  deriving DecidableEq, Repr

/-- A packet placed in the reorder window (R103, R104): the payload bytes kept, whether some were discarded (R106), when
it arrived, and its bitstream-pool blocks. `lost`: the packet arrived and was dropped for want of blocks (R119); it keeps its
place without being placed. -/
structure Placed where
  seq : BitVec 16
  ts : Word
  marker : Bool
  begins : Bool
  refFree : Bool
  bytes : Nat
  oversize : Bool
  arrived : Nat
  blocks : List Nat
  lost : Bool := false
  deriving DecidableEq, Repr

/-- A cadence of R65 in round number and fc, as rounds * R + fc: windows [t0 + n*period - half, t0 + n*period + half]. The
three are in units of 1/`den` fc, in which the period T * q is exact. -/
structure Cadence where
  t0 : Nat
  period : Nat
  half : Nat
  den : Nat := 1
  deriving DecidableEq, Repr

/-- One entry of a replay-ring index (R110). -/
structure ReplayEntry where
  seq : Nat
  ts : Word
  capture : BitVec 64
  round : Word
  offset : Nat
  length : Nat
  flags : BitVec 4
  refFree : Bool
  refused : Bool
  deriving DecidableEq, Repr

/-- A stream's replay ring (R110, R111). -/
structure Replay where
  base : Nat := 0
  dataBytes : Nat := 0
  entryCount : Nat := 0
  write : Nat := 0
  entries : List ReplayEntry := []
  deriving DecidableEq, Repr

/-- A reference picture held by a stream (R133, R134): FRAME_SEQ, output position, frame buffer, tainted blocks. -/
structure RefPic where
  seq : Nat
  outPos : Int
  buffer : Nat
  taint : List Nat
  deriving DecidableEq, Repr

/-- Addressing and source of a stream, from STREAM_OPEN (R40). -/
structure OpenParams where
  source : Nat := 0
  codec : Nat := 0
  ipv6 : Bool := false
  multicast : Bool := false
  srtp : Bool := false
  toRing : Bool := false
  asUdp : Bool := false
  mr : BitVec 6 := 0
  dstPort : BitVec 16 := 0
  srcPort : BitVec 16 := 0
  ssrc : Word := 0
  srcIp : BitVec 128 := 0
  dstIp : BitVec 128 := 0
  vlan : BitVec 16 := 0
  pt : Byte := 0
  deriving DecidableEq, Repr

/-- What STREAM_ADMIT fixes (R41), and the placement and binding Roll Call gives (R70, R125, R127, R145): HBM pages,
translation context (256 none), count of 4 KiB units, those of its prepared inputs. -/
structure AdmitParams where
  maxW : Nat := 0
  maxH : Nat := 0
  maxAu : Nat := 0
  frameRate : Nat := 1000
  profile : Byte := 0
  bitDepth : Nat := 8
  truantFrames : Nat := 3
  networks : List Nat := []
  engine : Nat := 0
  reduction : Nat := 1
  pages : List Nat := []
  xctx : Nat := 0
  granary4k : Nat := 0
  units : List Nat := []
  decUnits : List Nat := []
  rank : BitVec 16 := 0
  order : Nat := 0
  round : Word := 0
  deriving DecidableEq, Repr

/-- The counts of the stream report (R45). -/
structure StreamCounts where
  frameSeq : Nat := 0
  records : Nat := 0
  recordsDropped : Nat := 0
  lateRecords : Nat := 0
  dropLate : Nat := 0
  dropDuplicate : Nat := 0
  dropRtp : Nat := 0
  dropAuth : Nat := 0
  dropReplay : Nat := 0
  incomplete : Nat := 0
  refusedUncovered : Nat := 0
  notDecoded : Nat := 0
  creditWait : Nat := 0
  lastCapture : BitVec 64 := 0
  dropResync : Nat := 0
  deriving DecidableEq, Repr

/-- Reordering state (R103 to R105). `flushed`: the timestamp of an access unit completed before its end was known, whose
later packets are late. -/
structure Reorder where
  base : Option (BitVec 16) := none
  window : List Placed := []
  candidate : Option Placed := none
  needBegin : Bool := true
  discontinuity : Bool := false
  flushed : Option Word := none
  deriving DecidableEq, Repr

/-- Sender-report mapping and cadence state (R65, R68, R108). -/
structure Clocking where
  srNtp : BitVec 64 := 0
  srTs : Word := 0
  srAt : Option Nat := none
  completions : List Nat := []
  ratio : Nat × Nat := (1, 1)
  fit : Option Cadence := none
  locked : Bool := false
  charged : Option Cadence := none
  slipCheck : Bool := false
  relockCheck : Bool := false
  inRound : Nat := 0
  lastDone : Nat := 0
  deriving DecidableEq, Repr

/-- Decoder state of a stream (R125, R131 to R135, R139). -/
structure Decoder where
  params : List ParamSet := []
  refs : List RefPic := []
  taint : List Nat := []
  refuseCount : Nat := 0
  skips : SMap Nat := []
  levels : List Nat := []
  kinds : List Nat := []
  deriving DecidableEq, Repr

/-- A stream context (R9, R47); `sampled` the counts as they stood at the last management step boundary (R45). -/
structure Stream where
  state : StreamState := .closed
  op : OpenParams := {}
  ad : AdmitParams := {}
  shedRank : BitVec 16 := 0
  lastEvent : Byte := 0
  lastRound : Word := 0
  cnt : StreamCounts := {}
  sampled : StreamCounts := {}
  keys : SMap KeySlot := []
  replayTop : Nat := 0
  replaySeen : List Nat := []
  rtcpTop : Nat := 0
  rtcpSeen : List Nat := []
  ro : Reorder := {}
  clk : Clocking := {}
  dec : Decoder := {}
  ring : Replay := {}
  lostFlag : Bool := false
  sheaf : Option Nat := none
  histFree : Nat := 0
  deriving DecidableEq, Repr

/-- The decode report of R131. -/
structure DecReport where
  outcome : BitVec 4 := 0
  causes : Byte := 0
  coverage : Byte := 0
  deriving DecidableEq, Repr

/-- Where a completed access unit stands on its way to a record (R59). -/
inductive FrameStage where
  | waiting | decoded | prepared | listed
  deriving DecidableEq, Repr

/-- What preparation needs of a decoded picture: size, bit depth, signalled matrix and range (R123, R141, R143). -/
structure PicInfo where
  w : Nat := 0
  h : Nat := 0
  depth : Nat := 8
  matrix : Nat := 0
  full : Bool := false
  deriving DecidableEq, Repr

/-- A completed access unit (R107, R246); flags [0] INCOMPLETE [1] OVERSIZE [2] DISCONTINUITY [3] NO_CAPTURE; `gaps` the
offsets in it at which bytes are missing (R105). -/
structure FrameRec where
  ctx : BitVec 12
  seq : Nat
  ts : Word
  capture : BitVec 64
  round : Word
  doneAt : Nat
  flags : BitVec 4
  covered : Bool
  stage : FrameStage := .waiting
  report : DecReport := {}
  skipped : List Nat := []
  inputs : List Nat := []
  islots : List Nat := []
  buffer : Nat := 0
  decodedAt : Nat := 0
  notAnalysed : Bool := false
  gated : Bool := false
  blocks : List Nat := []
  hostBlocks : List Nat := []
  gaps : List Nat := []
  pic : PicInfo := {}
  deriving DecidableEq, Repr

/-- A sheaf (R112 to R115); `entries` the eight MEMBERS entries of its SHEAF_DEFINE, `pending` its members' prepared frames
that are in no set yet. -/
structure Sheaf where
  members : List (BitVec 12) := []
  entries : List (BitVec 16) := []
  network : Nat := 0
  pending : List FrameRec := []
  deriving DecidableEq, Repr

/-! ## Ports, flow table, pools -/

/-- Header of a frame that a port sends (R87): the VLAN of the port's own traffic, and the next hop; 0 where the frame
needs none. -/
structure TxHeader where
  port : Nat
  vlan : Option (BitVec 12) := none
  hop : BitVec 128 := 0
  deriving DecidableEq, Repr

/-- What Bailiff sends on a port (R88, R90, R91): an answer, a membership report, or an ARP or ND request for a next hop. -/
inductive ControlOut where
  | answer (k : ControlKind)
  | membership (group : BitVec 128) (source : BitVec 128) (join : Bool) (legacy : Bool)
  | resolve (target : BitVec 128)
  deriving DecidableEq, Repr

/-- An Ethernet port (R85 to R91, R120). `igmpV2Until`, `mldV1Until`: how long an older querier counts as present (R91);
`held` frames of Bailiff's that wait for a PAUSE to end (R86). -/
structure Port where
  linkUp : Bool := false
  mode : BitVec 4 := 0
  linkChange : Bool := false
  mtu : Nat := 1500
  vlan : BitVec 16 := 0
  ipv4 : BitVec 32 := 0
  prefix4 : Nat := 0
  prefix6 : Nat := 0
  ipv6 : BitVec 128 := 0
  gateway4 : BitVec 32 := 0
  router6 : BitVec 128 := 0
  groups : List (BitVec 128 × BitVec 128) := []
  igmpV2Until : Nat := 0
  mldV1Until : Nat := 0
  held : List (TxHeader × ControlOut) := []
  pauseUntil : Nat := 0
  controlSecond : Nat := 0
  controlCount : Nat := 0
  rxFrames : Word := 0
  dropMac : Word := 0
  dropIp : Word := 0
  dropUnmatched : Word := 0
  dropControl : Word := 0
  dropPool : Word := 0
  deriving DecidableEq, Repr

/-- The flow table (R94 to R99): 48-byte keys with the context they name. -/
structure FlowTable where
  way0 : SMap (BitVec 384 × BitVec 12) := []
  way1 : SMap (BitVec 384 × BitVec 12) := []
  stash : List (BitVec 384 × BitVec 12) := []
  moveDue : Bool := false
  deriving DecidableEq, Repr

/-- A buffer pool (R116 to R120): used blocks by number, each with its owner: a stream context, 0x1000 for a job or a
command, or 0x2000 + clip number. -/
structure Pool where
  used : SMap Nat := []
  stage : Nat := 0
  highWater : Nat := 0
  drop : Word := 0
  deriving DecidableEq, Repr

/-! ## Video engines -/

/-- A decode or preparation engine (R124, R147). The picture it holds is the first of its list; `idleFrom` is when the
one before ended, `ctx` the stream of the last, `cycles` what the picture in preparation has taken, `count0` to `count2`
PICTURES, CONCEALED and REFUSED, or INPUTS. -/
structure VidEngine where
  retired : Bool := false
  retiring : Bool := false
  ctx : BitVec 12 := 0
  idleFrom : Nat := 0
  count0 : Word := 0
  count1 : Word := 0
  count2 : Word := 0
  maxCycles : Word := 0
  cycles : Nat := 0
  saturated : BitVec 16 := 0
  failed : Bool := false
  deriving DecidableEq, Repr

/-- An encode engine (R260, R268). -/
structure EncEngine where
  busy : Bool := false
  retired : Bool := false
  retiring : Bool := false
  clip : Option (BitVec 16) := none
  lastClip : BitVec 16 := 0
  since : Nat := 0
  pictures : Word := 0
  capped : Word := 0
  floor : Word := 0
  failed : Bool := false
  idleFrom : Nat := 0
  deriving DecidableEq, Repr

/-! ## Furrow cores -/

/-- An accumulator row: last write FP32 or INT32, POISON, 64 entries (R156, R158). -/
structure AccRow where
  fp : Bool := false
  poison : Bool := false
  vals : List Word := []
  deriving DecidableEq, Repr

/-- The loop of a CLAIM (R229). -/
structure ClaimLoop where
  pc : Nat
  body : Nat
  iter : Nat
  wc : Nat
  epoch : BitVec 16
  attempt : Byte
  deriving DecidableEq, Repr

/-- An instruction fault as latched in FURROW_INSN (R224, R232). -/
structure InsnFault where
  valid : Bool := false
  op : BitVec 4 := 0
  res : BitVec 4 := 0
  pc : BitVec 12 := 0
  amount : Word := 0
  tn : BitVec 16 := 0
  deriving DecidableEq, Repr

/-- Registers of a core's sequencer (R216, R220). -/
structure CoreSeq where
  pc : Nat := 0
  tn : Nat := 0
  sa : Nat := 0
  sw : Nat := 0
  so : Nat := 0
  sr : Nat := 0
  pb : Nat := 0
  amark : List Nat := [0x10000, 0x10000, 0x10000, 0x10000]
  wmark : List Nat := [0x10000, 0x10000]
  loop : Option ClaimLoop := none
  stopped : Bool := false
  deriving DecidableEq, Repr

/-- Counters of a core (R169, R232). `passes` counts array passes, which the free stall counts depend on
(notes/assumptions/23.md). -/
structure CoreCounters where
  accSat : Word := 0
  outSat : Word := 0
  nan : BitVec 16 := 0
  inf : BitVec 16 := 0
  feedStall : Word := 0
  drainStall : Word := 0
  wload : Word := 0
  maxDry : BitVec 16 := 0
  passes : Nat := 0
  claims : Word := 0
  deriving DecidableEq, Repr

/-- A Furrow core (R148 to R158). `syn` holds the syndromes of the words of the accumulator, the scale file and the
tile-program memory, at key MEMORY * 2^20 + byte offset (R279). -/
structure Core where
  powered : Bool := false
  ready : Bool := false
  busy : Bool := false
  retired : Bool := false
  poisonSeen : Bool := false
  sleepAfter : Bool := false
  wakeAt : Option Nat := none
  readyAt : Nat := 0
  wakeSlot : Nat := 0xFFFF
  failed : Bool := false
  seq : CoreSeq := {}
  act : Mem := {}
  wgt : Mem := {}
  acc : SMap AccRow := []
  tile : List Byte := []
  tilePoison : Bool := false
  scale : SMap Byte := []
  prog : SMap (BitVec 128) := []
  syn : SMap (BitVec 7) := []
  undef : Nat := 0
  cnt : CoreCounters := {}
  insn : InsnFault := {}
  deriving DecidableEq, Repr

/-- A work counter (R228, R232). -/
structure WorkCounter where
  value : BitVec 16 := 0
  limit : BitVec 16 := 0
  attempt : Byte := 0
  done : Bool := true
  latched : Bool := false
  limitPoison : Bool := false
  tagBase : BitVec 14 := 0
  epoch : BitVec 16 := 0
  deriving DecidableEq, Repr

/-! ## Bell sequencer -/

/-- An action issued and not finished (R195, R198). -/
structure Action where
  unit : UnitId
  issued : Nat
  finishBy : Nat
  slot : Nat
  layer : Nat
  job : Option (BitVec 6 × BitVec 16) := none
  /-- Crop-table entries that the slot's crop actions name. -/
  lists : List Nat := []
  deriving DecidableEq, Repr

/-- A row of a row map (R205). -/
structure Row where
  ctx : BitVec 12
  live : Bool
  poison : Bool
  region : Bool
  poisonLayer : BitVec 16
  frame : Nat
  deriving DecidableEq, Repr

/-- What waits for a new timetable (R21); `included` once an area marked complete holds it. -/
inductive ChangeKind where
  | admission (ctx : BitVec 12)
  | close (ctx : BitVec 12)
  | shed (ctx : BitVec 12)
  | sheafDefine (n : Nat)
  | sheafDissolve (n : Nat)
  | round (len : Nat) (reserve : Bool) (locked : Bool) (jitter : Nat)
  | windows (ctx : BitVec 12) (c : Cadence)
  | unlocked (ctx : BitVec 12)
  | rebind (ctx : BitVec 12) (engine : Nat)
  | retire (kind : VideoKind) (index : Nat)
  deriving DecidableEq, Repr

/-- A change that waits, and the command it answers. -/
structure Change where
  kind : ChangeKind
  cmd : Option (BitVec 6 × BitVec 16) := none
  included : Bool := false
  deriving DecidableEq, Repr

/-- NEXT or STANDBY (R190, R202): state 0 none, 1 writing, 2 checking, 3 ready. -/
structure AreaRole where
  state : Nat := 0
  area : BitVec 2 := 1
  deriving DecidableEq, Repr

/-- The open GAP slot in which best-effort layers run (R208): its end in fc from round start, and the layer placed in
it: its job, the fc it was placed, and its slots not yet issued, START relative to that fc. -/
structure Gap where
  until_ : Nat
  open_ : Bool := true
  job : Option (BitVec 6 × BitVec 16) := none
  base : Nat := 0
  slots : List (BitVec 4096) := []
  deriving DecidableEq, Repr

/-- BELL_HANG and BELL_HANG_SLOT (R215). -/
structure HangReg where
  valid : Bool := false
  kind : BitVec 3 := 0
  index : Byte := 0
  cores : Byte := 0
  slot : BitVec 16 := 0
  roundLow : BitVec 16 := 0
  deriving DecidableEq, Repr

/-- Round settings (R56). -/
structure RoundSet where
  len : BitVec 2 := 1
  reserve : Bool := true
  locked : Bool := false
  jitter : Byte := 2
  deriving DecidableEq, Repr

/-- The Bell sequencer (R190 to R215). `fallowDone`: the activities of the fallow slot have run; `fallowEnd`: the end of
its 0.05 ms, from the issue of the first FALLOW slot (R63). `standbyShed` the streams that leave with the standby timetable,
`shedLists` those of the classes below it (R80). `lastStart` the start of the round before. -/
structure Bell where
  set : RoundSet := {}
  running : Bool := false
  roundSeq : Word := 0
  roundStart : Nat := 0
  lastStart : Nat := 0
  shift : Nat := 0
  active : BitVec 2 := 0
  next : AreaRole := {}
  standby : AreaRole := { state := 0, area := 2 }
  areas : SMap AreaContent := []
  checkFail : Bool := false
  repeats : Byte := 0
  failSlot : BitVec 16 := 0
  hang : HangReg := {}
  wakeStall : Word := 0
  lateIssue : Word := 0
  beFc : Word := 0
  slot : Nat := 0
  lastIssue : Nat := 0
  layerSlot : Nat := 0
  layerStart : Nat := 0
  layerNo : BitVec 16 := 0
  layerOpen : Bool := false
  deadNets : List Nat := []
  actions : List Action := []
  touched : List Nat := []
  reported : List (Nat × Nat) := []
  rowMaps : SMap (List Row) := []
  gap : Option Gap := none
  /-- The job and layer that the next barrier closes, where the last layer to start is a best-effort one (R227). -/
  layerJob : Option (BitVec 6 × BitVec 16 × Nat) := none
  /-- Units that met poison in their present action (R207). -/
  met : List UnitId := []
  changes : List Change := []
  retireDecided : Bool := false
  retireCores : List Nat := []
  fallowOnly : Bool := false
  fallowDone : Bool := false
  fallowEnd : Nat := 0
  standbyShed : List (BitVec 12) := []
  shedLists : List (List (BitVec 12)) := []
  shedDue : List (BitVec 12 × Nat) := []
  emitRan : Bool := false
  noAssoc : Bool := false
  /-- Track-store operations that are not run again in the round (R313). -/
  deadOps : List Nat := []
  frameList : List FrameRec := []
  fused : List (Nat × List FrameRec) := []
  admitCount : Nat := 0
  stageShed : Option Nat := none
  /-- Members that have left their sheaves since the last boundary (R114): context and sheaf. -/
  sheafLeaves : List (Nat × Nat) := []
  deriving DecidableEq, Repr

/-! ## Tracking -/

/-- A track-store entry (R233); BOX and VEL are FP32. -/
structure Track where
  ctx : BitVec 12
  cls : BitVec 16
  created : Word
  firstSeq : Word
  lastSeq : Word
  hits : BitVec 16
  misses : Byte
  hpos : BitVec 4
  conf : BitVec 16
  box : List Word
  vel : List Word
  hist : List (Nat × Bool)
  missSeq : Word
  deriving DecidableEq, Repr

/-- A history-pool entry (R234). -/
structure HistEntry where
  emb : List Word
  box : List Word
  seq : Word
  motionOnly : Bool
  poison : Bool
  deriving DecidableEq, Repr

/-- The track store, history pool and TRK registers (R233 to R253); `lists` are the round's record lists after APPLY,
`rowTracks` the track list of ROWS, `rowHist` the history-pool indices it gathers. -/
structure Trk where
  tracks : SMap Track := []
  hist : SMap HistEntry := []
  headroom : Nat := 0x80000
  joinRefused : Word := 0
  reuse : Word := 0
  created : Word := 0
  busy : Bool := false
  rowTracks : List (Nat × Nat) := []
  rowHist : List (List Nat) := []
  lists : List RecList := []
  joined : List Nat := []
  motion : List (Nat × Nat) := []
  deriving DecidableEq, Repr

/-! ## Networks, jobs, clips -/

/-- A layer-table entry (R212). -/
structure Layer where
  a : Nat
  s : Nat
  batchLimit : Nat
  slack : Nat
  firstSlot : Nat
  slots : Nat
  lflags : Byte
  ops : Nat
  deriving DecidableEq, Repr

/-- An input descriptor (R140, R213). -/
structure InputDesc where
  cropMode : Nat
  fit : Nat
  filter : Nat
  colour : Nat
  matrix : Nat
  range : Nat
  format : Nat
  fold : Nat
  x : Nat
  y : Nat
  w : Nat
  h : Nat
  outW : Nat
  outH : Nat
  shift : List Int
  offset : List Nat
  pad : List Nat
  view : Nat
  deriving DecidableEq, Repr

/-- Tracking parameters (R213, R235). -/
structure TrackParams where
  trackCap : Nat := 0
  joinScore : Word := 0
  histMin : Nat := 1
  histDepth : Nat := 1
  maxMiss : Nat := 1
  classStrict : Nat := 0
  gateIou : Word := 0
  lambda : Word := 0
  costMax : Word := 0
  embBytes : Nat := 0
  deriving DecidableEq, Repr

/-- A loaded network image (R209 to R213); `units` are the 4 KiB units of its Granary allotment. -/
structure Network where
  role : Nat := 0
  iflags : Byte := 0
  classMask : BitVec 16 := 0
  regionCap : Nat := 0
  views : Nat := 0
  recCap : Nat := 0
  progWords : Nat := 1
  scaleUsed : Nat := 0
  upstream : Nat := 0xFFFF
  layersByClass : SMap (List Layer) := []
  inputs : List InputDesc := []
  track : TrackParams := {}
  gate : Option (Nat × Nat × Nat) := none
  chars : List (List Byte) := []
  event : Option (Nat × Nat) := none
  fixed : Nat := 0
  perSample : Nat := 0
  pages : List Nat := []
  mirror : List Nat := []
  units : List Nat := []
  xctx : Nat := 0
  dma : SMap (List (BitVec 512)) := []
  sections : Nat := 0
  body : List Byte := []
  faulted : Bool := false
  deriving DecidableEq, Repr

/-- A best-effort job (R73 to R78, R208). `starved`: its transfer waits for a host-ingest block, which is counted (R119). -/
structure Job where
  ring : BitVec 6
  tag : BitVec 16
  network : Nat
  priority : Nat
  slice : Nat
  inAddr : BitVec 64
  inBytes : Nat
  outAddr : BitVec 64
  outBytes : Nat
  batch : Nat
  layer : Nat := 0
  allowance : Int := 0
  inStarted : Bool := false
  inDone : Bool := false
  started : Bool := false
  cancel : Bool := false
  blocks : List Nat := []
  starved : Bool := false
  deriving DecidableEq, Repr

/-- An ROI entry (R264). -/
structure RoiEntry where
  seq : Nat
  region : Nat
  qp : Nat
  box : List Nat
  deriving DecidableEq, Repr

/-- A decoded clip picture waiting to be encoded (R259). -/
structure ClipPic where
  seq : Nat
  ts : Word
  capture : BitVec 64
  outcome : BitVec 4
  width : Nat
  height : Nat
  deriving DecidableEq, Repr

/-- An RTP packet of a coded clip picture that waits to be sent (R265); the last packet of a picture carries the marker
and the clip segment blocks that staged the picture. -/
structure ClipPacket where
  ts : Word
  marker : Bool
  payload : List Byte
  blocks : List Nat
  deriving DecidableEq, Repr

/-- An evidence clip (R254 to R267). `starved`: it waits for a clip segment block, which is counted (R119); `newCycle`: the
next picture that is not the key picture is the first of its cycle (R261). -/
structure Clip where
  num : BitVec 16
  ctx : BitVec 12
  ring : BitVec 6
  tag : BitVec 16
  startSeq : Nat
  endSeq : Nat
  format : Nat
  cflags : Byte
  baseQp : Nat
  maxQp : Nat
  refreshPics : Nat
  capBytes : Nat
  keyCapBytes : Nat
  outAddr : BitVec 64
  outBytes : Nat
  roi : List RoiEntry
  port : Nat
  ipv6 : Bool
  dstIp : BitVec 128
  dstPort : BitVec 16
  srcPort : BitVec 16
  ssrc : Word
  pt : Byte
  dscp : BitVec 6
  seqNum : BitVec 16
  pace : Nat
  source : List (BitVec 64 × Nat × Word)
  engine : Option Nat := none
  decodeSeq : Nat
  pics : List ClipPic := []
  refs : List RefPic := []
  params : List ParamSet := []
  wave : Nat := 0
  outUsed : Nat := 0
  firstSeq : Nat := 0
  lastSeq : Nat := 0
  pictures : Nat := 0
  bytes : Nat := 0
  capped : Nat := 0
  floored : Nat := 0
  concealed : Nat := 0
  dropped : Nat := 0
  hostFault : Option Byte := none
  cancel : Bool := false
  starved : Bool := false
  newCycle : Bool := true
  units : Nat := 0
  packets : List ClipPacket := []
  segBlocks : List Nat := []
  sentAt : Nat := 0
  ended : Bool := false
  deriving DecidableEq, Repr

/-! ## Memory system and DMA -/

/-- A transfer in progress on an engine (R290 to R292). `landed`: granules above the leading run that have landed;
`flight`: issued and not landed; `failed`: lowest failing granule and its code; `buf`: pieces received per granule. -/
structure Transfer where
  desc : BitVec 512
  total : Nat
  done : Nat := 0
  landed : List Nat := []
  flight : List Nat := []
  failed : Option (Nat × Byte) := none
  buf : SMap (List Byte) := []
  cls : Nat
  owner : Word
  core : Nat := 0
  wgt : Bool := false
  mark : Option Nat := none
  commit : Option (Nat × BitVec 16 × Byte) := none
  blocks : List Nat := []
  frozen : Bool := false
  deriving DecidableEq, Repr

/-- A park record (R292): STATE 0 free, 1 parked, 2 frozen, 3 resuming, 4 killed. `tried`: the management step in which
Bailiff last tried to resume it (R293). -/
structure ParkRecord where
  desc : BitVec 512
  done : Nat
  total : Nat
  engine : Byte
  cause : Byte
  state : Nat
  cls : Nat
  owner : Word
  faultAddr : BitVec 64
  round : Word
  retries : Nat
  faultSeq : Word
  blocks : List Nat := []
  tried : Option Nat := none
  deriving DecidableEq, Repr

/-- A real-time port of R277: bytes in its buffer, and whether it is in panic. -/
structure RtPort where
  level : Nat := 0
  panic : Bool := false
  deriving DecidableEq, Repr

/-- Pinned memory of a stream or image that has left, held until no timetable area names its context any more (R286). -/
structure HeldPages where
  xctx : Nat
  pages : List Nat
  small : Nat := 0
  units : List Nat := []
  deriving DecidableEq, Repr

/-- The memory system (R269 to R299). `rtPorts`: 0 to 2 the ingest write buffers of port 0, port 1 and host ingest, 3 to 34
the decode engines, 35 to 50 the preparation engines (R277). -/
structure MemSys where
  dpa : Mem := { bad := 0x17C0000000, badEnd := 0x1800000000 }
  trained : BitVec 4 := 0xF
  substActive : Bool := false
  substPc : BitVec 7 := 0
  substPending : Option (BitVec 7) := none
  mirrorReads : Bool := false
  pcLostEvent : Bool := false
  pcUe : SMap (List Nat) := []
  trainFail : List Nat := []
  forced : BitVec 16 := 0
  maxOwed : BitVec 4 := 0
  owed : SMap Nat := []
  rtPorts : SMap RtPort := []
  panics : Word := 0
  ce : Word := 0
  ue : Word := 0
  marker : Word := 0
  lastAddr : BitVec 40 := 0
  lastMemory : Byte := 0
  lastUnc : Bool := false
  lastSyn : BitVec 7 := 0
  lastBit : BitVec 6 := 0
  ceStep : SMap (Nat × Nat) := []
  tlb : List (DmaEngine × Nat × Nat × BitVec 64) := []
  tlbWait : List (DmaEngine × Option (BitVec 8)) := []
  ptes : SMap (BitVec 64) := []
  parks : SMap ParkRecord := []
  host : SMap (List Transfer) := []
  bulk : SMap (List Transfer) := []
  timed : SMap (List Transfer) := []
  usedPages : List Nat := []
  used4k : Nat := 0
  sealed : List Nat := []
  leaving : List HeldPages := []
  inject : List (BitVec 448 × BitVec 6 × BitVec 16) := []
  patrol : BitVec 40 := 0
  deriving DecidableEq, Repr

/-! ## Faults -/

/-- A fault record (R300). -/
structure FaultRec where
  seq : Word := 0
  code : BitVec 16 := 0
  scope : Byte := 0
  fflags : Byte := 0
  step : BitVec 64 := 0
  round : Word := 0
  roundFc : Word := 0
  d : Word := 0
  unit : BitVec 16 := 0xC000
  ctx : BitVec 16 := 0
  slot : BitVec 16 := 0xFFFF
  layer : BitVec 16 := 0xFFFF
  net : BitVec 16 := 0xFFFF
  captureId : Word := 0xFFFFFFFF
  shift : Word := 0
  body : List Byte := []
  deriving DecidableEq, Repr

/-- A capture set (R301), kept as the units' registers it copies. -/
structure Capture where
  seq : Word
  id : Nat := 0
  round : Word
  roundFc : Nat
  d : Nat
  firstSlot : Nat
  nextSlot : Nat
  counters : SMap WorkCounter
  actions : List Action
  coreSeqs : List (Nat × CoreSeq)
  engines : SMap VidEngine
  parks : List Nat
  heads : List (Nat × Nat)
  deriving DecidableEq, Repr

/-- A suspect of R309. -/
inductive Suspect where
  | layer (slot : Nat) (net : Nat) (code : BitVec 16) (pc : Nat) (cores : List Nat)
  | track (op : Nat)
  | decode (engine : Nat) (ctx : BitVec 12) (seq : Nat)
  | prep (engine : Nat) (ctx : BitVec 12) (seq : Nat)
  | clip (num : BitVec 16)
  | job (ring : BitVec 6) (tag : BitVec 16)
  deriving DecidableEq, Repr

/-- A compute reset in progress (R307, R308). -/
structure Reset where
  at_ : Nat
  suspects : List Suspect
  layerRan : Option Nat
  seq : Word
  deriving DecidableEq, Repr

/-- Fault recorder, recovery and FLT registers (R300 to R322). `staging` records not yet copied, `psram` copied,
oldest first. -/
structure Flt where
  new_ : Bool := false
  resetEvent : Bool := false
  oos : Bool := false
  oosCause : BitVec 12 := 0
  oosPending : Bool := false
  resetSteps : List (Nat × Word) := []
  lastSeq : Word := 0
  nextSeq : Word := 1
  resets : Word := 0
  dropped : Word := 0
  lostNext : Bool := false
  staging : List FaultRec := []
  psram : List FaultRec := []
  captures : List Capture := []
  copiedCaptures : List Capture := []
  reset : Option Reset := none
  replaying : List Suspect := []
  later : List (FaultRec × List Suspect) := []
  captureNext : Nat := 0
  stuck : Bool := false
  priority : List Nat := []
  deriving DecidableEq, Repr

/-- A self-test asked for by SELFTEST_REQUEST (R319). -/
structure TestReq where
  ring : BitVec 6
  tag : BitVec 16
  test : Nat
  noRetire : Bool
  target : Nat
  segment : Nat := 0
  firstFail : Nat := 0
  retiredAny : Bool := false
  failedAny : Bool := false
  rounds : Nat := 0
  whole : Bool := false
  since : Word := 0
  deriving DecidableEq, Repr

/-! ## Power -/

/-- What a domain was asked (R327, R328); `accessed` an access has reached it since (R329); the end of its DELAY. -/
structure Handshake where
  mode : BitVec 2
  accessed : Bool := false
  delayUntil : Option Nat := none
  deriving DecidableEq, Repr

/-- A Recess entry under way (R334): domains still to ask, domains already switched with the mode they took. -/
structure RecessEntry where
  todo : List (Nat × BitVec 2)
  done : List Nat
  start : Nat
  banks : Bool
  cmd : BitVec 6 × BitVec 16
  deriving DecidableEq, Repr

/-- Power controller, always-on regulator, PWR registers and power telemetry (R323 to R341). Power-on domains of R323:
184-263, 266, 267, 268, 271. -/
structure Pwr where
  recess : Bool := false
  transition : BitVec 2 := 0
  aonLow : Bool := false
  banksOff : Bool := false
  brownout : Bool := false
  refusal : Bool := false
  brownouts : Byte := 0
  refDomain : BitVec 9 := 0
  refReason : Byte := 0
  refEntry : Bool := false
  engIdle : Byte := 125
  aonLowEn : Bool := true
  stallMax : BitVec 16 := 0
  stallCount : BitVec 16 := 0
  on : List Nat := (List.range 80).map (· + 184) ++ [266, 267, 268, 271]
  retained : List Nat := []
  shells : List (Nat × Nat) := []
  hs : SMap Handshake := []
  entry : Option RecessEntry := none
  exit_ : Option (Nat × (BitVec 6 × BitVec 16)) := none
  waking : List Nat := []
  wakeQueue : List Nat := []
  leaving : Bool := false
  aonReset : Bool := false
  heldSync : Bool := false
  wakes : Word := 0
  refusals : Word := 0
  stallSince : BitVec 16 := 0
  stallStep : BitVec 16 := 0
  browns : BitVec 16 := 0
  onDie : List Word := [0, 0, 0, 0]
  fullAt : Option Nat := none
  deferred : List (BitVec 448) := []
  deriving DecidableEq, Repr

/-! ## Link, function, slot, board -/

/-- Link states the endpoint distinguishes (R350, R351, R357). -/
inductive LinkState where
  | detect | l0 | l1 | l12 | l2
  deriving DecidableEq, Repr

/-- The PCIe function and link (R342 to R359). `command` is the configuration Command register; `aer` the errors
logged; `pmeStatus`, `pmeEn` of the power-management capability. -/
structure Link where
  state : LinkState := .detect
  txL0s : Bool := false
  rxL0s : Bool := false
  d3hot : Bool := false
  d3coldOrderly : Bool := false
  command : BitVec 16 := 0
  pmeEn : Bool := false
  pmeStatus : Bool := false
  aerPoisoned : Bool := false
  aerAbort : Bool := false
  flr : Bool := false
  flrRecess : Bool := false
  refclk : Bool := true
  crs : Bool := true
  narrow : Bool := false
  deriving DecidableEq, Repr

/-- Slot assist (R355, R363). -/
structure Slot where
  present : Bool := true
  presentChanged : Bool := false
  btnPressed : Bool := false
  btnDown : Bool := false
  pwrEn : Bool := true
  attnInd : BitVec 2 := 0
  pwrInd : BitVec 2 := 1
  configured : Bool := false
  cause : BitVec 3 := 0
  count : Byte := 0
  deriving DecidableEq, Repr

/-- Board pins and holds (R358, R389 to R398). -/
structure Board where
  perst : Bool := true
  pwrgd : Bool := true
  thermTrip : Bool := false
  railHold : Bool := false
  wakeN : Bool := false
  removalNext : Bool := false
  deriving DecidableEq, Repr

/-- What the telemetry block takes from the machine, as it stood at the last management step boundary (R340): `domains` are
the domains that are on. -/
structure TelSample where
  step : Nat := 0
  round : Word := 0
  dstate : Byte := 0
  cls : Byte := 16
  temps : Temps := { compute := 250, base := 250, hbm0 := 250, hbm1 := 250, hbm2 := 250, hbm3 := 250 }
  domains : List Nat := (List.range 80).map (· + 184) ++ [266, 267, 268, 271]
  wakes : Word := 0
  refusals : Word := 0
  stallMax : BitVec 16 := 0
  browns : BitVec 16 := 0
  onDie : List Word := [0, 0, 0, 0]
  deriving DecidableEq, Repr

/-- TEL registers and the thermal level (R397 to R399). -/
structure Tel where
  sample : TelSample := {}
  temps : Temps := { compute := 250, base := 250, hbm0 := 250, hbm1 := 250, hbm2 := 250, hbm3 := 250 }
  level : BitVec 2 := 0
  warnEvent : Bool := false
  emergEvent : Bool := false
  source : BitVec 4 := 0
  shed : Byte := 0
  shedAt : Option Nat := none
  rail : BitVec 4 := 0
  railFault : Bool := false
  railCount : Byte := 0
  deriving DecidableEq, Repr

/-! ## Firmware -/

/-- What Proctor knows of a firmware image (R368). -/
structure FwImage where
  build : Word := 0
  svn : BitVec 16 := 0
  key : BitVec 2 := 0
  revoke : BitVec 4 := 0
  blocks : Nat := 1
  bootBlocks : Nat := 1
  outFmt : BitVec 16 := 0
  inMin : BitVec 16 := 0
  inMax : BitVec 16 := 0
  digest : List Byte := []
  deriving DecidableEq, Repr

/-- Proctor and Bailiff (R364 to R385): update state 0 IDLE, 1 STAGING, 2 STAGED, 3 ARMED, 4 SWITCHING, 5 TRIAL;
`step` of R376. -/
structure Fw where
  upd : BitVec 3 := 0
  bank : BitVec 1 := 0
  banks : SMap FwImage := []
  bankValid : BitVec 2 := 1
  patchSlots : SMap FwImage := []
  patchValid : BitVec 2 := 0
  patchRun : Option Nat := none
  patchStaged : Option Nat := none
  patchPending : Bool := false
  syncEn : Bool := false
  hostConfirm : Bool := false
  healthS : Nat := 120
  step : Nat := 0
  trigger : Option (BitVec 6 × BitVec 16) := none
  joined : List (BitVec 6 × BitVec 16) := []
  triggerAt : Nat := 0
  quiesced : Bool := false
  handover : Bool := false
  switchRound : Word := 0
  clusterReset : Bool := false
  loadedBlocks : Nat := 0
  trialEnd : Nat := 0
  confirmSeen : Bool := false
  restarted : Bool := false
  evStaged : Bool := false
  evActivated : Bool := false
  evConfirmed : Bool := false
  evFallback : Bool := false
  evRestart : Bool := false
  evSyncIgnored : Bool := false
  restarts : BitVec 16 := 0
  reason : BitVec 4 := 0
  bailiffCtr : BitVec 7 := Config.bailiffCtr
  patchCtr : BitVec 6 := Config.patchCtr
  revoked : BitVec 4 := Config.revoked
  aliveAt : Nat := 0
  record : BitVec 3 := 0
  spdm : Nat := 0
  doeObject : List Byte := []
  deriving DecidableEq, Repr

/-- What the device sends: posted writes to host memory, completions to host requests, PCIe messages, Ethernet frames,
pins and DOE objects; OFF_REQ and WAKE_REQ to a domain (R327), and what an encode engine is told of a picture (R261,
R264): its wave columns and the map QP of each 16 x 16 area. -/
inductive Output where
  | hostWrite (addr : BitVec 64) (bytes : List Byte)
  | hostRead (addr : BitVec 64) (bytes : Nat)
  | completion (value : Word)
  | completionBytes (bytes : List Byte)
  | unsupportedRequest
  | completerAbort
  | assertIntA
  | deassertIntA
  | pmPme
  | pmeToAck
  | ltr (ns : Nat)
  | linkL0s (transmit : Bool)
  | linkL1
  | datagram (h : TxHeader) (dst : BitVec 128) (dstPort srcPort : BitVec 16) (dscp : BitVec 6) (payload : List Byte)
  | rtp (h : TxHeader) (dst : BitVec 128) (dstPort srcPort : BitVec 16) (dscp : BitVec 6) (payload : List Byte)
  | control (h : TxHeader) (k : ControlOut)
  | roundMark
  | wakeN (low : Bool)
  | thermTripN (low : Bool)
  | pwrctlEn (level : Bool)
  | leds (attn pwr : BitVec 2)
  | doe (bytes : List Byte)
  | powerMsg (domain : Nat) (kind : Nat) (arg : Nat)
  | encode (clip : BitVec 16) (seq : Nat) (key : Bool) (firstColumn columns : Nat) (recovery : Option Nat) (qp : List Nat)
  deriving DecidableEq, Repr

/-- What R11 needs of the present fc: the parts that hold registers as they stood when it began, the bits that the hardware
has set in it (BAR0 offset, bit), and the values that it has offered to registers that keep a maximum (offset, value). -/
structure Cycle where
  sets : List (Nat × Nat) := []
  peaks : List (Nat × Nat) := []
  cmd : Cmd := {}
  ports : SMap Port := []
  pools : SMap Pool := []
  decEng : SMap VidEngine := []
  prepEng : SMap VidEngine := []
  encEng : SMap EncEngine := []
  cores : SMap Core := []
  bell : Bell := {}
  trk : Trk := {}
  mem : MemSys := {}
  flt : Flt := {}
  pwr : Pwr := {}
  tel : Tel := {}
  fw : Fw := {}
  deriving DecidableEq, Repr

/-- The whole machine. `clusterSram` (20 MiB), `securitySram` (512 KiB) and `psram` (64 MiB) are the memories of R18 that no
DPA reaches; what they hold at power-on is undefined (R367, notes/assumptions/70.md). `now` counts fc since power-on (R2, R3, R54); `free` counts free values drawn; `out` is what has
been sent, newest first; `pending` the commands that wait, first in first out. -/
structure State where
  now : Nat := 0
  free : Nat := 0
  glb : Glb := {}
  cmd : Cmd := {}
  streams : SMap Stream := []
  frames : List FrameRec := []
  dests : SMap DgDest := []
  sheaves : SMap Sheaf := []
  ports : SMap Port := []
  flow : FlowTable := {}
  pools : SMap Pool := []
  decEng : SMap VidEngine := []
  prepEng : SMap VidEngine := []
  encEng : SMap EncEngine := []
  refuseLimit : Byte := 16
  taintWeight : Byte := 192
  cores : SMap Core := []
  wcs : SMap WorkCounter := []
  tags : SMap (BitVec 16 × BitVec 8) := []
  bell : Bell := {}
  trk : Trk := {}
  nets : SMap Network := []
  jobs : List Job := []
  clips : List Clip := []
  nextClip : BitVec 16 := 0
  clipAreaUsed : Nat := 0
  tests : List TestReq := []
  mem : MemSys := {}
  flt : Flt := {}
  pwr : Pwr := {}
  link : Link := {}
  slot : Slot := {}
  board : Board := {}
  tel : Tel := {}
  fw : Fw := {}
  cyc : Cycle := {}
  clusterSram : Mem := { id := 2000, gen := 1 }
  securitySram : Mem := { id := 2001, gen := 1 }
  psram : Mem := { id := 2002, gen := 1 }
  out : List Output := []
  pending : List Instr := []
  deriving DecidableEq, Repr

/-- The machine right after power-on: the P column of every register and the P column of R321, before PERST# deasserts.
-/
def State.reset : State := {}

/-- Why the model stops. -/
inductive Fault where
  /-- Raised by a command whose operand is another command's: a packet that carries another row's opcode (R38), a
  tile word that carries another row's OP, FUNC, SOP, KIND or DIR (R220), a CFG write that does not change ENABLE the
  way its row does. Safe: such a word is a command of its own row. -/
  | notThisCommand
  deriving DecidableEq, Repr

/-- Why a command has no meaning here. -/
inductive Refusal where
  /-- Raised by an arm of exec whose command has no meaning yet. Safe. -/
  | notModelled (mnemonic : String)
  deriving DecidableEq, Repr

/-- What a meaning answers. -/
abbrev Res := Host.Outcome State Fault Refusal

end Sys2Proof.Machine
end

