-- ==== Sys2Proof/Machine/Bits.lean ====
section
/-! DEFINITION. Machine/Bits.lean: byte order (R5), index maps, and the CRC-32C of R191, R210 and R369. -/

namespace Sys2Proof.Machine

/-! ## Index maps -/

/-- The entry of index `k`, or `d`, what an index not listed holds. -/
def getAt {α : Type} (d : α) (k : Nat) : List (Nat × α) → α
  | [] => d
  | (j, v) :: r => if j = k then v else getAt d k r

/-- The entry of index `k`, if listed. -/
def findAt {α : Type} (k : Nat) : List (Nat × α) → Option α
  | [] => none
  | (j, v) :: r => if j = k then some v else findAt k r

/-- Sets index `k`, keeping indices ascending. -/
def putAt {α : Type} (k : Nat) (v : α) : List (Nat × α) → List (Nat × α)
  | [] => [(k, v)]
  | (j, w) :: r => if k < j then (k, v) :: (j, w) :: r else if k = j then (k, v) :: r else (j, w) :: putAt k v r

/-- Removes index `k`. -/
def dropAt {α : Type} (k : Nat) : List (Nat × α) → List (Nat × α)
  | [] => []
  | (j, v) :: r => if j = k then dropAt k r else (j, v) :: dropAt k r

/-- Changes every entry. -/
def mapAt {α : Type} (f : α → α) (m : List (Nat × α)) : List (Nat × α) := m.map fun e => (e.1, f e.2)

/-! ## Sets of numbers -/

/-- Adds a number to an ascending set. -/
def insNat (k : Nat) : List Nat → List Nat
  | [] => [k]
  | j :: r => if k < j then k :: j :: r else if k = j then j :: r else j :: insNat k r

/-- Adds several numbers. -/
def insNats (ks l : List Nat) : List Nat := ks.foldl (fun a k => insNat k a) l

/-- Removes several numbers. -/
def delNats (ks l : List Nat) : List Nat := l.filter fun x => !ks.contains x

/-- The `n` lowest numbers below `bound`, searched from `from_`, that are not in the set `used`. -/
def lowestFree (used : List Nat) (fuel from_ n : Nat) : List Nat :=
  match fuel with
  | 0 => []
  | f + 1 =>
    match n with
    | 0 => []
    | k + 1 =>
      if used.contains from_ then lowestFree used f (from_ + 1) (k + 1)
      else from_ :: lowestFree used f (from_ + 1) k

/-! ## Bytes -/

/-- `n` bytes of `v`, lowest byte first (R5). -/
def leBytes (n v : Nat) : List Byte := (List.range n).map fun i => BitVec.ofNat 8 (v >>> (8 * i))

/-- The number that bytes hold, lowest byte first (R5). -/
def leNat : List Byte → Nat
  | [] => 0
  | b :: r => b.toNat + 256 * leNat r

/-- The number at bytes [o, o + n) of a byte list; a byte past the end reads zero (R8). -/
def numAt (l : List Byte) (o n : Nat) : Nat := leNat ((l.drop o).take n)

/-- A byte list cut or filled with zeros to length `n`. -/
def padTo (n : Nat) (l : List Byte) : List Byte := l.take n ++ List.replicate (n - l.length) 0

/-- Network byte order, as RTP and UDP headers carry numbers (R86, R265). -/
def beBytes (n v : Nat) : List Byte := (leBytes n v).reverse

/-- Bits [hi:lo] of a number (R5). -/
def bitsOf (v hi lo : Nat) : Nat := (v >>> lo) % 2 ^ (hi + 1 - lo)

/-- A Boolean as a bit. -/
def b2n (b : Bool) : Nat := if b then 1 else 0

/-- Quotient rounded up. -/
def ceilDiv (a b : Nat) : Nat := (a + b - 1) / b

/-- The least k with n ≤ 2^k, up to 40. -/
def log2Up (n : Nat) : Nat := ((List.range 40).find? fun k => decide (n ≤ 2 ^ k)).getD 40

/-- Inserts into a sorted list, after entries that are not above it. -/
def insertBy {α : Type} (le : α → α → Bool) (a : α) : List α → List α
  | [] => [a]
  | b :: r => if le b a then b :: insertBy le a r else a :: b :: r

/-- Stable sort. -/
def sortBy {α : Type} (le : α → α → Bool) (l : List α) : List α := l.foldl (fun r a => insertBy le a r) []

/-- Saturating 32-bit counter. -/
def satAdd (w : Word) (n : Nat) : Word := BitVec.ofNat 32 (min (w.toNat + n) 0xFFFFFFFF)

/-- Saturating counter of any width. -/
def satAddW {k : Nat} (w : BitVec k) (n : Nat) : BitVec k := BitVec.ofNat k (min (w.toNat + n) (2 ^ k - 1))

/-- Saturating 32-bit count kept as a number. -/
def satNat (a n : Nat) : Nat := min (a + n) 0xFFFFFFFF

/-- Two's-complement reading of the low `w` bits. -/
def signedOf (w v : Nat) : Int := if v % 2 ^ w < 2 ^ (w - 1) then Int.ofNat (v % 2 ^ w) else Int.ofNat (v % 2 ^ w) - 2 ^ w

/-- The low `w` bits of an integer. -/
def wrapInt (w : Nat) (v : Int) : Nat := (v % (2 ^ w : Int)).toNat

/-! ## CRC-32C (R191): polynomial 0x1EDC6F41, reflected, initial value and final XOR 0xFFFFFFFF -/

/-- One bit of the reflected CRC. -/
def crcBit (c : Word) : Word := if c.getLsbD 0 then (c >>> 1) ^^^ 0x82F63B78 else c >>> 1

/-- One byte. -/
def crcByte (c : Word) (b : Byte) : Word :=
  let c := c ^^^ b.setWidth 32
  crcBit (crcBit (crcBit (crcBit (crcBit (crcBit (crcBit (crcBit c)))))))

/-- CRC-32C of a byte string. -/
def crc32c (l : List Byte) : Word := ~~~ (l.foldl crcByte 0xFFFFFFFF)

end Sys2Proof.Machine
end

