-- ==== Sys2Proof/Machine/Flags.lean ====
section
/-! DEFINITION. Machine/Flags.lean: the flags the machine computes: interrupt causes (R362), when the wire may be
asserted (R348), capacity class, syndromes of the error-correcting code (R279), and whether a host access can be made. -/

namespace Sys2Proof.Machine

/-! ## Interrupt causes and the wire -/

/-- CMD_ERR [3:0] (R29). -/
def cmdErrAny (s : State) : Bool :=
  s.cmd.cfgWhileEnabled || s.cmd.badSize || s.cmd.doorbellRefused || s.cmd.disableBusy

/-- The hardware sets bit `b` of the register at BAR0 offset `o` in this fc (R11). -/
def hwSet (o b : Nat) (s : State) : State := { s with cyc := { s.cyc with sets := (o, b) :: s.cyc.sets } }

/-- The hardware offers a value in this fc to the register at BAR0 offset `o`, which keeps the largest (R11). -/
def hwPeak (o v : Nat) (s : State) : State := { s with cyc := { s.cyc with peaks := (o, v) :: s.cyc.peaks } }

/-- The two port registers. -/
def portAt (s : State) (n : Nat) : Port := getAt {} n s.ports

/-- GLB_INT_CAUSE (R362). -/
def intCause (s : State) : BitVec 12 :=
  BitVec.ofNat 12 (b2n (s.glb.cqCause != 0)
    + 2 * b2n (s.glb.mrCause != 0)
    + 4 * b2n (cmdErrAny s)
    + 8 * b2n s.glb.streamCause
    + 16 * b2n s.glb.poolCause
    + 32 * b2n ((portAt s 0).linkChange || (portAt s 1).linkChange)
    + 64 * b2n s.bell.checkFail
    + 128 * b2n s.flt.new_
    + 256 * b2n s.mem.pcLostEvent
    + 512 * b2n (s.pwr.brownout || s.pwr.refusal)
    + 1024 * b2n (s.slot.presentChanged || s.slot.btnPressed)
    + 2048 * b2n s.glb.fwCause)

/-- Pending causes that are not masked (R348). -/
def unmasked (s : State) : BitVec 12 := intCause s &&& ~~~ s.glb.mask

/-- The link states in which the wire may be asserted (R348). -/
def linkSpeaks (s : State) : Bool := s.link.state == .l0 || s.link.state == .l1

/-- R348: D0, Interrupt Disable 0, link in L0, L0s or L1, and no function-level reset running (R350). -/
def wireAllowed (s : State) : Bool :=
  !s.link.d3hot && !s.link.command.getLsbD 10 && linkSpeaks s && !s.link.flr

/-- R349: ring causes are due by count or by timer. -/
def ringDue (s : State) : Bool := s.glb.due || decide (max s.glb.coalCount.toNat 1 ≤ s.glb.entries)

/-- The wire follows the causes (R348): Assert_INTA when an unmasked cause other than CQ and MR is pending, or one of
those is pending and due; Deassert_INTA when none is pending. -/
def updateWire (s : State) : State :=
  if s.glb.wire then
    if unmasked s == 0 then
      { s with glb := { s.glb with wire := false }, out := .deassertIntA :: s.out }
    else s
  else
    if wireAllowed s && (unmasked s &&& ~~~ 3#12 != 0 || (unmasked s != 0 && ringDue s)) then
      { s with glb := { s.glb with wire := true, entries := 0, timerStart := none, due := false },
               out := .assertIntA :: s.out }
    else s

/-- R350: the wire is deasserted, with a message where the link still allows it. -/
def dropWire (s : State) : State :=
  if s.glb.wire then
    { s with glb := { s.glb with wire := false },
             out := if linkSpeaks s then .deassertIntA :: s.out else s.out }
  else s

/-- R350: when the conditions hold again the wire asserts at once if any unmasked cause is pending. -/
def restoreWire (s : State) : State :=
  if !s.glb.wire && wireAllowed s && unmasked s != 0 then
    { s with glb := { s.glb with wire := true, entries := 0, timerStart := none, due := false },
             out := .assertIntA :: s.out }
  else s

/-! ## Device flags -/

/-- HOST_QUIESCED (R362): host-bound requests are stopped under R355 or R357. -/
def hostQuiesced (s : State) : Bool := !s.slot.present || s.link.state == .detect || s.link.state == .l2

/-- Whether the device may issue requests to host memory (R345, R350, R352, R354, R355, R357). -/
def hostUp (s : State) : Bool :=
  s.link.command.getLsbD 2 && linkSpeaks s && !s.link.d3hot && !s.link.flr && s.slot.present

/-- Whether memory requests of the host are decoded (R345): Memory Space Enable, D0, link up. -/
def hostAccess (s : State) : Bool :=
  s.link.command.getLsbD 1 && linkSpeaks s && !s.link.d3hot && !s.link.flr

/-- Cores not retired. -/
def coresLeft (s : State) : Nat := ((List.range 128).filter fun c => !(getAt ({} : Core) c s.cores).retired).length

/-- Capacity class in cores divided by 8, 8 to 16 (R44, R80). -/
def capacityClass (s : State) : Nat := max 8 (coresLeft s / 8)

/-- A stream holds a reservation in ADMITTED, RUNNING and TRUANT only (R47). -/
def holds (st : StreamState) : Bool := st == .admitted || st == .running || st == .truant

/-- Whether any stream holds a reservation. -/
def anyHolds (s : State) : Bool := s.streams.any fun e => holds e.2.state

/-- LEVEL 2 with no latency-critical stream admitted: no best-effort layer, clip picture or requested self-test starts (R397). -/
def hotIdle (s : State) : Bool := s.tel.level == 2 && !anyHolds s

/-- Stream state encoding of R47. -/
def stateCode : StreamState → Nat
  | .closed => 0
  | .opened => 1
  | .admitted => 2
  | .running => 3
  | .truant => 4
  | .shed => 5
  | .faulted => 6

/-- Round length R in fc (R2, R56): 2, 4 or 8 ms. -/
def roundLen (s : State) : Nat := match s.bell.set.len.toNat with | 0 => 2500000 | 1 => 5000000 | _ => 10000000

/-- fc from round start (R3); 0 while no round runs. -/
def roundFc (s : State) : Nat := if s.bell.running then s.now - s.bell.roundStart else 0

/-- Management steps since power-on (R2). -/
def mgmtStep (s : State) : Nat := s.now / 1000000

/-! ## The error-correcting code (R279) -/

/-- Bits set in a 7-bit value. -/
def popcount7 (v : Nat) : Nat := ((List.range 7).filter fun j => v.testBit j).length

/-- Columns of the data bits: the 7-bit values with three bits set, ascending; the first 32 are used. -/
def eccColumns : List Nat := ((List.range 128).filter fun v => popcount7 v == 3).take 32

/-- The check bits of a data word. -/
def checkBits (d : Word) : BitVec 7 :=
  ((List.range 32).zip eccColumns).foldl
    (fun a e => if d.getLsbD e.1 then a ^^^ BitVec.ofNat 7 e.2 else a) 0

/-- What a syndrome means. -/
inductive EccKind where
  | clean | corrected (bit : Nat) | marker | uncorrectable
  deriving DecidableEq, Repr

/-- The syndrome table of R279. -/
def eccKind (y : BitVec 7) : EccKind :=
  if y == 0 then .clean
  else if y == 0x7F then .marker
  else match (List.range 7).find? fun j => y.toNat == 1 <<< j with
    | some j => .corrected (32 + j)
    | none => match ((List.range 32).zip eccColumns).find? fun e => y.toNat == e.2 with
      | some e => .corrected e.1
      | none => .uncorrectable

/-- The data word after correction. -/
def eccFix (d : Word) : EccKind → Word
  | .corrected b => if b < 32 then d ^^^ (1#32 <<< b) else d
  | _ => d

end Sys2Proof.Machine
end

