-- ==== Sys2Proof/Machine/Ops.lean ====
section
/-! DEFINITION. Machine/Ops.lean: the named operations the commands share: memories with their error correction
(R269, R274, R279 to R284), outputs, fault records (R300 to R302), and replies (R27, R28, R35, R36, R51). -/

namespace Sys2Proof.Machine

/-! ## Canonical lists -/

/-- Sets key `k` of a list with strictly rising keys, listing no entry equal to what an unlisted key reads as. -/
def putCanon {α : Type} [DecidableEq α] (blank : Nat → α) (k : Nat) (v : α) : List (Nat × α) → List (Nat × α)
  | [] => if v = blank k then [] else [(k, v)]
  | (j, w) :: r =>
    if k < j then (if v = blank k then (j, w) :: r else (k, v) :: (j, w) :: r)
    else if k = j then (if v = blank k then r else (k, v) :: r)
    else (j, w) :: putCanon blank k v r

/-- Keys strictly rise above `lo`, and no entry equals what an unlisted key reads as. -/
def canonFrom {α : Type} [DecidableEq α] (blank : Nat → α) (lo : Nat) : List (Nat × α) → Bool
  | [] => true
  | (j, w) :: r => decide (lo ≤ j) && decide (w ≠ blank j) && canonFrom blank (j + 1) r

/-! ## One memory -/

/-- What an unlisted byte reads as. -/
def memBlank (m : Mem) (a : Nat) : Byte := if m.gen = 0 then 0 else Config.freeByte m.gen m.id a

/-- What an unlisted word's syndrome is: the poison marker in the range the substitute area starts with (R283). -/
def synBlank (m : Mem) (w : Nat) : BitVec 7 := if m.bad ≤ w ∧ w < m.badEnd then 0x7F else 0

/-- The canonical form of a memory. -/
def Mem.wf (m : Mem) : Bool := canonFrom (memBlank m) 0 m.cells && canonFrom (synBlank m) 0 m.syn

/-- The stored byte at an address. -/
def memByte (m : Mem) (a : Nat) : Byte := match findAt a m.cells with | some b => b | none => memBlank m a

/-- Stores one byte. -/
def memPut (m : Mem) (a : Nat) (b : Byte) : Mem := { m with cells := putCanon (memBlank m) a b m.cells }

/-- The syndrome of the word at `w`, a multiple of 4. -/
def memSyn (m : Mem) (w : Nat) : BitVec 7 := match findAt w m.syn with | some y => y | none => synBlank m w

/-- Sets a word's syndrome. -/
def memPutSyn (m : Mem) (w : Nat) (y : BitVec 7) : Mem := { m with syn := putCanon (synBlank m) w y m.syn }

/-- The stored word at `w` (R5). -/
def memWord (m : Mem) (w : Nat) : Word :=
  (memByte m (w + 3)) ++ (memByte m (w + 2)) ++ (memByte m (w + 1)) ++ (memByte m w)

/-- Stores the four bytes of a word and its syndrome. -/
def memPutWord (m : Mem) (w : Nat) (d : Word) (y : BitVec 7) : Mem :=
  memPutSyn (memPut (memPut (memPut (memPut m w (d.extractLsb' 0 8)) (w + 1) (d.extractLsb' 8 8))
    (w + 2) (d.extractLsb' 16 8)) (w + 3) (d.extractLsb' 24 8)) w y

/-- An error met by a read (R280, R281): word address and syndrome. -/
structure EccEvent where
  addr : Nat
  syn : BitVec 7
  deriving DecidableEq, Repr

/-- A read of one word (R280): value, whether it is poisoned, the memory after the write-back, and what was met. -/
def memRead (m : Mem) (w : Nat) : Word × Bool × Mem × List EccEvent :=
  let d := memWord m w
  let y := memSyn m w
  match eccKind y with
  | .clean => (d, false, m, [])
  | .corrected b => let f := eccFix d (.corrected b); (f, false, memPutWord m w f 0, [⟨w, y⟩])
  | .marker => (d, true, m, [⟨w, y⟩])
  | .uncorrectable => (d, true, memPutSyn m w 0x7F, [⟨w, y⟩])

/-- A write to the bytes of one word that `be` selects (R280): a full word replaces a poisoned one; a smaller write
into a word that reads as uncorrectable or poisoned is discarded and the word keeps the marker. -/
def memWrite (m : Mem) (w : Nat) (d : Word) (be : BitVec 4) : Mem × List EccEvent :=
  if be == 0xF then (memPutWord m w d 0, [])
  else if be == 0 then (m, [])
  else
    let r := memRead m w
    if r.2.1 then (r.2.2.1, r.2.2.2)
    else
      let pick (i : Nat) : Byte := if be.getLsbD i then d.extractLsb' (8 * i) 8 else r.1.extractLsb' (8 * i) 8
      (memPutWord r.2.2.1 w (pick 3 ++ pick 2 ++ pick 1 ++ pick 0) 0, r.2.2.2)

/-- Poisons a word: the poison marker is written (R280). -/
def memPoison (m : Mem) (w : Nat) : Mem := memPutSyn m w 0x7F

/-- Flips one codeword bit without correcting (R46): a data bit changes the stored data, and either changes the
syndrome by the bit's column. -/
def memFlip (m : Mem) (w bit : Nat) : Mem :=
  let y := memSyn m w
  if bit < 32 then memPutWord m w (memWord m w ^^^ (1#32 <<< bit)) (y ^^^ BitVec.ofNat 7 (eccColumns.getD bit 0))
  else memPutSyn m w (y ^^^ BitVec.ofNat 7 (1 <<< (bit - 32)))

/-- A run of `n` words from `w`. -/
def memReads (m : Mem) (w : Nat) : Nat → List (Word × Bool) × Mem × List EccEvent
  | 0 => ([], m, [])
  | n + 1 =>
    let r := memRead m w
    let t := memReads r.2.2.1 (w + 4) n
    ((r.1, r.2.1) :: t.1, t.2.1, r.2.2.2 ++ t.2.2)

/-- Writes whole words; a poisoned word is written with the poison marker (R280). -/
def memWrites (m : Mem) (w : Nat) : List (Word × Bool) → Mem
  | [] => m
  | (d, p) :: r => memWrites (memPutWord m w d (if p then 0x7F else 0)) (w + 4) r

/-- Bytes of words, in address order (R5). -/
def wordBytes (l : List (Word × Bool)) : List Byte := l.flatMap fun e => leBytes 4 e.1.toNat

/-- Whole words of a byte string, the last one filled with zeros. -/
def byteWords : List Byte → List Word
  | [] => []
  | [a] => [BitVec.ofNat 32 (leNat [a])]
  | [a, b] => [BitVec.ofNat 32 (leNat [a, b])]
  | [a, b, c] => [BitVec.ofNat 32 (leNat [a, b, c])]
  | a :: b :: c :: d :: r => BitVec.ofNat 32 (leNat [a, b, c, d]) :: byteWords r

/-! ## Contexts of the machine -/

def streamAt (s : State) (c : Nat) : Stream := getAt {} c s.streams
def setStream (c : Nat) (v : Stream) (s : State) : State := { s with streams := putAt c v s.streams }
def sqAt (s : State) (n : Nat) : SubRing := getAt {} n s.cmd.sq
def cqAt (s : State) (n : Nat) : ComRing := getAt {} n s.cmd.cq
def mrAt (s : State) (n : Nat) : MetaRing := getAt {} n s.cmd.mr
def setSq (n : Nat) (v : SubRing) (s : State) : State := { s with cmd := { s.cmd with sq := putAt n v s.cmd.sq } }
def setCq (n : Nat) (v : ComRing) (s : State) : State := { s with cmd := { s.cmd with cq := putAt n v s.cmd.cq } }
def setMr (n : Nat) (v : MetaRing) (s : State) : State := { s with cmd := { s.cmd with mr := putAt n v s.cmd.mr } }
def coreAt (s : State) (n : Nat) : Core := getAt {} n s.cores
def setCore (n : Nat) (v : Core) (s : State) : State := { s with cores := putAt n v s.cores }
def decAt (s : State) (n : Nat) : VidEngine := getAt {} n s.decEng
def setDec (n : Nat) (v : VidEngine) (s : State) : State := { s with decEng := putAt n v s.decEng }
def prepAt (s : State) (n : Nat) : VidEngine := getAt {} n s.prepEng
def setPrep (n : Nat) (v : VidEngine) (s : State) : State := { s with prepEng := putAt n v s.prepEng }
def encAt (s : State) (n : Nat) : EncEngine := getAt {} n s.encEng
def setEnc (n : Nat) (v : EncEngine) (s : State) : State := { s with encEng := putAt n v s.encEng }
def poolAt (s : State) (n : Nat) : Pool := getAt {} n s.pools
def setPort (n : Nat) (v : Port) (s : State) : State := { s with ports := putAt n v s.ports }
def destAt (s : State) (n : Nat) : DgDest := getAt {} n s.dests
def setDest (n : Nat) (v : DgDest) (s : State) : State := { s with dests := putAt n v s.dests }
def netAt (s : State) (n : Nat) : Option Network := findAt n s.nets
def setNet (n : Nat) (v : Network) (s : State) : State := { s with nets := putAt n v s.nets }
def setWc (n : Nat) (v : WorkCounter) (s : State) : State := { s with wcs := putAt n v s.wcs }
def wcAt (s : State) (n : Nat) : WorkCounter := getAt {} n s.wcs
/-- Sends something. -/
def send (o : Output) (s : State) : State := { s with out := o :: s.out }

/-- A posted write to host memory; a link in L1 returns to L0 for it (R351). -/
def hostWrite (addr : Nat) (bytes : List Byte) (s : State) : State :=
  { s with out := .hostWrite (BitVec.ofNat 64 addr) bytes :: s.out,
           link := { s.link with state := if s.link.state = .l1 then .l0 else s.link.state, txL0s := false } }

/-- A write to host memory cut into Memory Writes (R347): `n` bounds their number. Each ends at a multiple of 128 bytes or at
the end, so that none is longer than Max Payload Size, whatever the host has set it to, and none crosses a 4 KiB boundary;
that the cuts lie there is DESIGN CHOICE (notes/assumptions/69.md). -/
def hostPieces : Nat → Nat → List Byte → List (Nat × List Byte)
  | 0, _, _ => []
  | n + 1, a, l =>
    let k := 128 - a % 128
    if l.isEmpty then [] else (a, l.take k) :: hostPieces n (a + k) (l.drop k)

/-- Writes bytes to host memory in as many Memory Writes as they take. -/
def hostWrites (addr : Nat) (bytes : List Byte) (s : State) : State :=
  (hostPieces bytes.length addr bytes).foldl (fun s p => hostWrite p.1 p.2 s) s

/-! ## Fault records (R300 to R302, R322) -/

/-- Bytes in the staging ring: records and capture sets not yet copied (R302). -/
def stagingBytes (s : State) : Nat := 256 * s.flt.staging.length + 8192 * s.flt.captures.length

/-- SEQ after `n` (R300): 1 to 0x7FFF_FFFF, then 1 again. -/
def nextSeqAfter (n : Word) : Word := if n == 0x7FFFFFFF then 1 else n + 1

/-- An event that takes the always-on regulator out of LOW: FULL follows 50 µs later (R331). -/
def leaveLow (s : State) : State :=
  if s.pwr.aonLow && !s.pwr.leaving then
    { s with pwr := { s.pwr with leaving := true, fullAt := some (s.now + 62500) } }
  else s

/-- The regulator enters LOW (R331): Recess, AON_LOW_EN, nothing to copy to the PSRAM, and D3hot or L1.2. -/
def enterLow (s : State) : State :=
  if s.pwr.recess && s.pwr.aonLowEn && s.flt.staging.isEmpty && s.flt.captures.isEmpty && s.pwr.exit_.isNone
      && !s.pwr.leaving && (s.link.d3hot || s.link.state == .l12) then { s with pwr := { s.pwr with aonLow := true } }
  else s

/-- PM_PME in D3hot (R353): the link returns to L0, a PM_PME message is sent, PME_Status stays 1. With the link in
Detect no message can go. -/
def pmeD3hot (s : State) : State :=
  if s.link.d3hot then
    if s.link.state = .detect ∨ s.link.state = .l2 then { s with link := { s.link with pmeStatus := true } }
    else leaveLow { s with link := { s.link with pmeStatus := true, state := .l0 }, out := .pmPme :: s.out }
  else s

/-- The fault recorder writes a record (R300, R302): SCOPE 0 is dropped while the staging ring is 75 % full. `r` gives
code, scope, unit, context, slot, layer, network, shift, body, and the MERGED and REPLAY flags. -/
def recordFault (r : FaultRec) (s : State) : State :=
  if r.scope == 0 ∧ 786432 ≤ stagingBytes s then
    { s with flt := { s.flt with dropped := satAdd s.flt.dropped 1, lostNext := true } }
  else
    let rec_ : FaultRec := { r with
      seq := s.flt.nextSeq
      fflags := r.fflags ||| (if s.flt.lostNext then 8 else 0)
      step := BitVec.ofNat 64 (mgmtStep s)
      round := s.bell.roundSeq
      roundFc := BitVec.ofNat 32 (roundFc s)
      d := BitVec.ofNat 32 s.bell.shift }
    let s := { s with flt := { s.flt with
      staging := s.flt.staging ++ [rec_]
      lastSeq := s.flt.nextSeq
      nextSeq := nextSeqAfter s.flt.nextSeq
      lostNext := false
      new_ := s.flt.new_ || decide (3 ≤ r.scope.toNat) } }
    let s := leaveLow s
    if 3 ≤ r.scope.toNat then updateWire (pmeD3hot (hwSet 0x250000 0 s)) else s

/-- UNIT of R300. -/
def unitCode (kind index : Nat) : BitVec 16 := BitVec.ofNat 16 (kind * 4096 + index)

/-- CTX of R300 with CTX_VALID. -/
def ctxCode (c : BitVec 12) : BitVec 16 := BitVec.ofNat 16 (0x8000 + c.toNat)

/-- A record of a platform event. -/
def faultSimple (code scope : Nat) (s : State) : State :=
  recordFault { code := BitVec.ofNat 16 code, scope := BitVec.ofNat 8 scope } s

/-- Every record held, oldest first (R302). -/
def faultsHeld (s : State) : List FaultRec := s.flt.psram ++ s.flt.staging

/-! ## Error reports (R281) -/

/-- The pseudo-channel of a DPA (R274). -/
def pcOf (a : Nat) : Nat :=
  (bitsOf a 14 8) ^^^ (bitsOf a 21 15) ^^^ (bitsOf a 28 22) ^^^ (bitsOf a 35 29) ^^^ (bitsOf a 36 36)

/-- granule_index of R274. -/
def granuleIndex (a : Nat) : Nat := bitsOf a 36 15

/-- First DPA of the Granary (R269). -/
def granaryBase : Nat := 0x8000000000

/-- Instance key: memory code, and bank, pseudo-channel or core. -/
def eccInstance (memory addr : Nat) : Nat :=
  match memory with
  | 0 => (addr - granaryBase) / 0x800000
  | 1 => 1000 + pcOf addr
  | m => 2000 + 1000 * m + addr / 0x100000

/-- UNIT of a memory record: 10 memory, index the instance's own number. -/
def eccUnit (memory addr : Nat) : BitVec 16 :=
  match memory with
  | 0 => unitCode 10 ((addr - granaryBase) / 0x800000)
  | 1 => unitCode 10 (pcOf addr)
  | _ => unitCode 10 (addr / 0x100000)

/-- BODY of a memory record (R300). -/
def eccBody (s : State) (count : Nat) : List Byte :=
  leBytes 4 (s.mem.lastAddr.toNat % 2 ^ 32)
    ++ leBytes 4 (s.mem.lastAddr.toNat / 2 ^ 32 + 256 * s.mem.lastMemory.toNat + 65536 * b2n s.mem.lastUnc)
    ++ leBytes 4 (s.mem.lastSyn.toNat + 256 * s.mem.lastBit.toNat) ++ leBytes 4 count

/-- Reports one error (R281): counters, MEM_ECC_LAST, and the records of the first corrected error and of 256 of one
instance in a management step. `addr` is a DPA, or core * 2^20 + byte offset. `scope` is 0 where an error ends in poisoned
data, and 4 where it starts a compute reset (R304), whose start writes the record with its capture set. -/
def reportEcc (memory : Nat) (scope : Nat) (s : State) (e : EccEvent) : State :=
  let k := eccKind e.syn
  let last (bit : Nat) (unc : Bool) (s : State) : State := { s with mem := { s.mem with
    lastAddr := BitVec.ofNat 40 e.addr, lastMemory := BitVec.ofNat 8 memory, lastUnc := unc, lastSyn := e.syn,
    lastBit := BitVec.ofNat 6 bit } }
  let inst := eccInstance memory e.addr
  let before := match findAt inst s.mem.ceStep with
    | some (st, n) => if st = mgmtStep s then n else 0
    | none => 0
  match k with
  | .clean => s
  | .marker => { s with mem := { s.mem with marker := satAdd s.mem.marker 1 } }
  | .corrected b =>
    let s := last b false { s with mem := { s.mem with
      ce := satAdd s.mem.ce 1
      ceStep := putAt inst (mgmtStep s, before + 1) s.mem.ceStep } }
    let s := if before = 0 then
      recordFault { code := 0x0402, scope := 0, unit := eccUnit memory e.addr, body := eccBody s 1 } s else s
    if before + 1 = 256 then
      recordFault { code := 0x0403, scope := 0, unit := eccUnit memory e.addr, body := eccBody s 256 } s else s
  | .uncorrectable =>
    let s := last 0 true { s with mem := { s.mem with ue := satAdd s.mem.ue 1 } }
    if scope = 4 then s
    else recordFault { code := 0x0401, scope := BitVec.ofNat 8 scope, unit := eccUnit memory e.addr, body := eccBody s 1 } s

/-- Reports several errors. -/
def reportEccs (memory scope : Nat) (es : List EccEvent) (s : State) : State := es.foldl (reportEcc memory scope) s

/-! ## Device physical addresses (R269, R274, R283, R284) -/

/-- Where a DPA lies. -/
inductive DpaRegion where
  | hbm | granary | reserved
  deriving DecidableEq, Repr

def dpaRegion (a : Nat) : DpaRegion :=
  if a < 0x1800000000 then .hbm
  else if granaryBase ≤ a ∧ a < granaryBase + 0x20000000 then .granary
  else .reserved

/-- The granules of 32 KiB block `b` of the substitute area whose own pc is not `p`, ascending (R283). -/
def substGranules (p b : Nat) : List Nat :=
  ((List.range 128).map fun i => 0x17C0000000 + b * 32768 + i * 256).filter fun a => pcOf a != p

/-- Redirection of R283 while the substitute mapping is in force. -/
def redirect (s : State) (a : Nat) : Nat :=
  if s.mem.substActive ∧ s.mem.substPending = none ∧ pcOf a = s.mem.substPc.toNat then
    let g := granuleIndex a
    (substGranules s.mem.substPc.toNat (g / 127)).getD (g % 127) a + a % 256
  else a

/-- The mirror page of an image's weight page (R284). -/
def mirrorOf (s : State) (a : Nat) : Option Nat :=
  (s.nets.findSome? fun e => (e.2.pages.zip e.2.mirror).find? fun pm => pm.1 = a / 0x200000).map fun pm =>
    pm.2 * 0x200000 + a % 0x200000

/-- The physical address that serves a read of HBM, or none while its pseudo-channel is lost and the boundary has not
come (R283); weight reads go to the mirror from the decision on (R284). -/
def readAddr (s : State) (a : Nat) : Option Nat :=
  if dpaRegion a == .hbm then
    let lost := s.mem.substActive && decide (pcOf a = s.mem.substPc.toNat)
    if lost && s.mem.mirrorReads && (mirrorOf s a).isSome then mirrorOf s a
    else if lost && s.mem.substPending.isSome then none
    else some (redirect s a)
  else some a

/-- The memory code of a DPA (R299). -/
def dpaMemory (a : Nat) : Nat := if dpaRegion a == .hbm then 1 else 0

/-- Counts an uncorrectable error against its pseudo-channel for R283: 64 within 125 management steps lose it. -/
def notePcUe (a : Nat) (s : State) : State :=
  if dpaRegion a == .hbm then
    let times := (getAt [] (pcOf a) s.mem.pcUe).filter fun t => mgmtStep s ≤ t + 124
    { s with mem := { s.mem with pcUe := putAt (pcOf a) (mgmtStep s :: times) s.mem.pcUe } }
  else s

/-- The loss decision of R283: record, SUBST_ACTIVE, PC_LOST_EVENT; a second loss before the next power-on writes
FC_PC_LOST_SECOND and takes the device OUT_OF_SERVICE (R284, R314). -/
def losePc (p : Nat) (s : State) : State :=
  if s.mem.substActive then
    if s.mem.substPc.toNat = p then s
    else
      let s := recordFault { code := 0x0405, scope := 5, unit := unitCode 10 p } s
      if s.flt.oos then s
      else { s with flt := { s.flt with oos := true, oosCause := 0x405, oosPending := true } }
  else
    let s := { s with mem := { s.mem with
      substActive := true, substPc := BitVec.ofNat 7 p,
      substPending := some (BitVec.ofNat 7 p), mirrorReads := true, pcLostEvent := true } }
    updateWire (recordFault { code := 0x0404, scope := 0, unit := unitCode 10 p } (hwSet 0x210000 12 s))

/-- Reports the errors of DPA reads, with the pseudo-channel count of R283. -/
def reportDpa (scope : Nat) (es : List EccEvent) (s : State) : State :=
  es.foldl (fun s e =>
    let s := reportEcc (dpaMemory e.addr) scope s e
    if eccKind e.syn = .uncorrectable then
      let s := notePcUe e.addr s
      if dpaRegion e.addr == .hbm ∧ 64 ≤ (getAt [] (pcOf e.addr) s.mem.pcUe).length then losePc (pcOf e.addr) s else s
    else s) s

/-- An access to a reserved DPA (R269). -/
def faultDpa (s : State) : State := recordFault { code := 0x0406, scope := 0, unit := unitCode 10 0 } s

/-- Reads `n` words from word-aligned DPA `a`: words with their poison, and the state after reports and write-backs. -/
def dpaReads (scope : Nat) (a : Nat) : Nat → State → List (Word × Bool) × State
  | 0, s => ([], s)
  | n + 1, s =>
    let one : (Word × Bool) × State :=
      if dpaRegion a == .reserved then ((0, true), faultDpa s)
      else match readAddr s a with
        | none => ((0, true), s)
        | some p =>
          let r := memRead s.mem.dpa p
          ((r.1, r.2.1), reportDpa scope r.2.2.2 { s with mem := { s.mem with dpa := r.2.2.1 } })
    let t := dpaReads scope (a + 4) n one.2
    (one.1 :: t.1, t.2)

/-- Writes words at word-aligned DPA `a`; a write to a reserved DPA is discarded and recorded (R269). -/
def dpaWrites (a : Nat) : List (Word × Bool) → State → State
  | [], s => s
  | (d, p) :: r, s =>
    let s := if dpaRegion a == .reserved then faultDpa s
      else
        let phys := if dpaRegion a == .hbm then redirect s a else a
        { s with mem := { s.mem with dpa := memPutWord s.mem.dpa phys d (if p then 0x7F else 0) } }
    dpaWrites (a + 4) r s

/-- Bytes at a DPA, with whether any word of them is poisoned. -/
def dpaBytes (scope : Nat) (a n : Nat) (s : State) : List Byte × Bool × State :=
  let w := a / 4 * 4
  let r := dpaReads scope w (ceilDiv (a + n - w) 4) s
  (((wordBytes r.1).drop (a - w)).take n, r.1.any (·.2), r.2)

/-- Stores a byte string from a word-aligned DPA. -/
def dpaStore (a : Nat) (l : List Byte) (s : State) : State :=
  dpaWrites a ((byteWords l).map fun w => (w, false)) s

/-! ## Replies (R27, R28, R33 to R37, R51) -/

/-- Interpreted by Bailiff: management and maintenance opcodes (R38). -/
def mgmtOpcode (op : Byte) : Bool := decide (op.toNat < 0x40) || decide (0x80 ≤ op.toNat)

/-- The 32 bytes of a reply (R35). -/
def replyBytes (r : Reply) (phase : Bool) (sqHead : Nat) : List Byte :=
  leBytes 2 r.tag.toNat ++ leBytes 2 r.status.toNat ++ [r.opcode]
    ++ [BitVec.ofNat 8 (r.ring.toNat + 64 * b2n r.interim + 128 * b2n phase)]
    ++ leBytes 2 (r.ctx.toNat + 4096 * r.state.toNat) ++ leBytes 2 sqHead
    ++ [BitVec.ofNat 8 (b2n r.late + 2 * b2n r.stateValid), r.detail]
    ++ leBytes 4 r.round.toNat ++ leBytes 2 r.steps.toNat ++ [0, 0] ++ leBytes 12 r.result.toNat

/-- Entries of a ring. -/
def ringSize (log2 : BitVec 4) : Nat := 2 ^ log2.toNat

/-- R349: an entry written to a ring whose INT_EN is 1. -/
def noteEntry (s : State) : State :=
  { s with glb := { s.glb with
    entries := s.glb.entries + 1
    timerStart := if s.glb.entries = 0 then some s.now else s.glb.timerStart } }

/-- A completion ring can take an entry now: enabled, a credit held (R27), no parked write, host memory reachable. -/
def cqReady (s : State) (n : Nat) : Bool :=
  let c := cqAt s n
  c.enable && decide (0 < c.credit) && !c.parked && hostUp s

/-- Writes one reply into completion ring `n` (R27, R347): one credit, tail and phase advance, interrupt cause. -/
def writeReply (n : Nat) (r : Reply) (s : State) : State :=
  let c := cqAt s n
  let s := hostWrite (c.base.toNat + 32 * c.tail) (replyBytes r c.phase (sqAt s r.ring.toNat).head) s
  let wrap := decide (c.tail + 1 = ringSize c.sizeLog2)
  let s := setCq n { c with
    tail := if wrap then 0 else c.tail + 1
    phase := if wrap then !c.phase else c.phase
    credit := c.credit - 1 } s
  if c.intEn then
    updateWire (noteEntry (hwSet (0x20 + 4 * (n / 32)) (n % 32)
      { s with glb := { s.glb with cqCause := s.glb.cqCause ||| (1#64 <<< n) } }))
  else s

/-- The replies that a completion ring holds; while they are 64 or more its submission rings are not fetched (R28). -/
def holdReplies (now : Nat) (l : List Reply) (c : ComRing) : ComRing :=
  match c.fullFrom with
  | none => { c with held := l, fullFrom := if 64 ≤ l.length then some now else none }
  | some t => if 64 ≤ l.length then { c with held := l } else { c with held := l, fullFrom := none, fullFor := c.fullFor + (now - t) }

/-- For how long completion ring `n` has kept fetching stopped up to now (R28). -/
def fullTime (s : State) (n : Nat) : Nat :=
  let c := cqAt s n
  c.fullFor + (match c.fullFrom with | some t => s.now - t | none => 0)

/-- Writes held replies in order while credits last (R28); the others stay held. -/
def drainReplies (n : Nat) : List Reply → State → State
  | [], s => setCq n (holdReplies s.now [] (cqAt s n)) s
  | r :: rs, s =>
    if cqReady s n then drainReplies n rs (writeReply n r s)
    else setCq n (holdReplies s.now (r :: rs) (cqAt s n)) s

/-- Tries the held replies of completion ring `n` again. -/
def flushCq (n : Nat) (s : State) : State := drainReplies n (cqAt s n).held s

/-- A reply arises: it joins the held replies of the completion ring its submission ring names now, and is written if a
credit is held. DESIGN CHOICE (notes/assumptions/30.md): R30 does not say where the replies of commands go that were fetched
before their submission ring was disabled and its CQ_SEL written anew; they go to the ring that CQ_SEL names when they arise. -/
def pushReply (r : Reply) (s : State) : State :=
  let n := (sqAt s r.ring.toNat).cqSel.toNat
  drainReplies n ((cqAt s n).held ++ [r]) s

/-- Tries every completion ring again, after credit or the host has returned. -/
def flushAllCq (s : State) : State := (s.cmd.cq.map (·.1)).foldl (fun s n => flushCq n s) s

/-- The reply to an outstanding command as it is written: identity, LATE, STEPS (R35, R36). -/
def finalOf (o : Outstanding) (r : Reply) (now : Nat) : Reply :=
  { r with tag := o.tag, ring := o.ring, opcode := o.opcode, late := o.interim,
           steps := if mgmtOpcode o.opcode then BitVec.ofNat 16 (min 0xFFFF (ceilDiv (now - o.published) 1000000)) else 0 }

/-- Writes the replies of one ring that may be written: those of data-plane commands, and those of management commands
that no earlier management command of the ring still precedes (R51). -/
def releaseReplies (ring : BitVec 6) : List Outstanding → Bool → State → State
  | [], _, s => s
  | o :: os, blocked, s =>
    if o.ring = ring then
      match o.cause with
      | .ready r =>
        if mgmtOpcode o.opcode && blocked then
          releaseReplies ring os blocked { s with cmd := { s.cmd with outstanding := s.cmd.outstanding ++ [o] } }
        else if o.quiet && !mgmtOpcode o.opcode && r.status == 0 then releaseReplies ring os blocked s
        else releaseReplies ring os blocked (pushReply (finalOf o r s.now) s)
      | _ => releaseReplies ring os (blocked || mgmtOpcode o.opcode)
               { s with cmd := { s.cmd with outstanding := s.cmd.outstanding ++ [o] } }
    else releaseReplies ring os blocked { s with cmd := { s.cmd with outstanding := s.cmd.outstanding ++ [o] } }

/-- Goes through the outstanding commands once. -/
def releaseRing (ring : BitVec 6) (s : State) : State :=
  releaseReplies ring s.cmd.outstanding false { s with cmd := { s.cmd with outstanding := [] } }

/-- Opcodes that name a stream (R38). -/
def namesStream (op : Byte) : Bool :=
  [0x08, 0x09, 0x0A, 0x0B, 0x0C, 0x0F, 0x14, 0x40].contains op.toNat

/-- Fills in the stream context and its state after the command (R35). -/
def withStream (op : Byte) (c : BitVec 12) (r : Reply) (s : State) : Reply :=
  if namesStream op then
    { r with ctx := c, state := BitVec.ofNat 4 (stateCode (streamAt s c.toNat).state), stateValid := true }
  else r

/-- Sets the final reply of the oldest command with this ring and tag that has none. -/
def markReady (ring : BitVec 6) (tag : BitVec 16) (r : Reply) (s : State) : List Outstanding → List Outstanding
  | [] => []
  | o :: os =>
    let isOpen : Bool := match o.cause with | .ready _ => false | _ => true
    if o.ring = ring ∧ o.tag = tag ∧ isOpen then { o with cause := .ready (withStream o.opcode o.ctx r s) } :: os
    else o :: markReady ring tag r s os

/-- The final reply of an outstanding command arises (R36). -/
def finish (cmd : BitVec 6 × BitVec 16) (r : Reply) (s : State) : State :=
  releaseRing cmd.1 { s with cmd := { s.cmd with outstanding := markReady cmd.1 cmd.2 r s s.cmd.outstanding } }

/-- Several commands end with the same reply. -/
def finishAll (cmds : List (BitVec 6 × BitVec 16)) (r : Reply) (s : State) : State :=
  cmds.foldl (fun s c => finish c r s) s

/-- The final reply of every command that waits for one cause. -/
def finishCause (w : WaitCause) (r : Reply) (s : State) : State :=
  finishAll ((s.cmd.outstanding.filter fun o => decide (o.cause = w)).map fun o => (o.ring, o.tag)) r s

/-- ST_OK with a result. -/
def okWith (result : Nat) : Reply := { result := BitVec.ofNat 96 result }

/-- A status with DETAIL. -/
def failWith (status detail : Nat) : Reply := { status := BitVec.ofNat 16 status, detail := BitVec.ofNat 8 detail }

/-- Whether a command with this ring and tag has no final reply written yet (R34): outstanding, or its reply held. -/
def tagBusy (s : State) (ring : BitVec 6) (tag : BitVec 16) : Bool :=
  s.cmd.outstanding.any (fun o => o.ring == ring && o.tag == tag)
    || s.cmd.cq.any (fun e => e.2.held.any fun r => r.ring == ring && r.tag == tag && !r.interim)

/-- Whether an earlier packet of the ring has no final reply written yet (R33). -/
def ringBusy (s : State) (ring : BitVec 6) : Bool :=
  s.cmd.outstanding.any (fun o => o.ring == ring)
    || s.cmd.cq.any (fun e => e.2.held.any fun r => r.ring == ring && !r.interim)

/-- Management and maintenance commands outstanding across the device (R37). -/
def mgmtOutstanding (s : State) : Nat :=
  (s.cmd.outstanding.filter fun o => mgmtOpcode o.opcode).length
    + ((s.cmd.cq.map fun e => (e.2.held.filter fun r => mgmtOpcode r.opcode && !r.interim).length).foldl (· + ·) 0)

/-! ## Device states -/

/-- The device enters OUT_OF_SERVICE with a cause (R314); the first cause stays. -/
def enterOos (code : Nat) (s : State) : State :=
  if s.flt.oos then s
  else { s with flt := { s.flt with oos := true, oosCause := BitVec.ofNat 12 code, oosPending := true } }

/-- A unit's request reaches a switched domain other than a core's (R325, R329): one that is off goes on, WAKES counts,
and its retention ends; one that has been asked to go off refuses. -/
def wakeDomain (d : Nat) (s : State) : State :=
  if s.pwr.on.contains d then
    match findAt d s.pwr.hs with
    | some h => { s with pwr := { s.pwr with hs := putAt d { h with accessed := true } s.pwr.hs } }
    | none => s
  else { s with pwr := { s.pwr with
    on := insNat d s.pwr.on
    retained := s.pwr.retained.filter (· ≠ d)
    wakes := satAdd s.pwr.wakes 1 } }

/-- Draws the number of a fresh free value. -/
def drawFree (s : State) : Nat × State := (s.free, { s with free := s.free + 1 })

/-! ## Real-time ports (R277) -/

/-- Whether a buffer level raises panic, and whether it clears it. -/
def raisesPanic (p v : Nat) : Bool :=
  if p < 3 then decide (0x60000 ≤ v) else if p < 35 then decide (v < 0x8000) else decide (v < 0x6000)
def clearsPanic (p v : Nat) : Bool :=
  if p < 3 then decide (v < 0x40000) else if p < 35 then decide (0x10000 ≤ v) else decide (0xC000 ≤ v)

/-- The buffer of port `p` stands at a level: panic is raised or cleared, and MEM_PANIC counts the raising. -/
def setLevel (p v : Nat) (s : State) : State :=
  let o := getAt ({} : RtPort) p s.mem.rtPorts
  let panic := if o.panic then !clearsPanic p v else raisesPanic p v
  { s with mem := { s.mem with
    rtPorts := putAt p { level := v, panic } s.mem.rtPorts
    panics := satAdd s.mem.panics (b2n (panic && !o.panic)) } }

/-- A port is in panic. -/
def inPanic (s : State) : Bool := s.mem.rtPorts.any fun e => e.2.panic

/-! ## Transmission on the ports (R86, R87) -/

/-- Byte `i` of an IP address. -/
def ipByte (a : BitVec 128) (i : Nat) : Nat := bitsOf a.toNat (8 * i + 7) (8 * i)

/-- The first `n` bits of an IP address. -/
def ipPrefix (v6 : Bool) (a : BitVec 128) (n : Nat) : Nat :=
  let k := if v6 then 16 else 4
  ((List.range k).foldl (fun v i => 256 * v + ipByte a i) 0) / 2 ^ (8 * k - n)

/-- A group address. -/
def isGroup (v6 : Bool) (a : BitVec 128) : Bool := if v6 then ipByte a 0 == 0xFF else ipByte a 0 / 16 == 14

/-- The next hop to a destination (R87): itself on the link, else the gateway or the router learned; 0 where there is none. -/
def nextHop (s : State) (n : Nat) (v6 : Bool) (dst : BitVec 128) : BitVec 128 :=
  let p := portAt s n
  let own : BitVec 128 := if v6 then p.ipv6 else p.ipv4.setWidth 128
  let len := if v6 then p.prefix6 else p.prefix4
  let linkLocal := v6 && ipPrefix true dst 10 == 0x3FA
  if isGroup v6 dst || linkLocal || (own != 0 && ipPrefix v6 dst len == ipPrefix v6 own len) then dst
  else if v6 then p.router6 else p.gateway4.setWidth 128

/-- The VLAN of a port's own traffic (R87). -/
def portVlan (s : State) (n : Nat) : Option (BitVec 12) :=
  let v := (portAt s n).vlan
  if v.getLsbD 12 then some (v.setWidth 12) else none

/-- The header of a frame for a destination. -/
def txHeader (s : State) (n : Nat) (v6 : Bool) (dst : BitVec 128) : TxHeader :=
  { port := n, vlan := portVlan s n, hop := nextHop s n v6 dst }

/-- A port's transmit side is held by a PAUSE (R86). -/
def txPaused (s : State) (n : Nat) : Bool := decide (s.now < (portAt s n).pauseUntil)

/-- Bailiff sends a frame on a port whose link is up; during a PAUSE it waits. -/
def sendControl (n : Nat) (k : ControlOut) (s : State) : State :=
  let p := portAt s n
  let h : TxHeader := { port := n, vlan := portVlan s n }
  if !p.linkUp then s
  else if txPaused s n then setPort n { p with held := p.held ++ [(h, k)] } s
  else send (.control h k) s

/-- The frames that waited for the end of a PAUSE are sent. -/
def releaseTx (n : Nat) (s : State) : State :=
  let p := portAt s n
  if txPaused s n || p.held.isEmpty then s
  else p.held.foldl (fun s e => send (.control e.1 e.2) s) (setPort n { p with held := [] } s)

/-! ## Memories that no DPA reaches (R18, R302, R367) -/

/-- Where byte `a` of the PSRAM map lies: its device, and its address there (R394). -/
def psramPlace (a : Nat) : Nat × Nat := (bitsOf a 12 12, bitsOf a 25 13 * 4096 + bitsOf a 11 0)

/-- Bytes written into the PSRAM store. -/
def psramStore (a : Nat) (l : List Byte) (s : State) : State :=
  { s with psram := memWrites s.psram a ((byteWords l).map fun w => (w, false)) }

/-- Other contents of a memory, which the specification does not give. -/
def freshContents (m : Mem) : Mem := { id := m.id, gen := m.gen + 1 }

/-! ## Cycles (R11) -/

/-- The registers as they stand, for the events of one fc to be told from what was there before. -/
def startOf (s : State) : Cycle :=
  { cmd := s.cmd, ports := s.ports, pools := s.pools, decEng := s.decEng, prepEng := s.prepEng, encEng := s.encEng
    cores := s.cores, bell := s.bell, trk := s.trk, mem := s.mem, flt := s.flt, pwr := s.pwr, tel := s.tel, fw := s.fw }

/-- The registers as they stood when the present fc began, with no event in it. -/
def back (s : State) : State :=
  let c := s.cyc
  { s with
    cmd := c.cmd, ports := c.ports, pools := c.pools, decEng := c.decEng, prepEng := c.prepEng, encEng := c.encEng
    cores := c.cores, bell := c.bell, trk := c.trk, mem := c.mem, flt := c.flt, pwr := c.pwr, tel := c.tel, fw := c.fw
    cyc := { c with sets := [], peaks := [] } }

/-! ## Poison met by a unit (R207) -/

/-- A unit whose action has not finished meets poison. -/
def meetPoison (u : UnitId) (b : Bool) (s : State) : State :=
  if b && s.bell.actions.any (fun a => a.unit == u) && !s.bell.met.contains u then
    { s with bell := { s.bell with met := s.bell.met ++ [u] } }
  else s

end Sys2Proof.Machine
end

