-- ==== Sys2Proof/Machine/Operands.lean ====
section
/-! DEFINITION. Machine/Operands.lean: the operands of command packets (R31), the checks of R32 with the parameter
tables of every opcode (R38), fetching (R25, R28, R33, R37), and reply deadlines (R36, R38). -/

namespace Sys2Proof.Machine

/-- A number of `n` bytes at packet offset `o`, 8 or above (R5, R31). -/
def param (p : Packet) (o n : Nat) : Nat := (p.params.toNat >>> (8 * (o - 8))) % 2 ^ (8 * n)

/-- The parameter bytes at packet offsets [o, o + n). -/
def paramBytes (p : Packet) (o n : Nat) : List Byte := (List.range n).map fun i => BitVec.ofNat 8 (param p (o + i) 1)

/-- A packet that the device has fetched: identity, publication instant (R2), packet, and whether it has waited in the
order of its ring (R51). The instant is later by the time that the packet stood unfetched for want of credit, which counts
against no reply time (R28). -/
structure Fetched where
  ring : BitVec 6
  tag : BitVec 16
  opcode : Byte
  ctx : BitVec 12
  quiet : Bool
  published : Nat
  p : Packet
  interim : Bool := false
  queued : Bool := false
  deriving DecidableEq, Repr

/-- FENCE and QUIET (R31). -/
def pktFence (p : Packet) : Bool := p.flags.getLsbD 0
def pktQuiet (p : Packet) : Bool := p.flags.getLsbD 1

/-! ## Parameter tables -/

/-- A check of one field: packet offset and what is wrong. -/
abbrev FieldCheck := Nat × (Packet → Bool)

/-- The bits `mask` of an `n`-byte field are reserved. -/
def rsvBits (o n mask : Nat) : FieldCheck := (o, fun p => param p o n &&& mask != 0)
/-- Every bit of an `n`-byte field is reserved. -/
def rsvAll (o n : Nat) : FieldCheck := (o, fun p => param p o n != 0)
/-- The field lies in [lo, hi]. -/
def inRange (o n lo hi : Nat) : FieldCheck := (o, fun p => decide (param p o n < lo) || decide (hi < param p o n))
/-- The field is a multiple of `m`. -/
def multipleOf (o n m : Nat) : FieldCheck := (o, fun p => param p o n % m != 0)

/-- Host buffer parameters of R38; `mask` holds the reserved bits of ARG. -/
def hostBuffer (mask : Nat) : List FieldCheck := [multipleOf 8 8 256, multipleOf 16 4 256, rsvBits 20 4 mask]

/-- Picture profiles of R121. -/
def profiles : List Nat := [0x11, 0x12, 0x13, 0x21, 0x22, 0x31, 0x41]

/-- Port modes of R85. -/
def portModes : List Nat := [0x00, 0x01, 0x05, 0x02, 0x06, 0x0A]

/-- Largest TARGET of each TEST (R319). -/
def testTargets : List Nat := [15, 127, 0, 31, 15, 7, 15]

/-- Segments of each TEST (R319). -/
def testSegments : List Nat := [1, 20, 16, 1, 1, 1, 1]

def checksPort0 : List FieldCheck :=
  [inRange 9 1 0 1, (10, fun p => !portModes.contains (param p 10 1)), rsvAll 11 1, inRange 12 2 1280 9000,
   rsvBits 14 2 0xE000, inRange 20 1 0 32, inRange 21 1 0 128, rsvAll 22 2, rsvAll 44 12]

def checksPort1 : List FieldCheck :=
  [inRange 9 1 0 1, rsvBits 10 1 0xC0, rsvBits 11 1 0xFC,
   (16, fun p => param p 11 1 % 2 == 0 && param p 20 12 != 0), rsvBits 32 1 0xC0, rsvAll 33 23]

def checksOpen : List FieldCheck :=
  let host (p : Packet) : Bool := param p 8 1 == 2
  let v4 (p : Packet) : Bool := param p 10 1 % 2 == 0
  [inRange 8 1 0 2, inRange 9 1 0 3,
   (10, fun p => param p 10 1 &&& 0xE0 != 0 || param p 10 1 &&& 0x18 == 0), rsvBits 11 1 0xC0,
   (12, fun p => host p && param p 12 2 != 0), (14, fun p => host p && param p 14 2 != 0),
   (16, fun p => host p && param p 16 4 != 0),
   (20, fun p => if host p then param p 20 16 != 0 else v4 p && param p 24 12 != 0),
   (36, fun p => if host p then param p 36 16 != 0 else v4 p && param p 40 12 != 0),
   (52, fun p => if host p then param p 52 2 != 0 else param p 52 2 &&& 0xE000 != 0),
   (54, fun p => if host p then param p 54 1 != 0 else decide (127 < param p 54 1)), rsvAll 55 1]

def checksAdmit : List FieldCheck :=
  [inRange 8 2 16 8192, inRange 10 2 16 4320, inRange 16 4 1000 120000,
   (20, fun p => !profiles.contains (param p 20 1)),
   (21, fun p => !(param p 21 1 == 8 || (param p 21 1 == 10 && (param p 20 1 == 0x22 || param p 20 1 == 0x31)))),
   rsvAll 23 1, rsvAll 26 2,
   (28, fun p => (List.range 8).all fun i => param p (28 + 2 * i) 2 == 0xFFFF)]

def checksKey : List FieldCheck :=
  [inRange 8 1 0 3, inRange 9 1 0 1, rsvBits 10 1 0xFE, rsvAll 11 1, rsvBits 12 8 0xFFFF000000000000, multipleOf 24 8 256,
   inRange 32 4 64 256, rsvAll 36 20]

def checksSheaf : List FieldCheck :=
  inRange 8 2 0 511 :: (List.range 8).map fun i =>
    (10 + 2 * i, fun p => param p (10 + 2 * i) 2 != 0xFFFF && param p (10 + 2 * i) 2 &&& 0xF000 != 0)

def checksClip : List FieldCheck :=
  [(12, fun p => decide (param p 12 4 < param p 8 4) || decide (param p 8 4 + 4095 < param p 12 4)),
   inRange 16 1 0 1, (17, fun p => param p 17 1 &&& 0x80 != 0 || param p 17 1 &&& 0x30 == 0), inRange 18 1 0 51,
   (19, fun p => decide (param p 19 1 < param p 18 1) || decide (51 < param p 19 1)), inRange 20 1 8 64, rsvAll 21 3,
   multipleOf 32 8 256, rsvAll 40 16]

def checksSelftest : List FieldCheck :=
  [inRange 8 1 0 6, rsvBits 9 1 0xFE, (10, fun p => decide (testTargets.getD (param p 8 1) 0 < param p 10 2)),
   rsvAll 12 4]

def checksArm : List FieldCheck :=
  [rsvBits 8 1 0xF8, rsvAll 9 1,
   (10, fun p => !(param p 10 2 == 0 || (decide (10 ≤ param p 10 2) && decide (param p 10 2 ≤ 3600))))]

def checksJob : List FieldCheck :=
  [inRange 10 1 0 7, rsvAll 11 1, (12, fun p => param p 12 4 != 0 && decide (param p 12 4 < 200)),
   multipleOf 16 8 256, multipleOf 24 4 256, multipleOf 28 4 256, multipleOf 32 8 256, inRange 40 2 1 65535, rsvAll 42 6]

/-- Bytes of the core memories of R46 and R18, MEMORY 2 to 6. -/
def coreMemBytes : List Nat := [0, 0, 0x100000, 0x80000, 0x40000, 2048, 0x10000]

def checksInject : List FieldCheck :=
  [inRange 8 1 0 6, inRange 9 1 0 2, inRange 10 1 0 38,
   (11, fun p => if param p 9 1 == 1 then decide (38 < param p 11 1) || param p 11 1 == param p 10 1
                 else param p 11 1 != 0),
   (12, fun p => if param p 8 1 < 2 then param p 12 1 != 0 else decide (127 < param p 12 1)), rsvAll 13 3,
   multipleOf 16 8 4]

/-- Parameter checks of an opcode in ascending packet offset (R32 check 6). -/
def fieldChecks (op : Nat) (p : Packet) : List FieldCheck :=
  match op with
  | 0x02 => hostBuffer 0xFFFFFFFF
  | 0x03 => hostBuffer 0
  | 0x06 => match param p 8 1 with
    | 0 => checksPort0
    | 1 => checksPort1
    | _ => [(8, fun _ => true)]
  | 0x08 => checksOpen
  | 0x09 => checksAdmit
  | 0x0B => hostBuffer 0xFFFFFFFF
  | 0x0C => checksKey
  | 0x0D => checksSheaf
  | 0x0E => [rsvBits 8 2 0xFE00]
  | 0x10 => hostBuffer 0xFFFF0000
  | 0x11 => [inRange 8 2 1 0x40]
  | 0x12 => [inRange 8 1 0 2, rsvBits 9 1 0xFC, inRange 10 1 1 16, rsvAll 11 1]
  | 0x14 => checksClip
  | 0x15 => [rsvAll 10 2]
  | 0x18 => checksSelftest
  | 0x1C => [inRange 8 1 0 1, rsvAll 9 3]
  | 0x20 => hostBuffer 0xFFFFFFFE
  | 0x21 => checksArm
  | 0x22 => [inRange 8 1 0 1, rsvAll 9 3]
  | 0x40 => [inRange 16 4 1 0xFFFFFFFF, rsvBits 32 4 0xFFFFFFFE]
  | 0x41 => checksJob
  | 0x42 => [rsvBits 10 1 0xC0, rsvAll 11 1]
  | 0x48 => [inRange 8 1 0 1, rsvBits 9 1 0xC0, rsvAll 10 2, inRange 12 4 1 32768]
  | 0x81 => [(8, fun p => param p 8 8 % 8 != 0 || decide (0x20000000 ≤ param p 8 8))]
  | 0x82 => checksInject
  | _ => []

/-- Parameter length of each opcode of R38; MAINT_ECHO takes any length up to 56. -/
def paramLength : List (Nat × Nat) :=
  [(0x01, 0), (0x02, 16), (0x03, 16), (0x06, 48), (0x08, 48), (0x09, 36), (0x0A, 0), (0x0B, 16), (0x0C, 48),
   (0x0D, 18), (0x0E, 2), (0x0F, 2), (0x10, 16), (0x11, 2), (0x12, 4), (0x14, 48), (0x15, 4), (0x18, 8), (0x19, 0),
   (0x1C, 4), (0x1D, 0), (0x20, 16), (0x21, 4), (0x22, 4), (0x40, 28), (0x41, 40), (0x42, 4), (0x48, 8), (0x80, 56),
   (0x81, 8), (0x82, 16), (0x83, 0)]

/-- The opcode is one of R38. -/
def assignedOp (op : Byte) : Bool := (findAt op.toNat paramLength).isSome

/-- Maintenance opcodes (R38). -/
def maintOp (op : Byte) : Bool := decide (0x80 ≤ op.toNat) && decide (op.toNat < 0xC0)

/-- R32 check 5: header fields in ascending packet offset. -/
def headerChecks (p : Packet) : List (Nat × Bool) :=
  [(1, p.flags.toNat &&& 0xFC != 0 || (pktQuiet p && mgmtOpcode p.opcode)),
   (4, (!namesStream p.opcode && p.ctx != 0) || p.ctx.toNat &&& 0xF000 != 0),
   (7, p.rsv != 0)]

/-- R32 check 6: parameter fields, then the reserved bytes past LENGTH. -/
def paramVerdicts (p : Packet) : List (Nat × Bool) :=
  ((fieldChecks p.opcode.toNat p).map fun c => (c.1, c.2 p))
    ++ (List.range 56).map fun i => (8 + i, decide (p.length.toNat ≤ i) && param p (8 + i) 1 != 0)

/-- The status of the first check of R32 that fails, with DETAIL. -/
def packetCheck (s : State) (ring : BitVec 6) (p : Packet) : Option Reply :=
  if tagBusy s ring p.tag then some (failWith 0x0102 0)
  else if !assignedOp p.opcode then some (failWith 0x0100 0)
  else if maintOp p.opcode && !s.cmd.maintEn then some (failWith 0x0103 0)
  else
    let want := getAt 0 p.opcode.toNat paramLength
    if (if p.opcode == 0x80 then decide (56 < p.length.toNat) else p.length.toNat != want) then
      some (failWith 0x0101 want)
    else match (headerChecks p).find? (·.2) with
      | some (o, _) => some (failWith 0x0100 o)
      | none => match (paramVerdicts p).find? (·.2) with
        | some (o, _) => some (failWith 0x0100 o)
        | none => none

/-! ## Fetching -/

/-- Reply deadline of R38, in fc from the doorbell. -/
def deadlineOf (s : State) (p : Packet) : Nat :=
  let r := roundLen s
  1000000 * (match p.opcode.toNat with
    | 0x01 => 1 | 0x03 => 4 | 0x09 => 5 | 0x0A => 3 | 0x0D => 3 | 0x0E => 3
    | 0x10 => 4 + ceilDiv (param p 16 4) 0x4000000
    | 0x1C => 10 | 0x1D => 50 | 0x20 => 40000 | 0x21 => 4 | 0x22 => 10
    | 0x80 => 1 | 0x81 => 1 | 0x83 => 1
    | _ => 2)
  + (match p.opcode.toNat with
    | 0x09 => r | 0x0A => 3 * r + 125000 | 0x0D => r | 0x0E => r | 0x12 => r | 0x22 => r
    | 0x18 => (testSegments.getD (param p 8 1) 1 + 1) * r
    | _ => 0)

/-- Bailiff takes commands: not while the cluster is held in reset, and from the quiesce of R376 on only FW_ACTIVATE,
which joins the pending switch (R375). -/
def bailiffTakes (s : State) (op : Byte) : Bool := !s.fw.clusterReset && (!s.fw.quiesced || op == 0x22)

/-- Fetches the packet at the head (R25). -/
def fetch (ring : BitVec 6) (s : State) : State :=
  let q := sqAt s ring.toNat
  setSq ring.toNat { q with head := (q.head + 1) % ringSize q.sizeLog2, times := q.times.drop 1 } s

/-- The command of a fetched packet. -/
def fetchedOf (s : State) (ring : BitVec 6) (p : Packet) : Fetched :=
  { ring, tag := p.tag, opcode := p.opcode, ctx := p.ctx.setWidth 12, quiet := pktQuiet p,
    published := (match (sqAt s ring.toNat).times with
      | (t, w) :: _ => t + (fullTime s (sqAt s ring.toNat).cqSel.toNat - w)
      | [] => s.now), p }

/-- A command that is fetched and has not begun to execute. -/
def isQueued (o : Outstanding) : Bool := match o.cause with | .queued _ => true | _ => false

/-- A command joins the outstanding commands: behind those of its ring that were fetched before it, and so, where it has
left the queue to execute (`first`), ahead of those of its ring that have not begun (R51). -/
def joinOut (first : Bool) (n : Outstanding) : List Outstanding → List Outstanding
  | [] => [n]
  | o :: r => if first && o.ring == n.ring && isQueued o then n :: o :: r else o :: joinOut first n r

/-- The command of `f` joins the outstanding commands, waiting for `cause`. -/
def wait_ (f : Fetched) (cause : WaitCause) (s : State) : State :=
  let o : Outstanding := {
    ring := f.ring, tag := f.tag, opcode := f.opcode, ctx := f.ctx, published := f.published
    deadline := f.published + deadlineOf s f.p, interim := f.interim, quiet := f.quiet, cause }
  { s with cmd := { s.cmd with outstanding := joinOut f.queued o s.cmd.outstanding } }

/-- The command of `f` is answered: its reply waits only for the replies before it (R51). R35 does not list the commands that
have a ROUND; one executed at once is answered with the default 0xFFFF_FFFF (DESIGN CHOICE, notes/assumptions/90.md). -/
def answer (f : Fetched) (r : Reply) (s : State) : State :=
  releaseRing f.ring (wait_ f (.ready (withStream f.opcode f.ctx r s)) s)

/-- A management command has not ended its execution. -/
def executing (o : Outstanding) : Bool :=
  mgmtOpcode o.opcode && (match o.cause with | .ready _ => false | _ => true)

/-- Commands with CTX 0 that change device configuration. -/
def configOp (op : Byte) : Bool := [0x06, 0x0D, 0x0E, 0x10, 0x11, 0x12, 0x19, 0x1C, 0x1D, 0x20, 0x21, 0x22].contains op.toNat

/-- Whether a management command waits for an earlier one (R51): one of its ring, one that names the same stream, or
both change device configuration. A STREAM_CLOSE ends the pending admission of its stream (R50), and a
FW_ACTIVATE joins the pending switch (R375). -/
def waitsFor (o : Outstanding) (ring : BitVec 6) (op : Byte) (ctx : BitVec 12) : Bool :=
  executing o && !(op == 0x0A && o.opcode == 0x09 && o.ctx == ctx && o.cause == .boundary) && !(op == 0x22 && o.cause == .switching)
    && (o.ring == ring || (namesStream o.opcode && namesStream op && o.ctx == ctx) || (configOp o.opcode && configOp op))

/-- Commands that keep the order of the doorbell writes across rings: those that name a stream, and those with CTX 0 that
change device configuration (R51). -/
def ordered (op : Byte) : Bool := namesStream op || configOp op

/-- Another ring holds packets that an earlier doorbell write published and that are not fetched: what they name is not
known yet, so an ordered packet waits for them (R51). -/
def earlierElsewhere (s : State) (ring : BitVec 6) (p : Packet) : Bool :=
  let mine := ((sqAt s ring.toNat).times.headD (s.now, 0)).1
  ordered p.opcode && s.cmd.sq.any fun e => e.1 != ring.toNat && e.2.enable && e.2.head != e.2.tail &&
    (match e.2.times with | (t, _) :: _ => decide (t < mine) | [] => false)

/-- An AU_PUSH waits for the commands of other rings that name its stream, were fetched before it, and have not begun
(R51). -/
def pushWaits (s : State) (ring : BitVec 6) (p : Packet) : Bool :=
  p.opcode == 0x40 && s.cmd.outstanding.any fun o =>
    o.ring != ring && isQueued o && namesStream o.opcode && o.ctx == p.ctx.setWidth 12

/-- Whether the packet at the head of ring `ring` can be fetched now: published packets, READY (R359), host memory
reachable, no class 0 park (R293), fewer than 64 replies held unless it is a RING_CREDIT (R28), FENCE satisfied (R33),
fewer than 256 management commands outstanding (R37), Bailiff taking commands (R376), and the order of R51 across rings
(notes/assumptions/25.md). -/
def fetchable (s : State) (ring : BitVec 6) (p : Packet) : Bool :=
  let q := sqAt s ring.toNat
  q.enable && q.head != q.tail && s.glb.ready && hostUp s && !q.parked
    && (decide ((cqAt s q.cqSel.toNat).held.length < 64) || p.opcode == 0x48)
    && (!pktFence p || !ringBusy s ring)
    && (!mgmtOpcode p.opcode || (decide (mgmtOutstanding s < 256) && bailiffTakes s p.opcode))
    && !earlierElsewhere s ring p && !pushWaits s ring p

/-- A management command that has been fetched waits for another. -/
def mustQueue (s : State) (f : Fetched) : Bool :=
  mgmtOpcode f.opcode && s.cmd.outstanding.any fun o => waitsFor o f.ring f.opcode f.ctx

/-- The command of packet `p` that has been fetched on ring `ring` and waits to execute. -/
def queuedAs (s : State) (ring : BitVec 6) (p : Packet) : Option Outstanding :=
  s.cmd.outstanding.find? fun o => o.ring == ring && o.cause == .queued p

/-- The link is lost: what would go to host memory cannot (R39, R357). -/
def hostLost (s : State) : Bool := s.link.state == .detect || s.link.state == .l2 || !s.slot.present

/-- Commands whose output goes to a host buffer (R39). -/
def writesHost (op : Byte) : Bool := [0x02, 0x03, 0x0B].contains op.toNat

/-- Whether a queued command's turn to execute has come: across rings the earlier doorbell write goes first (R51). One
that writes host memory waits while the host is only not to be reached for the moment (D3hot, Bus Master Enable 0). -/
def queueTurn (s : State) (q : Outstanding) : Bool :=
  let ahead := s.cmd.outstanding.takeWhile fun o => !(o.ring == q.ring && o.cause == q.cause)
  let before := s.cmd.outstanding.filter fun o => !isQueued o || (o.ring != q.ring && decide (o.published < q.published))
  let ahead := ahead.filter fun o => o.ring == q.ring || decide (o.published ≤ q.published)
  bailiffTakes s q.opcode && (!writesHost q.opcode || hostUp s || hostLost s)
    && !(ahead ++ before).any fun o => waitsFor o q.ring q.opcode q.ctx

/-- Takes a queued command out of the outstanding commands. -/
def unqueue (ring : BitVec 6) (p : Packet) : List Outstanding → List Outstanding
  | [] => []
  | o :: r => if o.ring = ring ∧ o.cause = .queued p then r else o :: unqueue ring p r

/-- One packet: not fetched while it cannot be (`s` unchanged), answered with the first check of R32 that fails, queued
behind the management command of its ring that executes, and otherwise executed. A queued packet executes when its turn
has come. `mine` tells the packets of the row: a packet of another row is another command. -/
def packetStep (mine : Packet → Bool) (ring : BitVec 6) (p : Packet) (body : Fetched → State → State)
    (s : State) : Res :=
  if assignedOp p.opcode && !mine p then .fault .notThisCommand
  else match queuedAs s ring p with
  | some o =>
    if !queueTurn s o then .next s
    else
      let f : Fetched := { ring, tag := o.tag, opcode := o.opcode, ctx := o.ctx, quiet := o.quiet
                           published := o.published, p, interim := o.interim, queued := true }
      .next (body f { s with cmd := { s.cmd with outstanding := unqueue ring p s.cmd.outstanding } })
  | none =>
    if !fetchable s ring p then .next s
    else
      let f := fetchedOf s ring p
      match packetCheck s ring p with
      | some r => .next (answer f r (fetch ring s))
      | none =>
        let s := fetch ring s
        .next (if mustQueue s f then wait_ f (.queued p) s else body f s)

/-- The row of one opcode. -/
def ofOp (op : Byte) (p : Packet) : Bool := p.opcode == op

/-- A row of PORT_CONFIG, FW_STAGE, FW_ARM or FW_ACTIVATE: `sel` is the value of its selector, bits `mask` of the field
at `o`; `top` is the largest defined selector, above which either row answers the packet. -/
def ofKind (op : Byte) (o n mask sel top : Nat) (p : Packet) : Bool :=
  p.opcode == op && (param p o n &&& mask == sel || decide (top < param p o n &&& mask))

/-- Stream context of a fetched packet. -/
def fCtx (f : Fetched) : Nat := f.ctx.toNat

/-- The answer of a command whose output goes to a host buffer: ST_HOST_FAULT with the code HOST_LINK of R297 where the
link is lost, and otherwise the posted write and `r` (R39). -/
def answerWrite (f : Fetched) (r : Reply) (addr : Nat) (bytes : List Byte) (s : State) : State :=
  if bytes.isEmpty then answer f r s
  else if hostLost s then answer f (failWith 0x0104 5) s
  else answer f r (hostWrites addr bytes s)

/-- ST_STATE with the stream's present state (R53). -/
def stState (s : State) (c : Nat) : Reply := failWith 0x0200 (stateCode (streamAt s c).state)

/-- ST_RECESS (R335) or ST_OUT_OF_SERVICE (R315), for the commands those rules list. -/
def deviceRefuses (recess oos : Bool) (s : State) : Option Reply :=
  if recess && s.pwr.recess then some (failWith 0x0201 0)
  else if oos && s.flt.oos then some (failWith 0x0202 0)
  else none

end Sys2Proof.Machine
end

