-- ==== Sys2Proof/Machine/Streams.lean ====
section
/-! DEFINITION. Machine/Streams.lean: operations on streams that several commands share: buffer pools (R116 to R119),
records on their way to the host (R27, R28, R54, R248), stream events (R47, R251), the end of clips (R266, R267), and
what happens when a stream gives up its reservation (R49, R91, R99, R114, R243). -/

namespace Sys2Proof.Machine

/-! ## Buffer pools -/

/-- Blocks of each pool and blocks reserved per admitted stream (R116). -/
def poolTotal (n : Nat) : Nat := [65536, 131072, 256, 4096].getD n 0
def poolReserve (n : Nat) : Nat := [8, 16, 0, 0].getD n 0

/-- First DPA and block size of each pool (R116, R270). -/
def poolBase (n : Nat) : Nat := granaryBase + [0, 16 * 0x800000, 17 * 0x800000, 19 * 0x800000].getD n 0
def poolBlock (n : Nat) : Nat := [2048, 64, 65536, 4096].getD n 1

/-- Blocks that an owner holds. -/
def poolOwned (p : Pool) (owner : Nat) : Nat := (p.used.filter fun e => e.2 = owner).length

/-- Blocks of its own reservation that stream `c` does not use. -/
def poolSpare (s : State) (n c : Nat) : Nat :=
  if holds (streamAt s c).state then poolReserve n - poolOwned (poolAt s n) c else 0

/-- Free blocks that no admitted stream's reservation keeps back (R84, R116). -/
def poolShared (s : State) (n : Nat) : Nat :=
  (poolTotal n - (poolAt s n).used.length) - ((s.streams.map fun e => poolSpare s n e.1).foldl (· + ·) 0)

/-- Stage of R118 for an occupancy, from the present stage: raised at 75, 90 and 97 %, cleared below 70, 85, 92 %. -/
def poolStage (n used stage : Nat) : Nat :=
  let t := poolTotal n
  let raised := if 97 * t ≤ 100 * used then 3 else if 90 * t ≤ 100 * used then 2 else if 75 * t ≤ 100 * used then 1 else 0
  let kept := if 92 * t ≤ 100 * used then 3 else if 85 * t ≤ 100 * used then 2 else if 70 * t ≤ 100 * used then 1 else 0
  max raised (min stage kept)

/-- Sets a pool's used blocks: stage, high water and the GLB pool cause follow (R118, R120). -/
def setPoolUsed (n : Nat) (used : List (Nat × Nat)) (s : State) : State :=
  let p := poolAt s n
  let st := poolStage n used.length p.stage
  let s := hwPeak (0x230004 + 0x20 * n) used.length
    { s with pools := putAt n { p with used, stage := st, highWater := max p.highWater used.length } s.pools }
  if st ≠ p.stage then updateWire (hwSet 0x10 4 { s with glb := { s.glb with poolCause := true } }) else s

/-- The highest stage raised in any pool (R118). -/
def maxStage (s : State) : Nat := (s.pools.map fun e => e.2.stage).foldl max 0

/-- Lowest-numbered free blocks (R117): `count` of them from the ascending used list, searched from `from_`. -/
def freeBlocks : List (Nat × Nat) → Nat → Nat → List Nat
  | _, _, 0 => []
  | [], from_, count => (List.range count).map (from_ + ·)
  | (b, _) :: r, from_, count =>
    let gap := min count (b - from_)
    (List.range gap).map (from_ + ·) ++ freeBlocks r (b + 1) (count - gap)

/-- Allocates `count` blocks of pool `n` for an owner: its own reservation first, then the shared blocks (R116). With
too few, POOL_DROP counts the failed allocation (R119). -/
def poolAlloc (n owner count : Nat) (s : State) : Option (List Nat) × State :=
  let p := poolAt s n
  if count ≤ poolSpare s n owner + poolShared s n ∧ p.used.length + count ≤ poolTotal n then
    let bs := freeBlocks p.used 0 count
    (some bs, setPoolUsed n (bs.foldl (fun m b => putAt b owner m) p.used) s)
  else (none, { s with pools := putAt n { p with drop := satAdd p.drop 1 } s.pools })

/-- Frees blocks; a block that is already free is ignored and logged (R117). -/
def poolFree (n : Nat) (blocks : List Nat) (s : State) : State :=
  let bad := blocks.filter fun b => (findAt b (poolAt s n).used).isNone
  let s := if blocks.isEmpty then s
    else setPoolUsed n (blocks.foldl (fun m b => dropAt b m) (poolAt s n).used) s
  bad.foldl (fun s _ => recordFault { code := 0x0306, scope := 0, unit := unitCode 10 n } s) s

/-! ## Records (R27, R28, R54, R247, R248) -/

/-- Credits that records of a metadata ring can use now: none while host memory cannot be reached, in D3hot (R352),
while a write is parked (R293), or while the ring is disabled. -/
def mrUsable (s : State) (n : Nat) : Nat :=
  let m := mrAt s n
  if m.enable && !m.parked && hostUp s then m.credit else 0

/-- Starts and ends the wait for credit of queued records (R28, R54): the first `avail` credits serve the oldest. -/
def waitRecords (now avail : Nat) : List QRec → List QRec × Nat
  | [] => ([], 0)
  | q :: r =>
    let need := if q.ext.isSome then 2 else 1
    if need ≤ avail then
      let t := waitRecords now (avail - need) r
      ((match q.waitFrom with
        | some w => { q with waited := q.waited + (now - w), waitFrom := none }
        | none => q) :: t.1, t.2)
    else
      let t := waitRecords now 0 r
      (match q.waitFrom with
        | some _ => (q :: t.1, t.2)
        | none => ({ q with waitFrom := some now } :: t.1, t.2 + (if q.waited = 0 then 1 else 0)))

/-- Applies the credit a metadata ring has now to its queue; each record newly delayed counts in CMD_MR_STALL. -/
def refreshMr (n : Nat) (s : State) : State :=
  let m := mrAt s n
  let r := waitRecords s.now (mrUsable s n) m.queue
  setMr n { m with queue := r.1, stall := satAdd m.stall r.2 } s

def refreshAllMr (s : State) : State := (s.cmd.mr.map (·.1)).foldl (fun s n => refreshMr n s) s

/-- Counts a dropped record of a stream (R119): the report counts it, and the stream's next record says so (R248). -/
def dropRecord (c : Nat) (s : State) : State :=
  let st := streamAt s c
  setStream c { st with lostFlag := true, cnt := { st.cnt with recordsDropped := satNat st.cnt.recordsDropped 1 } } s

/-- Sets RECORDS_LOST of an observation record when the stream lost records (R248). -/
def markLost (lost : Bool) (bytes : List Byte) : List Byte :=
  if lost && bytes.head? == some 1 then
    (bytes.take 25) ++ [(bytes.getD 25 0) ||| 0x10] ++ bytes.drop 26
  else bytes

/-- Stores a record and its extension in their blocks of the metadata pool. -/
def storeRecord (bytes : List Byte) (ext : Option (List Byte)) (bs : List Nat) (s : State) : State :=
  let s := dpaStore (poolBase 1 + poolBlock 1 * bs.headD 0) bytes s
  match ext with
  | some e => dpaStore (poolBase 1 + poolBlock 1 * bs.getD 1 0) e s
  | none => s

/-- Puts one copy of a record in the ring's queue, with a block of the metadata pool for each 64 bytes. -/
def enqueueRing (c : Nat) (bytes : List Byte) (born : Option Nat) (ext : Option (List Byte)) (s : State) : State :=
  let n := (streamAt s c).op.mr.toNat
  match poolAlloc 1 c (if ext.isSome then 2 else 1) s with
  | (none, s) => dropRecord c s
  | (some bs, s) =>
    let s := storeRecord bytes ext bs s
    let m := mrAt s n
    refreshMr n (setMr n { m with queue := m.queue ++
      [{ ctx := BitVec.ofNat 12 c, bytes, born, made := s.now, block := bs.headD 0,
         ext := ext.map fun e => (e, bs.getD 1 0) }] } s)

/-- Puts one copy of a record in the datagram queue of its ring's destination (R88, R252). -/
def enqueueDatagram (c : Nat) (bytes : List Byte) (born : Option Nat) (ext : Option (List Byte)) (s : State) : State :=
  let n := (streamAt s c).op.mr.toNat
  match poolAlloc 1 c (if ext.isSome then 2 else 1) s with
  | (none, s) => setDest n { destAt s n with lost := (destAt s n).lost + 1 } (dropRecord c s)
  | (some bs, s) =>
    let s := storeRecord bytes ext bs s
    let d := destAt s n
    setDest n { d with queue := d.queue ++
      [{ ctx := BitVec.ofNat 12 c, bytes, born, made := s.now, block := bs.headD 0,
         waitFrom := if d.resolved then none else some s.now,
         ext := ext.map fun e => (e, bs.getD 1 0) }] } s

/-- A record of stream `c` enters egress: a copy to its ring, a copy as datagram while a destination is enabled (R88),
each with RECORDS_LOST of R248. -/
def enqueueRecord (c : Nat) (bytes : List Byte) (born : Option Nat) (ext : Option (List Byte)) (s : State) : State :=
  let st := streamAt s c
  let bytes' := markLost st.lostFlag bytes
  let s := if bytes.head? == some 1 && st.lostFlag then setStream c { st with lostFlag := false } s else s
  let s := if st.op.toRing then enqueueRing c bytes' born ext s else s
  if st.op.asUdp && (destAt s st.op.mr.toNat).enable then enqueueDatagram c bytes' born ext s else s

/-- Records of stream `c` that wait in its ring's or destination's queue. -/
def recordsWaiting (s : State) (c : Nat) : Nat :=
  let n := (streamAt s c).op.mr.toNat
  ((mrAt s n).queue.filter fun q => q.ctx.toNat = c).length + ((destAt s n).queue.filter fun q => q.ctx.toNat = c).length

/-! ## Stream events (R47, R48, R251) -/

/-- A stream event record (R251). -/
def eventBytes (s : State) (c event detail faultSeq data : Nat) : List Byte :=
  let st := streamAt s c
  [3, 0] ++ leBytes 2 c ++ [BitVec.ofNat 8 event, BitVec.ofNat 8 (stateCode st.state)] ++ leBytes 2 detail
    ++ leBytes 4 s.bell.roundSeq.toNat ++ leBytes 4 (st.cnt.frameSeq - 1) ++ leBytes 2 st.shedRank.toNat ++ [0, 0]
    ++ leBytes 4 faultSeq ++ leBytes 8 data ++ List.replicate 32 0

/-- Reports an event that is no transition. -/
def streamEvent (c event detail data : Nat) (s : State) : State :=
  enqueueRecord c (eventBytes s c event detail 0 data) none none s

/-- LTR: 10 µs while any stream holds a reservation, else 3 ms; reported when that changes (R351). -/
def reportLtr (before : Bool) (s : State) : State :=
  if anyHolds s == before || !linkSpeaks s then s else send (.ltr (if before then 3000000 else 10000)) s

/-- The bytes are those of a stream event record of a state transition (R251). -/
def isTransition (b : List Byte) : Bool :=
  b.head? == some 3 && decide (1 ≤ (b.getD 4 0).toNat) && decide ((b.getD 4 0).toNat ≤ 4)

/-- The record of an earlier transition of the stream in this round is not sent: only the transition that takes precedence
is reported (R48). -/
def supersede (c : Nat) (s : State) : State :=
  let n := (streamAt s c).op.mr.toNat
  let stale (q : QRec) : Bool :=
    q.ctx.toNat == c && s.bell.running && isTransition q.bytes && numAt q.bytes 8 4 == s.bell.roundSeq.toNat
  let m := mrAt s n
  let d := destAt s n
  let blocks := ((m.queue.filter stale) ++ (d.queue.filter stale)).map (·.block)
  if blocks.isEmpty then s
  else poolFree 1 blocks (setDest n { d with queue := d.queue.filter fun q => !stale q }
    (setMr n { m with queue := m.queue.filter fun q => !stale q } s))

/-- A transition that a stream event record reports: state, LAST_EVENT, LAST_ROUND, record, and the GLB cause for SHED
and FAULTED (R47, R48). -/
def transition (c : Nat) (dest : StreamState) (event detail faultSeq : Nat) (s : State) : State :=
  let st := streamAt s c
  let s := reportLtr (anyHolds s)
    (setStream c { st with state := dest, lastEvent := BitVec.ofNat 8 event, lastRound := s.bell.roundSeq } s)
  let s := enqueueRecord c (eventBytes s c event detail faultSeq 0) none none (supersede c s)
  if dest == .shed || dest == .faulted then updateWire (hwSet 0x10 3 { s with glb := { s.glb with streamCause := true } })
  else s

/-- A transition that a reply reports; LAST_EVENT is then 0 (R45, R251). -/
def transitionByReply (c : Nat) (dest : StreamState) (s : State) : State :=
  reportLtr (anyHolds s)
    (setStream c { streamAt s c with state := dest, lastEvent := 0, lastRound := s.bell.roundSeq } s)

/-! ## Clips (R266, R267) -/

/-- A clip report record (R267). -/
def clipReport (s : State) (k : Clip) (outcome detail : Nat) : List Byte :=
  [4, 0] ++ leBytes 2 k.ctx.toNat ++ leBytes 2 k.num.toNat ++ [BitVec.ofNat 8 outcome, BitVec.ofNat 8 detail]
    ++ leBytes 4 k.firstSeq ++ leBytes 4 k.lastSeq ++ leBytes 4 k.pictures ++ leBytes 8 k.bytes ++ leBytes 2 k.capped
    ++ leBytes 2 k.floored ++ leBytes 2 k.concealed ++ leBytes 2 k.dropped ++ leBytes 4 s.bell.roundSeq.toNat
    ++ List.replicate 24 0

/-- Replaces a clip by number. -/
def setClip (k : Clip) (s : State) : State := { s with clips := s.clips.map fun j => if j.num = k.num then k else j }

/-- Whether a transfer serves clip `num` (R292, R293). -/
def ofClip (num : Nat) (t : Transfer) : Bool := (t.cls == 5 || t.cls == 7) && t.owner.toNat % 0x10000 == num

/-- Host-ingest blocks of a transfer: only one from host memory holds them. -/
def ingestOf (d : BitVec 512) (blocks : List Nat) : List Nat := if d.toNat % 256 = 2 then blocks else []

/-- Ends every transfer for which `p` holds: queued, running or parked; its host-ingest blocks are freed. -/
def killTransfers (p : Transfer → Bool) (pr : ParkRecord → Bool) (s : State) : State :=
  let gone := (s.mem.host.flatMap fun e => e.2.filter p) ++ (s.mem.bulk.flatMap fun e => e.2.filter p)
  let goneP := s.mem.parks.filter fun e => pr e.2
  let s := { s with mem := { s.mem with
    host := s.mem.host.map fun e => (e.1, e.2.filter fun t => !p t)
    bulk := s.mem.bulk.map fun e => (e.1, e.2.filter fun t => !p t)
    parks := s.mem.parks.filter fun e => !pr e.2 } }
  poolFree 3 ((gone.flatMap fun t => ingestOf t.desc t.blocks) ++ goneP.flatMap fun e => ingestOf e.2.desc e.2.blocks) s

/-- Whether any transfer of a clip is queued, running or parked. -/
def clipMoves (num : Nat) (s : State) : Bool :=
  s.mem.host.any (fun e => e.2.any (ofClip num)) || s.mem.bulk.any (fun e => e.2.any (ofClip num))
    || s.mem.parks.any fun e => (e.2.cls == 5 || e.2.cls == 7) && e.2.owner.toNat % 0x10000 == num

/-- A clip that has ended is forgotten, and its last clip segment blocks are free, once its coded pictures have left. -/
def clipSweep (num : Nat) (s : State) : State :=
  match s.clips.find? fun k => k.num.toNat == num && k.ended && k.packets.isEmpty with
  | none => s
  | some k =>
    if clipMoves num s then s
    else poolFree 2 k.segBlocks { s with clips := s.clips.filter fun j => j.num != k.num }

/-- A clip ends with an outcome (R266, R267): report record, working buffers and engine freed, the cancel answered. A
retiring encode engine is retired when its clip ends (R80). Pictures already coded still leave, except by OUT_HOST after
HOST_FAULT. -/
def endClip (num : BitVec 16) (outcome detail : Nat) (s : State) : State :=
  match s.clips.find? fun k => k.num == num && !k.ended with
  | none => s
  | some k =>
    let s := enqueueRecord k.ctx.toNat (clipReport s k outcome detail) none none s
    let s := match k.engine with
      | some e =>
        let v := encAt s e
        setEnc e { v with clip := none, busy := false, idleFrom := s.now, retired := v.retired || v.retiring,
                          retiring := false } s
      | none => s
    let gone (d : BitVec 512) : Bool := outcome == 5 || d.toNat % 256 == 2
    let s := killTransfers (fun t => ofClip num.toNat t && gone t.desc)
      (fun r => (r.cls == 5 || r.cls == 7) && r.owner.toNat % 0x10000 == num.toNat && gone r.desc) s
    let s := { s with
      clipAreaUsed := s.clipAreaUsed - k.units
      flt := { s.flt with replaying := s.flt.replaying.filter (· != .clip num) } }
    let s := clipSweep num.toNat (setClip { k with ended := true, engine := none, cancel := false, pics := [] } s)
    finishCause (.clipEnd num.toNat) {} s

/-- Ends every clip of a stream (R267). -/
def endClipsOf (c outcome : Nat) (s : State) : State :=
  ((s.clips.filter fun k => k.ctx.toNat = c ∧ !k.ended).map (·.num)).foldl (fun s n => endClip n outcome 0 s) s

/-! ## Giving up a reservation -/

/-- Removes a stream's flow-table entry; Bailiff then tries the stash moves (R99). -/
def removeFlow (c : Nat) (s : State) : State :=
  let keep (e : Nat × BitVec 384 × BitVec 12) : Bool := e.2.2.toNat != c
  let had := s.flow.way0.any (fun e => !keep e) || s.flow.way1.any (fun e => !keep e)
    || s.flow.stash.any (fun e => e.2.toNat == c)
  { s with flow := { s.flow with
    way0 := s.flow.way0.filter keep, way1 := s.flow.way1.filter keep,
    stash := s.flow.stash.filter fun e => e.2.toNat != c
    moveDue := s.flow.moveDue || had } }

/-- An older querier counts as present on a port for one IP version (R91). -/
def legacyQuerier (s : State) (n : Nat) (v6 : Bool) : Bool :=
  decide (s.now < (if v6 then (portAt s n).mldV1Until else (portAt s n).igmpV2Until))

/-- Leaves a stream's multicast group (R40, R91), unless another stream of the port still uses the membership. -/
def leaveGroup (c : Nat) (s : State) : State :=
  let op := (streamAt s c).op
  if op.multicast && decide (op.source < 2) then
    let shared := s.streams.any fun e => e.1 != c && holds e.2.state && e.2.op.multicast && e.2.op.source == op.source
      && e.2.op.dstIp == op.dstIp && e.2.op.srcIp == op.srcIp
    if shared then s
    else
      let p := portAt s op.source
      let s := setPort op.source { p with groups := p.groups.filter fun g => g != (op.dstIp, op.srcIp) } s
      sendControl op.source (.membership op.dstIp op.srcIp false (legacyQuerier s op.source op.ipv6)) s
  else s

/-- Frees the reorder window of a stream; its incomplete access units are discarded (R49). -/
def dropWindow (c : Nat) (s : State) : State :=
  let st := streamAt s c
  let blocks := (st.ro.window.flatMap (·.blocks)) ++ (match st.ro.candidate with | some p => p.blocks | none => [])
  poolFree 0 blocks (setStream c { st with ro := { needBegin := true } } s)

/-- Ends a stream's AU_PUSH transfers with ST_STATE (R42). -/
def dropPushes (c : Nat) (s : State) : State :=
  let mine := s.cmd.outstanding.filter fun o => o.opcode == 0x40 && o.ctx.toNat == c
    && (match o.cause with | .transfer => true | _ => false)
  mine.foldl (fun s o =>
    let own := o.tag.toNat + 65536 * o.ring.toNat
    let s := killTransfers (fun t => t.cls == 3 && t.owner.toNat == own) (fun r => r.cls == 3 && r.owner.toNat == own) s
    finish (o.ring, o.tag) (stState s c) s) s

/-- A stream leaves its sheaf at the next round boundary (R114). -/
def leaveSheaf (c : Nat) (s : State) : State :=
  match (streamAt s c).sheaf with
  | none => s
  | some n => { s with bell := { s.bell with sheafLeaves := s.bell.sheafLeaves ++ [(c, n)] } }

/-- The boundary at which members have left their sheaves: one with fewer than 2 members is dissolved, and reported for the
member that remains (R114). A context is a member while its own `sheaf` names the sheaf. -/
def sheafBoundary (s : State) : State :=
  s.bell.sheafLeaves.foldl (fun s e =>
    let st := streamAt s e.1
    let s := if st.sheaf = some e.2 then setStream e.1 { st with sheaf := none } s else s
    match findAt e.2 s.sheaves with
    | none => s
    | some sh =>
      let live := sh.members.filter fun m => m.toNat != e.1 && (streamAt s m.toNat).sheaf == some e.2
      if live.length < 2 then
        live.foldl (fun s m => streamEvent m.toNat 8 e.2 0 (setStream m.toNat { streamAt s m.toNat with sheaf := none } s))
          { s with sheaves := dropAt e.2 s.sheaves }
      else { s with sheaves := putAt e.2 { sh with members := live } s.sheaves })
    { s with bell := { s.bell with sheafLeaves := [] } }

/-- Page-table fields of a DMA descriptor (R290): the address spaces of its two ends, and its translation context. -/
def descField (d : BitVec 512) (o n : Nat) : Nat := bitsOf d.toNat (8 * (o + n) - 1) (8 * o)
def descSrcSpace (d : BitVec 512) : Nat := descField d 0 1
def descDstSpace (d : BitVec 512) : Nat := descField d 1 1
def descXctx (d : BitVec 512) : Nat := descField d 2 1

/-- USE of a context is above 0 (R286): a descriptor of a live area names it. -/
def contextUsed (s : State) (x : Nat) : Bool :=
  s.bell.areas.any fun a => a.2.dma.any fun d =>
    d != 0 && descXctx d == x && (descSrcSpace d == 1 || descDstSpace d == 1)

/-- Unmaps and frees pinned memory (R271, R285). -/
def unmapHeld (h : HeldPages) (s : State) : State :=
  let lo := h.xctx * 4096
  { s with mem := { s.mem with
    usedPages := delNats h.pages s.mem.usedPages
    used4k := s.mem.used4k - h.small
    sealed := delNats h.units s.mem.sealed
    ptes := if h.pages.isEmpty then s.mem.ptes else s.mem.ptes.filter fun e => e.1 < lo || lo + 4096 ≤ e.1 } }

/-- Pinned memory is given back: at once, or once the last area that names its context has been freed (R286). -/
def giveBack (h : HeldPages) (s : State) : State :=
  if !h.pages.isEmpty && contextUsed s h.xctx then { s with mem := { s.mem with leaving := s.mem.leaving ++ [h] } }
  else unmapHeld h s

/-- The memory of those contexts that no area names any more is released. -/
def releaseHeld (s : State) : State :=
  (s.mem.leaving.filter fun h => !contextUsed s h.xctx).foldl (fun s h => unmapHeld h s)
    { s with mem := { s.mem with leaving := s.mem.leaving.filter fun h => contextUsed s h.xctx } }

/-- A stream gives back its pinned memory (R110, R286). -/
def freePinned (c : Nat) (s : State) : State :=
  let st := streamAt s c
  let s := giveBack { xctx := st.ad.xctx, pages := st.ad.pages, small := st.ad.granary4k,
                      units := st.ad.units ++ st.ad.decUnits } s
  setStream c { st with ad := { st.ad with pages := [], granary4k := 0, units := [], decUnits := [] } } s

/-- What a stream gives back when it leaves ADMITTED, RUNNING and TRUANT. Its frames that wait are listed at the next
boundary (R246), and its tracks leave there (R243); its pinned memory is released at the first boundary after which no
frame of it needs it (R20, R81). -/
def giveUp (held : Bool) (c : Nat) (s : State) : State :=
  let s := if held then leaveGroup c s else s
  let s := dropPushes c s
  let s := dropWindow c s
  let s := leaveSheaf c s
  let st := streamAt s c
  setStream c { st with clk := {}, histFree := 0 } s

/-- A stream enters SHED (R47, R79, R99): clips end first, the flow entry is removed, the event record follows. -/
def shedStream (c detail : Nat) (s : State) : State :=
  if holds (streamAt s c).state then
    let s := endClipsOf c 3 s
    let s := removeFlow c s
    giveUp true c (transition c .shed 3 detail 0 s)
  else s

/-- A stream enters FAULTED with a fault record of SCOPE 3 (R47, R304). -/
def faultStream (c : Nat) (r : FaultRec) (s : State) : State :=
  if holds (streamAt s c).state then
    let s := recordFault { r with scope := 3, ctx := ctxCode (BitVec.ofNat 12 c) } s
    let seq := s.flt.lastSeq.toNat
    let s := endClipsOf c 3 s
    giveUp true c (transition c .faulted 4 0 seq s)
  else s

/-- Streams in shedding order (R79): ascending SHED_RANK, then youngest admission first. -/
def shedBefore (a b : Nat × Stream) : Bool :=
  if a.2.shedRank ≠ b.2.shedRank then decide (a.2.shedRank < b.2.shedRank)
  else if a.2.ad.round ≠ b.2.ad.round then decide (b.2.ad.round < a.2.ad.round)
  else decide (b.2.ad.order < a.2.ad.order)

/-- The first of some streams in shedding order. -/
def firstToShed : List (Nat × Stream) → Option (Nat × Stream)
  | [] => none
  | a :: r => match firstToShed r with
    | none => some a
    | some b => if shedBefore a b then some a else some b

/-- Streams that hold a reservation. -/
def holders (s : State) : List (Nat × Stream) := s.streams.filter fun e => holds e.2.state

end Sys2Proof.Machine
end

