-- ==== Sys2Proof/Machine/Rings.lean ====
section
/-! DEFINITION. Machine/Rings.lean: rings and doorbells (R24 to R30), credits (R43), interim replies (R36), records on
their way to the host and to the ports (R27, R52, R54, R55, R247, R252, R88), and the interrupt wire's own events
(R349, R350). -/

namespace Sys2Proof.Machine

/-! ## CMD_ERR -/

/-- RING and KIND of the most recent error (R29). -/
def cmdErr (kind : RingKind) (ring : BitVec 6) (c : Cmd) : Cmd :=
  { c with errRing := ring, errKind := match kind with | .submission => 0 | .completion => 1 | .metadata => 2 }

def errCfg (k : RingKind) (r : BitVec 6) (s : State) : State :=
  updateWire (hwSet 0x10008 0 { s with cmd := cmdErr k r { s.cmd with cfgWhileEnabled := true } })
def errSize (k : RingKind) (r : BitVec 6) (s : State) : State :=
  updateWire (hwSet 0x10008 1 { s with cmd := cmdErr k r { s.cmd with badSize := true } })
def errDoorbell (r : BitVec 6) (s : State) : State :=
  updateWire (hwSet 0x10008 2 { s with cmd := cmdErr .submission r { s.cmd with doorbellRefused := true } })
def errBusy (k : RingKind) (r : BitVec 6) (s : State) : State :=
  updateWire (hwSet 0x10008 3 { s with cmd := cmdErr k r { s.cmd with disableBusy := true } })

/-! ## Doorbells (R25, R26) -/

/-- Packets of a ring published and not fetched. -/
def published (q : SubRing) : Nat :=
  (q.tail + ringSize q.sizeLog2 - q.head) % ringSize q.sizeLog2

/-- A doorbell write to submission ring `n`. -/
def doorbell (n : BitVec 6) (tail : Nat) (s : State) : State :=
  let q := sqAt s n.toNat
  let size := ringSize q.sizeLog2
  if !q.enable ∨ size ≤ tail then errDoorbell n s
  else
    let fresh := (tail + size - q.tail) % size
    if size - 1 < published q + fresh then errDoorbell n s
    else setSq n.toNat { q with tail, times := q.times ++ List.replicate fresh (s.now, fullTime s q.cqSel.toNat) } s

/-- DOORBELL_WRITE: the dword at n * 0x400 of BAR4; every other offset is reserved (R25). A request while the function
decodes none is not taken (R345). -/
def execDoorbellWrite (offset : BitVec 16) (value : Word) (s : State) : Res :=
  .next (if hostAccess s && offset.toNat % 0x400 == 0 then
    doorbell (BitVec.ofNat 6 (offset.toNat / 0x400)) (value.toNat % 0x10000) s else s)

/-! ## Ring configuration (R24, R29, R30) -/

/-- SIZE_LOG2 is in range (R29). -/
def sizeOk (k : RingKind) (size : BitVec 4) : Bool :=
  match k with
  | .submission => decide (6 ≤ size.toNat)
  | _ => decide (5 ≤ size.toNat)

/-- A CFG write's fields: ENABLE, SIZE_LOG2, CQ_SEL, INT_EN (R29). -/
def cfgEnable (w : Word) : Bool := w.getLsbD 0
def cfgSize (w : Word) : BitVec 4 := w.extractLsb' 4 4
def cfgSel (w : Word) : BitVec 6 := w.extractLsb' 8 6
def cfgInt (w : Word) : Bool := w.getLsbD 14

/-- CFG of a submission ring. -/
def cfgSq (n : BitVec 6) (w : Word) (s : State) : State :=
  let q := sqAt s n.toNat
  if q.enable then
    let s := if cfgEnable w then s else setSq n.toNat { q with enable := false } s
    if cfgSize w ≠ q.sizeLog2 ∨ cfgSel w ≠ q.cqSel then errCfg .submission n s else s
  else
    let q' := { q with sizeLog2 := cfgSize w, cqSel := cfgSel w }
    if !cfgEnable w then setSq n.toNat q' s
    else if sizeOk .submission (cfgSize w) then
      setSq n.toNat { q' with enable := true, head := 0, tail := 0, times := [], parked := false } s
    else errSize .submission n (setSq n.toNat q' s)

/-- Replies of completion ring `n` that are outstanding: held, or of commands fetched from a ring bound to it (R30). -/
def cqOutstanding (s : State) (n : Nat) : Bool :=
  !(cqAt s n).held.isEmpty || s.cmd.outstanding.any fun o => (sqAt s o.ring.toNat).cqSel.toNat == n

/-- CFG of a completion ring. -/
def cfgCq (n : BitVec 6) (w : Word) (s : State) : State :=
  let c := cqAt s n.toNat
  if c.enable then
    let s := setCq n.toNat { c with intEn := cfgInt w } s
    let s := if cfgEnable w then s
      else if s.cmd.sq.any (fun e => e.2.enable && e.2.cqSel == n) || cqOutstanding s n.toNat then errBusy .completion n s
      else setCq n.toNat { cqAt s n.toNat with enable := false } s
    if cfgSize w ≠ c.sizeLog2 then errCfg .completion n s else s
  else
    let c' := { c with sizeLog2 := cfgSize w, intEn := cfgInt w }
    if !cfgEnable w then setCq n.toNat c' s
    else if sizeOk .completion (cfgSize w) then
      flushCq n.toNat (setCq n.toNat { c' with
        enable := true, tail := 0, phase := true, credit := ringSize (cfgSize w), parked := false } s)
    else errSize .completion n (setCq n.toNat c' s)

/-- Streams that name metadata ring `n` in OPEN, ADMITTED, RUNNING, TRUANT or SHED (R30). -/
def mrNamed (s : State) (n : BitVec 6) : Bool :=
  s.streams.any fun e => e.2.op.mr == n && e.2.state != .closed && e.2.state != .faulted

/-- CFG of a metadata ring. -/
def cfgMr (n : BitVec 6) (w : Word) (s : State) : State :=
  let m := mrAt s n.toNat
  if m.enable then
    let s := setMr n.toNat { m with intEn := cfgInt w } s
    let s := if cfgEnable w then s
      else if mrNamed s n then errBusy .metadata n s
      else setMr n.toNat { mrAt s n.toNat with enable := false } s
    if cfgSize w ≠ m.sizeLog2 then errCfg .metadata n s else s
  else
    let m' := { m with sizeLog2 := cfgSize w, intEn := cfgInt w }
    if !cfgEnable w then setMr n.toNat m' s
    else if sizeOk .metadata (cfgSize w) then
      refreshMr n.toNat (setMr n.toNat { m' with
        enable := true, tail := 0, phase := true, credit := ringSize (cfgSize w), parked := false } s)
    else errSize .metadata n (setMr n.toNat m' s)

/-- A write to a ring's CFG register. -/
def cfgWrite (k : RingKind) (n : BitVec 6) (w : Word) (s : State) : State :=
  match k with
  | .submission => cfgSq n w s
  | .completion => cfgCq n w s
  | .metadata => cfgMr n w s

/-- RING_ENABLE: a CFG write that carries ENABLE (R24). -/
def execRingEnable (kind : RingKind) (ring : BitVec 6) (cfg : Word) (s : State) : Res :=
  if !cfgEnable cfg then .fault .notThisCommand
  else .next (if hostAccess s then cfgWrite kind ring cfg s else s)

/-- RING_DISABLE: a CFG write that does not carry ENABLE (R30). -/
def execRingDisable (kind : RingKind) (ring : BitVec 6) (cfg : Word) (s : State) : Res :=
  if cfgEnable cfg then .fault .notThisCommand
  else .next (if hostAccess s then cfgWrite kind ring cfg s else s)

/-! ## RING_CREDIT (R43) -/

/-- Effect of RING_CREDIT; it has no success reply (R38). -/
def ringCreditBody (f : Fetched) (s : State) : State :=
  let n := param f.p 9 1 % 64
  let count := param f.p 12 4
  if param f.p 8 1 = 0 then
    let c := cqAt s n
    if !c.enable then answer f (failWith 0x0100 9) s
    else if ringSize c.sizeLog2 < c.credit + count then answer f (failWith 0x0305 0) s
    else flushCq n (setCq n { c with credit := c.credit + count } s)
  else
    let m := mrAt s n
    if !m.enable then answer f (failWith 0x0100 9) s
    else if ringSize m.sizeLog2 < m.credit + count then answer f (failWith 0x0305 0) s
    else refreshMr n (setMr n { m with credit := m.credit + count } s)

def execRingCredit (ring : BitVec 6) (p : Packet) (s : State) : Res :=
  packetStep (ofOp 0x48) ring p ringCreditBody s

/-! ## Interim replies (R36) -/

/-- A command of this ring and tag that is past its deadline with no reply written. -/
def deadlinePast (now : Nat) (ring : BitVec 6) (tag : BitVec 16) (o : Outstanding) : Bool :=
  o.ring == ring && o.tag == tag && mgmtOpcode o.opcode && !o.interim && decide (o.deadline ≤ now)

/-- Marks the command that an interim reply answers. -/
def markInterim (now : Nat) (ring : BitVec 6) (tag : BitVec 16) : List Outstanding → List Outstanding
  | [] => []
  | o :: os => if deadlinePast now ring tag o then { o with interim := true } :: os else o :: markInterim now ring tag os

/-- REPLY_DEADLINE: the interim reply of a management command that has no final reply when its deadline passes. -/
def execReplyDeadline (ring : BitVec 6) (tag : BitVec 16) (s : State) : Res :=
  .next (match s.cmd.outstanding.find? (deadlinePast s.now ring tag) with
    | none => s
    | some o =>
      let r := withStream o.opcode o.ctx { status := 1, interim := true } s
      let r := { finalOf o r s.now with late := false }
      pushReply r { s with cmd := { s.cmd with outstanding := markInterim s.now ring tag s.cmd.outstanding } })

/-! ## Record egress (R27, R52, R54, R55, R247, R248) -/

/-- The latency bound L in fc (R60); fused records have 2R more. -/
def boundL (s : State) (bytes : List Byte) : Nat :=
  let r := roundLen s
  3 * r + 125000 + (if bytes.head? == some 1 && (bytes.getD 63 0).getLsbD 1 then 2 * r else 0)

/-- Final age of a record (R54): since completion, without the time it waited for credit or resolution. -/
def recordAge (q : QRec) (now : Nat) : Nat :=
  match q.born with
  | some t => now - t - q.waited
  | none => 0

/-- Replaces byte `i` of a record. -/
def setByteAt (l : List Byte) (i : Nat) (b : Byte) : List Byte := l.take i ++ [b] ++ l.drop (i + 1)

/-- A record as it is written: PHASE, EXT_FOLLOWS, and for an observation record LATE, AGE and WAIT (R248). -/
def finalRecord (s : State) (q : QRec) (phase : Bool) : List Byte :=
  let hdr := BitVec.ofNat 8 (b2n phase + 2 * b2n q.ext.isSome)
  let b := setByteAt q.bytes 1 hdr
  if b.head? == some 1 then
    let age := recordAge q s.now
    let b := setByteAt b 25 ((b.getD 25 0) ||| (if boundL s b < age then 1 else 0))
    b.take 48 ++ leBytes 4 (min age 0xFFFFFFFF) ++ leBytes 4 (min (q.waited / 1250) 0xFFFFFFFF) ++ b.drop 56
  else b

/-- Whether a record carries LATE when written now (R55). -/
def recordLate (s : State) (q : QRec) : Bool := q.bytes.head? == some 1 && decide (boundL s q.bytes < recordAge q s.now)

/-- Records of a round enter egress in the boundary window of the next round (R247), and so do the records of state
transitions, since a later transition of the round may take precedence (R48; notes/assumptions/68.md); others at once. -/
def egressDue (s : State) (q : QRec) : Bool :=
  !s.bell.running || (if q.bytes.head? == some 1 then decide (q.made < s.bell.roundStart)
    else !(isTransition q.bytes && numAt q.bytes 8 4 == s.bell.roundSeq.toNat))

/-- Writes one 64-byte entry of metadata ring `n` (R27, R347). -/
def writeMrEntry (n : Nat) (bytes : List Byte) (s : State) : State :=
  let m := mrAt s n
  let s := hostWrite (m.base.toNat + 64 * m.tail) bytes s
  let wrap := decide (m.tail + 1 = ringSize m.sizeLog2)
  let s := setMr n { m with
    tail := if wrap then 0 else m.tail + 1
    phase := if wrap then !m.phase else m.phase
    credit := m.credit - 1 } s
  if m.intEn then
    updateWire (noteEntry (hwSet (0x28 + 4 * (n / 32)) (n % 32)
      { s with glb := { s.glb with mrCause := s.glb.mrCause ||| (1#64 <<< n) } }))
  else s

/-- Counts a record written or handed over (R45). -/
def countRecord (q : QRec) (late : Bool) (s : State) : State :=
  let c := q.ctx.toNat
  let st := streamAt s c
  setStream c { st with cnt := { st.cnt with
    records := st.cnt.records + 1
    lateRecords := satNat st.cnt.lateRecords (b2n late)
    creditWait := st.cnt.creditWait + q.waited } } s

/-- Whether frames of stream `c` still have records to come. -/
def framesOpen (s : State) (c : Nat) : Bool :=
  s.frames.any (fun f => f.ctx.toNat == c) || s.bell.frameList.any (fun f => f.ctx.toNat == c)

/-- Answers a command that waited for a stream's last record (R49, R52), with the round in which it took effect:
STREAM_CLOSE when no frame and no record of the stream is left, STREAM_ADMIT when no record of the stream's earlier state
is left. -/
def lastRecordCheck (c : Nat) (s : State) : State :=
  let n := (streamAt s c).op.mr.toNat
  let old (q : QRec) : Bool := q.ctx.toNat == c && q.old
  s.cmd.outstanding.foldl (fun s o =>
    match o.cause with
    | .lastRecord r =>
      let blocked := if o.opcode == 0x09 then (mrAt s n).queue.any old || (destAt s n).queue.any old
        else recordsWaiting s c != 0 || framesOpen s c
      if o.ctx.toNat != c || !namesStream o.opcode || blocked then s else finish (o.ring, o.tag) { round := r } s
    | _ => s) s

/-- Every stream whose last record a command waits for is checked: frames and records may have ended without egress
(R49, R119). -/
def lastRecordSweep (s : State) : State :=
  ((s.cmd.outstanding.filterMap fun o => match o.cause with | .lastRecord _ => some o.ctx.toNat | _ => none).eraseDups).foldl
    (fun s c => lastRecordCheck c s) s

/-- The reply to a STREAM_ADMIT of stream `c` that has taken effect is not written yet: no record of the new state goes
before it (R52). -/
def admitUnanswered (s : State) (c : BitVec 12) : Bool :=
  s.cmd.outstanding.any (fun o => o.opcode == 0x09 && o.ctx == c
    && (match o.cause with | .lastRecord _ => true | .ready r => r.status == 0 | _ => false))
  || s.cmd.cq.any fun e => e.2.held.any fun r => r.opcode == 0x09 && r.ctx == c && r.status == 0 && !r.interim

/-- A record may leave as far as R52 goes. -/
def mayLeave (s : State) (q : QRec) : Bool := q.old || !admitUnanswered s q.ctx

/-- The oldest record of a queue that may leave, and the others. -/
def takeRecord (s : State) : List QRec → Option (QRec × List QRec)
  | [] => none
  | q :: r => if mayLeave s q then some (q, r) else (takeRecord s r).map fun e => (e.1, q :: e.2)

/-- RECORD_EGRESS: the oldest record of a metadata ring is written once the credits it needs are held. -/
def execRecordEgress (mr : BitVec 6) (s : State) : Res :=
  let n := mr.toNat
  let s := refreshMr n s
  .next (match takeRecord s (mrAt s n).queue with
    | none => s
    | some (q, rest) =>
      let need := if q.ext.isSome then 2 else 1
      if mrUsable s n < need || !egressDue s q then s
      else
        let late := recordLate s q
        let s := writeMrEntry n (finalRecord s q (mrAt s n).phase) s
        let s := match q.ext with
          | some (e, _) => writeMrEntry n (setByteAt e 1 (BitVec.ofNat 8 (b2n (mrAt s n).phase))) s
          | none => s
        let s := setMr n { mrAt s n with queue := rest } s
        let s := poolFree 1 (q.block :: (match q.ext with | some (_, b) => [b] | none => [])) s
        refreshMr n (lastRecordCheck q.ctx.toNat (countRecord q late s)))

/-! ## Metadata datagrams (R88, R252) -/

/-- Records that fit one datagram (R252). -/
def datagramCap (s : State) (d : DgDest) : Nat :=
  ((portAt s d.port.toNat).mtu - (if d.ipv6 then 40 else 20) - 24) / 64

/-- The records of the next datagram: a pair of observation and extension record is never split (R247). -/
def takeDatagram (s : State) : List QRec → Nat → List QRec × List QRec
  | [], _ => ([], [])
  | q :: r, room =>
    let need := if q.ext.isSome then 2 else 1
    if !mayLeave s q then
      let t := takeDatagram s r room
      (t.1, q :: t.2)
    else if need ≤ room && egressDue s q then
      let t := takeDatagram s r (room - need)
      (q :: t.1, t.2)
    else ([], q :: r)

/-- The end of the first boundary window after instant `made` has passed (R57, R252). -/
def windowPassed (s : State) (made : Nat) : Bool :=
  !s.bell.running || (decide (125000 ≤ roundFc s) && decide (made < s.bell.roundStart + 125000))
    || decide (made + roundLen s ≤ s.now)

/-- DATAGRAM_SEND: a datagram is handed to the port when full or at the end of a boundary window. -/
def execDatagramSend (mr : BitVec 6) (s : State) : Res :=
  let n := mr.toNat
  let d := destAt s n
  let p := portAt s d.port.toNat
  .next (if !d.enable || !d.resolved || !p.linkUp || txPaused s d.port.toNat then s
    else
      let t := takeDatagram s d.queue (datagramCap s d)
      match t.1 with
      | [] => s
      | q :: _ =>
        if !(windowPassed s q.made || !t.2.isEmpty) then s
        else
          let count := (t.1.map fun q => if q.ext.isSome then 2 else 1).foldl (· + ·) 0
          let header := leBytes 2 0x564B ++ [1, BitVec.ofNat 8 count] ++ leBytes 4 d.seq.toNat
            ++ [BitVec.ofNat 8 n, 0] ++ leBytes 2 (min d.lost 65535) ++ [0, 0, 0, 0]
          let body := t.1.flatMap fun q => finalRecord s q false ++ (match q.ext with | some (e, _) => e | none => [])
          let s' := send (.datagram (txHeader s d.port.toNat d.ipv6 d.dstIp) d.dstIp d.dstPort d.srcPort d.dscp (header ++ body)) s
          let s' := setDest n { d with queue := t.2, seq := d.seq + 1, lost := 0 } s'
          t.1.foldl (fun z q =>
            let z := poolFree 1 (q.block :: (match q.ext with | some (_, b) => [b] | none => [])) z
            lastRecordCheck q.ctx.toNat (countRecord q (recordLate s q) z)) s')

/-- NEXT_HOP_RESOLVED: waiting datagrams are released, and their wait ends (R88). -/
def execNextHopResolved (mr : BitVec 6) (s : State) : Res :=
  let d := destAt s mr.toNat
  .next (if d.enable && !d.resolved && nextHop s d.port.toNat d.ipv6 d.dstIp != 0 then
    setDest mr.toNat { d with
      resolved := true
      queue := d.queue.map fun q => match q.waitFrom with
        | some w => { q with waited := q.waited + (s.now - w), waitFrom := none }
        | none => q } s
  else s)

/-! ## Interrupt events (R349, R350) -/

/-- Host memory can be reached again: held replies and waiting records go on. -/
def hostReturned (s : State) : State := refreshAllMr (flushAllCq s)

/-- INT_COAL_TIMER: the timer reaches TIME µs, provided TIME is not 0. -/
def execIntCoalTimer (s : State) : Res :=
  .next (match s.glb.timerStart with
    | some t =>
      if s.glb.coalTime ≠ 0 ∧ t + 1250 * s.glb.coalTime.toNat ≤ s.now then
        updateWire { s with glb := { s.glb with due := true } }
      else s
    | none => s)

/-- Bits of the Command register that the function keeps: Memory Space, Bus Master, Parity Error Response, SERR and
Interrupt Disable. PRESUMED (notes/assumptions/6.md). -/
def commandMask : BitVec 16 := 0x0546

/-- INTERRUPT_DISABLE_WRITE: a write of the Command register. Setting Interrupt Disable drops the wire, clearing it
reasserts if a cause is pending (R350); Memory Space Enable and Bus Master Enable come with it (R345, R352). -/
def execInterruptDisableWrite (command : BitVec 16) (s : State) : Res :=
  if s.link.flr || s.link.state == .detect || s.link.state == .l2 then .next s
  else
    let s' := { s with link := { s.link with command := command &&& commandMask } }
    let s' := if command.getLsbD 10 then dropWire s' else if s.link.command.getLsbD 10 then restoreWire s' else s'
    .next (hostReturned s')

end Sys2Proof.Machine
end

