-- ==== Sys2Proof/Machine/Resets.lean ====
section
/-! DEFINITION. Machine/Resets.lean: what survives power-on and function-level reset (R12, R321, R354, R358, R371,
R372, R382), and the result of the power-on self-test (R318). -/

namespace Sys2Proof.Machine

/-! ## Firmware at power-on (R372, R382) -/

/-- The valid patch slot with the higher SVN (R372). -/
def patchToRun (f : Fw) : Option Nat :=
  let svn (n : Nat) : Nat := ((getAt ({} : FwImage) n f.patchSlots).svn).toNat
  match f.patchValid.getLsbD 0, f.patchValid.getLsbD 1 with
  | true, true => if svn 0 < svn 1 then some 1 else some 0
  | true, false => some 0
  | false, true => some 1
  | false, false => none

/-- The bank not running. -/
def otherBank (f : Fw) : Nat := 1 - f.bank.toNat

/-- The bank that ran before a trial, or runs. -/
def invalidate (n : Nat) (f : Fw) : Fw := { f with bankValid := f.bankValid &&& ~~~ (1#2 <<< n) }

/-- Proctor after power-on (R372, R382): flash and fuses keep their contents; STAGING leaves the target invalid, ARMED
and SWITCHING fall to STAGED with the previous bank running, TRIAL is a fallback that is reported after boot. In TRIAL
the bank that ran before is the one `bank` no longer names. -/
def fwPowerOn (f : Fw) : Fw :=
  let kept : Fw := {
    bank := f.bank, banks := f.banks, bankValid := f.bankValid, patchSlots := f.patchSlots, patchValid := f.patchValid,
    bailiffCtr := f.bailiffCtr, patchCtr := f.patchCtr, revoked := f.revoked }
  let kept := { kept with patchRun := patchToRun f }
  if f.upd = 1 then invalidate (otherBank f) { kept with upd := 0 }
  else if f.upd = 2 ∨ f.upd = 3 ∨ f.upd = 4 then { kept with upd := 2 }
  else if f.upd = 5 then invalidate f.bank.toNat { kept with upd := 0, bank := BitVec.ofNat 1 (otherBank f), record := 5 }
  else kept

/-! ## Power-on (R321 column P, R358) -/

/-- Every field at its P value, except SLOT_REMOVAL and TEL_RAIL (R358), what pins and flash hold, and the record of
what the device has sent. PME_En and PME_Status are sticky: PRESUMED (notes/assumptions/6.md). -/
def powerOnReset (s : State) : State :=
  { ({} : State) with
    free := s.free
    out := s.out
    pending := s.pending
    slot := { present := s.slot.present, btnDown := s.slot.btnDown, cause := s.slot.cause, count := s.slot.count }
    tel := { temps := s.tel.temps, level := s.tel.level, rail := s.tel.rail, railFault := s.tel.railFault,
             railCount := s.tel.railCount }
    board := s.board
    link := { pmeEn := s.link.pmeEn, pmeStatus := s.link.pmeStatus, refclk := s.link.refclk,
              d3coldOrderly := s.link.d3coldOrderly }
    fw := fwPowerOn s.fw
    clusterSram := freshContents s.clusterSram
    securitySram := freshContents s.securitySram
    psram := freshContents s.psram }

/-! ## Function-level reset (R321 column F, R354) -/

/-- A core after function-level reset: RETIRED kept, memories cleared. -/
def coreF (c : Core) : Core := { retired := c.retired, failed := c.failed }
def vidF (now : Nat) (v : VidEngine) : VidEngine := { retired := v.retired, failed := v.failed, idleFrom := now }
def encF (now : Nat) (v : EncEngine) : EncEngine := { retired := v.retired, failed := v.failed, idleFrom := now }

/-- Every register and setting at its F value. Retired units, the substitute mapping, the fault log, OUT_OF_SERVICE but
for FC_RESET_TIMEOUT (R316), slot assist and firmware state are kept. -/
def functionReset (s : State) : State :=
  let timeout := s.flt.oosCause == 0x105
  { ({} : State) with
    now := s.now
    free := s.free
    out := s.out
    pending := s.pending
    cores := mapAt coreF s.cores
    decEng := mapAt (vidF s.now) s.decEng
    prepEng := mapAt (vidF s.now) s.prepEng
    encEng := mapAt (encF s.now) s.encEng
    mem := {
      dpa := s.mem.dpa
      trained := s.mem.trained
      substActive := s.mem.substActive
      substPc := s.mem.substPc
      substPending := s.mem.substPending
      pcLostEvent := s.mem.pcLostEvent
      pcUe := s.mem.pcUe
      trainFail := s.mem.trainFail
      owed := s.mem.owed
      patrol := s.mem.patrol }
    flt := {
      oos := s.flt.oos && !timeout
      oosCause := s.flt.oosCause
      resetSteps := s.flt.resetSteps
      lastSeq := s.flt.lastSeq
      nextSeq := s.flt.nextSeq
      lostNext := s.flt.lostNext
      staging := s.flt.staging
      psram := s.flt.psram
      captures := s.flt.captures
      copiedCaptures := s.flt.copiedCaptures }
    pwr := {
      on := s.pwr.on.filter fun d => 128 ≤ d
      retained := s.pwr.retained
      brownout := s.pwr.brownout
      brownouts := s.pwr.brownouts
      wakes := s.pwr.wakes
      refusals := s.pwr.refusals
      browns := s.pwr.browns
      onDie := s.pwr.onDie }
    link := { s.link with command := 0, d3hot := false, flr := false }
    slot := s.slot
    clusterSram := s.clusterSram
    securitySram := s.securitySram
    psram := s.psram
    board := s.board
    tel := { s.tel with warnEvent := false, emergEvent := false, source := 0, shed := 0 }
    fw := { s.fw with
      upd := (if s.fw.upd = 1 then 0 else s.fw.upd)
      trigger := none
      joined := []
      spdm := 0
      doeObject := [] } }

/-! ## Power-on self-test (R318) -/

/-- Retires a core: its register bit and its domain (R318, R323). -/
def retireCore (n : Nat) (s : State) : State :=
  setCore n { retired := true } s

/-- A unit that failed the power-on self-test: both runs retire it, one run is recorded only. -/
def postFail (f : PostFail) (s : State) : State :=
  let u := unitCode f.kind f.index
  if 2 ≤ f.runs then
    match f.kind with
    | 0 => recordFault { code := 0x0109, scope := 0, unit := u } (retireCore f.index s)
    | 6 => recordFault { code := 0x010A, scope := 0, unit := u } (setDec f.index { decAt s f.index with retired := true } s)
    | 7 => recordFault { code := 0x010A, scope := 0, unit := u } (setPrep f.index { prepAt s f.index with retired := true } s)
    | 8 => recordFault { code := 0x010A, scope := 0, unit := u } (setEnc f.index { encAt s f.index with retired := true } s)
    | _ => s
  else if f.runs = 1 then recordFault { code := 0x0506, scope := 0, unit := u } s
  else s

/-- Fewer than 64 cores remain (R314, R318). -/
def classCheck (s : State) : State :=
  if coresLeft s < 64 ∧ !s.flt.oos then enterOos 0x108 (faultSimple 0x0108 5 s) else s

/-! ## Rounds of FALLOW and END (R204) -/

/-- The Bell sequencer starts rounds at fc 0 of a new round; ROUND_MARK rises (R395). -/
def startRounds (s : State) : State :=
  { s with
    bell := { s.bell with
      running := true, lastStart := s.bell.roundStart, roundStart := s.now, shift := 0, slot := 0, layerOpen := false, actions := [], touched := [],
      layerJob := none, met := [], gap := none, fallowDone := false, fallowEnd := 0, emitRan := false }
    out := .roundMark :: s.out }

/-- Host-visible service starts: READY, commands are accepted (R359), rounds run. -/
def becomeReady (s : State) : State :=
  let s := startRounds { s with glb := { s.glb with ready := true }, link := { s.link with crs := false } }
  if s.fw.record = 5 then
    let s := faultSimple 0x0505 0 s
    updateWire (hwSet 0x10 11 (hwSet 0x270004 3 { s with
      fw := { s.fw with evFallback := true, record := 0 }
      glb := { s.glb with fwCause := true } }))
  else s

end Sys2Proof.Machine
end

