-- ==== Sys2Proof/Machine/Recovery.lean ====
section
/-! DEFINITION. Machine/Recovery.lean: aborts, compute resets, suspects and replay (R305 to R316, R320), core images
(R200), captured transfers (R295), and the commands FABRIC_ERROR, COMPUTE_RESET_COMPLETE, RESET_TIMEOUT and
FAULT_LOG_COPY. -/

namespace Sys2Proof.Machine

/-! ## Areas and their slots (R190 to R193) -/

/-- An area that holds nothing. -/
def noArea : AreaContent :=
  { slots := [], lanes := [], dma := [], crops := [], rowMaps := [], rowNets := [], images := [], coreImages := [],
    bases := [] }

/-- The contents of area `a`. -/
def areaAt (s : State) (a : BitVec 2) : AreaContent := getAt noArea a.toNat s.bell.areas

/-- The ACTIVE area. -/
def activeArea (s : State) : AreaContent := areaAt s s.bell.active

/-- Bits [hi:lo] of a slot word. -/
def slotBits (w : BitVec 4096) (hi lo : Nat) : Nat := bitsOf w.toNat hi lo

def slotStart (w : BitVec 4096) : Nat := slotBits w 23 0
def slotKind (w : BitVec 4096) : Nat := slotBits w 27 24
def slotBarrier (w : BitVec 4096) : Bool := w.getLsbD 28
def slotClass (w : BitVec 4096) : Nat := slotBits w 29 29
def slotLayer (w : BitVec 4096) : Nat := slotBits w 47 32
def slotBatch (w : BitVec 4096) : Nat := slotBits w 59 48
def slotWake (w : BitVec 4096) : Nat := slotBits w 79 64
def slotGapEnd (w : BitVec 4096) : Nat := slotBits w 103 80
def slotGapReserve (w : BitVec 4096) : Bool := w.getLsbD 104
def slotWcReset (w : BitVec 4096) : Nat := slotBits w 191 128
/-- Core-group field g, DMA field c, crop field g and the track-store field (R191). -/
def slotGroup (w : BitVec 4096) (g : Nat) : Nat := slotBits w (192 + 128 * g + 127) (192 + 128 * g)
def slotDma (w : BitVec 4096) (c : Nat) : Nat := slotBits w (2240 + 64 * c + 63) (2240 + 64 * c)
def slotCrop (w : BitVec 4096) (g : Nat) : Nat := slotBits w (3264 + 32 * g + 31) (3264 + 32 * g)
def slotTrack (w : BitVec 4096) : Nat := slotBits w 3839 3776

/-- A slot word of KIND 2 or 3 with START alone. -/
def bareSlot (kind start : Nat) : BitVec 4096 := BitVec.ofNat 4096 (start + kind * 2 ^ 24)

/-- The slots the sequencer runs in a round, with their indices: the ACTIVE area's; only its FALLOW and END slots while
no latency-critical compute runs (R83, R204, R315); and a FALLOW and an END slot where the area holds none. -/
def roundSlots (s : State) : List (Nat × BitVec 4096) :=
  let all := (List.range (activeArea s).slots.length).zip (activeArea s).slots
  let own := if s.bell.fallowOnly then all.filter fun e => 2 ≤ slotKind e.2 else all
  if own.isEmpty then [(0, bareSlot 2 (roundLen s - 62500)), (1, bareSlot 3 (roundLen s))] else own

/-- The network whose rows row map `b` of the ACTIVE area serves. -/
def netOfMap (s : State) (b : Nat) : Nat := (activeArea s).rowNets.getD b 0xFFFF

/-! ## Core power and core images (R200, R321, R323) -/

/-- Core memories with undefined contents (R308, R321): fresh free values. -/
def coreUndefined (n gen : Nat) (c : Core) : Core :=
  { c with act := { id := 1024 + 8 * n + 2, gen := gen }, wgt := { id := 1024 + 8 * n + 3, gen := gen }, acc := [], undef := gen,
           tile := [], tilePoison := false, syn := [] }

/-- A core's domain goes on (R199, R324): its memories hold nothing known, and it is not ready until its image is
loaded. -/
def corePowerOn (n : Nat) (s : State) : State :=
  let c := coreAt s n
  if c.powered then s
  else
    let d := drawFree s
    setCore n { coreUndefined n (d.1 + 1) c with
      powered := true, ready := false, wakeAt := some s.now, prog := [], scale := [], seq := {} }
      { d.2 with pwr := { d.2.pwr with wakes := satAdd d.2.pwr.wakes 1 } }

/-- A core's domain goes off (R193): every core memory is lost. -/
def corePowerOff (n : Nat) (s : State) : State :=
  let c := coreAt s n
  setCore n { c with
    powered := false, ready := false, busy := false, sleepAfter := false, wakeAt := none, seq := {},
    act := {}, wgt := {}, acc := [], tile := [], tilePoison := false, prog := [], scale := [], syn := [] } s

/-- The entries of a table that are not zero, by index. -/
def nonZero {α : Type} (isZero : α → Bool) (l : List α) : List (Nat × α) :=
  ((List.range l.length).zip l).filter fun e => !isZero e.2

/-- Cuts a byte list into pieces of `n` bytes. -/
def pieces (n : Nat) (l : List Byte) : List (List Byte) :=
  (List.range (ceilDiv l.length (max n 1))).map fun i => (l.drop (i * n)).take n

/-- Loads a core's tile-program memory and scale file from its image in the ACTIVE area (R200); false where the data is
poisoned or its check value differs. -/
def coreLoad (n : Nat) (s : State) : Bool × State :=
  let c := coreAt s n
  let keep := c.syn.filter fun e => e.1 / 0x100000 ≠ 5 ∧ e.1 / 0x100000 ≠ 6
  let e := ((activeArea s).images.getD n 0).toNat
  if !e.testBit 96 then (true, setCore n { c with prog := [], scale := [], syn := keep } s)
  else
    let r := dpaBytes 0 (bitsOf e 39 0) 67584 s
    let bytes := r.1
    if r.2.1 || crc32c bytes != BitVec.ofNat 32 (bitsOf e 95 64) then (false, r.2.2)
    else
      let words := (pieces 16 (bytes.take 65536)).map fun p => BitVec.ofNat 128 (leNat p)
      (true, setCore n { c with
        prog := nonZero (· == 0) words, scale := nonZero (· == 0) (bytes.drop 65536), syn := keep } r.2.2)

/-! ## Park records of transfers (R292, R295) -/

/-- The transfer an engine is moving: its first that is not complete. -/
def activeOf (l : List Transfer) : Option Transfer := l.find? fun t => decide (t.done < t.total)

/-- The lowest free park record. -/
def freePark (s : State) : Option Nat := (lowestFree (s.mem.parks.map (·.1)) 1024 0 1).head?

/-- Replaces a transfer of an engine's list. -/
def swapTransfer (old : Transfer) (new : List Transfer) : List Transfer → List Transfer
  | [] => []
  | t :: r => if t = old then new ++ r else t :: swapTransfer old new r

/-- Captures the transfer in progress of one engine with CAUSE 0x31 (R295). -/
def captureOne (bulk : Bool) (n : Nat) (s : State) : State :=
  let l := getAt [] n (if bulk then s.mem.bulk else s.mem.host)
  match activeOf l, freePark s with
  | some t, some i =>
    let pr : ParkRecord := {
      desc := t.desc, done := t.done, total := t.total,
      engine := BitVec.ofNat 8 ((if bulk then 16 else 32) + n), cause := 0x31, state := 1, cls := t.cls, owner := t.owner,
      faultAddr := 0, round := s.bell.roundSeq, retries := 0, faultSeq := 0, blocks := t.blocks }
    let rest := swapTransfer t [] l
    { s with mem := { s.mem with
        parks := putAt i pr s.mem.parks
        bulk := (if bulk then putAt n rest s.mem.bulk else s.mem.bulk)
        host := (if bulk then s.mem.host else putAt n rest s.mem.host) } }
  | _, _ => s

/-- Captures every host and bulk transfer in progress. -/
def captureTransfers (s : State) : State :=
  let s := (s.mem.host.map (·.1)).foldl (fun s n => captureOne false n s) s
  (s.mem.bulk.map (·.1)).foldl (fun s n => captureOne true n s) s

/-- The transfer that a park record resumes, from GRANULE_DONE (R293). -/
def resumed (p : ParkRecord) : Transfer :=
  { desc := p.desc, total := p.total, done := p.done, cls := p.cls, owner := p.owner, blocks := p.blocks }

/-- Puts a resumed transfer at the front of its engine; it translates again (R287). -/
def resumeTransfer (p : ParkRecord) (s : State) : State :=
  let n := p.engine.toNat % 16
  let e : DmaEngine := if p.engine.toNat / 16 = 1 then .bulk (BitVec.ofNat 2 n) else .host (BitVec.ofNat 3 n)
  let s := { s with mem := { s.mem with
    tlb := s.mem.tlb.filter fun x => !(x.1 == e && x.2.1 == bitsOf p.desc.toNat 23 16) } }
  if p.engine.toNat / 16 = 1 then
    { s with mem := { s.mem with bulk := putAt n (resumed p :: getAt [] n s.mem.bulk) s.mem.bulk } }
  else { s with mem := { s.mem with host := putAt n (resumed p :: getAt [] n s.mem.host) s.mem.host } }

/-- Resumes what the compute reset captured. -/
def resumeCaptured (s : State) : State :=
  (s.mem.parks.filter fun e => e.2.cause == 0x31).foldl
    (fun s e => resumeTransfer e.2 { s with mem := { s.mem with parks := dropAt e.1 s.mem.parks } }) s

/-! ## Jobs -/

/-- Ends a job (R73, R76, R78): its transfers are killed, its ingest blocks freed, its submission answered, and then the
cancels that wait for it. -/
def endJob (ring : BitVec 6) (tag : BitVec 16) (r : Reply) (s : State) : State :=
  match s.jobs.find? fun j => j.ring == ring && j.tag == tag with
  | none => s
  | some j =>
    let own := tag.toNat + 65536 * ring.toNat
    let s := killTransfers (fun t => t.cls == 4 && t.owner.toNat == own) (fun p => p.cls == 4 && p.owner.toNat == own) s
    let s := poolFree 3 j.blocks s
    let leave (g : Gap) : Gap := if g.job = some (ring, tag) then { g with job := none, slots := [] } else g
    let s := { s with
      jobs := s.jobs.filter fun k => !(k.ring == ring && k.tag == tag)
      flt := { s.flt with replaying := s.flt.replaying.filter (· != .job ring tag) }
      bell := { s.bell with gap := s.bell.gap.map leave } }
    finishCause (.jobEnd ring.toNat tag.toNat) {} (finish (ring, tag) r s)

/-- Ends every job with the same reply. -/
def endJobs (r : Reply) (s : State) : State :=
  (s.jobs.map fun j => (j.ring, j.tag)).foldl (fun s k => endJob k.1 k.2 r s) s

/-! ## Abort and capture (R301, R307, R308) -/

/-- A best-effort layer is placed and has not finished. -/
def gapJob (s : State) : Option (BitVec 6 × BitVec 16) := s.bell.gap.bind (·.job)

/-- Every unit stops: no instruction, granule or commit starts after the abort. The open gap ends, so that a best-effort
layer cut off runs again from its start in a later one (R76), and its counters meet no check; CTX of the decode engines is
0 in a compute reset (R147). -/
def abortUnits (s : State) : State :=
  let cut := s.bell.layerJob.isSome && (gapJob s).isSome
  { s with
    cores := mapAt (fun c => { c with busy := false, seq := { c.seq with stopped := true } }) s.cores
    decEng := mapAt (fun (v : VidEngine) => { v with ctx := 0 }) s.decEng
    prepEng := mapAt (fun (v : VidEngine) => { v with cycles := 0 }) s.prepEng
    encEng := mapAt (fun (v : EncEngine) => { v with busy := false }) s.encEng
    trk := { s.trk with busy := false }
    bell := { s.bell with
      actions := []
      met := []
      touched := (if cut then [] else s.bell.touched)
      layerJob := (if cut then none else s.bell.layerJob)
      gap := none }
    mem := { s.mem with timed := [] } }

/-- The capture set, from the registers as the abort finds them. -/
def captureSet (seq : Word) (s : State) : Capture :=
  { seq, round := s.bell.roundSeq, roundFc := roundFc s, d := s.bell.shift, firstSlot := s.bell.layerSlot,
    nextSlot := s.bell.slot, counters := s.wcs, actions := s.bell.actions,
    coreSeqs := s.cores.map fun e => (e.1, e.2.seq), engines := s.decEng, parks := s.mem.parks.map (·.1),
    heads := s.cmd.sq.map fun e => (e.1, e.2.head) }

/-- Slot `w` carries an action (R193). -/
def slotActs (w : BitVec 4096) : Bool :=
  (List.range 16).any (fun g => slotGroup w g % 4 != 0 || slotDma w g % 4 == 1 || slotCrop w g % 2 == 1) || slotTrack w % 16 != 0

/-- The open layer still runs: one of its actions has not finished, or one of its slots with actions has not issued. -/
def layerRuns (s : State) : Bool :=
  s.bell.layerOpen && (s.bell.actions.any (fun a => a.job.isNone) ||
    match (roundSlots s).find? fun e => decide (s.bell.slot ≤ e.1) && (slotBarrier e.2 || slotKind e.2 != 0 || slotActs e.2) with
    | some (_, w) => !slotBarrier w && slotKind w == 0
    | none => false)

/-- The layer that runs at the abort, if a latency-critical one does. -/
def openLayer (s : State) : Option Nat := if layerRuns s then some s.bell.layerSlot else none

/-- A fault that starts a compute reset (R305): during one it only joins with MERGED (R320); during a Recess exit it
waits for the exit's end (R320); while the compute part stays in reset after FC_RESET_TIMEOUT it is recorded only. -/
def startReset (r : FaultRec) (sus : List Suspect) (s : State) : State :=
  if s.pwr.exit_.isSome then { s with flt := { s.flt with later := s.flt.later ++ [(r, sus)] } }
  else match s.flt.reset with
  | some rs =>
    let s := recordFault { r with scope := 4, fflags := r.fflags ||| 4 } s
    { s with flt := { s.flt with reset := some { rs with suspects := rs.suspects ++ sus } } }
  | none =>
    let replay : Byte := if s.flt.replaying.isEmpty then 0 else 2
    let id := s.flt.captureNext
    let s := recordFault { r with scope := 4, fflags := r.fflags ||| 1 ||| replay, captureId := BitVec.ofNat 32 id } s
    let seq := s.flt.lastSeq
    let s := { s with flt := { s.flt with
      captures := s.flt.captures ++ [{ captureSet seq s with id }]
      captureNext := (id + 1) % 1024
      reset := some { at_ := s.now, suspects := sus, layerRan := openLayer s, seq } } }
    abortUnits (captureTransfers s)

/-- An uncorrectable error returned to a timed unit where nothing gives poison handling (R305): FC_ECC_UE for each error
counted since `before`; the first starts the compute reset, the others join it. -/
def eccReset (unit : BitVec 16) (before : Word) (sus : List Suspect) (s : State) : State :=
  let r : FaultRec := { code := 0x401, unit, body := eccBody s 1 }
  (List.range (s.mem.ue.toNat - before.toNat - 1)).foldl (fun s _ => startReset r [] s) (startReset r sus s)

/-- The suspect that the layer from slot `i` is. -/
def layerSuspect (code : BitVec 16) (pc : Nat) (cores : List Nat) (i : Nat) (s : State) : List Suspect :=
  let w := (activeArea s).slots.getD i 0
  [.layer i (netOfMap s (slotBatch w)) code pc cores]

/-- The suspect that a fault on a compute unit makes (R309): the job that the faulting action served, else the layer that
runs, or the job whose layer runs in a gap. -/
def computeSuspect (code : BitVec 16) (pc : Nat) (cores : List Nat) (job : Option (BitVec 6 × BitVec 16)) (s : State) :
    List Suspect :=
  match job with
  | some k => [.job k.1 k.2]
  | none => match openLayer s with
    | some i => layerSuspect code pc cores i s
    | none => match gapJob s with
      | some k => [.job k.1 k.2]
      | none => []

/-- SLOT, LAYER and NET of a record about slot `i`. -/
def slotRecord (i : Nat) (s : State) (r : FaultRec) : FaultRec :=
  match (activeArea s).slots[i]? with
  | none => r
  | some w => { r with slot := BitVec.ofNat 16 i, layer := BitVec.ofNat 16 (slotLayer w),
                       net := BitVec.ofNat 16 (netOfMap s (slotBatch w)) }

/-! ## Second faults (R313) -/

/-- A frame leaves the device without a record. -/
def dropFrame (c seq : Nat) (s : State) : State :=
  let mine (f : FrameRec) : Bool := f.ctx.toNat == c && f.seq == seq
  let gone := s.frames.filter mine
  let s := poolFree 3 (gone.flatMap (·.hostBlocks)) (poolFree 0 (gone.flatMap (·.blocks)) s)
  { s with
    frames := s.frames.filter fun f => !mine f
    bell := { s.bell with frameList := s.bell.frameList.filter fun f => !mine f } }

/-- Records that a frame of the list would have given: one per entry of the record lists, at least one. -/
def recordsOf (s : State) (i : Nat) : Nat :=
  max 1 ((s.trk.lists.map fun l => if l.frame = i then l.entries.length else 0).foldl (· + ·) 0)

/-- EMIT faulted twice: the frames of the list yield no records, and each stream counts them (R313). -/
def loseList (s : State) : State :=
  let s := ((List.range s.bell.frameList.length).zip s.bell.frameList).foldl (fun s e =>
    let c := e.2.ctx.toNat
    let st := streamAt s c
    setStream c { st with lostFlag := true, cnt := { st.cnt with
      recordsDropped := satNat st.cnt.recordsDropped (recordsOf s e.1) } } s) s
  { s with bell := { s.bell with frameList := [], emitRan := true } }

/-- The first slot after slot `i` whose BARRIER starts another layer. -/
def nextLayerSlot (s : State) (i : Nat) : Nat :=
  match (roundSlots s).find? fun e => decide (i < e.1) && (slotBarrier e.2 || decide (1 ≤ slotKind e.2)) with
  | some e => e.1
  | none => i + 1

/-- Groups of some cores go to the front of the self-test rotation (R317). -/
def testGroups (cores : List Nat) (s : State) : State :=
  { s with flt := { s.flt with priority := insNats (cores.map (· / 8)) s.flt.priority } }

/-- The end of a suspect that faulted again in its replay; `x` is the first fault's suspect, `y` the second's. -/
def refault (x y : Suspect) (s : State) : State :=
  match x, y with
  | .decode _ c q, .decode n _ _ =>
    dropFrame c.toNat q (faultStream c.toNat { code := 0x305, fflags := 2, unit := unitCode 6 n } s)
  | .prep _ c q, .prep n _ _ =>
    dropFrame c.toNat q (faultStream c.toNat { code := 0x305, fflags := 2, unit := unitCode 7 n } s)
  | .job r t, _ => endJob r t (failWith 0x500 (s.flt.lastSeq.toNat % 256)) s
  | .track op, _ =>
    let s := { s with
      flt := { s.flt with priority := insNat 16 s.flt.priority }
      bell := { s.bell with deadOps := insNat op s.bell.deadOps } }
    if op = 3 then loseList s else { s with bell := { s.bell with noAssoc := true } }
  | .layer slot net code pc cores, .layer _ _ code' pc' cores' =>
    let s := { s with bell := { s.bell with deadNets := insNat net s.bell.deadNets, slot := nextLayerSlot s slot } }
    if code = code' ∧ pc = pc' ∧ 0x200 < code.toNat ∧ code.toNat < 0x20C then
      let s := match netAt s net with
        | some v => setNet net { v with faulted := true } s
        | none => s
      (s.streams.filter fun e => e.2.ad.networks.contains net && holds e.2.state).foldl
        (fun s e => faultStream e.1 (slotRecord slot s
          { code := 0x10B, fflags := 2, unit := unitCode 0 (cores'.headD 0), net := BitVec.ofNat 16 net }) s) s
    else testGroups (cores ++ cores') s
  | _, _ => s

/-- Two suspects are the same work. -/
def sameSuspect (x y : Suspect) : Bool :=
  match x, y with
  | .layer a n _ _ _, .layer b m _ _ _ => a == b && n == m
  | .track a, .track b => a == b
  | .decode _ c q, .decode _ d r => c == d && q == r
  | .prep _ c q, .prep _ d r => c == d && q == r
  | .clip a, .clip b => a == b
  | .job r t, .job q u => r == q && t == u
  | _, _ => false

/-- The replay of a suspect has ended well. -/
def endReplay (x : Suspect) (s : State) : State :=
  { s with flt := { s.flt with replaying := s.flt.replaying.filter fun y => !sameSuspect x y } }

/-! ## OUT_OF_SERVICE and the reset count (R314) -/

/-- Compute resets in the last 1,125,000 management steps. -/
def resetsInWindow (s : State) : List (Nat × Word) := s.flt.resetSteps.filter fun e => mgmtStep s < e.1 + 1125000

/-- Counts a completed compute reset; the sixth takes the device OUT_OF_SERVICE. -/
def countReset (step : Nat) (seq : Word) (s : State) : State :=
  let s := hwSet 0x250000 1 s
  let s := { s with flt := { s.flt with
    resets := satAdd s.flt.resets 1
    resetEvent := true
    resetSteps := resetsInWindow s ++ [(step, seq)] } }
  let l := s.flt.resetSteps
  if 6 ≤ l.length ∧ !s.flt.oos then
    let body := (l.drop (l.length - 6)).flatMap fun e => leBytes 4 e.2.toNat
    enterOos 0x106 (recordFault { code := 0x106, scope := 5, unit := unitCode 12 0, body } s)
  else s

/-! ## The end of a compute reset (R308, R310) -/

/-- SHIFT of the record of a compute reset. -/
def writeShift (q : Word) (d : Nat) (s : State) : State :=
  let f (r : FaultRec) : FaultRec := if r.seq = q then { r with shift := BitVec.ofNat 32 d } else r
  { s with flt := { s.flt with staging := s.flt.staging.map f, psram := s.flt.psram.map f } }

/-- Every engine starts the picture it held again (R124, R266, R312). -/
def restartEngines (s : State) : State :=
  let again (v : VidEngine) : VidEngine := { v with idleFrom := s.now }
  let enc (v : EncEngine) : EncEngine :=
    let waits := s.clips.any fun k => v.clip == some k.num && !k.pics.isEmpty
    { v with busy := waits, since := s.now }
  { s with
    decEng := mapAt again s.decEng
    prepEng := mapAt again s.prepEng
    encEng := mapAt enc s.encEng }

/-- Powered cores come out of the reset with undefined memories and reload their images. -/
def restoreCores (s : State) : State :=
  ((s.cores.filter fun e => e.2.powered).map (·.1)).foldl (fun s n =>
    let d := drawFree s
    let c := coreAt d.2 n
    let s := setCore n { coreUndefined n (d.1 + 1) c with seq := {}, sleepAfter := false } d.2
    let r := coreLoad n s
    setCore n { coreAt r.2 n with ready := r.1, wakeAt := (if r.1 then none else some s.now) } r.2) s

/-- Suspects that were in replay when they faulted again, each with its second fault. -/
def secondFaults (old new_ : List Suspect) : List (Suspect × Suspect) :=
  new_.filterMap fun y => (old.find? fun x => sameSuspect x y).map fun x => (x, y)

/-- The first slots of the track-store operations that are replayed in place (R309). -/
def trackSlots (l : List Suspect) (s : State) : List Nat :=
  l.filterMap fun x => match x with
    | .track op => ((roundSlots s).find? fun e => slotTrack e.2 % 16 = op).map (·.1)
    | _ => none

/-- The reset completes: cores restored, D and the position set, captured transfers resumed, the reset counted, and the
suspects replayed or, at their second fault, ended. -/
def completeReset (rs : Reset) (s : State) : State :=
  let old := s.flt.replaying
  let twice := secondFaults old rs.suspects
  let skips := twice.any fun p => match p.1 with | .layer _ _ _ _ _ => true | _ => false
  let grow := match rs.layerRan with
    | some _ => if skips then s.now - rs.at_ else s.now - s.bell.layerStart
    | none => s.now - rs.at_
  let s := restartEngines (restoreCores s)
  let s := { s with
    bell := { s.bell with
      shift := s.bell.shift + grow
      slot := (trackSlots rs.suspects s).foldl min (match rs.layerRan with | some i => i | none => s.bell.slot)
      layerOpen := s.bell.layerOpen && rs.layerRan.isNone
      reported := (if rs.layerRan.isSome then [] else s.bell.reported)
      touched := (if rs.layerRan.isSome then [] else s.bell.touched) }
    flt := { s.flt with
      reset := none
      replaying := (old ++ rs.suspects).filter fun x => !twice.any fun p => sameSuspect p.1 x } }
  let s := resumeCaptured (writeShift rs.seq grow s)
  let s := twice.foldl (fun s p => refault p.1 p.2 s) s
  let s := (s.jobs.filter (·.cancel)).foldl (fun s j => endJob j.ring j.tag (failWith 0x203 0x42) s) s
  countReset (rs.at_ / 1000000) rs.seq s

/-- COMPUTE_RESET_COMPLETE: the restore phase ends; after FC_RESET_TIMEOUT the compute part stays in reset (R320). -/
def execComputeResetComplete (s : State) : Res :=
  .next (match s.flt.reset with
    | some rs => if s.flt.stuck then s else completeReset rs s
    | none => s)

/-- RESET_TIMEOUT: a compute reset not complete 250 µs after detection (R320). -/
def execResetTimeout (s : State) : Res :=
  .next (match s.flt.reset with
    | some rs =>
      if s.flt.stuck || decide (s.now < rs.at_ + 312500) then s
      else
        let s := recordFault { code := 0x105, scope := 5, unit := unitCode 12 0 } s
        enterOos 0x105 { s with flt := { s.flt with stuck := true } }
    | none => s)

/-- FABRIC_ERROR: an uncorrectable error on the bond or the fabric (R305). -/
def execFabricError (index : BitVec 12) (s : State) : Res :=
  .next (startReset { code := 0x107, unit := unitCode 11 index.toNat } (computeSuspect 0x107 0 [] none s) s)

/-- Keeps the newest `n` of a list. -/
def newest {α : Type} (n : Nat) (l : List α) : List α := l.drop (l.length - n)

/-- The 256 bytes of a fault record (R300). -/
def faultBytes (r : FaultRec) : List Byte :=
  leBytes 4 r.seq.toNat ++ leBytes 2 r.code.toNat ++ [r.scope, r.fflags] ++ leBytes 8 r.step.toNat
    ++ leBytes 4 r.round.toNat ++ leBytes 4 r.roundFc.toNat ++ leBytes 4 r.d.toNat ++ leBytes 2 r.unit.toNat
    ++ leBytes 2 r.ctx.toNat ++ leBytes 2 r.slot.toNat ++ leBytes 2 r.layer.toNat ++ leBytes 2 r.net.toNat ++ [0, 0]
    ++ leBytes 4 r.captureId.toNat ++ leBytes 4 r.shift.toNat ++ List.replicate 16 0 ++ padTo 192 r.body

/-- The 8,192 bytes of a capture set: the layout inside its entries is not stated, so they are free
(notes/assumptions/21.md). -/
def captureBytes (c : Capture) : List Byte := (List.range 8192).map fun i => Config.freeByte (c.seq.toNat + 1) 4 i

/-- Records and capture sets at their places in the rings of the PSRAM store: 16,384 records from 0, 1,024 sets from
0x40_0000. Which entry of its ring one takes is DESIGN CHOICE (notes/assumptions/70.md): a record the one that SEQ modulo
16,384 names, a capture set the one its CAPTURE number names. -/
def copyRecords (s : State) : State :=
  let s := s.flt.staging.foldl (fun s r => psramStore (256 * (r.seq.toNat % 16384)) (faultBytes r) s) s
  s.flt.captures.foldl (fun s c => psramStore (0x400000 + 8192 * (c.id % 1024)) (captureBytes c) s) s

/-- FAULT_LOG_COPY: the staging ring is copied to the PSRAM store; each ring there overwrites its oldest (R302). A PSRAM
transfer is not allowed in LOW (R330). -/
def execFaultLogCopy (s : State) : Res :=
  .next (if s.pwr.aonLow then s
    else
      let s := copyRecords s
      enterLow { s with flt := { s.flt with
      psram := newest 16384 (s.flt.psram ++ s.flt.staging)
      copiedCaptures := newest 1024 (s.flt.copiedCaptures ++ s.flt.captures)
      staging := []
      captures := [] } })

end Sys2Proof.Machine
end

