-- ==== Sys2Proof/Machine/Parks.lean ====
section
/-! DEFINITION. Machine/Parks.lean: DMA descriptors (R290, R291), parking, freezing and resuming transfers (R292 to
R294, R296), and the command PARK_RECORD_ACTION. -/

namespace Sys2Proof.Machine

/-! ## Descriptors (R290) -/

def descLength (d : BitVec 512) : Nat := descField d 4 4
def descSrcAddr (d : BitVec 512) : Nat := descField d 8 8
def descDstAddr (d : BitVec 512) : Nat := descField d 16 8
def descRows (d : BitVec 512) : Nat := descField d 24 4
def descSrcPitch (d : BitVec 512) : Nat := descField d 28 4
def descDstPitch (d : BitVec 512) : Nat := descField d 32 4

/-- A descriptor built from its fields. -/
def mkDesc (srcSpace dstSpace xctx len src dst rows srcPitch dstPitch : Nat) : BitVec 512 :=
  BitVec.ofNat 512 (leNat ([BitVec.ofNat 8 srcSpace, BitVec.ofNat 8 dstSpace, BitVec.ofNat 8 xctx, 0]
    ++ leBytes 4 len ++ leBytes 8 src ++ leBytes 8 dst ++ leBytes 4 rows ++ leBytes 4 srcPitch ++ leBytes 4 dstPitch))

/-- Granules of one row (R291). -/
def rowGranules (d : BitVec 512) : Nat := ceilDiv (descLength d) 256

/-- Granules of a transfer. -/
def granulesOf (d : BitVec 512) : Nat := rowGranules d * descRows d

/-- Byte offset of granule `k` from the first byte of its row, its row, and its length. -/
def granuleRow (d : BitVec 512) (k : Nat) : Nat := k / max 1 (rowGranules d)
def granuleCol (d : BitVec 512) (k : Nat) : Nat := 256 * (k % max 1 (rowGranules d))
def granuleLen (d : BitVec 512) (k : Nat) : Nat := min 256 (descLength d - granuleCol d k)

/-- Source and destination address of granule `k`, each in its own space. -/
def granuleSrc (d : BitVec 512) (k : Nat) : Nat := descSrcAddr d + granuleRow d k * descSrcPitch d + granuleCol d k
def granuleDst (d : BitVec 512) (k : Nat) : Nat := descDstAddr d + granuleRow d k * descDstPitch d + granuleCol d k

/-! ## Park records (R292) -/

/-- The 128 bytes of a park record. -/
def parkBytes (p : ParkRecord) : List Byte :=
  leBytes 64 p.desc.toNat ++ leBytes 4 p.done ++ leBytes 4 p.total
    ++ [p.engine, p.cause, BitVec.ofNat 8 p.state, BitVec.ofNat 8 p.cls] ++ leBytes 4 p.owner.toNat
    ++ leBytes 8 p.faultAddr.toNat ++ leBytes 4 p.round.toNat ++ leBytes 2 p.retries ++ [0, 0]
    ++ leBytes 4 p.faultSeq.toNat ++ List.replicate 28 0

/-- Blocks of a host-to-Granary transfer that hold granules below `done` (R294): 16 granules each. -/
def keptBlocks (done : Nat) (blocks : List Nat) : List Nat := blocks.take (ceilDiv done 16)

/-- Ring and tag in OWNER. -/
def ownerRing (w : Word) : BitVec 6 := BitVec.ofNat 6 (w.toNat / 65536)
def ownerTag (w : Word) : BitVec 16 := BitVec.ofNat 16 w.toNat

/-- Whether a clip has no picture in an encode engine, so that it is at a picture boundary (R266). -/
def clipIdle (s : State) (k : Clip) : Bool :=
  match k.engine with
  | some e => !(encAt s e).busy
  | none => true

/-- A clip all of whose pictures are coded and whose output has landed ends COMPLETE (R265 to R267). -/
def clipComplete (num : Nat) (s : State) : State :=
  match s.clips.find? fun k => k.num.toNat == num && !k.ended with
  | none => s
  | some k =>
    if decide (k.endSeq < k.decodeSeq) && k.pics.isEmpty && !clipMoves num s then endClip k.num 0 0 s else s

/-- A fault on a clip's transfer (R266, R293): the clip ends HOST_FAULT at its picture boundary. -/
def clipFault (num : Nat) (cause : Byte) (s : State) : State :=
  match s.clips.find? fun k => k.num.toNat == num && !k.ended with
  | none => clipSweep num s
  | some k => if clipIdle s k then endClip k.num 5 cause.toNat s else setClip { k with hostFault := some cause } s

/-- The kill of R293: the transfer is gone, and its owner alone is told. -/
def killReport (cls : Nat) (owner : Word) (cause : Byte) (blocks : List Nat) (s : State) : State :=
  let s := poolFree 3 blocks s
  match cls with
  | 3 => finish (ownerRing owner, ownerTag owner) (failWith 0x104 cause.toNat) s
  | 4 =>
    let k := (ownerRing owner, ownerTag owner)
    let s := { s with jobs := s.jobs.map fun j =>
      if j.ring == k.1 && j.tag == k.2 then { j with blocks := j.blocks.filter fun b => !blocks.contains b } else j }
    endJob k.1 k.2 (failWith 0x104 cause.toNat) s
  | 5 => clipFault (owner.toNat % 65536) cause s
  | 6 => finish (ownerRing owner, ownerTag owner) (failWith 0x104 cause.toNat) s
  | 7 => if owner.toNat / 65536 = 0x8000 then clipFault (owner.toNat % 65536) cause s
         else finish (ownerRing owner, ownerTag owner) (failWith 0x104 cause.toNat) s
  | _ => s

/-- Parks a transfer with a cause (R292), or kills it with CAUSE 0x30 when no record is free. `retries` counts earlier
resumptions that failed. -/
def parkTransfer (bulk : Bool) (n : Nat) (t : Transfer) (cause : Byte) (faultAddr retries : Nat) (s : State) : State :=
  let l := getAt [] n (if bulk then s.mem.bulk else s.mem.host)
  let rest := swapTransfer t [] l
  let s := { s with mem := { s.mem with
    bulk := (if bulk then putAt n rest s.mem.bulk else s.mem.bulk)
    host := (if bulk then s.mem.host else putAt n rest s.mem.host) } }
  match freePark s with
  | none => killReport t.cls t.owner 0x30 (ingestOf t.desc t.blocks) s
  | some i =>
    let pr : ParkRecord := {
      desc := t.desc, done := t.done, total := t.total
      engine := BitVec.ofNat 8 ((if bulk then 16 else 32) + n), cause := cause, state := 1, cls := t.cls
      owner := t.owner, faultAddr := BitVec.ofNat 64 faultAddr, round := s.bell.roundSeq, retries := retries
      faultSeq := s.flt.nextSeq, blocks := t.blocks }
    let s := recordFault { code := 0x410, scope := 1, unit := unitCode 9 n, body := parkBytes pr } s
    { s with mem := { s.mem with parks := putAt i pr s.mem.parks } }

/-! ## Freezing (R294) -/

/-- Host-to-Granary transfers hold host-ingest blocks. -/
def holdsIngest (t : Transfer) : Bool := descSrcSpace t.desc == 2

/-- A frozen transfer with no granule in flight goes into a park record; blocks past GRANULE_DONE return to the pool. -/
def freezeRecord (bulk : Bool) (n : Nat) (t : Transfer) (s : State) : State :=
  match freePark s with
  | none => s
  | some i =>
    let kept := if holdsIngest t then keptBlocks t.done t.blocks else t.blocks
    let pr : ParkRecord := {
      desc := t.desc, done := t.done, total := t.total
      engine := BitVec.ofNat 8 ((if bulk then 16 else 32) + n), cause := 0, state := 2, cls := t.cls, owner := t.owner
      faultAddr := 0, round := s.bell.roundSeq, retries := 0, faultSeq := 0, blocks := kept }
    let gone := t.blocks.filter fun b => !kept.contains b
    let rest := swapTransfer t [] (getAt [] n (if bulk then s.mem.bulk else s.mem.host))
    poolFree 3 gone { s with
      jobs := s.jobs.map fun j =>
        if t.cls = 4 ∧ j.ring = ownerRing t.owner ∧ j.tag = ownerTag t.owner then
          { j with blocks := j.blocks.filter fun b => !gone.contains b } else j
      mem := { s.mem with
        parks := putAt i pr s.mem.parks
        bulk := (if bulk then putAt n rest s.mem.bulk else s.mem.bulk)
        host := (if bulk then s.mem.host else putAt n rest s.mem.host) } }

/-- Freezes one transfer: no new granule issues, and with none in flight it goes into a park record at once. -/
def freezeOne (bulk : Bool) (n : Nat) (t : Transfer) (s : State) : State :=
  let f := { t with frozen := true }
  let l := getAt [] n (if bulk then s.mem.bulk else s.mem.host)
  let s := { s with mem := { s.mem with
    bulk := (if bulk then putAt n (swapTransfer t [f] l) s.mem.bulk else s.mem.bulk)
    host := (if bulk then s.mem.host else putAt n (swapTransfer t [f] l) s.mem.host) } }
  if f.flight.isEmpty then freezeRecord bulk n f s else s

/-- Every unfinished transfer of a job freezes at a pre-emption. -/
def freezeJob (ring : BitVec 6) (tag : BitVec 16) (s : State) : State :=
  let mine (t : Transfer) : Bool :=
    t.cls == 4 && ownerRing t.owner == ring && ownerTag t.owner == tag && decide (t.done < t.total) && !t.frozen
  let s := s.mem.host.foldl (fun s e => (e.2.filter mine).foldl (fun s t => freezeOne false e.1 t s) s) s
  s.mem.bulk.foldl (fun s e => (e.2.filter mine).foldl (fun s t => freezeOne true e.1 t s) s) s

/-- A frozen transfer of a job is retargeted to new blocks and continues (R294); it waits while the pool has none. -/
def thawOne (i : Nat) (p : ParkRecord) (s : State) : State :=
  let want := if descSrcSpace p.desc = 2 then min 4096 (ceilDiv p.total 16) - p.blocks.length else 0
  let mine (j : Job) : Bool := j.ring == ownerRing p.owner && j.tag == ownerTag p.owner
  match poolAlloc 3 0x1000 want s with
  | (none, s') =>
    if s.jobs.any fun j => mine j && j.starved then s
    else { s' with jobs := s'.jobs.map fun j => if mine j then { j with starved := true } else j }
  | (some bs, s') =>
    let s' := { s' with
      jobs := s'.jobs.map fun j => if mine j then { j with blocks := j.blocks ++ bs, starved := false } else j
      mem := { s'.mem with parks := dropAt i s'.mem.parks } }
    resumeTransfer { p with blocks := p.blocks ++ bs } s'

/-- Every frozen transfer of a job continues when its next layer issues. -/
def thawJob (ring : BitVec 6) (tag : BitVec 16) (s : State) : State :=
  (s.mem.parks.filter fun e => e.2.state == 2 && e.2.cls == 4 && ownerRing e.2.owner == ring
      && ownerTag e.2.owner == tag).foldl (fun s e => thawOne e.1 e.2 s) s

/-! ## PARK_RECORD_ACTION (R293) -/

/-- Bailiff examines a park record with STATE 1: ring transfers resume once per management step, every other class is
killed. A metadata ring write that has failed to resume 8 times drops its records. -/
def parkAction (i : Nat) (p : ParkRecord) (s : State) : State :=
  if p.state ≠ 1 ∨ p.cause = 0x31 then s
  else if p.cls ≤ 2 then
    let n := p.owner.toNat % 64
    if p.tried = some (mgmtStep s) then s
    else if !hostUp s then
      let p := { p with retries := p.retries + 1, tried := some (mgmtStep s) }
      if p.cls = 2 ∧ 8 ≤ p.retries then
        let q := (mrAt s n).queue
        let s := q.foldl (fun s r =>
          poolFree 1 (r.block :: (match r.ext with | some (_, b) => [b] | none => [])) (dropRecord r.ctx.toNat s)) s
        setMr n { mrAt s n with parked := false, queue := [] }
          { s with mem := { s.mem with parks := dropAt i s.mem.parks } }
      else { s with mem := { s.mem with parks := putAt i p s.mem.parks } }
    else
      let s := { s with mem := { s.mem with parks := dropAt i s.mem.parks } }
      match p.cls with
      | 0 => setSq n { sqAt s n with parked := false } s
      | 1 => flushCq n (setCq n { cqAt s n with parked := false } s)
      | _ => refreshMr n (setMr n { mrAt s n with parked := false } s)
  else
    killReport p.cls p.owner p.cause (ingestOf p.desc p.blocks) { s with mem := { s.mem with parks := dropAt i s.mem.parks } }

/-- PARK_RECORD_ACTION: Bailiff acts on one park record. -/
def execParkRecordAction (index : BitVec 10) (s : State) : Res :=
  .next (match findAt index.toNat s.mem.parks with
    | some p => parkAction index.toNat p s
    | none => s)

end Sys2Proof.Machine
end

