-- ==== Sys2Proof/Machine/Image.lean ====
section
/-! DEFINITION. Machine/Image.lean: the parts of a network image (R210 to R213) and what a layer of it costs (R71,
R212). -/

namespace Sys2Proof.Machine

/-! ## Sections (R211) -/

/-- A section-table entry. -/
structure Section where
  type : Nat
  cls : Nat
  rsv : Nat
  count : Nat
  offset : Nat
  deriving DecidableEq, Repr

/-- The section table at the start of a body. -/
def sectionsOf (body : List Byte) (n : Nat) : List Section :=
  (List.range n).map fun i =>
    let o := 16 * i
    { type := numAt body o 2, cls := numAt body (o + 2) 1, rsv := numAt body (o + 3) 1, count := numAt body (o + 4) 4,
      offset := numAt body (o + 8) 8 }

/-- The section of one type for one class; 0xFF names a section that is not per class. -/
def findSection (secs : List Section) (type cls : Nat) : Option Section :=
  secs.find? fun e => e.type = type ∧ e.cls = cls

/-- Bytes of a section from its first entry. -/
def sectionBytes (body : List Byte) (x : Section) : List Byte := body.drop x.offset

/-! ## Entries (R212, R213) -/

/-- The c of CLASS_MASK for the present capacity class (R210, R225). -/
def classCode (s : State) : Nat := capacityClass s - 8

/-- A layer-table entry. -/
def layerAt (l : List Byte) (i : Nat) : Layer :=
  let o := 32 * i
  { a := numAt l o 4, s := numAt l (o + 4) 4, batchLimit := numAt l (o + 8) 2, slack := numAt l (o + 10) 2,
    firstSlot := numAt l (o + 12) 4, slots := numAt l (o + 16) 2, lflags := BitVec.ofNat 8 (numAt l (o + 18) 1),
    ops := numAt l (o + 19) 1 }

/-- An input descriptor. -/
def inputAt (l : List Byte) (i : Nat) : InputDesc :=
  let o := 64 * i
  { cropMode := numAt l o 1, fit := numAt l (o + 1) 1, filter := numAt l (o + 2) 1, colour := numAt l (o + 3) 1,
    matrix := numAt l (o + 4) 1, range := numAt l (o + 5) 1, format := numAt l (o + 6) 1, fold := numAt l (o + 7) 1,
    x := numAt l (o + 8) 2, y := numAt l (o + 10) 2, w := numAt l (o + 12) 2, h := numAt l (o + 14) 2,
    outW := numAt l (o + 16) 2, outH := numAt l (o + 18) 2,
    shift := (List.range 4).map fun k => signedOf 8 (numAt l (o + 20 + k) 1),
    offset := (List.range 4).map fun k => numAt l (o + 24 + 2 * k) 2,
    pad := (List.range 4).map fun k => numAt l (o + 32 + 2 * k) 2,
    view := numAt l (o + 40) 1 }

/-- Layers of a loaded network for the present class. -/
def layersOf (s : State) (n : Network) : List Layer := getAt [] (classCode s) n.layersByClass

/-- The worst-case execution time of a layer at a batch: A + ceil(B * S / 65,536) (R71, R212). -/
def layerTime (l : Layer) (batch : Nat) : Nat := l.a + ceilDiv (batch * l.s) 65536

/-- Sets bits [hi:lo] of a number. -/
def setBits (v hi lo x : Nat) : Nat :=
  v - bitsOf v hi lo * 2 ^ lo + x % 2 ^ (hi + 1 - lo) * 2 ^ lo

/-- A slot template at a batch (R212): START from the layer's start, and every FINISH that is not zero raised. -/
def instantiate (tmpl : Nat) (startA startS finishS batch : Nat) : BitVec 4096 :=
  let up (v hi lo : Nat) : Nat :=
    let f := bitsOf v hi lo
    if f = 0 then v else setBits v hi lo (f + ceilDiv (batch * finishS) 65536)
  let v := setBits tmpl 23 0 (startA + ceilDiv (batch * startS) 65536)
  let v := (List.range 16).foldl (fun v g => up v (192 + 128 * g + 55) (192 + 128 * g + 32)) v
  let v := (List.range 16).foldl (fun v c => up v (2240 + 64 * c + 55) (2240 + 64 * c + 32)) v
  BitVec.ofNat 4096 (up v (3776 + 55) (3776 + 32))

/-- The slots of one layer of a network for the present class at a batch, START from the layer's start. -/
def layerSlots (s : State) (n : Network) (l : Layer) (batch : Nat) : List (BitVec 4096) :=
  let secs := sectionsOf n.body n.sections
  match findSection secs 3 (classCode s), findSection secs 4 (classCode s) with
  | some t, some c =>
    (List.range l.slots).map fun k =>
      let i := l.firstSlot + k
      let tb := (sectionBytes n.body t).drop (512 * i)
      let cb := (sectionBytes n.body c).drop (16 * i)
      instantiate (leNat (tb.take 512)) (numAt cb 0 4) (numAt cb 4 4) (numAt cb 8 4) batch
  | _, _ => []

/-- Cores not retired, ascending: entry i is the physical core of logical core i (R225). -/
def physicalCores (s : State) : List Nat := (List.range 128).filter fun c => !(coreAt s c).retired

/-- The cores of the present class's mapping; the others stay off (R225). -/
def classCores (s : State) : List Nat := (physicalCores s).take (8 * capacityClass s)

/-! ## Prepared inputs (R140, R245) -/

/-- The number of a stream's entry among the sheaf's MEMBERS (R112, R245). -/
def memberEntry (sh : Sheaf) (c : Nat) : Option Nat :=
  (List.range sh.entries.length).find? fun i => (sh.entries.getD i 0).toNat == c

/-- The entry of a context in its sheaf. -/
def memberIndex (s : State) (c : Nat) : Option Nat :=
  match (streamAt s c).sheaf with
  | none => none
  | some n => memberEntry (getAt ({} : Sheaf) n s.sheaves) c

/-- The input descriptors that network `n` reads from pictures of stream `c`. A fused network reads of each member the
inputs whose VIEW is the member's entry. -/
def inputsFrom (s : State) (n c : Nat) : List InputDesc :=
  match netAt s n with
  | none => []
  | some v =>
    if v.role = 2 then
      match memberIndex s c with
      | some i => v.inputs.filter fun d => d.view = i
      | none => []
    else if v.role = 0 then v.inputs else []

/-- The distinct inputs that a stream prepares, in the order of its NETWORKS list: images whose descriptors are
identical share one. -/
def inputsOf (s : State) (c : Nat) : List InputDesc :=
  ((streamAt s c).ad.networks.flatMap fun n => inputsFrom s n c).eraseDups

/-- Whether every input that network `n` reads of a frame is prepared. -/
def inputsReady (s : State) (n : Nat) (f : FrameRec) : Bool :=
  let all := inputsOf s f.ctx.toNat
  (inputsFrom s n f.ctx.toNat).all fun d => f.inputs.any fun i => all[i]? == some d

/-- A frame's picture was passed on to preparation (R132): outcome 0 or 1. -/
def passedOn (f : FrameRec) : Bool := decide (f.report.outcome.toNat < 2)

end Sys2Proof.Machine
end

