-- ==== Sys2Proof/Machine/RollCall.lean ====
section
/-! DEFINITION. Machine/RollCall.lean: Roll Call (R58, R64, R66, R69 to R72, R110, R125 to R128, R146, R235, R236,
R271, R275), the flow table's insertion (R94 to R99), and the streams a capacity fall sheds (R79, R80). Video and
compute times are whole numbers of 1/3264 ns, in which every rate of R128 and R146 is exact. -/

namespace Sys2Proof.Machine

/-! ## What one stream is charged -/

/-- A stream as Roll Call charges it: unlocked, or by its charged windows (R65, R66). -/
structure Load where
  ctx : Nat
  ad : AdmitParams
  windows : Option Cadence
  deriving DecidableEq, Repr

/-- Streams admitted or pending admission, but for one. -/
def loadsBut (s : State) (c : Nat) : List Load :=
  (s.streams.filter fun e => e.1 != c && (holds e.2.state || s.bell.changes.any fun x => x.kind == .admission (BitVec.ofNat 12 e.1))).map
    fun e => { ctx := e.1, ad := e.2.ad, windows := e.2.clk.charged }

/-- Half-width J in fc (R56, R64). -/
def jitterFc (s : State) : Nat := 312500 * s.bell.set.jitter.toNat

/-- m(s) of R64 for a frame rate in frames per 1,000 s. -/
def mRate (s : State) (rate : Nat) : Nat :=
  roundLen s * rate / (1250000000000 - 2 * jitterFc s * rate) + 1

/-- Frame interval T(s) in fc, rounded down (R64). -/
def intervalFc (rate : Nat) : Nat := 1250000000000 / max 1 rate

/-- Start and end of window `n` of a cadence, in its own units. -/
def winStart (w : Cadence) (n : Nat) : Int := (w.t0 + n * w.period : Int) - w.half
def winEnd (w : Cadence) (n : Nat) : Int := (w.t0 + n * w.period : Int) + w.half

/-- A unit of 1/D fc in which the windows of every load are whole, and the loads in it. -/
def commonUnit (loads : List Load) : Nat := ((loads.filterMap (·.windows)).map fun w => max 1 w.den).foldl Nat.lcm 1
def inUnit (d : Nat) (l : Load) : Load :=
  { l with windows := l.windows.map fun w =>
    let k := d / max 1 w.den
    { t0 := k * w.t0, period := k * w.period, half := k * w.half, den := d } }

/-- Windows of a cadence, extended over all time, that overlap [x, x + len] (R66), by their starts. -/
def windowsIn (w : Cadence) (x : Int) (len : Nat) : List Int :=
  let p : Int := max 1 w.period
  -- window k starts at base + k * p and overlaps when start ≤ x + len and start + 2 half ≥ x
  let base : Int := (w.t0 : Int) - w.half
  let lo := -((-(x - 2 * w.half - base)) / p)
  let hi := (x + len - base) / p
  (List.range (hi - lo + 1).toNat).map fun i => base + (lo + i) * p

/-- Positions of the interval at which a charge can change, over one hyperperiod of the windows. -/
def positions (ws : List Cadence) (len : Nat) : List Int :=
  let l := (ws.map fun w => max 1 w.period).foldl Nat.lcm 1
  0 :: ws.flatMap fun w =>
    (List.range (l / max 1 w.period)).flatMap fun n =>
      [winStart w n - len, winStart w n, winStart w n + 1, winEnd w n, winEnd w n + 1]

/-- charge(I) of R66 over some streams, for the interval of length `len` at `x`, in the unit of their windows. -/
def chargeAt (s : State) (loads : List Load) (len : Nat) (x : Int) : Nat :=
  (loads.map fun l => match l.windows with
    | none => mRate s l.ad.frameRate
    | some w => (windowsIn w x len).length).foldl (· + ·) 0

/-- The largest charge over every interval of length R (R66). -/
def maxCharge (s : State) (loads : List Load) : Nat :=
  let d := commonUnit loads
  let l := loads.map (inUnit d)
  ((positions (l.filterMap (·.windows)) (d * roundLen s)).map (chargeAt s l (d * roundLen s))).foldl max 0

/-! ## Flow table (R94 to R99) -/

/-- The 48-byte key of a stream. -/
def flowKey (op : OpenParams) : List Byte :=
  [BitVec.ofNat 8 op.source, if op.ipv6 then 6 else 4]
    ++ leBytes 2 (if op.vlan.getLsbD 12 then op.vlan.toNat else 0)
    ++ leBytes 16 op.srcIp.toNat ++ leBytes 16 op.dstIp.toNat ++ leBytes 2 op.srcPort.toNat ++ leBytes 2 op.dstPort.toNat
    ++ leBytes 4 op.ssrc.toNat ++ [0, 0, 0, 0]

/-- A key as the table holds it. -/
def keyBits (k : List Byte) : BitVec 384 := BitVec.ofNat 384 (leNat k)

/-- Slot of a key in a way (R95). -/
def flowSlot (way : Nat) (k : BitVec 384) : Nat :=
  let c := (crc32c (leBytes 48 k.toNat)).toNat
  if way = 0 then bitsOf c 11 0 else (bitsOf c 27 16) ^^^ Config.salt.toNat

abbrev FlowEntry := BitVec 384 × BitVec 12

def wayOf (t : FlowTable) (w : Nat) : SMap FlowEntry := if w = 0 then t.way0 else t.way1
def setWay (w slot : Nat) (e : FlowEntry) (t : FlowTable) : FlowTable :=
  if w = 0 then { t with way0 := putAt slot e t.way0 } else { t with way1 := putAt slot e t.way1 }

/-- The walk of R97 from entry `x`, to be placed in way `w`, with the table as changed so far. -/
def flowWalk (fuel w : Nat) (x : FlowEntry) (t : FlowTable) : Option FlowTable :=
  match fuel with
  | 0 => none
  | f + 1 =>
    let slot := flowSlot w x.1
    match findAt slot (wayOf t w) with
    | none => some (setWay w slot x t)
    | some y =>
      let t := setWay w slot x t
      let v := 1 - w
      if (findAt (flowSlot v y.1) (wayOf t v)).isNone then some (setWay v (flowSlot v y.1) y t)
      else flowWalk f v y t

/-- insert(k) of R97: the table with the key in it, or none. The walk works on a copy. -/
def flowInsert (e : FlowEntry) (t : FlowTable) : Option FlowTable :=
  if (findAt (flowSlot 0 e.1) t.way0).isNone then some (setWay 0 (flowSlot 0 e.1) e t)
  else if (findAt (flowSlot 1 e.1) t.way1).isNone then some (setWay 1 (flowSlot 1 e.1) e t)
  else match flowWalk 32 0 e t with
    | some t' => some t'
    | none => if t.stash.length < 64 then some { t with stash := t.stash ++ [e] } else none

/-- The stash moves of R99: each stash entry goes to a direct slot that is free. -/
def stashMoves (t : FlowTable) : FlowTable :=
  t.stash.foldl (fun t e =>
    let t' := { t with stash := t.stash.filter fun x => x != e }
    if (findAt (flowSlot 0 e.1) t.way0).isNone then setWay 0 (flowSlot 0 e.1) e t'
    else if (findAt (flowSlot 1 e.1) t.way1).isNone then setWay 1 (flowSlot 1 e.1) e t'
    else t) { t with moveDue := false }

/-! ## Term 1: networks -/

/-- Networks that some streams name, ascending. -/
def namedNets (loads : List Load) : List Nat := insNats (loads.flatMap fun l => l.ad.networks) []

/-- Whether a handle is loaded, compiled for the present class, and not marked faulted (R69, R313). -/
def netUsable (s : State) (n : Nat) : Bool :=
  match netAt s n with
  | some v => (findAt (classCode s) v.layersByClass).isSome && !v.faulted && v.role != 4
  | none => false

/-- Tile-program words and scale entries that some networks use on each core (R211). -/
def progWords (s : State) (ns : List Nat) : Nat :=
  (ns.map fun n => match netAt s n with | some v => v.progWords | none => 0).foldl (· + ·) 0
def scaleWords (s : State) (ns : List Nat) : Nat :=
  (ns.map fun n => match netAt s n with | some v => v.scaleUsed | none => 0).foldl (· + ·) 0

/-- The track cap of a network (R235). -/
def trackCap (s : State) (n : Nat) : Nat := match netAt s n with | some v => v.track.trackCap | none => 0

/-- A stream's tracked network (R235). -/
def trackedNet (s : State) (ns : List Nat) : Option Nat := ns.find? fun n => decide (0 < trackCap s n)

def isAssoc (s : State) (n : Nat) : Bool := match netAt s n with | some v => v.role == 3 | none => false
def isRole (s : State) (r n : Nat) : Bool := match netAt s n with | some v => v.role == r | none => false

/-- The association network of some networks. -/
def assocNet (s : State) (ns : List Nat) : Option Nat := ns.find? (isAssoc s)

/-- Index of the first entry at which the fit of R211 is broken, or a handle cannot be used. -/
def firstUnfit (s : State) : List (Nat × Nat) → List Nat → Option Nat
  | [], _ => none
  | (i, n) :: r, have_ =>
    if !netUsable s n then some i
    else
      let ns := insNat n have_
      if 4096 < progWords s ns ∨ 2048 < scaleWords s ns then some i else firstUnfit s r ns

/-- Index of the first entry that breaks the tracking combinations of R235. -/
def badTracking (s : State) (entries : List (Nat × Nat)) : Option Nat :=
  let tracked := entries.filter fun e => decide (0 < trackCap s e.2)
  let assoc := entries.filter fun e => isAssoc s e.2
  match tracked with
  | [] => none
  | t :: [] => match assoc with
    | [] => some t.1
    | _ :: [] => none
    | _ :: b :: _ => some b.1
  | _ :: b :: _ => some b.1

/-! ## Term 3: pinned memory -/

/-- Rounds up to a multiple. -/
def roundUp (m v : Nat) : Nat := ceilDiv v (max 1 m) * m

/-- Bytes of a buffer for a picture (R125). -/
def bufferBytes (w h b : Nat) : Nat :=
  roundUp 0x200000 (roundUp 256 (w * b) * h) + roundUp 0x200000 (roundUp 256 (ceilDiv w 2 * 2 * b) * ceilDiv h 2)

def sampleBytes (ad : AdmitParams) : Nat := if ad.bitDepth = 8 then 1 else 2

/-- Entries of the replay index: 20 s of frames, rounded up to a power of two (R110). -/
def replayEntries (ad : AdmitParams) : Nat := 2 ^ log2Up (ceilDiv (20 * ad.frameRate) 1000)

/-- Bytes of a stream's replay-ring allocation (R110). -/
def replayBytes (ad : AdmitParams) : Nat :=
  max 0x200000 (roundUp 0x200000 (32 * replayEntries ad + ceilDiv (20 * ad.frameRate * ad.maxAu) 8000))

/-- Pinned HBM of a stream in 2 MiB pages: replay ring, ten frame buffers, two reduced copies (R110, R125). -/
def hbmPages (ad : AdmitParams) : Nat :=
  let b := sampleBytes ad
  let f := ad.reduction
  (replayBytes ad + 10 * bufferBytes ad.maxW ad.maxH b
    + (if 1 < f then 2 * bufferBytes (ceilDiv ad.maxW f) (ceilDiv ad.maxH f) b else 0)) / 0x200000

/-- ROW_BYTES and SAMPLE_BYTES of a prepared input (R145). -/
def inputRowBytes (d : InputDesc) : Nat :=
  roundUp 256 (if d.fold = 8 then (if d.format < 2 then ceilDiv d.outW 8 else ceilDiv d.outW 4) * 32 else d.outW * 32)
def inputBytes (d : InputDesc) : Nat := d.outH * inputRowBytes d

/-- Distinct inputs of a stream that names some networks, with whether a fused network reads each (R145). A stream that
is in no sheaf yet is charged every input of a fused network it names. -/
def chargedInputs (s : State) (c : Nat) (ns : List Nat) : List (InputDesc × Bool) :=
  let of (n : Nat) : List InputDesc := match netAt s n with
    | none => []
    | some v =>
      if v.role = 0 then v.inputs
      else if v.role = 2 then match memberIndex s c with
        | some i => v.inputs.filter fun d => d.view = i
        | none => v.inputs
      else []
  let all := (ns.flatMap of).eraseDups
  all.map fun d => (d, ns.any fun n => isRole s 2 n && (of n).contains d)

/-- Decoder state of a stream in 4 KiB units (R271). -/
def decoderUnits (ad : AdmitParams) : Nat := ceilDiv (8192 + 2 * ceilDiv ad.maxW 16 * ceilDiv ad.maxH 16) 4096

/-- Pinned Granary of a stream in 4 KiB units: decoder state and prepared-input slots (R145, R271). -/
def granaryUnits (s : State) (c : Nat) (ad : AdmitParams) : Nat :=
  let dec := decoderUnits ad
  let slots := ((chargedInputs s c ad.networks).map fun e =>
    (if e.2 then 4 else 2) * mRate s ad.frameRate * (inputBytes e.1 + 32)).foldl (· + ·) 0
  dec + ceilDiv slots 4096

/-- Allocatable HBM pages (R269) and 4 KiB units of banks 24 to 47 (R271). -/
def totalPages : Nat := 0xAE00
def totalUnits : Nat := 24 * 2048

/-! ## Terms 7 and 8: video lanes (R70) -/

/-- Source rectangle of an input at the admitted maximum, in luma pixels (R146). -/
def sourcePixels (ad : AdmitParams) (d : InputDesc) : Nat :=
  if d.cropMode = 0 then ad.maxW * ad.maxH else d.w * d.h

/-- d of R128 in 1/3264 ns. -/
def decodeTime (ad : AdmitParams) : Nat :=
  let e := 8 * ad.maxAu
  let p := ad.profile.toNat
  18000 * 3264 + max (ad.maxW * ad.maxH * 2176) (if p = 0x11 ∨ p = 0x41 then e * 816 else e * 1920)

/-- p of R146 in 1/3264 ns. -/
def prepTime (s : State) (c : Nat) (ad : AdmitParams) : Nat :=
  let f := max 1 ad.reduction
  ((chargedInputs s c ad.networks).map fun e =>
    max (sourcePixels ad e.1 * (1088 / (f * f))) (e.1.outW * e.1.outH * 1632)).foldl (· + ·) 0

/-- U of R58 in fc and in 1/3264 ns. -/
def usableFc (s : State) : Nat := roundLen s - (if s.bell.set.reserve then 937500 else 187500)
def usable (s : State) : Nat := usableFc s * 4 * 3264 / 5

/-- Pictures charged in the interval at `x` to one lane: (start, context, engine, d, p), in the order of R70. -/
def lanePictures (s : State) (loads : List Load) (len : Nat) (x : Int) : List (Int × Nat × Nat × Nat × Nat) :=
  let one (l : Load) : List (Int × Nat × Nat × Nat × Nat) :=
    let d := decodeTime l.ad
    let p := prepTime s l.ctx l.ad
    match l.windows with
    | none => List.replicate (mRate s l.ad.frameRate) (x, l.ctx, l.ad.engine, d, p)
    | some w => (windowsIn w x len).map fun t => (t, l.ctx, l.ad.engine, d, p)
  sortBy (fun a b => decide (a.1 < b.1) || (a.1 == b.1 && decide (a.2.1 ≤ b.2.1))) (loads.flatMap one)

/-- The schedule of one lane over an interval: the end of each decode engine and of the preparation engine. -/
def laneEnds (even odd prep : Nat) : List (Int × Nat × Nat × Nat × Nat) → Nat × Nat × Nat
  | [] => (even, odd, prep)
  | (_, _, e, d, p) :: r =>
    if e % 2 = 0 then laneEnds (even + d) odd (max prep (even + d) + p) r
    else laneEnds even (odd + d) (max prep (odd + d) + p) r

/-- The latest ends of one lane over every interval: (decode, preparation). -/
def laneWorst (s : State) (loads : List Load) : Nat × Nat :=
  let d := commonUnit loads
  let l := loads.map (inUnit d)
  ((positions (l.filterMap (·.windows)) (d * roundLen s)).map fun x =>
    let e := laneEnds 0 0 0 (lanePictures s l (d * roundLen s) x)
    (max e.1 e.2.1, max (max e.1 e.2.1) e.2.2)).foldl (fun a b => (max a.1 b.1, max a.2 b.2)) (0, 0)

/-- Whether engine `e` takes new bindings: neither it nor its lane's preparation engine is retired or retiring. -/
def bindable (s : State) (e : Nat) : Bool :=
  let d := decAt s e
  let p := prepAt s (e / 2)
  !d.retired && !d.retiring && !p.retired && !p.retiring

/-- The loads of a lane when one stream is bound to engine `e`. -/
def laneLoads (loads : List Load) (e : Nat) (l : Load) : List Load :=
  (loads.filter fun k => k.ad.engine / 2 = e / 2) ++ [{ l with ad := { l.ad with engine := e } }]

/-- What a binding gives: the engine, or the time lacking in each term over every binding tried (R70). -/
inductive Binding where
  | found (engine : Nat)
  | decode (lack : Nat)
  | prep (lack : Nat)
  deriving DecidableEq, Repr

/-- Tries engines in order. -/
def bindFrom (s : State) (loads : List Load) (l : Load) : List Nat → Option Nat → Option Nat → Binding
  | [], _, some p => .prep p
  | [], some d, none => .decode d
  | [], none, none => .decode (decodeTime l.ad)
  | e :: r, dl, pl =>
    let w := laneWorst s (laneLoads loads e l)
    let u := usable s
    let least (o : Option Nat) (v : Nat) : Option Nat := some (match o with | none => v | some x => min x v)
    if !bindable s e then bindFrom s loads l r dl pl
    else if u < w.1 then bindFrom s loads l r (least dl (w.1 - u)) pl
    else if u < w.2 then bindFrom s loads l r dl (least pl (w.2 - u))
    else .found e

/-- The lane check of R70. -/
def bindStream (s : State) (loads : List Load) (l : Load) : Binding := bindFrom s loads l (List.range 32) none none

/-! ## Term 9: layer time (R71) -/

/-- The members of a sheaf: the streams that name it, or all of its SHEAF_DEFINE before that takes effect. -/
def liveMembers (s : State) (n : Nat) (sh : Sheaf) : List (BitVec 12) :=
  let live := sh.members.filter fun m => (streamAt s m.toNat).sheaf == some n
  if live.isEmpty then sh.members.filter fun m => (streamAt s m.toNat).sheaf.isNone else live

/-- Sheaves whose fused network is `n`, each as one stream (R71). DESIGN CHOICE (notes/assumptions/72.md): R71 does not say
which windows a sheaf of several cadences has; they are the charged windows of its fastest member, and the sheaf is charged
unlocked while any member is. -/
def sheafLoads (s : State) (loads : List Load) (sheaves : List (Nat × Sheaf)) (n : Nat) : List Load :=
  (sheaves.filter fun e => e.2.network = n).filterMap fun e =>
    let live := liveMembers s e.1 e.2
    let ms := loads.filter fun l => live.any fun m => m.toNat = l.ctx
    match ms with
    | [] => none
    | a :: r =>
      let fastest := r.foldl (fun (b l : Load) => if b.ad.frameRate < l.ad.frameRate then l else b) a
      let w := if ms.any fun l => l.windows.isNone then none
        else fastest.windows.map fun c =>
          { c with t0 := c.t0 + c.den * roundLen s, half := c.half + c.den * roundLen s }
      some { fastest with windows := w }

/-- Streams that name a network. -/
def naming (loads : List Load) (n : Nat) : List Load := loads.filter fun l => l.ad.networks.contains n

/-- The track charge (R236). -/
def trackCharge (s : State) (loads : List Load) : Nat :=
  (loads.map fun l => match trackedNet s l.ad.networks with | some n => trackCap s n | none => 0).foldl (· + ·) 0

/-- A network's batch (R71); `fuel` bounds a chain of networks that read one another's regions. -/
def batchOf (s : State) (loads : List Load) (sheaves : List (Nat × Sheaf)) (fuel n : Nat) : Nat :=
  match fuel with
  | 0 => 0
  | f + 1 =>
    match netAt s n with
    | none => 0
    | some v => match v.role with
      | 0 => maxCharge s (naming loads n)
      | 1 => batchOf s loads sheaves f v.upstream * v.regionCap
      | 2 => maxCharge s (sheafLoads s loads sheaves n)
      | 3 => trackCharge s loads
      | _ => 0

/-- Networks fed by regions in the order in which their upstream has been placed. -/
def regionOrder (s : State) (fuel : Nat) (placed todo : List Nat) : List Nat :=
  match fuel with
  | 0 => placed
  | f + 1 =>
    match todo.find? fun n => match netAt s n with | some v => placed.contains v.upstream || !todo.contains v.upstream | none => true with
    | none => placed
    | some n => regionOrder s f (placed ++ [n]) (todo.filter (· != n))

/-- Networks in timetable order without the association networks (R201). -/
def netOrder (s : State) (ns : List Nat) : List Nat :=
  let r0 := ns.filter (isRole s 0)
  let r1 := regionOrder s ns.length [] (ns.filter (isRole s 1))
  r0 ++ r1 ++ ns.filter (isRole s 2)

/-- One charged piece of the compute term: network handle or 0xFFFF, layer index or OP, time, over its batch limit. -/
abbrev Piece := Nat × Nat × Nat × Bool

/-- The layers of a network at its batch. -/
def netPieces (s : State) (loads : List Load) (sheaves : List (Nat × Sheaf)) (n : Nat) : List Piece :=
  match netAt s n with
  | none => []
  | some v =>
    let b := batchOf s loads sheaves 64 n
    let ls := layersOf s v
    (List.range ls.length).zip ls |>.map fun e => (n, e.1, layerTime e.2 b, decide (e.2.batchLimit < b))

/-- Every piece in timetable order (R71, R201, R237). -/
def computePieces (s : State) (loads : List Load) (sheaves : List (Nat × Sheaf)) : List Piece :=
  let ns := namedNets loads
  let assoc := ns.filter (isRole s 3)
  let bA := trackCharge s loads
  let tracked := loads.any fun l => (trackedNet s l.ad.networks).isSome
  let batch (n : Nat) : Nat := batchOf s loads sheaves 64 n
  let nDet := ((ns.filter fun n => decide (0 < trackCap s n)).map fun n =>
    match netAt s n with | some v => batch n * v.recCap | none => 0).foldl (· + ·) 0
  let nRec := maxCharge s loads + 2 * (ns.map fun n =>
    match netAt s n with | some v => batch n * v.recCap | none => 0).foldl (· + ·) 0
  (netOrder s ns).flatMap (netPieces s loads sheaves)
    ++ (if tracked then [(0xFFFF, 1, 1000 + 2 * bA, false)] else [])
    ++ assoc.flatMap (netPieces s loads sheaves)
    ++ (if tracked then [(0xFFFF, 2, 1000 + 4 * bA + 2 * nDet, false)] else [])
    ++ (if loads.isEmpty then [] else [(0xFFFF, 3, 1000 + nRec, false)])

/-- The first piece at which the term fails: the cumulative time passes U, or a batch its limit. -/
def firstOver (u : Nat) : List Piece → Nat → Option Piece
  | [], _ => none
  | p :: r, t => if u < t + p.2.2.1 ∨ p.2.2.2 then some p else firstOver u r (t + p.2.2.1)

/-- Time lacking in ns, rounded up, of a time in fc. -/
def lackNs (fc : Nat) : Nat := ceilDiv (fc * 4) 5

/-- Term 9: none, or network handle, layer index or OP, and time lacking (ns). -/
def computeTerm (s : State) (loads : List Load) (sheaves : List (Nat × Sheaf)) : Option (Nat × Nat × Nat) :=
  let ps := computePieces s loads sheaves
  let total := (ps.map fun p => p.2.2.1).foldl (· + ·) 0
  (firstOver (usableFc s) ps 0).map fun p => (p.1, p.2.1, lackNs (total - usableFc s))

/-- Term 3 for a whole set: PER_SAMPLE of every network at its batch, in 4 KiB units (R213). -/
def sampleUnits (s : State) (loads : List Load) (sheaves : List (Nat × Sheaf)) : Nat :=
  ((namedNets loads).map fun n => match netAt s n with
    | some v => ceilDiv (v.perSample * batchOf s loads sheaves 64 n) 4096
    | none => 0).foldl (· + ·) 0

/-- Units of the Granary in use: FIXED of images, streams, and PER_SAMPLE of the set. -/
def fixedUnits (s : State) : Nat := (s.nets.map fun e => ceilDiv e.2.fixed 4096).foldl (· + ·) 0

/-! ## Term 4: pseudo-channel balance (R275) -/

/-- Granules of a run of `n` bytes from DPA `a`, added to the counts of the 128 pseudo-channels. -/
def addRun (counts : List Nat) (a n : Nat) : List Nat :=
  (List.range (ceilDiv (a % 256 + n) 256)).foldl (fun l k => let p := pcOf (a / 256 * 256 + 256 * k); l.set p (l.getD p 0 + 1)) counts

def noCounts : List Nat := List.replicate 128 0

def addCounts (a b : List Nat) : List Nat := (a.zip b).map fun e => e.1 + e.2

/-- The DPA of DVA `v` in an image whose weight pages are `pages`. -/
def imageDpa (pages : List Nat) (v : Nat) : Nat := pages.getD (v / 0x200000) 0 * 0x200000 + v % 0x200000

/-- The pattern of one descriptor's HBM end: every granule of every row (R275, R291). -/
def descPattern (pages : List Nat) (d : BitVec 512) (roff : Nat) : List Nat :=
  let isSrc := descSrcSpace d == 1
  if !isSrc && descDstSpace d != 1 then noCounts
  else
    let base := (if isSrc then descSrcAddr d else descDstAddr d) + roff
    let pitch := if isSrc then descSrcPitch d else descDstPitch d
    (List.range (descRows d)).foldl (fun l r => addRun l (imageDpa pages (base + r * pitch)) (descLength d)) noCounts

/-- The descriptor of a tile-program DMA instruction as executed for tile `tn` with remote step `sr` (R217, R220, R291). -/
def progPattern (pages : List Nat) (descs : List (BitVec 512)) (w tn sr : Nat) : List Nat :=
  descPattern pages (descs.getD (bitsOf w 20 8) 0) (256 * (bitsOf w 80 57 + (if w.testBit 4 then tn * sr else 0)))

/-- Patterns of a straight run of instructions for one tile, with the remote step it ends with. -/
def runPatterns (pages : List Nat) (descs : List (BitVec 512)) (tn : Nat) : List Nat → Nat → List (List Nat) × Nat
  | [], sr => ([], sr)
  | w :: r, sr =>
    let sr' := if w % 16 = 7 ∧ bitsOf w 10 8 = 2 then bitsOf w 81 58 else sr
    let t := runPatterns pages descs tn r sr'
    ((if w % 16 = 9 then [progPattern pages descs w tn sr] else []) ++ t.1, t.2)

/-- Patterns of a loop body over tiles `tn` to `tn + n - 1`. -/
def loopPatterns (pages : List Nat) (descs : List (BitVec 512)) (body : List Nat) : Nat → Nat → Nat → List (List Nat) × Nat
  | 0, _, sr => ([], sr)
  | n + 1, tn, sr =>
    let a := runPatterns pages descs tn body sr
    let t := loopPatterns pages descs body n (tn + 1) a.2
    (a.1 ++ t.1, t.2)

/-- Patterns of one core's program from a word on, up to its SYNC END: each instruction once, a loop body once for each tile
that it takes. `given` says how many tiles of each work counter earlier cores have taken. DEDUCED (notes/assumptions/14.md):
cores in ascending order take a counter's tiles up to MAX_ITER. -/
def programPatterns (pages : List Nat) (descs : List (BitVec 512)) :
    Nat → List Nat → Nat → Nat → SMap Nat → List (List Nat) × SMap Nat
  | 0, _, _, _, given => ([], given)
  | _, [], _, _, given => ([], given)
  | fuel + 1, w :: r, tn, sr, given =>
    if w % 16 = 7 ∧ bitsOf w 10 8 = 1 then ([], given)
    else if w % 16 = 8 then
      let k := bitsOf w 13 8
      let first := getAt 0 k given
      let n := min (bitsOf w 85 70) (bitsOf w 29 14 - first)
      let body := bitsOf w 69 58
      let a := loopPatterns pages descs (r.take body) n first sr
      let t := programPatterns pages descs fuel (r.drop body) (if n = 0 then tn else first + n - 1) a.2 (putAt k (first + n) given)
      (a.1 ++ t.1, t.2)
    else
      let a := runPatterns pages descs tn [w] sr
      let t := programPatterns pages descs fuel r tn a.2 given
      (a.1 ++ t.1, t.2)

/-- Patterns that a network's slots repeat in every round (R275): the transfers that they start, and those of the tile
programs that they run. -/
def netPatterns (s : State) (v : Network) : List (List Nat) :=
  let k := classCode s
  let secs := sectionsOf v.body v.sections
  let descs : List (BitVec 512) := getAt [] k v.dma
  let words : List Nat := match findSection secs 5 k with
    | none => []
    | some x => (pieces 16 ((sectionBytes v.body x).take (x.count * v.progWords * 16))).map leNat
  let slots : List Nat := match findSection secs 3 k with
    | none => []
    | some x => (List.range x.count).map fun i => leNat (((sectionBytes v.body x).drop (512 * i)).take 512)
  slots.flatMap fun w =>
    let starts := (List.range 16).filterMap fun c =>
      let f := bitsOf w (2240 + 64 * c + 63) (2240 + 64 * c)
      if f % 4 = 1 then some (descPattern v.pages (descs.getD (bitsOf f 31 8) 0) 0) else none
    let runs := (List.range 16).flatMap fun g =>
      let f := bitsOf w (192 + 128 * g + 127) (192 + 128 * g)
      if f % 4 = 1 then ((List.range 8).filter fun j => (bitsOf f 15 8).testBit j).map fun j =>
        (8 * g + j, bitsOf f 27 16, bitsOf f 79 64) else []
    let progs := runs.foldl (fun (a : List (List Nat) × SMap Nat) e =>
      let prog := (words.drop (e.1 * v.progWords)).take v.progWords
      let x := programPatterns v.pages descs v.progWords (prog.drop e.2.1) e.2.2 0 a.2
      (a.1 ++ x.1, x.2)) ([], [])
    starts ++ progs.1

/-- Whether one pattern passes: no pseudo-channel above ceil(1.25 G / 128) + 1. -/
def patternFits (p : List Nat) : Bool :=
  let g := p.foldl (· + ·) 0
  p.all fun n => decide (n ≤ ceilDiv (5 * g) 512 + 1)

/-- Runs of device memory that hold bytes [a, a + n) of an allocation of 2 MiB pages. -/
def pageRuns (pages : List Nat) : Nat → Nat → Nat → List (Nat × Nat)
  | 0, _, _ => []
  | fuel + 1, a, n =>
    if n = 0 then []
    else
      let k := min n (0x200000 - a % 0x200000)
      (pages.getD (a / 0x200000) 0 * 0x200000 + a % 0x200000, k) :: pageRuns pages fuel (a + k) (n - k)

/-- The granules of bytes [a, a + n) of an allocation. -/
def spanPattern (pages : List Nat) (a n : Nat) : List Nat :=
  (pageRuns pages (n / 0x200000 + 2) a n).foldl (fun l r => addRun l r.1 r.2) noCounts

/-- A buffer of R125 at `off` of a stream's allocation, read or written whole in row order. -/
def bufferPattern (ad : AdmitParams) (off w h : Nat) : List Nat :=
  let b := sampleBytes ad
  let luma := roundUp 256 (w * b) * h
  addCounts (spanPattern ad.pages off luma)
    (spanPattern ad.pages (off + roundUp 0x200000 luma) (roundUp 256 (ceilDiv w 2 * 2 * b) * ceilDiv h 2))

/-- The ten frame buffers of a stream, and its reduced copies (R125). -/
def framePatterns (ad : AdmitParams) : List (List Nat) :=
  (List.range 10).map fun i => bufferPattern ad (replayBytes ad + i * bufferBytes ad.maxW ad.maxH (sampleBytes ad)) ad.maxW ad.maxH
def copyPatterns (ad : AdmitParams) : List (List Nat) :=
  let f := ad.reduction
  let w := ceilDiv ad.maxW f
  let h := ceilDiv ad.maxH f
  let off := replayBytes ad + 10 * bufferBytes ad.maxW ad.maxH (sampleBytes ad)
  if f ≤ 1 then [] else (List.range 2).map fun i => bufferPattern ad (off + i * bufferBytes w h (sampleBytes ad)) w h

/-- What one stream's pictures repeat in a round (R275): each of the m(s) pictures charged writes a frame buffer, reads one
as a reference and one as preparation source, which is the reduced copy, written too, where there is one, and writes the
replay ring at MAX_AU_BYTES. DEDUCED (notes/assumptions/14.md): the pictures take the buffers in turn. -/
def streamPatterns (s : State) (ad : AdmitParams) : List (List Nat) :=
  let frames := framePatterns ad
  let copies := copyPatterns ad
  (List.range (mRate s ad.frameRate)).flatMap fun i =>
    let buf := frames.getD (i % 10) noCounts
    let copy := copies.getD (i % 2) buf
    [buf, frames.getD ((i + 9) % 10) noCounts, copy] ++ (if copies.isEmpty then [] else [copy])
      ++ [spanPattern ad.pages (32 * replayEntries ad + i * ad.maxAu) ad.maxAu]

/-- The most loaded pseudo-channel of some counts (the lowest on a tie). -/
def mostLoaded (p : List Nat) : Nat :=
  (List.range 128).foldl (fun b i => if p.getD b 0 < p.getD i 0 then i else b) 0

/-- Every pattern of an admitted set. -/
def setPatterns (s : State) (loads : List Load) : List (List Nat) :=
  ((namedNets loads).flatMap fun n => match netAt s n with | some v => netPatterns s v | none => [])
    ++ loads.flatMap fun l => streamPatterns s l.ad

/-- Term 4: none, or the most loaded pseudo-channel. -/
def balanceTerm (s : State) (loads : List Load) : Option Nat :=
  let ps := setPatterns s loads
  let whole := loads.flatMap fun l => framePatterns l.ad ++ copyPatterns l.ad
  match (ps ++ whole).find? fun p => !patternFits p with
  | some p => some (mostLoaded p)
  | none =>
    let sum := ps.foldl addCounts noCounts
    let t := sum.foldl (· + ·) 0
    if sum.all fun n => decide (n ≤ ceilDiv (5 * t) 512 + 4096) then none else some (mostLoaded sum)

/-! ## Roll Call (R69) -/

/-- What Roll Call answers: the binding, or DETAIL and RESULT. -/
inductive Verdict where
  | pass (engine : Nat)
  | refuse (detail : Nat) (result : Nat)
  deriving DecidableEq, Repr

/-- Reduction factor (R127): the largest of 4, 2, 1 that every input still satisfies. -/
def reductionOf (s : State) (c : Nat) (ad : AdmitParams) : Nat :=
  let ds := (chargedInputs s c ad.networks).map (·.1)
  let ok (f : Nat) : Bool := ds.all fun d =>
    let w := if d.cropMode = 0 then ad.maxW else d.w
    let h := if d.cropMode = 0 then ad.maxH else d.h
    decide (d.outW * f ≤ w) && decide (d.outH * f ≤ h)
  if ds.isEmpty then 1 else if ok 4 then 4 else if ok 2 then 2 else 1

/-- Terms 3 to 6 and 9 over a set: DETAIL and RESULT of the first that fails before the lanes. -/
def memoryTerm (s : State) (loads : List Load) (cand : Load) : Option Nat :=
  let pages := hbmPages cand.ad
  let freeP := totalPages - s.mem.usedPages.length
  let all := loads ++ [cand]
  let units := s.mem.used4k + granaryUnits s cand.ctx cand.ad + fixedUnits s + sampleUnits s all s.sheaves
  -- 8 blocks of the bitstream pool and 16 of the metadata pool for each stream (R116)
  let bits := 8 * all.length
  let meta_ := 16 * all.length
  if freeP < pages then some ((pages - freeP) * 0x200000)
  else if totalUnits < units then some ((units - totalUnits) * 4096)
  else if 65536 < bits then some ((bits - 65536) * 2048)
  else if 131072 < meta_ then some ((meta_ - 131072) * 64)
  else none

/-- Whether the port of a multicast candidate would hold more than 1,024 joined groups (R91). -/
def groupsFull (s : State) (loads : List Load) (op : OpenParams) : Bool :=
  let mine := (op.dstIp, op.srcIp)
  let held := ((loads.map fun l => (streamAt s l.ctx).op).filter fun o => o.multicast && o.source == op.source).map
    fun o => (o.dstIp, o.srcIp)
  let held := held.eraseDups
  op.multicast && decide (op.source < 2) && !held.contains mine && decide (1024 ≤ held.length)

/-- RESULT bytes 0 to 3, a 4-byte count. -/
def u32 (n : Nat) : Nat := min n 0xFFFFFFFF

/-- Roll Call for a candidate, charged unlocked, against every stream admitted or pending (R69). -/
def rollCall (s : State) (loads : List Load) (cand : Load) (op : OpenParams) (entries : List (Nat × Nat)) : Verdict :=
  let all := loads ++ [cand]
  match (match firstUnfit s entries (namedNets loads) with | some i => some i | none => badTracking s entries) with
  | some i => .refuse 9 i
  | none =>
  if decide (op.source < 2) && (flowInsert (keyBits (flowKey op), BitVec.ofNat 12 cand.ctx) s.flow).isNone then .refuse 7 0
  else if groupsFull s loads op then .refuse 6 0
  else match memoryTerm s loads cand with
  | some n => .refuse 6 (u32 n)
  | none =>
  match balanceTerm s all with
  | some pc => .refuse 8 pc
  | none =>
  let tracks := trackCharge s all
  let histOf (l : Load) : Nat := match trackedNet s l.ad.networks, assocNet s l.ad.networks with
    | some t, some a => trackCap s t * (match netAt s a with | some v => v.track.histMin | none => 0)
    | _, _ => 0
  let hist := (all.map histOf).foldl (· + ·) 0
  if 131072 < tracks then .refuse 4 (u32 (tracks - 131072))
  else if 524288 < hist then .refuse 5 (u32 (hist - 524288))
  else match bindStream s loads cand with
  | .decode d => .refuse 1 (u32 (ceilDiv d 3264))
  | .prep d => .refuse 2 (u32 (ceilDiv d 3264))
  | .found e => match computeTerm s all s.sheaves with
    | some (n, l, t) => .refuse 3 (n + 65536 * l + 2 ^ 32 * u32 t)
    | none => .pass e

/-! ## Shedding (R79, R80) -/

/-- Whether a set of streams passes the terms that a capacity fall can break: networks compiled for the class, lanes,
and layer time. -/
def setPasses (s : State) (loads : List Load) : Bool :=
  let live (e : Nat × Sheaf) : Bool :=
    decide (2 ≤ ((liveMembers s e.1 e.2).filter fun m => loads.any fun l => l.ctx = m.toNat).length)
  let s' := { s with sheaves := s.sheaves.filter live }
  (namedNets loads).all (netUsable s')
    && decide (progWords s' (namedNets loads) ≤ 4096) && decide (scaleWords s' (namedNets loads) ≤ 2048)
    && ((List.range 16).all fun j =>
      let w := laneWorst s' (loads.filter fun l => l.ad.engine / 2 = j)
      decide (w.1 ≤ usable s') && decide (w.2 ≤ usable s'))
    && (computeTerm s' loads s'.sheaves).isNone

/-- Streams that R79 sheds, in order, until the rest pass. -/
def shedUntil (s : State) (fuel : Nat) (left : List (Nat × Stream)) : List Nat :=
  match fuel with
  | 0 => []
  | f + 1 =>
    if setPasses s (left.map fun e => { ctx := e.1, ad := e.2.ad, windows := e.2.clk.charged }) then []
    else match firstToShed left with
      | none => []
      | some e => e.1 :: shedUntil s f (left.filter fun x => x.1 != e.1)

/-- The state with one core fewer for the class one step down. -/
def nextClassDown (s : State) : State :=
  let n := 8 * (capacityClass s - 1)
  let extra := (physicalCores s).drop n
  extra.foldl (fun s c => setCore c { coreAt s c with retired := true } s) s

/-- The shed list of R80 for a class. -/
def shedList (s : State) : List Nat := shedUntil s ((holders s).length + 1) (holders s)

end Sys2Proof.Machine
end

