-- ==== Sys2Proof/Machine/Lanes.lean ====
section
/-! DEFINITION. Machine/Lanes.lean: which picture each video engine holds: the order of a lane's pictures (R70, R124,
R312) and the inputs a frame still needs (R139, R140, R312). -/

namespace Sys2Proof.Machine

/-- Where a frame completed, as rounds * R + fc. -/
def framePos (s : State) (f : FrameRec) : Nat :=
  let start := s.bell.roundStart - (s.bell.roundSeq - f.round).toNat * roundLen s
  f.round.toNat * roundLen s + (f.doneAt - start)

/-- Start of a frame's window, over its denominator: that of the charged window it completed in, or the start of its
round. -/
def frameStart (s : State) (f : FrameRec) : Int × Nat :=
  match (streamAt s f.ctx.toNat).clk.charged with
  | some w => (winStart w ((framePos s f * w.den + w.period / 2 - w.t0) / max 1 w.period), max 1 w.den)
  | none => (f.round.toNat * roundLen s, 1)

/-- The order of R70 within a lane, the list of an earlier round first (R312). -/
def laneBefore (s : State) (a b : FrameRec) : Bool :=
  if a.round ≠ b.round then decide (a.round < b.round)
  else
  let x := frameStart s a
  let y := frameStart s b
  if x.1 * y.2 ≠ y.1 * x.2 then decide (x.1 * y.2 < y.1 * x.2)
  else if a.ctx ≠ b.ctx then decide (a.ctx < b.ctx)
  else decide (a.seq ≤ b.seq)

/-- The video engines are running: no compute reset, no halt after one that never ended. -/
def videoRuns (s : State) : Bool := s.bell.running && s.flt.reset.isNone

/-- Frames of a stream are decoded and prepared: it is admitted, or shed with the frames that it had completed (R80). -/
def served (s : State) (f : FrameRec) : Bool :=
  holds (streamAt s f.ctx.toNat).state || (streamAt s f.ctx.toNat).state == .shed

/-- A frame that a decode engine has to decode: completed in an earlier round, and either its stream still has its frames
decoded or an engine held it when the stream left (R124). -/
def toDecode (s : State) (f : FrameRec) : Bool :=
  (f.stage == .waiting && served s f || f.stage == .listed) && f.round != s.bell.roundSeq

/-- When the lanes start on the list that holds a frame: fc 125,000 of the round after the one it completed in (R203). -/
def listStart (s : State) (f : FrameRec) : Nat :=
  (if f.round + 1 == s.bell.roundSeq then s.bell.roundStart else s.bell.lastStart) + 125000

/-- The pictures of decode engine `n`, in order. -/
def decList (s : State) (n : Nat) : List FrameRec :=
  sortBy (laneBefore s) (s.frames.filter fun f => toDecode s f && (streamAt s f.ctx.toNat).ad.engine == n)

/-- The picture that decode engine `n` holds. -/
def decHead (s : State) (n : Nat) : Option FrameRec :=
  if videoRuns s && !(decAt s n).retired then (decList s n).head?.filter fun f => decide (listStart s f ≤ s.now) else none

/-- The layer-0 slot of a network has issued in this round. -/
def layerZeroIssued (s : State) (n : Nat) : Bool :=
  (List.range (activeArea s).rowNets.length).any fun b => netOfMap s b == n && (findAt b s.bell.rowMaps).isSome

/-- A network that still runs on a frame; `late` for a frame already on the round's list. -/
def netWants (s : State) (late : Bool) (f : FrameRec) (n : Nat) : Bool :=
  !f.skipped.contains n && (!late || (isRole s 0 n && !layerZeroIssued s n))

/-- Inputs of a frame that are not prepared and that a network running on it reads, by their number among the stream's
inputs. -/
def inputsLeft (s : State) (late : Bool) (f : FrameRec) : List Nat :=
  let c := f.ctx.toNat
  let all := inputsOf s c
  let read := ((streamAt s c).ad.networks.filter (netWants s late f)).flatMap fun n => inputsFrom s n c
  (List.range all.length).filter fun i => !f.inputs.contains i && (match all[i]? with | some d => read.contains d | none => false)

/-- The pictures of preparation engine `j`, in order, each with whether it is on the round's list already. A picture
whose decode has not ended keeps its place. -/
def prepList (s : State) (j : Nat) : List (FrameRec × Bool) :=
  let mine (f : FrameRec) : Bool := served s f && (streamAt s f.ctx.toNat).ad.engine / 2 == j
  let open_ (late : Bool) (f : FrameRec) : Bool :=
    mine f && (toDecode s f || (f.stage == .decoded && passedOn f && !f.notAnalysed)) && !(inputsLeft s late f).isEmpty
  let late := s.bell.frameList.filter (open_ true)
  let now := s.frames.filter fun f => f.stage != .listed && open_ false f
  sortBy (fun a b => laneBefore s a.1 b.1) (late.map (fun f => (f, true)) ++ now.map fun f => (f, false))

/-- The picture that preparation engine `j` holds: the first of its list, once it is decoded. -/
def prepHead (s : State) (j : Nat) : Option (FrameRec × Bool) :=
  if videoRuns s && !(prepAt s j).retired then
    match prepList s j with
    | x :: _ => if x.1.stage == .decoded then some x else none
    | [] => none
  else none

/-- When the picture that an engine holds began: the start of its list, the end of its predecessor, or the end of its
decode. -/
def decBegan (s : State) (n : Nat) (f : FrameRec) : Nat := max (decAt s n).idleFrom (listStart s f)
def prepBegan (s : State) (j : Nat) (f : FrameRec) : Nat := max (max (prepAt s j).idleFrom (listStart s f)) f.decodedAt

/-- fc of a time in 1/3264 ns, rounded up. -/
def fcOfTime (t : Nat) : Nat := ceilDiv (5 * t) 13056

/-- The watchdogs' bounds in fc: d + 4 µs (R129) and p + 4 µs (R146). -/
def decBound (s : State) (c : Nat) : Nat := fcOfTime (decodeTime (streamAt s c).ad) + 5000
def prepBound (s : State) (c : Nat) : Nat := fcOfTime (prepTime s c (streamAt s c).ad) + 5000

end Sys2Proof.Machine
end

