-- ==== Sys2Proof/Machine/Float.lean ====
section
/-! DEFINITION. Machine/Float.lean: the number formats (R159, R160), rounding (R163, R164), saturation (R165), FP32
arithmetic in its accuracy classes (R168), and the shift requantiser (R162). Finite values are exact: a sign, a
magnitude and a power of two. -/

namespace Sys2Proof.Machine

/-- Format codes of R220, and 8 for INT32. -/
abbrev Fmt := Nat

/-- A value of any format. -/
inductive Fp where
  | nan
  | inf (neg : Bool)
  | fin (neg : Bool) (m : Nat) (e : Int)
  deriving DecidableEq, Repr

/-- What R165 and R160 count: accumulator saturations, other saturations, NaNs and infinities produced. -/
structure Ev where
  acc : Nat := 0
  out : Nat := 0
  nan : Nat := 0
  inf : Nat := 0
  deriving DecidableEq, Repr

def Ev.plus (a b : Ev) : Ev := { acc := a.acc + b.acc, out := a.out + b.out, nan := a.nan + b.nan, inf := a.inf + b.inf }

def noEv : Ev := {}
def outEv (b : Bool) : Ev := { out := b2n b }
def accEv (b : Bool) : Ev := { acc := b2n b }
def nanEv : Ev := { nan := 1 }
def infEv : Ev := { inf := 1 }

/-! ## Integers -/

/-- Range of an integer format. -/
def intRange (f : Fmt) : Int × Int :=
  match f with
  | 0 => (-8, 7)
  | 1 => (-128, 127)
  | 2 => (0, 255)
  | 3 => (-32768, 32767)
  | _ => (-2147483648, 2147483647)

/-- Saturates to a range; whether it did. -/
def satTo (f : Fmt) (v : Int) : Int × Bool :=
  let r := intRange f
  if v < r.1 then (r.1, true) else if r.2 < v then (r.2, true) else (v, false)

/-- INT32 saturation. -/
def sat32 (v : Int) : Int × Bool := satTo 8 v

def isFloatFmt (f : Fmt) : Bool := decide (4 ≤ f) && decide (f ≤ 7)

/-- Bits of one element. -/
def fmtBits (f : Fmt) : Nat := match f with | 0 => 4 | 1 | 2 | 4 | 5 => 8 | 3 | 6 => 16 | _ => 32

/-! ## Rounding -/

def bitLen (n : Nat) : Nat := if n = 0 then 0 else Nat.log2 n + 1

/-- m / 2^k to nearest, ties to even (R164). -/
def rneShift (m k : Nat) : Nat :=
  if k = 0 then m
  else
    let q := m >>> k
    let r := m % 2 ^ k
    let half := 2 ^ (k - 1)
    if half < r ∨ (r = half ∧ q % 2 = 1) then q + 1 else q

/-- Precision, exponent of the smallest normal, whether subnormals are kept, and the largest finite value as
mantissa and exponent. -/
structure FloatShape where
  p : Nat
  emin : Int
  sub : Bool
  maxM : Nat
  maxE : Int
  deriving DecidableEq, Repr

/-- The floating formats of R159. -/
def shapeOf (f : Fmt) : FloatShape :=
  match f with
  | 4 => { p := 4, emin := -6, sub := true, maxM := 14, maxE := 5 }
  | 5 => { p := 3, emin := -14, sub := true, maxM := 7, maxE := 13 }
  | 6 => { p := 8, emin := -126, sub := false, maxM := 255, maxE := 120 }
  | _ => { p := 24, emin := -126, sub := false, maxM := 16777215, maxE := 104 }

/-- Compares m1 * 2^e1 and m2 * 2^e2. -/
def magLt (m1 : Nat) (e1 : Int) (m2 : Nat) (e2 : Int) : Bool :=
  if e1 ≤ e2 then decide (m1 < m2 <<< (e2 - e1).toNat) else decide (m1 <<< (e1 - e2).toNat < m2)

/-- A magnitude rounded half to even to a format: mantissa, exponent, and whether it passed the largest value. Values
below the smallest normal flush to zero where the format keeps no subnormals (R160, R163). DESIGN CHOICE
(notes/assumptions/81.md): whether a result lies below 2^-126 is decided after it is rounded. -/
def roundMag (s : FloatShape) (m : Nat) (e : Int) : Nat × Int × Bool :=
  if m = 0 then (0, 0, false)
  else
    let top := e + (bitLen m : Int) - 1
    let q0 := top - ((s.p : Int) - 1)
    let q := if s.sub then max q0 (s.emin - ((s.p : Int) - 1)) else q0
    let m' := if q ≤ e then m <<< (e - q).toNat else rneShift m (q - e).toNat
    if magLt s.maxM s.maxE m' q then (s.maxM, s.maxE, true)
    else if !s.sub && magLt m' q 1 s.emin then (0, 0, false)
    else (m', q, false)

/-- A value rounded to a floating format. -/
def roundFp (f : Fmt) (x : Fp) : Fp × Ev :=
  match x with
  | .nan => (.nan, noEv)
  | .inf n => (.inf n, noEv)
  | .fin n m e =>
    let r := roundMag (shapeOf f) m e
    (.fin n r.1 r.2.1, outEv r.2.2)

/-! ## Codes -/

/-- Exponent and fraction bits and bias. -/
def codeShape (f : Fmt) : Nat × Nat × Int :=
  match f with
  | 4 => (4, 3, 7)
  | 5 => (5, 2, 15)
  | 6 => (8, 7, 127)
  | _ => (8, 23, 127)

/-- The code of a value that the format holds (R160): canonical NaN; an infinity is the largest finite value in E4M3. -/
def encodeFloat (f : Fmt) (x : Fp) : Nat :=
  let c := codeShape f
  let sign (n : Bool) : Nat := b2n n * 2 ^ (c.1 + c.2.1)
  match x with
  | .nan => match f with | 4 => 0x7F | 5 => 0x7E | 6 => 0x7FC0 | _ => 0x7FC00000
  | .inf n => sign n + (if f = 4 then 0x7E else (2 ^ c.1 - 1) * 2 ^ c.2.1)
  | .fin n m e =>
    if m = 0 then sign n
    else
      let top := e + (bitLen m : Int) - 1
      let emin := (shapeOf f).emin
      if top < emin then
        let q := emin - (c.2.1 : Int)
        sign n + (if q ≤ e then m <<< (e - q).toNat else m >>> (q - e).toNat)
      else
        let q := top - (c.2.1 : Int)
        let mm := if q ≤ e then m <<< (e - q).toNat else m >>> (q - e).toNat
        sign n + (top + c.2.2).toNat * 2 ^ c.2.1 + (mm - 2 ^ c.2.1)

/-- The value of a floating code; BF16 and FP32 subnormals read as zero with their sign (R160). -/
def decodeFloat (f : Fmt) (v : Nat) : Fp :=
  let c := codeShape f
  let n := v.testBit (c.1 + c.2.1)
  let ex := bitsOf v (c.1 + c.2.1 - 1) c.2.1
  let fr := v % 2 ^ c.2.1
  if f = 4 ∧ ex = 15 ∧ fr = 7 then .nan
  else if f ≠ 4 ∧ ex = 2 ^ c.1 - 1 then (if fr = 0 then .inf n else .nan)
  else if ex = 0 then
    if (shapeOf f).sub then .fin n fr (1 - c.2.2 - c.2.1) else .fin n 0 0
  else .fin n (2 ^ c.2.1 + fr) ((ex : Int) - c.2.2 - c.2.1)

/-- An integer as a value. -/
def ofInt (v : Int) : Fp := .fin (decide (v < 0)) v.natAbs 0

/-- The value of any code. -/
def decodeAny (f : Fmt) (v : Nat) : Fp :=
  if isFloatFmt f then decodeFloat f v
  else if f = 2 then ofInt (v % 256)
  else ofInt (signedOf (fmtBits f) v)

/-- The nearest integer of a value, ties to even. -/
def nearestInt (n : Bool) (m : Nat) (e : Int) : Int :=
  let v : Nat := if 0 ≤ e then m <<< e.toNat else rneShift m (-e).toNat
  if n then -(v : Int) else v

/-- The code of a value in any format (R163, R165, R168): rounded half to even and saturated; NaN gives 0 in an integer
format and is counted. DESIGN CHOICE (notes/assumptions/81.md): an infinity goes to the end of an integer format's range
and counts as a saturated value; an infinity written as the largest E4M3 value, and a NaN that only passes through, count
as produced. -/
def encodeAny (f : Fmt) (x : Fp) : Nat × Ev :=
  if isFloatFmt f then
    let r := roundFp f x
    let ev := match x with | .nan => nanEv | .inf _ => infEv | .fin _ _ _ => r.2
    (encodeFloat f r.1, ev)
  else match x with
    | .nan => (0, nanEv)
    | .inf n =>
      let r := intRange f
      (wrapInt (fmtBits f) (if n then r.1 else r.2), outEv true)
    | .fin n m e =>
      let r := satTo f (nearestInt n m e)
      (wrapInt (fmtBits f) r.1, outEv r.2)

/-! ## Exact arithmetic on values -/

def negFp : Fp → Fp
  | .nan => .nan
  | .inf n => .inf (!n)
  | .fin n m e => .fin (!n) m e

/-- The signed mantissa at exponent `q` ≤ e. -/
def mantAt (n : Bool) (m : Nat) (e q : Int) : Int :=
  let v : Nat := m <<< (e - q).toNat
  if n then -(v : Int) else v

/-- A result that the specification does not state: free, by operation and operands (notes/assumptions/15.md). -/
def openFp (op arg : Nat) : Fp := decodeFloat 7 (Config.openResult op arg).toNat

/-- An exact sum; equal magnitudes of opposite sign give +0, and −0 only for two negative zeros. The sum of infinities of
opposite sign is not stated. -/
def addExact (a b : Fp) : Fp :=
  match a, b with
  | .nan, _ => .nan
  | _, .nan => .nan
  | .inf x, .inf y => if x = y then .inf x else openFp 1 (b2n x)
  | .inf x, _ => .inf x
  | _, .inf y => .inf y
  | .fin x m e, .fin y k f =>
    if m = 0 ∧ k = 0 then .fin (x && y) 0 0
    else
      let q := min e f
      let t := mantAt x m e q + mantAt y k f q
      .fin (decide (t < 0)) t.natAbs q

/-- An exact product; an infinity times zero is NaN. -/
def mulExact (a b : Fp) : Fp :=
  match a, b with
  | .nan, _ => .nan
  | _, .nan => .nan
  | .inf x, .inf y => .inf (x != y)
  | .inf x, .fin y m _ => if m = 0 then .nan else .inf (x != y)
  | .fin x m _, .inf y => if m = 0 then .nan else .inf (x != y)
  | .fin x m e, .fin y k f => .fin (x != y) (m * k) (e + f)

/-- a < b on values, NaN below nothing. -/
def fpLt (a b : Fp) : Bool :=
  match a, b with
  | .nan, _ => false
  | _, .nan => false
  | .inf x, .inf y => x && !y
  | .inf x, _ => x
  | _, .inf y => !y
  | .fin x m e, .fin y k f =>
    let q := min e f
    decide (mantAt x m e q < mantAt y k f q)

def fpEq (a b : Fp) : Bool :=
  match a, b with
  | .nan, _ => false
  | _, .nan => false
  | _, _ => !fpLt a b && !fpLt b a

def isNan : Fp → Bool
  | .nan => true
  | _ => false

/-! ## FP32, rounded (R168) -/

/-- What an FP32 operation gives: the rounded value and the special values it produced. -/
def fp32 (x : Fp) : Fp × Ev :=
  let r := roundFp 7 x
  (r.1, match r.1 with | .nan => nanEv | .inf _ => infEv | .fin _ _ _ => r.2)

def fadd (a b : Fp) : Fp × Ev := fp32 (addExact a b)
def fsub (a b : Fp) : Fp × Ev := fp32 (addExact a (negFp b))
def fmul (a b : Fp) : Fp × Ev := fp32 (mulExact a b)
def ffma (a b c : Fp) : Fp × Ev := fp32 (addExact (mulExact a b) c)
def fmin (a b : Fp) : Fp × Ev := fp32 (if isNan a || isNan b then .nan else if fpLt b a then b else a)
def fmax (a b : Fp) : Fp × Ev := fp32 (if isNan a || isNan b then .nan else if fpLt a b then b else a)

/-- A value that no step has computed yet. -/
def plain (x : Fp) : Fp × Ev := (x, noEv)

/-- A further step on what earlier steps gave, with what all of them count. -/
def step1 (f : Fp → Fp × Ev) (a : Fp × Ev) : Fp × Ev :=
  let r := f a.1
  (r.1, a.2.plus r.2)
def step2 (f : Fp → Fp → Fp × Ev) (a b : Fp × Ev) : Fp × Ev :=
  let r := f a.1 b.1
  (r.1, (a.2.plus b.2).plus r.2)

/-- A sum of values, added one after another from zero. -/
def fsum (l : List (Fp × Ev)) : Fp × Ev := l.foldl (step2 fadd) (plain (.fin false 0 0))

/-- The value of an FP32 word and back. -/
def ofWord (w : Word) : Fp := decodeFloat 7 w.toNat
def toWord (x : Fp) : Word := BitVec.ofNat 32 (encodeFloat 7 x)

def fpZero : Fp := .fin false 0 0
def fpOne : Fp := .fin false 1 0
def fpNat (n : Nat) : Fp := .fin false n 0

/-! ## Fixed point for the classes that are not exact: integers in units of 2^-192 -/

def fixBits : Nat := 192
def fixOne : Int := 2 ^ fixBits

/-- Product and quotient of fixed-point numbers, rounded down. -/
def fixMul (a b : Int) : Int := (a * b) / fixOne
def fixDiv (a b : Int) : Int := if b = 0 then 0 else a * fixOne / b

/-- ln 2 as the sum of 1 / (k 2^k). -/
def fixLn2 : Int := (List.range 200).foldl (fun t k => t + fixOne / ((k + 1 : Nat) * 2 ^ (k + 1) : Nat)) 0

/-- m * 2^e as a fixed-point number, rounded down. -/
def fixOf (n : Bool) (m : Nat) (e : Int) : Int :=
  let s := e + fixBits
  let v : Nat := if 0 ≤ s then m <<< s.toNat else m >>> (-s).toNat
  if n then -(v : Int) else v

/-- e^r for |r| ≤ 1 by its power series. -/
def fixExpSeries (r : Int) : Int :=
  ((List.range 50).foldl (fun (t : Int × Int) k =>
    let u := fixMul t.2 r / ((k + 1 : Nat) : Int)
    (t.1 + u, u)) (fixOne, fixOne)).1

/-- e^x of a fixed-point number: mantissa and power of two. -/
def fixExp (x : Int) : Int × Int :=
  let k := (2 * x + fixLn2) / (2 * fixLn2)
  (fixExpSeries (x - k * fixLn2), k - fixBits)

/-- ln of a fixed-point number in [1, 2): 2 atanh((m − 1) / (m + 1)). -/
def fixLn (m : Int) : Int :=
  let z := fixDiv (m - fixOne) (m + fixOne)
  let z2 := fixMul z z
  2 * ((List.range 64).foldl (fun (t : Int × Int) k => (t.1 + t.2 / ((2 * k + 1 : Nat) : Int), fixMul t.2 z2)) (0, z)).1

/-- ln of m * 2^e with m above 0, in fixed point; a mantissa longer than the fixed point holds loses its last bits. -/
def fixLnOf (m : Nat) (e : Int) : Int :=
  let l := bitLen m
  let one : Nat := if l ≤ fixBits + 1 then m <<< (fixBits + 1 - l) else m >>> (l - (fixBits + 1))
  fixLn (one : Int) + (e + l - 1) * fixLn2

/-- A value from a fixed-point number. -/
def ofFix (v : Int) : Fp := .fin (decide (v < 0)) v.natAbs (-(fixBits : Int))

/-- Integer square root, rounded down, by bits from 2^(k-1). -/
def isqrt (n : Nat) : Nat → Nat → Nat
  | 0, r => r
  | k + 1, r => let t := r + 2 ^ k; if t * t ≤ n then isqrt n k t else isqrt n k r

/-- Which value the hardware gives (R168): the free FP32 word where it lies within `ulps` ulp of the exact result `x`, else
the correctly rounded value; a result that flushes or saturates is fixed. `op` and `arg` name the operation and operands. -/
def inClass (ulps : Nat) (op arg : Nat) (x : Fp) : Fp × Ev :=
  match x with
  | .nan => (.nan, nanEv)
  | .inf n => (.inf n, infEv)
  | .fin n m e =>
    let r := roundMag (shapeOf 7) m e
    if r.1 = 0 ∨ r.2.2 then (.fin n r.1 r.2.1, outEv r.2.2)
    else
      match ofWord (Config.freeNear op arg) with
      | .fin y k f =>
        let q := min (min e f) r.2.1
        let diff := (mantAt n m e q - mantAt y k f q).natAbs
        if k ≠ 0 ∧ y = n ∧ diff ≤ ulps * 2 ^ (r.2.1 - q).toNat then (.fin y k f, noEv) else (.fin n r.1 r.2.1, noEv)
      | _ => (.fin n r.1 r.2.1, noEv)

/-- A quotient with 64 bits past FP32 precision and a sticky bit. A division by zero, and one of two infinities, is not
stated. -/
def divExact (a b : Fp) : Fp :=
  match a, b with
  | .nan, _ => .nan
  | _, .nan => .nan
  | .inf x, .inf y => openFp 2 (b2n x + 2 * b2n y)
  | .inf x, .fin y _ _ => .inf (x != y)
  | .fin x _ _, .inf y => .fin (x != y) 0 0
  | .fin x m e, .fin y k f =>
    if k = 0 then openFp 3 (b2n y + 2 * encodeFloat 7 (roundFp 7 (.fin x m e)).1)
    else
      let s := 100 + bitLen k
      let v := m <<< s
      .fin (x != y) (2 * (v / k) + b2n (v % k != 0)) (e - f - s - 1)

/-- A square root with a sticky bit; of a number below zero, not stated. -/
def sqrtExact (a : Fp) : Fp :=
  match a with
  | .nan => .nan
  | .inf n => if n then openFp 4 0 else .inf false
  | .fin n m e =>
    if m = 0 then .fin n 0 0
    else if n then openFp 4 (encodeFloat 7 (roundFp 7 (.fin n m e)).1)
    else
      let s : Nat := if e % 2 = 0 then 100 else 101
      let v := m <<< s
      let r := isqrt v (bitLen v / 2 + 1) 0
      .fin false (2 * r + b2n (r * r != v)) ((e - s) / 2 - 1)

/-- Operand words as one number, the argument of a free choice. -/
def argOf (l : List Fp) : Nat := leNat (l.flatMap fun x => leBytes 4 (encodeFloat 7 (roundFp 7 x).1))

/-- Near-rounded operations (R168). -/
def fdiv (a b : Fp) : Fp × Ev := inClass 1 1 (argOf [a, b]) (divExact a b)
def frecip (a : Fp) : Fp × Ev := inClass 1 2 (argOf [a]) (divExact fpOne a)
def fsqrt (a : Fp) : Fp × Ev := inClass 1 3 (argOf [a]) (sqrtExact a)
def frsqrt (a : Fp) : Fp × Ev := inClass 1 4 (argOf [a]) (divExact fpOne (sqrtExact a))

/-- e^x, past FP32 precision; far beyond the format's range an overflow or a zero. -/
def expExact (x : Fp) : Fp :=
  match x with
  | .nan => .nan
  | .inf n => if n then fpZero else .inf false
  | .fin n m e =>
    if magLt 200 0 m e then (if n then fpZero else .fin false 1 400)
    else let r := fixExp (fixOf n m e); .fin false r.1.natAbs r.2

/-- 2^x. -/
def exp2Exact (x : Fp) : Fp :=
  match x with
  | .nan => .nan
  | .inf n => if n then fpZero else .inf false
  | .fin n m e =>
    if magLt 300 0 m e then (if n then fpZero else .fin false 1 400)
    else let r := fixExp (fixMul (fixOf n m e) fixLn2); .fin false r.1.natAbs r.2

/-- ln x; the logarithm of zero and of a number below zero is not stated. -/
def logExact (base2 : Bool) (x : Fp) : Fp :=
  match x with
  | .nan => .nan
  | .inf n => if n then openFp (5 + b2n base2) 0 else .inf false
  | .fin n m e =>
    if m = 0 ∨ n then openFp (5 + b2n base2) (argOf [x])
    else if base2 then ofFix (fixDiv (fixLnOf m e) fixLn2)
    else ofFix (fixLnOf m e)

/-- 1 / (1 + e^-x). -/
def sigmoidExact (x : Fp) : Fp :=
  match x with
  | .nan => .nan
  | _ => match expExact (negFp x) with
    | .inf _ => fpZero
    | y => divExact fpOne (addExact fpOne y)

/-- tanh x = (e^2x − 1) / (e^2x + 1); below 2^-12 the power series x − x^3/3 + 2 x^5/15. -/
def tanhExact (x : Fp) : Fp :=
  match x with
  | .nan => .nan
  | .inf n => .fin n 1 0
  | .fin n m e =>
    if magLt m e 1 (-12) then
      let x2 := mulExact x x
      let x3 := mulExact x2 x
      let t := addExact x (negFp (divExact x3 (fpNat 3)))
      addExact t (divExact (mulExact (mulExact x3 x2) (fpNat 2)) (fpNat 15))
    else
      let y := expExact (.fin n m (e + 1))
      divExact (addExact y (negFp fpOne)) (addExact y fpOne)

/-- ln(1 + e^x). -/
def softplusExact (x : Fp) : Fp :=
  match x with
  | .nan => .nan
  | .inf n => if n then fpZero else .inf false
  | .fin n m e =>
    if !n && magLt 150 0 m e then x
    else
      let y := expExact x
      if n && magLt 40 0 m e then
        addExact y (negFp (divExact (mulExact y y) (fpNat 2)))
      else match addExact fpOne y with
        | .fin _ k f => ofFix (fixLnOf k f)
        | z => z

/-- Approximated operations (R168): 2 ulp. -/
def fexp (x : Fp) : Fp × Ev := inClass 2 5 (argOf [x]) (expExact x)
def fexp2 (x : Fp) : Fp × Ev := inClass 2 6 (argOf [x]) (exp2Exact x)
def flog (x : Fp) : Fp × Ev := inClass 2 7 (argOf [x]) (logExact false x)
def flog2 (x : Fp) : Fp × Ev := inClass 2 8 (argOf [x]) (logExact true x)
def fsigmoid (x : Fp) : Fp × Ev := inClass 2 9 (argOf [x]) (sigmoidExact x)
def ftanh (x : Fp) : Fp × Ev := inClass 2 10 (argOf [x]) (tanhExact x)
def fsoftplus (x : Fp) : Fp × Ev := inClass 2 11 (argOf [x]) (softplusExact x)

/-! ## The requantiser (R162, R163) -/

/-- requant_int of R162. DESIGN CHOICE (notes/assumptions/82.md): a value that saturates at the left shift and again at the
output is counted at each of the two places. -/
def requantInt (acc bias sh : Int) (f : Fmt) : Nat × Ev :=
  let x := sat32 (acc + bias)
  let q : Int × Bool :=
    if 0 < sh then
      let k := sh.toNat
      let q := x.1 / 2 ^ k
      let r := x.1 - q * 2 ^ k
      let half : Int := 2 ^ (k - 1)
      (if half < r ∨ (r = half ∧ q % 2 = 1) then q + 1 else q, false)
    else sat32 (x.1 * 2 ^ (-sh).toNat)
  if isFloatFmt f then
    let y := encodeAny f (.fin (decide (x.1 < 0)) x.1.natAbs (-sh))
    (y.1, (accEv x.2).plus y.2)
  else
    let y := satTo f q.1
    (wrapInt (fmtBits f) y.1, ((accEv x.2).plus (outEv q.2)).plus (outEv y.2))

/-- The requantiser on an FP32 row (R163). -/
def requantFp (acc bias : Fp) (useBias : Bool) (sh : Int) (f : Fmt) : Nat × Ev :=
  let x := if useBias then fadd acc bias else (acc, noEv)
  let scaled := match x.1 with
    | .fin n m e => fp32 (.fin n m (e - sh))
    | v => (v, noEv)
  let y := encodeAny f scaled.1
  (y.1, (x.2.plus scaled.2).plus y.2)

/-! ## The end of an operation -/

/-- The code in a format of what the steps of an operation gave, and what steps and conversion count: a special value was
counted by the step that produced it, a NaN written to an integer format besides (R165, notes/assumptions/81.md). -/
def encodeLane (f : Fmt) (x : Fp × Ev) : Nat × Ev :=
  let y := encodeAny f x.1
  (y.1, x.2.plus (if isFloatFmt f then { y.2 with nan := 0, inf := 0 } else y.2))

end Sys2Proof.Machine
end

