-- ==== Sys2Proof/Machine/Crop.lean ====
section
/-! DEFINITION. Machine/Crop.lean: where a tensor's elements lie (R170, R171), box lists and geometry records (R182,
R183), translation of a device virtual address without an engine (R285), and crop-and-resize (R184, R185). -/

namespace Sys2Proof.Machine

/-! ## Tensor blocks (R170) -/

/-- Channels per block and block bytes. -/
def cpb (f : Fmt) : Nat := if fmtBits f ≤ 8 then 32 else if fmtBits f = 16 then 16 else 8
def blockBytes (f : Fmt) : Nat := if f = 0 then 16 else 32

/-- ROW_BYTES of a width. -/
def tensorRow (f : Fmt) (w : Nat) : Nat := roundUp 256 (w * blockBytes f)

/-- Blocks of a channel count. -/
def blocksOf (f : Fmt) (c : Nat) : Nat := ceilDiv c (cpb f)

/-- SAMPLE_BYTES. -/
def tensorBytes (f : Fmt) (c h w : Nat) : Nat := blocksOf f c * h * tensorRow f w

/-- Words read, by address: value and whether it is poisoned. -/
abbrev Gathered := List (Nat × Word × Bool)

def look (g : Gathered) (a : Nat) : Word × Bool := getAt (0, false) a g

/-- Address of the word that holds element `j` of the block at `b`, and the element with its poison. -/
def elemWord (f : Fmt) (b j : Nat) : Nat := b + j * fmtBits f / 32 * 4
def elemIn (g : Gathered) (f : Fmt) (b j : Nat) : Nat × Bool :=
  let w := look g (elemWord f b j)
  let lo := j * fmtBits f % 32
  (bitsOf w.1.toNat (lo + fmtBits f - 1) lo, w.2)

/-- Addresses of the words of a block. -/
def blockWords (f : Fmt) (b : Nat) : List Nat := (List.range (blockBytes f / 4)).map fun i => b + 4 * i

/-- The words of a block with these elements; an element past the list is zero (R171), and a poisoned element poisons
its word. -/
def packBlock (f : Fmt) (l : List (Nat × Bool)) : List (Word × Bool) :=
  let per := 32 / fmtBits f
  (List.range (blockBytes f / 4)).map fun i =>
    let part := (l.drop (i * per)).take per
    (BitVec.ofNat 32 (part.foldr (fun e a => e.1 % 2 ^ fmtBits f + 2 ^ fmtBits f * a) 0), part.any (·.2))

/-- Reads words of device memory, each once, in ascending address order. -/
def dpaGather (ws : List Nat) (s : State) : Gathered × State :=
  (insNats ws []).foldl (fun (r : Gathered × State) a =>
    let x := dpaReads 0 a 1 r.2
    (r.1 ++ [(a, x.1.headD (0, true))], x.2)) ([], s)

/-- Zero words. -/
def zeroWords (bytes : Nat) : List (Word × Bool) := List.replicate (bytes / 4) (0, false)

/-! ## Counters of a core (R169) -/

/-- Counts saturations and special values of a core (R165, R169). -/
def countEv (n : Nat) (e : Ev) (s : State) : State :=
  let c := coreAt s n
  setCore n { c with cnt := { c.cnt with
    accSat := satAdd c.cnt.accSat e.acc
    outSat := satAdd c.cnt.outSat e.out
    nan := satAddW c.cnt.nan e.nan
    inf := satAddW c.cnt.inf e.inf } } s

/-! ## Translation (R285, R286) -/

/-- The page-table entry of a context for a DVA: 4,096 entries of 2 MiB pages. -/
def pteAt (s : State) (xctx dva : Nat) : BitVec 64 := getAt 0 (xctx * 4096 + dva / 0x200000) s.mem.ptes

/-- The DPA of a DVA, or none where the entry is not valid. -/
def dvaToDpa (s : State) (xctx dva : Nat) : Option Nat :=
  let e := pteAt s xctx dva
  if e.getLsbD 0 ∧ dva / 0x200000 < 4096 then some (bitsOf e.toNat 36 21 * 0x200000 + dva % 0x200000) else none

/-! ## Box lists and geometry records (R182, R183) -/

/-- Bytes of one sample's box list. -/
def listBytes (cap : Nat) : Nat := roundUp 256 (32 + 32 * cap)

/-- A geometry record: crop origin, F, scale and offset per axis. -/
structure Geometry where
  cxr : Nat
  cyr : Nat
  f : Nat
  sx : Nat
  sy : Nat
  ox : Nat
  oy : Nat
  outW : Nat
  outH : Nat
  deriving DecidableEq, Repr

def geometryOf (l : List Byte) : Geometry :=
  { cxr := numAt l 0 2, cyr := numAt l 2 2, f := numAt l 4 1, sx := numAt l 8 4, sy := numAt l 12 4,
    ox := numAt l 16 2, oy := numAt l 18 2, outW := numAt l 20 2, outH := numAt l 22 2 }

/-- An unsigned number with 16 fractional bits. -/
def fix16 (n : Nat) : Fp := .fin false n (-16)

/-- (X / F − CXR) × SX + OX, each step in FP32. -/
def toInput (x : Fp) (f cr sc off : Nat) : Fp × Ev :=
  let t := step2 fsub (fdiv x (fpNat f)) (plain (fpNat cr))
  step2 fadd (step2 fmul t (plain (fix16 sc))) (plain (fpNat off))

/-- A division rounded exactly, the class of box decoding (R186). -/
def fdivExact (a b : Fp) : Fp × Ev := fp32 (divExact a b)

/-- ((xin − OX) / SX + CXR) × F, for box decoding. -/
def toPicture (x : Fp × Ev) (f cr sc off : Nat) : Fp × Ev :=
  let t := step2 fdivExact (step2 fsub x (plain (fpNat off))) (plain (fix16 sc))
  step2 fmul (step2 fadd t (plain (fpNat cr))) (plain (fpNat f))

/-- The largest integer not above a finite value. -/
def floorFp : Fp → Option Int
  | .fin n m e =>
    let v : Int := if n then -(m : Int) else m
    some (if 0 ≤ e then v * 2 ^ e.toNat else v / 2 ^ (-e).toNat)
  | _ => none

/-! ## Crop-and-resize (R184) -/

/-- A crop record (R213). -/
structure CropRec where
  list : Nat
  source : Nat
  hbm : Bool
  geom : Nat
  regions : Nat
  w : Nat
  h : Nat
  c : Nat
  fmt : Nat
  stride : Nat
  rh : Nat
  rw : Nat
  samples : Nat
  deriving DecidableEq, Repr

def cropRec (v : BitVec 256) : CropRec :=
  let b (o n : Nat) : Nat := bitsOf v.toNat (8 * (o + n) - 1) (8 * o)
  { list := 256 * b 0 4, source := 256 * (b 4 4 % 0x80000000), hbm := v.getLsbD 63, geom := 32 * b 8 4,
    regions := 256 * b 12 4, w := b 16 2, h := b 18 2, c := b 20 2, fmt := b 22 1, stride := 2 ^ b 23 1,
    rh := b 24 1 + 1, rw := b 25 1 + 1, samples := b 26 1 }

/-- Bytes of one region tensor. -/
def regionBytes (r : CropRec) : Nat := tensorBytes r.fmt r.c r.rh r.rw

/-- The elements a sample point takes with their weights: none outside the source, the four nearest inside. A NaN
coordinate weighs the first element with NaN. -/
def tapsAt (v u : Fp) (h w : Nat) : List (Nat × Nat × Fp) :=
  if isNan v || isNan u then [(0, 0, .nan)]
  else if fpLt v fpZero || fpLt (fpNat h) v || fpLt u fpZero || fpLt (fpNat w) u then []
  else
    let half : Fp := .fin false 1 (-1)
    let y := (fsub v half).1
    let x := (fsub u half).1
    match floorFp y, floorFp x with
    | some fy, some fx =>
      let dy := (fsub y (ofInt fy)).1
      let dx := (fsub x (ofInt fx)).1
      let cy (i : Int) : Nat := (max 0 (min i ((h : Int) - 1))).toNat
      let cx (i : Int) : Nat := (max 0 (min i ((w : Int) - 1))).toNat
      let ey := (fsub fpOne dy).1
      let ex := (fsub fpOne dx).1
      [(cy fy, cx fx, (fmul ey ex).1), (cy fy, cx (fx + 1), (fmul ey dx).1),
       (cy (fy + 1), cx fx, (fmul dy ex).1), (cy (fy + 1), cx (fx + 1), (fmul dy dx).1)]
    | _, _ => []

/-- Sample positions along one axis: v0 + (i + (a + 0.5) / s) × bh / RH. -/
def samplePos (lo len : Fp) (i a s r : Nat) : Fp × Ev :=
  let t := (fdiv (fadd (fpNat a) (.fin false 1 (-1))).1 (fpNat s)).1
  step2 fadd (plain lo) (step2 fdiv (step2 fmul (fadd (fpNat i) t) (plain len)) (plain (fpNat r)))

/-- The taps of every sample point of one cell, and what computing their coordinates counts. -/
def cellTaps (r : CropRec) (u0 v0 bw bh : Fp) (i j : Nat) : List (List (Nat × Nat × Fp) × Ev) :=
  (List.range r.samples).flatMap fun a => (List.range r.samples).map fun b =>
    let v := samplePos v0 bh i a r.samples r.rh
    let u := samplePos u0 bw j b r.samples r.rw
    (tapsAt v.1 u.1 r.h r.w, v.2.plus u.2)

/-- One channel of one cell: the mean of the sample points, rounded to the source format. -/
def cellValue (r : CropRec) (elem : Nat → Nat → Nat × Bool) (taps : List (List (Nat × Nat × Fp))) :
    Nat × Bool × Ev :=
  let point (t : List (Nat × Nat × Fp)) : Fp × Ev :=
    fsum (t.map fun e => fmul e.2.2 (decodeAny r.fmt (elem e.1 e.2.1).1))
  let mean := step2 fdiv (fsum (taps.map point)) (plain (fpNat (r.samples * r.samples)))
  let y := encodeLane r.fmt mean
  (y.1, (taps.flatMap id).any fun e => (elem e.1 e.2.1).2, y.2)

/-- The device address of the source tensor of sample `n`, by 256-byte offset: Granary, or a DVA of context `x`. -/
def sourceAt (s : State) (x : Nat) (r : CropRec) (n off : Nat) : Option Nat :=
  let a := r.source + n * tensorBytes r.fmt r.c r.h r.w + off
  if r.hbm then dvaToDpa s x a else some (granaryBase + a)

/-- The words of the region of one box of sample `n`, in region order, with what R165 counts. Source words that no sample
point reaches are not read; a source whose page is not mapped reads as poisoned. -/
def cropWords (x : Nat) (r : CropRec) (n : Nat) (box geom : List Byte) (s : State) : List (Word × Bool) × Ev × State :=
  let g := geometryOf geom
  let coord (o : Nat) : Fp := decodeFloat 7 (numAt box o 4)
  let st := fpNat r.stride
  let u (o : Nat) : Fp × Ev := step2 fdiv (toInput (coord o) g.f g.cxr g.sx g.ox) (plain st)
  let v (o : Nat) : Fp × Ev := step2 fdiv (toInput (coord o) g.f g.cyr g.sy g.oy) (plain st)
  let bw := step2 fmax (step2 fsub (u 8) (u 0)) (plain fpOne)
  let bh := step2 fmax (step2 fsub (v 12) (v 4)) (plain fpOne)
  let points := (List.range r.rh).map fun i => (List.range r.rw).map fun j =>
    cellTaps r (u 0).1 (v 4).1 bw.1 bh.1 i j
  let made := points.foldl (fun e row => (row.flatMap id).foldl (fun e p => e.plus p.2) e) (bw.2.plus bh.2)
  let cells := points.map fun row => row.map fun t => t.map (·.1)
  let off (cb y xx : Nat) : Nat := cb * r.h * tensorRow r.fmt r.w + y * tensorRow r.fmt r.w + xx * blockBytes r.fmt
  let nb := blocksOf r.fmt r.c
  let used : List Nat := (List.range nb).flatMap fun cb => cells.flatMap fun row => row.flatMap fun t =>
    (t.flatMap id).filterMap fun e => sourceAt s x r n (off cb e.1 e.2.1)
  let got := dpaGather (used.flatMap (blockWords r.fmt)) s
  let elem (cb k y xx : Nat) : Nat × Bool :=
    match sourceAt s x r n (off cb y xx) with
    | some a => elemIn got.1 r.fmt a k
    | none => (0, true)
  let pad := zeroWords (tensorRow r.fmt r.rw - r.rw * blockBytes r.fmt)
  let out := (List.range nb).flatMap fun cb => cells.map fun row =>
    let blocks := row.map fun t =>
      (List.range (min (cpb r.fmt) (r.c - cb * cpb r.fmt))).map fun k => cellValue r (elem cb k) t
    ((blocks.flatMap fun b => packBlock r.fmt (b.map fun y => (y.1, y.2.1))) ++ pad,
     (blocks.flatMap id).foldl (fun e y => e.plus y.2.2) noEv)
  (out.flatMap (·.1), out.foldl (fun e y => e.plus y.2) made, got.2)

/-- A sample's box-list header (16 bytes) and one of its entries, with whether either is poisoned. -/
def listEntry (r : CropRec) (cap n e : Nat) (s : State) : List Byte × List Byte × Bool × State :=
  let a := granaryBase + r.list + n * listBytes cap
  let h := dpaBytes 0 a 16 s
  let b := dpaBytes 0 (a + 32 + 32 * e) 32 h.2.2
  (h.1, b.1, h.2.1 || b.2.1, b.2.2)

/-- CAP of a record's list, as its header holds it. -/
def listCap (s : State) (r : CropRec) : Nat := numAt (dpaBytes 0 (granaryBase + r.list) 16 s).1 4 4

/-- Whether an entry yields a region (R185): below COUNT, list not poisoned, INVALID clear. -/
def yieldsRegion (header box : List Byte) (poison : Bool) (e : Nat) : Bool :=
  !poison && decide (e < numAt header 0 4) && !(header.getD 14 0).getLsbD 1 && !(box.getD 28 0).getLsbD 0

/-- Region `e` of sample `n`: its words, if it is written. -/
def regionOf (x : Nat) (r : CropRec) (cap n e : Nat) (s : State) : Option (List (Word × Bool)) × Ev × State :=
  let q := listEntry r cap n e s
  if yieldsRegion q.1 q.2.1 q.2.2.1 e then
    let g := dpaBytes 0 (granaryBase + r.geom + 32 * n) 32 q.2.2.2
    let t := cropWords x r n q.2.1 g.1 g.2.2
    (some (if g.2.1 then t.1.map fun w => (w.1, true) else t.1), t.2.1, t.2.2)
  else (none, noEv, q.2.2.2)

/-- A crop action of a slot: every region of the samples `ns` goes to the record's region tensors (R184, R185). Answers
what R165 counts, and the batch entries whose source was poisoned (R207). -/
def cropAll (x : Nat) (r : CropRec) (ns : List Nat) (s : State) : Ev × List Nat × State :=
  let cap := listCap s r
  (ns.flatMap fun n => (List.range cap).map fun e => (n, e)).foldl (fun (a : Ev × List Nat × State) ne =>
    let t := regionOf x r cap ne.1 ne.2 a.2.2
    let i := ne.1 * cap + ne.2
    match t.1 with
    | some l => (a.1.plus t.2.1, (if l.any (·.2) then a.2.1 ++ [i] else a.2.1),
        dpaWrites (granaryBase + r.regions + i * regionBytes r) l t.2.2)
    | none => (a.1, a.2.1, t.2.2)) (noEv, [], s)

end Sys2Proof.Machine
end

