-- ==== Sys2Proof/Machine/Bell.lean ====
section
/-! DEFINITION. Machine/Bell.lean: the Bell sequencer within a round (R193 to R199, R205 to R208, R228, R231): the
commands SLOT_ISSUE, CORE_READY, UNIT_FINISH, ACTION_HANG and WAKE_TIMEOUT. -/

namespace Sys2Proof.Machine

/-! ## Units that a slot names (R193, R196) -/

/-- Set bits of an 8-bit mask. -/
def maskBits (m : Nat) : List Nat := (List.range 8).filter fun j => m.testBit j

/-- ACTION, CORE_MASK, ENTRY, FINISH and ARG of a core-group field. -/
def groupAction (f : Nat) : Nat := f % 4
def groupMask (f : Nat) : Nat := bitsOf f 15 8
def groupEntry (f : Nat) : Nat := bitsOf f 27 16
def groupFinish (f : Nat) : Nat := bitsOf f 55 32
def groupArg (f : Nat) : Nat := bitsOf f 79 64

/-- Cores that a slot's ACTION of one kind names; `phys` maps the cores of the field to physical cores. -/
def slotCores (phys : Nat → Nat) (w : BitVec 4096) (action : Nat) : List Nat :=
  (List.range 16).flatMap fun g =>
    let f := slotGroup w g
    if groupAction f = action then (maskBits (groupMask f)).map fun j => phys (8 * g + j) else []

/-- Every unit that a non-NONE action of a slot names. -/
def slotUnits (phys : Nat → Nat) (w : BitVec 4096) : List UnitId :=
  ((slotCores phys w 1 ++ slotCores phys w 2).map fun c => UnitId.core (BitVec.ofNat 7 c))
    ++ ((List.range 16).filter fun c => slotDma w c % 4 = 1).map (fun c => UnitId.channel (BitVec.ofNat 4 c))
    ++ ((List.range 16).flatMap fun g =>
      let f := slotCrop w g
      if f % 2 = 1 then (maskBits (bitsOf f 15 8)).map fun j => UnitId.crop (BitVec.ofNat 7 (phys (8 * g + j))) else [])
    ++ (if slotTrack w % 16 = 0 ∨ 3 < slotTrack w % 16 then [] else [.track])

/-- Rule 3 of R196: no named unit has an unfinished action. -/
def unitsFree (s : State) (us : List UnitId) : Bool := us.all fun u => s.bell.actions.all fun a => a.unit != u

/-- Rule 4: every core named with RUN is powered and ready. -/
def coresReady (s : State) (cs : List Nat) : Bool := cs.all fun c => (coreAt s c).powered && (coreAt s c).ready

/-- The next slot in issue order, if any is left. -/
def nextSlot (s : State) : Option (Nat × BitVec 4096) := (roundSlots s).find? fun e => decide (s.bell.slot ≤ e.1)

/-- A slot is the first FALLOW slot of the round. -/
def firstFallow (s : State) (i : Nat) : Bool :=
  ((roundSlots s).find? fun e => slotKind e.2 = 2).any fun e => e.1 = i

/-- The fc at which rule 2 lets a slot issue. -/
def slotDue (s : State) (w : BitVec 4096) : Nat :=
  s.bell.roundStart + slotStart w + (if slotKind w < 2 then s.bell.shift else 0)

/-- A best-effort layer has been placed and has not finished. -/
def gapBusy (s : State) : Bool := (gapJob s).isSome

/-- What R196 and R195 ask of a slot of an area or of a job's block: its due fc has come, no other slot has issued in this
fc, rules 3 and 4, and rule 5 where it is a barrier. -/
def slotFits (s : State) (phys : Nat → Nat) (due : Nat) (barrier : Bool) (w : BitVec 4096) : Bool :=
  decide (due ≤ s.now) && decide (s.bell.lastIssue < s.now) && unitsFree s (slotUnits phys w)
    && coresReady s (slotCores phys w 1) && (!barrier || s.bell.actions.isEmpty)

/-- R196, with no timetable slot ahead of a running best-effort layer (R75). -/
def canIssue (s : State) (i : Nat) (w : BitVec 4096) : Bool :=
  !gapBusy s && slotFits s id (slotDue s w) (slotBarrier w || firstFallow s i) w

/-- The physical core of a logical core (R225). -/
def physOf (s : State) (c : Nat) : Nat := (physicalCores s).getD c c

/-- The slot that issues next: the placed best-effort layer's, with the fc it is due and its map of cores, or the
timetable's. -/
def slotWaiting (s : State) : Option (Nat × (Nat → Nat) × BitVec 4096) :=
  match s.bell.gap with
  | some g => match g.slots, g.job with
    | w :: _, some _ => some (g.base + slotStart w, physOf s, w)
    | _, some _ => none
    | _, none => (nextSlot s).map fun e => (slotDue s e.2, id, e.2)
  | none => (nextSlot s).map fun e => (slotDue s e.2, id, e.2)

/-- The sequencer waits under rule 4 in this fc (R199). -/
def wakeWaits (s : State) : Bool :=
  s.bell.running && s.flt.reset.isNone &&
    match slotWaiting s with
    | some (due, phys, w) => decide (due ≤ s.now) && !coresReady s (slotCores phys w 1)
    | none => false

/-! ## Hangs (R198) -/

/-- Records a hang in BELL_HANG and BELL_HANG_SLOT. -/
def noteHang (kind index cores slot : Nat) (s : State) : State :=
  let s := hwSet 0x80010 0 s
  { s with bell := { s.bell with hang := {
      valid := true, kind := BitVec.ofNat 3 kind, index := BitVec.ofNat 8 index, cores := BitVec.ofNat 8 cores
      slot := BitVec.ofNat 16 slot, roundLow := s.bell.roundSeq.setWidth 16 } } }

/-- BELL_HANG as a register value. -/
def hangWord (h : HangReg) : Word :=
  BitVec.ofNat 32 (b2n h.valid + 2 * h.kind.toNat + 16 * h.index.toNat + 4096 * h.cores.toNat)
def hangSlotWord (h : HangReg) : Word := BitVec.ofNat 32 (h.slot.toNat + 65536 * h.roundLow.toNat)

/-- BODY of a hang record (R300). -/
def hangBody (s : State) (fin : Nat) : List Byte :=
  leBytes 4 (hangWord s.bell.hang).toNat ++ leBytes 4 (hangSlotWord s.bell.hang).toNat ++ leBytes 4 fin

/-! ## The barrier (R207, R227, R231) -/

/-- Tag entries of a counter's tiles that do not hold its present generation. -/
def missingTags (s : State) (w : WorkCounter) : Nat :=
  if !w.latched then 0
  else ((List.range w.limit.toNat).filter fun i =>
    getAt (0, 0) (w.tagBase.toNat + i) s.tags != (w.epoch, w.attempt)).length

/-- The first counter of the closing layer whose claimed-tile check fails. -/
def failedCounter (s : State) : Option Nat := s.bell.touched.find? fun n => decide (0 < missingTags s (wcAt s n))

/-- The layer that a failed claimed-tile check names: a best-effort layer runs again from its start (R76), a
latency-critical one in place. -/
def missedLayer (s : State) : State × List Suspect × Option Nat :=
  match s.bell.layerJob with
  | some (r, t, l) =>
    let back (j : Job) : Job := if j.ring = r ∧ j.tag = t then { j with layer := l } else j
    let own := t.toNat + 65536 * r.toNat
    let s := killTransfers (fun x => x.cls == 4 && x.owner.toNat == own && x.desc.toNat % 256 == 0)
      (fun p => p.cls == 4 && p.owner.toNat == own && p.desc.toNat % 256 == 0) s
    ({ s with jobs := s.jobs.map back, bell := { s.bell with layerJob := none, touched := [] } }, [.job r t], none)
  | none => if s.bell.layerOpen then (s, layerSuspect 0x103 0 [] s.bell.layerSlot s, some s.bell.layerSlot) else (s, [], none)

/-- FC_TILE_MISSING, handled as a hang of the layer that the barrier closes (R198, R231). BELL_HANG has no KIND for a work
counter: it takes KIND 0 with no core: DESIGN CHOICE (notes/assumptions/79.md). -/
def tileMissing (n : Nat) (s : State) : State :=
  let w := wcAt s n
  let body := [BitVec.ofNat 8 n, 0, 0, 0] ++ leBytes 4 (missingTags s w) ++ leBytes 2 w.epoch.toNat ++ [w.attempt]
  let slot := if s.bell.layerJob.isSome then 0xFFFF else s.bell.layerSlot
  let m := missedLayer s
  let s := startReset (slotRecord slot s { code := 0x103, unit := unitCode 5 0, body }) m.2.1 (noteHang 0 0 0 slot m.1)
  { s with flt := { s.flt with reset := s.flt.reset.map fun r =>
    { r with layerRan := match m.2.2 with | some i => some i | none => r.layerRan } } }

/-- Marks the reported rows of the closing layer (R207). -/
def markPoison (s : State) : State :=
  { s with bell := { s.bell with
    reported := []
    rowMaps := s.bell.rowMaps.map fun e =>
      (e.1, (List.range e.2.length).zip e.2 |>.map fun r =>
        if s.bell.reported.contains (e.1, r.1) && !r.2.poison then
          { r.2 with poison := true, poisonLayer := s.bell.layerNo } else r.2) } }

/-- The bytes of a row entry (R205). -/
def rowBytes (r : Row) : List Byte :=
  leBytes 2 (r.ctx.toNat + 4096 * b2n r.live + 8192 * b2n r.poison + 16384 * b2n r.region)
    ++ leBytes 2 r.poisonLayer.toNat ++ leBytes 4 r.frame

/-- OFFSET, B and SOURCE of row map `b` (R213). -/
def rowMapEntry (s : State) (b : Nat) : Nat × Nat × Nat :=
  let v := ((activeArea s).rowMaps.getD b 0).toNat
  (bitsOf v 63 0, bitsOf v 95 64, bitsOf v 103 96)

/-- Writes a row map to the Granary at the offset of its table entry. -/
def storeRowMap (b : Nat) (rows : List Row) (s : State) : State :=
  dpaStore (granaryBase + (rowMapEntry s b).1) (rows.flatMap rowBytes)
    { s with bell := { s.bell with rowMaps := putAt b rows s.bell.rowMaps } }

/-- The barrier that closes a layer: the claimed-tile check has passed, DONE is set, poison is marked. -/
def closeLayer (s : State) : State :=
  let s := s.bell.touched.foldl (fun s n => setWc n { wcAt s n with done := true } s) s
  let hit := (s.bell.reported.map (·.1)).eraseDups
  let s := markPoison s
  let s := hit.foldl (fun s b => storeRowMap b (getAt [] b s.bell.rowMaps) s) s
  let s := match s.bell.layerOpen, (s.flt.replaying.find? fun x => match x with
      | .layer i _ _ _ _ => i == s.bell.layerSlot
      | _ => false) with
    | true, some x => endReplay x s
    | _, _ => s
  { s with bell := { s.bell with touched := [], layerOpen := false, layerJob := none } }

/-! ## Rows of a batch (R205, R206) -/

/-- An idle row. -/
def idleRow : Row := { ctx := 0, live := false, poison := false, region := false, poisonLayer := 0xFFFF, frame := 0 }

/-- A live row of a frame. -/
def frameRow (c : BitVec 12) (i : Nat) : Row :=
  { ctx := c, live := true, poison := false, region := false, poisonLayer := 0xFFFF, frame := i }

/-- A frame of the round's list that names network `n` and reached preparation for it. -/
def wantsRow (s : State) (n : Nat) (f : FrameRec) : Bool :=
  (streamAt s f.ctx.toNat).ad.networks.contains n && passedOn f && !f.notAnalysed && !f.skipped.contains n && f.covered

/-- Order of rows: completion round and fc, then context. -/
def frameBefore (a b : Nat × FrameRec) : Bool :=
  decide (a.2.doneAt < b.2.doneAt) || (a.2.doneAt == b.2.doneAt && decide (a.2.ctx.toNat ≤ b.2.ctx.toNat))

/-- Marks frames as not analysed: of the round's list, and past it of the fused sets. -/
def markFrames (ids : List Nat) (s : State) : State :=
  let l := (List.range s.bell.frameList.length).zip s.bell.frameList
  let sets := (List.range s.bell.fused.length).zip s.bell.fused
  let n := s.bell.frameList.length
  { s with bell := { s.bell with
    frameList := l.map fun e => if ids.contains e.1 then { e.2 with notAnalysed := true } else e.2
    fused := sets.map fun e =>
      if ids.contains (n + e.1) then (e.2.1, e.2.2.map fun f => { f with notAnalysed := true }) else e.2 } }

/-- Fills a row map with idle rows to B. -/
def fillRows (b : Nat) (l : List Row) : List Row := l.take b ++ List.replicate (b - l.length) idleRow

/-- Rows of a network fed by access units: its prepared frames in order, and the frames not prepared. -/
def frameRows (s : State) (n : Nat) : List Row × List Nat :=
  let all := ((List.range s.bell.frameList.length).zip s.bell.frameList).filter fun e => wantsRow s n e.2
  let ready := sortBy frameBefore (all.filter fun e => inputsReady s n e.2)
  (ready.map fun e => frameRow e.2.ctx e.1, (all.filter fun e => !inputsReady s n e.2).map (·.1))

/-- Fused sets of a network in the order formed, and those with a frame not prepared; FRAME counts on from the frame
list. -/
def fusedRows (s : State) (n : Nat) : List Row × List Nat :=
  let sets := (List.range s.bell.fused.length).zip s.bell.fused
  let mine := sets.filter fun e => (getAt ({} : Sheaf) e.2.1 s.sheaves).network = n
  let ready (e : Nat × Nat × List FrameRec) : Bool := e.2.2.all (inputsReady s n)
  let at_ (e : Nat × Nat × List FrameRec) : Nat := s.bell.frameList.length + e.1
  ((mine.filter ready).map fun e => frameRow ((e.2.2.head?).elim 0 (·.ctx)) (at_ e), (mine.filter fun e => !ready e).map at_)

/-- The upstream's row map and CAP of a network fed by regions. -/
def upstreamRows (s : State) (n : Nat) : List Row × Nat :=
  match netAt s n with
  | none => ([], 1)
  | some v =>
    match (List.range (activeArea s).rowNets.length).find? fun b => netOfMap s b = v.upstream with
    | some b => (getAt [] b s.bell.rowMaps, v.regionCap)
    | none => ([], v.regionCap)

/-- The crop record of the first crop action of a network's slots (R213). -/
def mapCrop (s : State) (b : Nat) : Option CropRec :=
  (activeArea s).slots.findSome? fun w =>
    if slotBatch w = b then
      ((List.range 16).find? fun g => slotCrop w g % 2 = 1).map fun g =>
        cropRec ((activeArea s).crops.getD (bitsOf (slotCrop w g) 31 16) 0)
    else none

/-- Entry `e` of a sample's box list yields a region (R185). -/
def regionLive (s : State) (r : CropRec) (cap sample e : Nat) : Bool :=
  let q := listEntry r cap sample e s
  yieldsRegion q.1 q.2.1 q.2.2.1 e

/-- The regions of upstream row `i`: live where the row is and its list's entry yields one. -/
def regionsOf (s : State) (crop : Option CropRec) (cap : Nat) (i : Nat) (r : Row) : List Row :=
  (List.range cap).map fun k =>
    if r.live && !r.poison && crop.any (fun c => regionLive s c cap i k) then { r with region := true }
    else { idleRow with region := true }

/-- Rows of a network fed by regions: row n * CAP + r is region r of upstream row n. -/
def regionRows (s : State) (n b : Nat) : List Row :=
  let up := upstreamRows s n
  ((List.range up.1.length).zip up.1).flatMap fun e => regionsOf s (mapCrop s b) up.2 e.1 e.2

/-- The layer-0 slot of a network: the first slot with its BATCH that starts a layer (R205, R212). A slot with no action
but the track store's serves no row map of its own. -/
def servesRows (w : BitVec 4096) : Bool := slotBarrier w && (slotUnits id w).any fun u => u != .track

/-- Writes the row map of a network's layer-0 slot. The frames that rows at or above B would hold get none: they are
reported, with FC_BATCH_OVERFLOW; so are, without a record, those not prepared (R206). The association network's map is
written by ROWS (R238). -/
def writeRows (w : BitVec 4096) (s : State) : State :=
  let b := slotBatch w
  let e := rowMapEntry s b
  let n := netOfMap s b
  if !servesRows w || (findAt b s.bell.rowMaps).isSome || decide ((activeArea s).rowMaps.length ≤ b) then s
  else if s.bell.deadNets.contains n then storeRowMap b (fillRows e.2.1 []) s
  else
    let r : Option (List Row × List Nat) := match e.2.2 with
      | 0 => some (frameRows s n)
      | 1 => some (regionRows s n b, [])
      | 2 => some (fusedRows s n)
      | _ => none
    match r with
    | none => s
    | some (rows, late) =>
      let lack := (rows.drop e.2.1).filter (·.live)
      let s := storeRowMap b (fillRows e.2.1 rows) (markFrames (late ++ lack.map (·.frame)) s)
      if lack.isEmpty then s
      else recordFault { code := 0x104, scope := 0, unit := unitCode 5 0, net := BitVec.ofNat 16 n,
                         body := leBytes 2 b ++ [0, 0] ++ leBytes 4 lack.length } s

/-! ## Actions -/

/-- A work counter's reset (R228). -/
def resetCounter (w : WorkCounter) : WorkCounter :=
  let w := if w.done then { w with epoch := w.epoch + 1, attempt := 0 }
    else if w.attempt = 255 then { w with attempt := 0, epoch := w.epoch + 1 }
    else { w with attempt := w.attempt + 1 }
  { w with value := 0, done := false, latched := false }

/-- RUN (R216): the core sequencer starts at ENTRY. -/
def runCore (n entry arg : Nat) (s : State) : State :=
  let c := coreAt s n
  setCore n { c with busy := true, seq := { pc := entry, tn := arg, pb := entry } } s

/-- SLEEP (R193): a core that is busy goes off when its program finishes. -/
def sleepCore (n : Nat) (s : State) : State :=
  let c := coreAt s n
  if c.busy then setCore n { c with sleepAfter := true } s else corePowerOff n s

/-- An action of a slot; `lists` the crop records of the slot. -/
def mkAction (u : UnitId) (fin slot layer : Nat) (job : Option (BitVec 6 × BitVec 16)) (lists : List Nat) (s : State) :
    Action :=
  { unit := u, issued := s.now, finishBy := s.now + fin, slot, layer, job, lists }

/-- Adds an action to those not finished. -/
def addAction (a : Action) (s : State) : State := { s with bell := { s.bell with actions := s.bell.actions ++ [a] } }

/-- A timed transfer of a descriptor (R290). -/
def timedTransfer (d : BitVec 512) : Transfer := { desc := d, total := granulesOf d, cls := 0, owner := 0 }

/-- Queues a transfer on a timed channel. -/
def queueTimed (c : Nat) (t : Transfer) (s : State) : State :=
  { s with mem := { s.mem with timed := putAt c (getAt [] c s.mem.timed ++ [t]) s.mem.timed } }

/-- The actions of one slot: work counters, cores, transfers, crop units, track store. `phys` maps cores, `b` relocates
table entries and tile programs of a best-effort layer. -/
def slotActions (phys : Nat → Nat) (b : BeBase) (i : Nat) (job : Option (BitVec 6 × BitVec 16)) (w : BitVec 4096)
    (s : State) : State :=
  let l := slotLayer w
  let crops := ((List.range 16).filter fun g => slotCrop w g % 2 = 1).map fun g => b.crop + bitsOf (slotCrop w g) 31 16
  let act (u : UnitId) (fin : Nat) (s : State) : State := addAction (mkAction u fin i l job crops.eraseDups s) s
  let s := ((List.range 64).filter fun k => (slotWcReset w).testBit k).foldl
    (fun s k => setWc k (resetCounter (wcAt s k)) s) s
  let s := (List.range 16).foldl (fun s g =>
    let f := slotGroup w g
    (maskBits (groupMask f)).foldl (fun s j =>
      let n := phys (8 * g + j)
      match groupAction f with
      | 1 => act (.core (BitVec.ofNat 7 n)) (groupFinish f) (runCore n (groupEntry f + b.prog) (groupArg f) s)
      | 2 => sleepCore n s
      | _ => s) s) s
  let s := (List.range 16).foldl (fun s c =>
    let f := slotDma w c
    if f % 4 = 1 then
      act (.channel (BitVec.ofNat 4 c)) (bitsOf f 55 32)
        (queueTimed c (timedTransfer ((activeArea s).dma.getD (b.dma + bitsOf f 31 8) 0)) s)
    else s) s
  let s := (List.range 16).foldl (fun s g =>
    let f := slotCrop w g
    if f % 2 = 1 then (maskBits (bitsOf f 15 8)).foldl (fun s j =>
      act (.crop (BitVec.ofNat 7 (phys (8 * g + j)))) (groupFinish (slotGroup w g)) s) s
    else s) s
  let t := slotTrack w
  if t % 16 = 0 ∨ 3 < t % 16 ∨ s.bell.deadOps.contains (t % 16) then s
  else act .track (bitsOf t 55 32) (wakeDomain 269 { s with trk := { s.trk with busy := true } })

/-- WAKE (R199): cores of the named groups that are off power up. Cores outside the mapping receive no WAKE (R225). -/
def wakeGroups (phys : Nat → Nat) (i : Nat) (w : BitVec 4096) (s : State) : State :=
  let named := ((List.range 128).filter fun c => (slotWake w).testBit (c / 8)).map phys
  (named.filter fun c => (classCores s).contains c && !(coreAt s c).powered).foldl
    (fun s c => let s := corePowerOn c s; setCore c { coreAt s c with wakeSlot := i } s) s

/-- No relocation: the slots of an area are relocated already (R211). -/
def noBase : BeBase := { net := 0, prog := 0, dma := 0, crop := 0, rowMap := 0 }

/-- A job that has begun and has layers left is pre-empted where a timetable slot issues (R294). -/
def preempt (s : State) : State :=
  (s.jobs.filter fun j => j.started).foldl (fun s j => freezeJob j.ring j.tag s) s

/-! ## Best-effort layers in gaps (R208) -/

/-- A job's next layer and its worst-case execution time. -/
def jobLayer (s : State) (j : Job) : Option (Network × Layer × Nat) :=
  match netAt s j.network with
  | none => none
  | some v => match (layersOf s v)[j.layer]? with
    | none => none
    | some l => some (v, l, layerTime l j.batch)

/-- Jobs in the order of R77. -/
def jobOrder (l : List Job) : List Job := sortBy (fun a b => decide (a.priority ≤ b.priority)) l

/-- The first job whose allowance is above 0 and whose next layer fits in `room` fc. -/
def fittingJob (s : State) (room : Nat) : Option Job :=
  (jobOrder s.jobs).find? fun j => (j.slice == 0 || decide (0 < j.allowance)) && !j.cancel &&
    (match jobLayer s j with | some (_, _, t) => decide (t ≤ room) | none => false)

/-- A job's input transfer by host engine 4: it waits until the host-ingest pool has blocks for it (R119); an input longer
than the pool uses the pool's blocks again and again. -/
def startInput (j : Job) (s : State) : State :=
  if j.inStarted then s
  else
    let mark (d : Bool) (bs : List Nat) (s : State) : State := { s with jobs := s.jobs.map fun k =>
      if k.ring = j.ring ∧ k.tag = j.tag then
        { k with inStarted := true, inDone := d, blocks := bs, starved := false } else k }
    if j.inBytes = 0 then mark true [] s
    else match poolAlloc 3 0x1000 (min 4096 (ceilDiv j.inBytes 4096)) s with
      | (none, t) =>
        if j.starved then s
        else { t with jobs := t.jobs.map fun k => if k.ring = j.ring ∧ k.tag = j.tag then { k with starved := true } else k }
      | (some bs, s) =>
        let d := mkDesc 2 0 0 j.inBytes j.inAddr.toNat 0 1 0 0
        let t : Transfer := {
          desc := d, total := granulesOf d, cls := 4, blocks := bs
          owner := BitVec.ofNat 32 (j.tag.toNat + 65536 * j.ring.toNat) }
        mark false bs { s with mem := { s.mem with host := putAt 4 (getAt [] 4 s.mem.host ++ [t]) s.mem.host } }

/-- Input transfers that wait for blocks start in the order of R77. -/
def startInputs (s : State) : State := (jobOrder (s.jobs.filter fun j => !j.inStarted)).foldl (fun s j => startInput j s) s

/-- The placing of layers in a gap stops for good (R208). -/
def stopGap (g : Gap) (s : State) : State := { s with bell := { s.bell with gap := some { g with open_ := false } } }

/-- One turn of R208's loop: the next best-effort layer is placed in the gap, where another job's transfers freeze and the
job's own continue, or placing stops. -/
def placeLayer (g : Gap) (s : State) : State :=
  if !g.open_ then s
  else if 1 ≤ maxStage s ∨ hotIdle s then stopGap g s
  else match fittingJob s (s.bell.roundStart + g.until_ - s.now) with
    | none => stopGap g s
    | some j => match jobLayer s j with
      | none => stopGap g s
      | some (v, l, _) =>
        let s := (s.jobs.filter fun k => k.started && !(k.ring == j.ring && k.tag == j.tag)).foldl
          (fun s k => freezeJob k.ring k.tag s) s
        let s := thawJob j.ring j.tag s
        { s with
          jobs := s.jobs.map fun k => if k.ring = j.ring ∧ k.tag = j.tag then { k with started := true } else k
          bell := { s.bell with
            gap := some { g with job := some (j.ring, j.tag), base := s.now, slots := layerSlots s v l j.batch } } }

/-- Issues slot `i` (R196 to R199). -/
def issueSlot (i : Nat) (w : BitVec 4096) (s : State) : State :=
  let late := decide (slotDue s w < s.now)
  let opens := slotBarrier w && slotKind w == 0 && !(slotUnits id w).isEmpty
  let s := if slotBarrier w || firstFallow s i then closeLayer s else s
  let s := if slotKind w = 0 ∧ !(slotUnits id w).isEmpty then preempt s else s
  let s := if slotKind w = 0 then writeRows w s else s
  let resets := (List.range 64).filter fun k => (slotWcReset w).testBit k
  let s := { s with bell := { s.bell with
    lateIssue := satAdd s.bell.lateIssue (b2n late)
    slot := i + 1
    lastIssue := s.now
    fallowEnd := (if firstFallow s i then s.now + 62500 else s.bell.fallowEnd)
    layerSlot := (if opens then i else s.bell.layerSlot)
    layerStart := (if opens then s.now else s.bell.layerStart)
    layerNo := (if opens then BitVec.ofNat 16 (slotLayer w) else s.bell.layerNo)
    layerOpen := s.bell.layerOpen || opens
    touched := insNats resets s.bell.touched
    gap := (if slotKind w = 1 then
        some { until_ := slotGapEnd w + (if slotGapReserve w then 0 else s.bell.shift) } else none) } }
  let s := slotActions id noBase i none w (wakeGroups id i w s)
  match s.bell.gap with
  | some g => placeLayer g s
  | none => s

/-- Issues the next slot of the best-effort layer under R196, its START counted from the layer's placement: a BARRIER slot
performs the barrier first (R227). -/
def issueGapSlot (g : Gap) (w : BitVec 4096) (rest : List (BitVec 4096)) (s : State) : State :=
  let phys := physOf s
  let due := g.base + slotStart w
  if !slotFits s phys due (slotBarrier w) w then s
  else match (if slotBarrier w then failedCounter s else none) with
    | some n => tileMissing n s
    | none =>
      let job := s.jobs.find? fun j => some (j.ring, j.tag) = g.job
      let b := ((activeArea s).bases.find? fun e => some e.net = job.map (·.network)).getD noBase
      let s := if slotBarrier w then closeLayer s else s
      let resets := (List.range 64).filter fun k => (slotWcReset w).testBit k
      let opened := match job with
        | some j => some (j.ring, j.tag, j.layer)
        | none => none
      let s := { s with bell := { s.bell with
        lateIssue := satAdd s.bell.lateIssue (b2n (decide (due < s.now)))
        lastIssue := s.now
        layerJob := (if slotBarrier w then opened else s.bell.layerJob)
        touched := insNats resets s.bell.touched
        gap := some { g with slots := rest } } }
      slotActions phys b 0xFFFF g.job w (wakeGroups phys 0xFFFF w s)

/-- Transfers of jobs that wait for host-ingest blocks try again (R119). -/
def retryInputs (s : State) : State :=
  let s := if s.jobs.all (·.inStarted) then s else startInputs s
  match gapJob s with
  | some k => thawJob k.1 k.2 s
  | none => s

/-- Parts of the ACTIVE area that the issue of slot `i` reads (R190): the slot, its descriptors and its crop records, each
as an offset and a length. -/
def slotReads (i : Nat) (w : BitVec 4096) : List (Nat × Nat) :=
  (512 * i, 512)
    :: (((List.range 16).filter fun c => slotDma w c % 4 = 1).map fun c => (0xF10000 + 64 * bitsOf (slotDma w c) 31 8, 64))
    ++ ((List.range 16).filter fun g => slotCrop w g % 2 = 1).map fun g => (0xF90000 + 32 * bitsOf (slotCrop w g) 31 16, 32)

/-- First DPA of the ACTIVE area. -/
def activeBase (s : State) : Nat := granaryBase + (58 + 2 * s.bell.active.toNat) * 0x800000

/-- No word that the issue of slot `i` reads holds an error. -/
def slotClean (s : State) (i : Nat) (w : BitVec 4096) : Bool :=
  (slotReads i w).all fun e => !s.mem.dpa.syn.any fun x =>
    decide (activeBase s + e.1 ≤ x.1) && decide (x.1 < activeBase s + e.1 + e.2)

/-- The sequencer fetches a slot. Errors in the words it reads are corrected; an uncorrectable one starts a compute reset
(R305). State holds the area by field, so words without an error need no reading. -/
def fetchSlot (i : Nat) (w : BitVec 4096) (body : State → State) (s : State) : State :=
  if slotClean s i w then body s
  else
    let r := (slotReads i w).foldl (fun (r : Bool × State) e =>
      let x := dpaReads 4 (activeBase s + e.1) (e.2 / 4) r.2
      (r.1 && x.1.all (!·.2), x.2)) (true, s)
    if r.1 then body r.2
    else eccReset (unitCode 10 (58 + 2 * s.bell.active.toNat)) s.mem.ue (computeSuspect 0x401 0 [] none s) r.2

/-- SLOT_ISSUE: the sequencer's next issue. A placed best-effort layer issues its slots; otherwise the next timetable
slot issues once R196 holds, after the barrier's claimed-tile check. The END slot is ROUND_BOUNDARY's. -/
def execSlotIssue (s : State) : Res :=
  .next (if !s.bell.running || s.flt.reset.isSome then s
    else
      let s := retryInputs s
      let timetable : State := match nextSlot s with
        | none => s
        | some (i, w) =>
          if slotKind w = 3 ∨ !canIssue s i w then s
          else match (if slotBarrier w || firstFallow s i then failedCounter s else none) with
            | some n => tileMissing n s
            | none => fetchSlot i w (issueSlot i w) s
      match s.bell.gap with
      | some g => match g.slots with
        | w :: rest => issueGapSlot g w rest s
        | [] => timetable
      | none => timetable)

/-! ## Finish reports (R195) -/

/-- The last layer of a job has run: its output leaves by host engine 5, once its input has been read. -/
def startOutput (j : Job) (s : State) : State :=
  if j.outBytes = 0 then endJob j.ring j.tag {} s
  else
  let d := mkDesc 0 2 0 j.outBytes 0 j.outAddr.toNat 1 0 0
  let t : Transfer := {
    desc := d, total := granulesOf d, cls := 4, owner := BitVec.ofNat 32 (j.tag.toNat + 65536 * j.ring.toNat) }
  { s with mem := { s.mem with host := putAt 5 (getAt [] 5 s.mem.host ++ [t]) s.mem.host } }

/-- The job of a best-effort layer that has finished: its allowance, its next layer or its end (R75, R78), and the blocks
of an input that has landed, which are free once its layer is done (R116). -/
def jobAdvance (k : BitVec 6 × BitVec 16) (ran : Nat) (s : State) : State :=
  match s.jobs.find? fun j => (j.ring, j.tag) = k with
  | none => s
  | some j =>
    let last := match netAt s j.network with | some v => decide ((layersOf s v).length ≤ j.layer + 1) | none => true
    let s := if j.inDone then poolFree 3 j.blocks s else s
    let j' := { j with
      layer := j.layer + 1, allowance := j.allowance - ran, started := j.started && !last,
      blocks := (if j.inDone then [] else j.blocks) }
    let s := { s with jobs := s.jobs.map fun x => if (x.ring, x.tag) = k then j' else x }
    let s := endReplay (.job k.1 k.2) s
    if j.cancel then endJob k.1 k.2 (failWith 0x203 0x42) s
    else if last then startOutput j' s else s

/-- A best-effort layer has finished, and R208's loop goes on. -/
def finishLayer (g : Gap) (k : BitVec 6 × BitVec 16) (s : State) : State :=
  let g' := { g with job := none, slots := [] }
  let s := jobAdvance k (s.now - g.base) { s with bell := { s.bell with gap := some g' } }
  placeLayer g' s

/-- Whether a unit can report finish: a core whose program has ended, a channel whose transfers have landed, the
track-store unit when its operation is done. -/
def unitDone (s : State) (u : UnitId) : Bool :=
  match u with
  | .core n => !(coreAt s n.toNat).busy && !(coreAt s n.toNat).seq.stopped
  | .channel c => (getAt [] c.toNat s.mem.timed).all fun t => t.core != 0 || decide (t.total ≤ t.done)
  | .crop _ => true
  | .track => !s.trk.busy

/-- The rows whose boxes a slot's crop units cut out, with the context their source is read through: the upstream rows that
are live and not poisoned, or every row of a job's batch. -/
def cropRows (s : State) (a : Action) : Nat × List Nat :=
  match a.job with
  | some k => match s.jobs.find? fun j => (j.ring, j.tag) = k with
    | some j => ((netAt s j.network).elim 0 (·.xctx), List.range j.batch)
    | none => (0, [])
  | none =>
    let n := netOfMap s (slotBatch ((activeArea s).slots.getD a.slot 0))
    let rows := (upstreamRows s n).1
    ((netAt s n).elim 0 (·.xctx),
      ((List.range rows.length).zip rows).filterMap fun e => if e.2.live && !e.2.poison then some e.1 else none)

/-- The crop units of a slot share its boxes: when the last of them finishes, every region has been written (R184,
notes/assumptions/16.md). Answers the rows whose source was poisoned (R207). -/
def cropFinish (core : Nat) (a : Action) (s : State) : List Nat × State :=
  if s.bell.actions.any (fun b => b.slot == a.slot && b.issued == a.issued && (match b.unit with | .crop _ => true | _ => false))
  then ([], s)
  else
    let r := cropRows s a
    a.lists.foldl (fun x l =>
      let t := cropAll r.1 (cropRec ((activeArea x.2).crops.getD l 0)) r.2 x.2
      (x.1 ++ t.2.1, countEv core t.1 t.2.2)) ([], s)

/-- The rows that a finished action reports (R207): a crop unit's poisoned regions; for a unit that met poison, `rows`, or
all rows where those are not told apart; none for any other. How a unit tells a row is not stated
(notes/assumptions/80.md). -/
def reportRows (s : State) (a : Action) (crop rows : List Nat) : List (Nat × Nat) :=
  match a.job with
  | some _ => []
  | none =>
    let b := slotBatch ((activeArea s).slots.getD a.slot 0)
    let met := if s.bell.met.contains a.unit then
        (if rows.isEmpty then List.range (getAt [] b s.bell.rowMaps).length else rows)
      else []
    (insNats (crop ++ met) []).map fun r => (b, r)

/-- The finish of a unit's action: a core under SLEEP goes off, a channel forgets its transfers, a crop unit's regions are
in place. Answers the poisoned regions. -/
def unitEnds (a : Action) (s : State) : List Nat × State :=
  match a.unit with
  | .core n => ([], if (coreAt s n.toNat).sleepAfter then corePowerOff n.toNat s else s)
  | .channel c => ([], { s with mem := { s.mem with
      timed := putAt c.toNat ((getAt [] c.toNat s.mem.timed).filter fun t => decide (t.done < t.total)) s.mem.timed } })
  | .crop n => cropFinish n.toNat a s
  | .track => ([], s.flt.replaying.foldl (fun s x => match x with | Suspect.track _ => endReplay x s | _ => s) s)

/-- UNIT_FINISH: the action is finished, if its deadline has not passed (R198); rows that met poison are reported for the
barrier (R207). -/
def execUnitFinish (u : UnitId) (poisonRows : List Nat) (s : State) : Res :=
  .next (match s.bell.actions.find? fun a => a.unit == u with
    | none => s
    | some a =>
      if !unitDone s u || s.flt.reset.isSome || decide (a.finishBy < s.now) then s
      else
        let r := unitEnds a { s with bell := { s.bell with actions := s.bell.actions.filter fun b => b.unit != u } }
        let s := { r.2 with bell := { r.2.bell with
          reported := r.2.bell.reported ++ reportRows r.2 a r.1 poisonRows
          met := r.2.bell.met.filter (· != u) } }
        match s.bell.gap, a.job with
        | some g, some k =>
          if g.job = some k ∧ g.slots.isEmpty ∧ s.bell.actions.all fun b => b.job != some k then finishLayer g k s else s
        | _, _ => s)

/-! ## Cores that wake (R199, R200) -/

/-- A core is waking, and the 37,500 fc it has for it have not passed. -/
def wakeOpen (c : Core) (now : Nat) : Bool := match c.wakeAt with | some t => decide (now ≤ t + 37500) | none => false

/-- CORE_READY: the core loads its image and reports ready; bad data leaves it not ready. -/
def execCoreReady (core : BitVec 7) (s : State) : Res :=
  let n := core.toNat
  .next (if !(coreAt s n).powered || (coreAt s n).ready || s.flt.reset.isSome
      || !wakeOpen (coreAt s n) s.now then s
    else
      let r := coreLoad n s
      if r.1 then setCore n { coreAt r.2 n with ready := true, readyAt := s.now, wakeAt := none } r.2 else r.2)

/-- The cores of group `g` that are not ready 37,500 fc after their WAKE. -/
def lateCores (s : State) (g : Nat) : List Nat :=
  ((List.range 8).map (8 * g + ·)).filter fun k =>
    !(coreAt s k).ready && (match (coreAt s k).wakeAt with | some t => decide (t + 37500 ≤ s.now) | none => false)

/-- WAKE_TIMEOUT: a core not ready 37,500 fc after its WAKE is hung. -/
def execWakeTimeout (core : BitVec 7) (s : State) : Res :=
  let n := core.toNat
  let c := coreAt s n
  .next (match c.wakeAt with
    | none => s
    | some t =>
      if c.ready || decide (s.now < t + 37500) || s.flt.reset.isSome then s
      else
        let hung := lateCores s (n / 8)
        let s := noteHang 4 (n / 8) ((hung.map fun k => 2 ^ (k % 8)).foldl (· + ·) 0) c.wakeSlot s
        let s := hung.foldl (fun s k => setCore k { coreAt s k with wakeAt := none } s) s
        startReset (slotRecord c.wakeSlot s { code := 0x102, unit := unitCode 0 n, body := hangBody s 37500 })
          (computeSuspect 0x102 0 hung none s) (testGroups hung s))

/-! ## Hangs (R198) -/

/-- Kind and index of BELL_HANG, and the unit code of the record, for a unit. -/
def hangUnit (u : UnitId) : Nat × Nat × BitVec 16 :=
  match u with
  | .core n => (0, n.toNat / 8, unitCode 1 (n.toNat / 8))
  | .channel c => (1, c.toNat, unitCode 2 c.toNat)
  | .crop n => (2, n.toNat / 8, unitCode 3 (n.toNat / 8))
  | .track => (3, 0, unitCode 4 0)

/-- Cores of the same group whose action of the same slot is not finished, as a CORE_MASK. -/
def hungCores (s : State) (a : Action) : List Nat :=
  match a.unit with
  | .core n => ((List.range 8).map fun j => n.toNat / 8 * 8 + j).filter fun c =>
      s.bell.actions.any fun b => b.unit == .core (BitVec.ofNat 7 c) && b.slot == a.slot && decide (b.finishBy ≤ s.now)
  | .crop n => ((List.range 8).map fun j => n.toNat / 8 * 8 + j).filter fun c =>
      s.bell.actions.any fun b => b.unit == .crop (BitVec.ofNat 7 c) && b.slot == a.slot && decide (b.finishBy ≤ s.now)
  | _ => []

/-- The operation of the track-store field of slot `i`. -/
def trackOp (s : State) (i : Nat) : Nat := match (activeArea s).slots[i]? with | some w => slotTrack w % 16 | none => 3

/-- The suspects of a hung action (R309). -/
def hangSuspects (code : BitVec 16) (a : Action) (cores : List Nat) (s : State) : List Suspect :=
  match a.unit, a.job with
  | .track, none => [.track (trackOp s a.slot)]
  | _, j => computeSuspect code 0 cores j s

/-- The RUN that waits for a core left not ready by a failed load at an area change (R200): it is hung FINISH after its
slot was due. -/
def deadRun (s : State) (u : UnitId) : Option Action :=
  match u, nextSlot s with
  | .core n, some (i, w) =>
    let c := coreAt s n.toNat
    let fin := slotDue s w + groupFinish (slotGroup w (n.toNat / 8))
    if slotKind w = 0 ∧ (slotCores id w 1).contains n.toNat ∧ c.powered ∧ !c.ready ∧ c.wakeAt = none ∧ fin ≤ s.now then
      some { unit := u, issued := slotDue s w, finishBy := fin, slot := i, layer := slotLayer w }
    else none
  | _, _ => none

/-- ACTION_HANG: an action not reported finished by fc t + FINISH. -/
def execActionHang (u : UnitId) (s : State) : Res :=
  .next (match (match s.bell.actions.find? fun a => a.unit == u && decide (a.finishBy ≤ s.now) with
      | some a => some a
      | none => deadRun s u) with
    | none => s
    | some a =>
      if s.flt.reset.isSome then s
      else
        let cores := match deadRun s u, u with
          | some _, .core n => [n.toNat]
          | _, _ => hungCores s a
        let h := hangUnit u
        let mask := (cores.map fun c => 2 ^ (c % 8)).foldl (· + ·) 0
        let sus := hangSuspects 0x101 a cores s
        let s := noteHang h.1 h.2.1 mask a.slot s
        startReset (slotRecord a.slot s { code := 0x101, unit := h.2.2, body := hangBody s (a.finishBy - a.issued) })
          sus (testGroups cores s))

end Sys2Proof.Machine
end

