-- ==== Sys2Proof/Machine/Tile.lean ====
section
/-! DEFINITION. Machine/Tile.lean: the core sequencer (R216 to R232): instruction words and their checks, core memories
with their error correction (R156, R158, R279), and the instructions WLOAD, SYNC, CLAIM and DMA. -/

namespace Sys2Proof.Machine

/-! ## Instruction words (R217, R220) -/

def insnOp (w : Nat) : Nat := w % 16
def insnTnx (w : Nat) : Bool := w.testBit 4

/-- Bits that a word's OP, and its SOP, define. -/
def fieldBits (w : Nat) : Nat :=
  match insnOp w with
  | 1 => 44
  | 2 => 110
  | 3 => 109
  | 4 => 69
  | 5 => 53
  | 6 => 124
  | 7 => match bitsOf w 10 8 with
    | 1 => 11
    | 2 => 82
    | 3 => 17
    | 4 => 31
    | _ => 23
  | 8 => 100
  | _ => 81

/-- FUNC values of R220. -/
def vecFuncs : List Nat :=
  [0, 1, 2, 3, 4, 5, 6, 8, 9, 0xA, 0xB, 0xC, 0xD, 0x10, 0x11, 0x12, 0x13, 0x14, 0x18, 0x19, 0x1A, 0x1B, 0x1C, 0x1D, 0x1E,
   0x1F, 0x20, 0x21, 0x22, 0x28, 0x29, 0x2A, 0x2B, 0x2C, 0x30, 0x31, 0x38, 0x39, 0x3A, 0x3B, 0x40, 0x41]

/-- Fields of rule 1 with a reserved value: bit position and whether the word offends. A value that rule 1 does not list,
such as BODY 0 or a mark that a buffer does not have, is no fault. -/
def fieldRules (w : Nat) : List (Nat × Bool) :=
  match insnOp w with
  | 1 => [(8, decide (1 < bitsOf w 9 8))]
  | 2 => [(8, decide (6 < bitsOf w 11 8)), (75, decide (4 < bitsOf w 77 75))]
  | 3 => [(8, decide (6 < bitsOf w 11 8)), (75, decide (4 < bitsOf w 77 75))]
  | 4 => [(8, decide (4 < bitsOf w 10 8)), (58, decide (4 < bitsOf w 60 58))]
  | 6 =>
    let func := bitsOf w 15 8
    [(8, !vecFuncs.contains func), (113, decide (4 < bitsOf w 115 113))]
  | 7 =>
    let sop := bitsOf w 10 8
    [(8, sop == 0 || decide (5 < sop))]
  | _ => []

/-- The lowest set bit of [hi:lo], if any. -/
def lowestBit (v lo n : Nat) : Option Nat := ((List.range n).map (lo + ·)).find? fun i => v.testBit i

/-- Rule 1 of R223: the bit position of the first offending field. -/
def badField (w : Nat) : Option Nat :=
  if insnOp w = 0 ∨ 9 < insnOp w then some 0
  else
    let hits := (match lowestBit w 5 3 with | some i => [i] | none => [])
      ++ ((fieldRules w).filter (·.2)).map (·.1)
      ++ (match lowestBit w (fieldBits w) (128 - fieldBits w) with | some i => [i] | none => [])
    match hits with
    | [] => none
    | h :: t => some (t.foldl min h)

/-! ## Core memories (R156, R158, R280) -/

/-- Error events of a core memory, at addresses core * 2^20 + byte offset. -/
def coreEvents (n memory : Nat) (es : List EccEvent) (s : State) : State :=
  reportEccs memory 0 (es.map fun e => { e with addr := n * 0x100000 + e.addr }) s

/-- Reads words of the activation buffer, or of the weight buffer. -/
def coreReads (n : Nat) (wgt : Bool) (a k : Nat) (s : State) : List (Word × Bool) × State :=
  let c := coreAt s n
  let r := memReads (if wgt then c.wgt else c.act) a k
  (r.1, coreEvents n (if wgt then 3 else 2) r.2.2
    (setCore n (if wgt then { c with wgt := r.2.1 } else { c with act := r.2.1 }) s))

/-- Writes words of one of the two buffers. -/
def coreWrites (n : Nat) (wgt : Bool) (a : Nat) (l : List (Word × Bool)) (s : State) : State :=
  let s := meetPoison (.core (BitVec.ofNat 7 n)) (l.any (·.2)) s
  let c := coreAt s n
  setCore n (if wgt then { c with wgt := memWrites c.wgt a l } else { c with act := memWrites c.act a l }) s

/-- Bytes of a buffer and whether any of their words is poisoned. -/
def coreBytes (n : Nat) (wgt : Bool) (a k : Nat) (s : State) : List Byte × Bool × State :=
  let w := a / 4 * 4
  let r := coreReads n wgt w (ceilDiv (a + k - w) 4) s
  (((wordBytes r.1).drop (a - w)).take k, r.1.any (·.2), r.2)

/-- Writes a byte string whose start and length are multiples of 4; poisoned bytes poison their words. -/
def coreStore (n a : Nat) (l : List Byte) (poison : Bool) (s : State) : State :=
  coreWrites n false a ((byteWords l).map fun w => (w, poison)) s

/-- Syndrome of a word of the accumulator, scale file or tile-program memory. -/
def coreSyn (c : Core) (memory off : Nat) : BitVec 7 := getAt 0 (memory * 0x100000 + off) c.syn

/-- Sets such a syndrome. -/
def setCoreSyn (memory off : Nat) (y : BitVec 7) (c : Core) : Core :=
  { c with syn := if y = 0 then dropAt (memory * 0x100000 + off) c.syn else putAt (memory * 0x100000 + off) y c.syn }

/-- A read of a word of one of those memories: the value as corrected, whether it is poisoned, and the core with the
write-back of R280; `put` stores a corrected word. -/
def coreWord (n memory off : Nat) (raw : Word) (put : Word → Core → Core) (scope : Nat) (s : State) :
    Word × Bool × State :=
  let c := coreAt s n
  let y := coreSyn c memory off
  let ev : EccEvent := { addr := n * 0x100000 + off, syn := y }
  match eccKind y with
  | .clean => (raw, false, s)
  | .marker => (raw, true, reportEcc memory scope s ev)
  | .corrected b =>
    let v := eccFix raw (.corrected b)
    (v, false, reportEcc memory scope (setCore n (setCoreSyn memory off 0 (put v c)) s) ev)
  | .uncorrectable => (raw, true, reportEcc memory scope (setCore n (setCoreSyn memory off 0x7F c) s) ev)

/-! ### Accumulator (R148, R158) -/

/-- Contents of an accumulator row that nothing has written: zero, or free after a compute reset. -/
def blankRow (c : Core) (i : Nat) : AccRow :=
  { vals := if c.undef = 0 then [] else (List.range 64).map fun k =>
      let b (j : Nat) : Byte := Config.freeByte c.undef (c.act.id + 2) (i * 256 + 4 * k + j)
      b 3 ++ b 2 ++ b 1 ++ b 0 }

/-- Row `i` (array * 256 + row) as stored. -/
def accRow (c : Core) (i : Nat) : AccRow := (findAt i c.acc).getD (blankRow c i)

/-- The 64 entries of a row. -/
def accVals (r : AccRow) : List Word := (List.range 64).map fun k => r.vals.getD k 0

/-- Corrects the entries of a row that hold errors; one that is poisoned poisons the row. DESIGN CHOICE
(notes/assumptions/85.md): it sets the row's POISON bit and not POISON_SEEN, which names rows that received poison. -/
def accFix (n i : Nat) : List Nat → State → State
  | [], s => s
  | k :: ks, s =>
    let row := accRow (coreAt s n) i
    let put (v : Word) (c : Core) : Core := { c with acc := putAt i { row with vals := (accVals row).set k v } c.acc }
    let r := coreWord n 4 (i * 256 + 4 * k) ((accVals row).getD k 0) put 0 s
    let s := r.2.2
    let c := coreAt s n
    accFix n i ks (if r.2.1 then setCore n { c with acc := putAt i { accRow c i with poison := true } c.acc } s else s)

/-- Reads an accumulator row. -/
def accRead (n i : Nat) (s : State) : AccRow × State :=
  let bad := (coreAt s n).syn.filterMap fun e =>
    if 0x400000 + i * 256 ≤ e.1 ∧ e.1 < 0x400000 + i * 256 + 256 then some ((e.1 - 0x400000 - i * 256) / 4) else none
  let s := accFix n i bad s
  (accRow (coreAt s n) i, s)

/-- Writes an accumulator row; a row that receives POISON sets POISON_SEEN (R169). -/
def accWrite (n i : Nat) (r : AccRow) (s : State) : State :=
  let c := coreAt s n
  let syn := c.syn.filter fun e => e.1 < 0x400000 + i * 256 ∨ 0x400000 + i * 256 + 256 ≤ e.1
  let s := meetPoison (.core (BitVec.ofNat 7 n)) r.poison (if r.poison then hwSet (0x100000 + 0x2000 * n) 2 s else s)
  setCore n { c with acc := putAt i r c.acc, syn, poisonSeen := c.poisonSeen || r.poison } s

/-! ### Scale file (R161) -/

/-- SH of a scale entry, and whether its word is poisoned. -/
def scaleRead (n b : Nat) (s : State) : Int × Bool × State :=
  let w := b / 4
  let entry (c : Core) (i : Nat) : Byte := getAt 0 (4 * w + i) c.scale
  let c := coreAt s n
  let raw : Word := entry c 3 ++ entry c 2 ++ entry c 1 ++ entry c 0
  let put (v : Word) (c : Core) : Core :=
    { c with scale := (List.range 4).foldl (fun m i => putAt (4 * w + i) (v.extractLsb' (8 * i) 8) m) c.scale }
  let r := coreWord n 5 (4 * w) raw put 0 s
  (signedOf 6 (bitsOf r.1.toNat (8 * (b % 4) + 7) (8 * (b % 4))), r.2.1, r.2.2)

/-! ## Fetching an instruction -/

/-- Reads the four words of a tile-program word; false with an uncorrectable error. -/
def progWord (scope n a : Nat) (s : State) : Nat × Bool × State :=
  (List.range 4).foldl (fun (r : Nat × Bool × State) i =>
    let c := coreAt r.2.2 n
    let all : BitVec 128 := getAt 0 a c.prog
    let put (v : Word) (c : Core) : Core :=
      { c with prog := putAt a (BitVec.ofNat 128 (setBits all.toNat (32 * i + 31) (32 * i) v.toNat)) c.prog }
    let x := coreWord n 6 (16 * a + 4 * i) (all.extractLsb' (32 * i) 32) put scope r.2.2
    (r.1 + x.1.toNat * 2 ^ (32 * i), r.2.1 && !x.2.1, x.2.2)) (0, true, s)

/-- An instruction fetch, for which an uncorrectable error has no poison handling (R305). -/
def fetchInsn (n a : Nat) (s : State) : Nat × Bool × State := progWord 4 n a s

/-- The job whose layer runs on a core. -/
def jobOfCore (s : State) (n : Nat) : Option (BitVec 6 × BitVec 16) :=
  match s.bell.actions.find? fun a => a.unit == .core (BitVec.ofNat 7 n) with
  | some a => a.job
  | none => none

/-- The slot whose action runs on a core. -/
def slotOfCore (s : State) (n : Nat) : Nat :=
  match s.bell.actions.find? fun a => a.unit == .core (BitVec.ofNat 7 n) with
  | some a => a.slot
  | none => 0xFFFF

/-- An instruction fault (R224): FURROW_INSN, then the Bell sequencer's handling as a hang. -/
def insnFault (n op res amount : Nat) (s : State) : State :=
  let c := coreAt s n
  let pc := c.seq.pc
  let code := BitVec.ofNat 16 (0x200 + res)
  let s := setCore n { c with
    insn := { valid := true, op := BitVec.ofNat 4 op, res := BitVec.ofNat 4 res, pc := BitVec.ofNat 12 pc,
              amount := BitVec.ofNat 32 amount, tn := BitVec.ofNat 16 c.seq.tn }
    seq := { c.seq with stopped := true } } (hwSet (0x100100 + 0x2000 * n) 0 s)
  let slot := slotOfCore s n
  let s := noteHang 0 (n / 8) (2 ^ (n % 8)) slot s
  let body := leBytes 2 pc ++ [BitVec.ofNat 8 op, BitVec.ofNat 8 res] ++ leBytes 4 amount ++ leBytes 2 c.seq.tn
    ++ [BitVec.ofNat 8 n]
  startReset (slotRecord slot s { code, unit := unitCode 0 n, body }) (computeSuspect code pc [n] (jobOfCore s n) s)
    (testGroups [n] s)

/-- The next instruction, or the claim that decides whether the loop body runs again (R229). -/
def advance (n : Nat) (s : State) : State :=
  let c := coreAt s n
  let pc := c.seq.pc + 1
  let back : Bool := match c.seq.loop with | some l => decide (pc = l.pc + l.body + 1) | none => false
  let pc := if back then (match c.seq.loop with | some l => l.pc | none => pc) else pc
  setCore n { c with seq := { c.seq with pc } } s

/-- A check of R223: RES and amount when it fails. -/
abbrev Check := State → Nat → Nat → Option (Nat × Nat)

/-- The first check that fails. -/
def firstBad (s : State) (n w : Nat) : List Check → Option (Nat × Nat)
  | [] => none
  | c :: r => match c s n w with
    | some x => some x
    | none => firstBad s n w r

/-- A row of one tile instruction: the core fetches its next word; nothing happens unless the core runs and that word is
`w`. A reserved word, and one that a check refuses, raises the instruction fault; an instruction that waits leaves the
state as it is. -/
def tileStep (mine : Nat → Bool) (checks : List Check) (ready : State → Nat → Nat → Bool)
    (body : Nat → Nat → State → State) (core : BitVec 7) (w : BitVec 128) (s : State) : Res :=
  let n := core.toNat
  let c := coreAt s n
  if (badField w.toNat).isNone && !mine w.toNat then .fault .notThisCommand
  else .next (if !c.powered || !c.ready || !c.busy || c.seq.stopped || s.flt.reset.isSome then s
    else if 4095 < c.seq.pc then insnFault n 0 2 (c.seq.pc - 4095) s
    else
      let f := fetchInsn n c.seq.pc s
      if !f.2.1 then
        eccReset (eccUnit 6 (n * 0x100000)) s.mem.ue (computeSuspect 0x401 c.seq.pc [n] (jobOfCore s n) s) f.2.2
      else match badField f.1 with
        | some bit => insnFault n (insnOp f.1) 1 bit f.2.2
        | none =>
          if f.1 ≠ w.toNat then f.2.2
          else match firstBad f.2.2 n f.1 checks with
            | some (res, amount) => insnFault n (insnOp f.1) res amount f.2.2
            | none => if ready f.2.2 n f.1 then advance n (body n f.1 f.2.2) else f.2.2)

/-- An instruction that never waits. -/
def always (_ : State) (_ _ : Nat) : Bool := true

/-- An address field with its index: TN times a step register when TNX is set. -/
def indexed (s : State) (n w base step : Nat) : Nat := if insnTnx w then base + (coreAt s n).seq.tn * step else base

/-- Bytes by which a range passes a limit. -/
def beyond (limit res stop : Nat) : Option (Nat × Nat) := if limit < stop then some (res, stop - limit) else none

/-- A mark is reached when the end of the range, in 16-byte units, is at or below it. -/
def markOk (marks : List Nat) (mark stopBytes : Nat) : Bool := decide (ceilDiv stopBytes 16 ≤ marks.getD mark 0x10000)

/-- AMARK of an instruction: 0 none, 1 to 4 activation marks 0 to 3. -/
def amarkOk (s : State) (n mark stopBytes : Nat) : Bool :=
  mark == 0 || markOk (coreAt s n).seq.amark (mark - 1) stopBytes

/-! ## WLOAD -/

def wloadAddr (s : State) (n w : Nat) : Nat := 16 * indexed s n w (bitsOf w 24 10) (coreAt s n).seq.sw

def wloadBytes (w : Nat) : Nat := if bitsOf w 9 8 = 0 then 8192 else bitsOf w 43 38 + 1

def checkWload : List Check :=
  [fun s n w => beyond 0x80000 4 (wloadAddr s n w + wloadBytes w),
   fun _ _ w => if bitsOf w 9 8 = 1 ∧ 2048 < bitsOf w 37 27 + bitsOf w 43 38 + 1 then
       some (7, bitsOf w 37 27 + bitsOf w 43 38 + 1 - 2048) else none]

def wloadReady (s : State) (n w : Nat) : Bool :=
  !w.testBit 25 || markOk (coreAt s n).seq.wmark (bitsOf w 26 26) (wloadAddr s n w + wloadBytes w)

/-- A weight tile goes into the four arrays; a poisoned word poisons the tile (R158). -/
def loadTile (n w : Nat) (s : State) : State :=
  let r := coreBytes n true (wloadAddr s n w) 8192 s
  let c := coreAt r.2.2 n
  setCore n { c with
    tile := r.1, tilePoison := r.2.1
    cnt := { c.cnt with wload := satAdd c.cnt.wload 1 } } r.2.2

/-- Writes entries into one word of the scale file: `l` gives the new byte of each place, with its poison. A whole word
replaces what it finds; a part reads the word first, and one with an uncorrectable error keeps its marker and its bytes
(R280). -/
def scaleWord (n wd : Nat) (l : List (Option (Byte × Bool))) (s : State) : State :=
  let put (c : Core) (e : Nat × Option (Byte × Bool)) : Core :=
    match e.2 with
    | some b => { c with scale := putAt (4 * wd + e.1) b.1 c.scale }
    | none => c
  let write (s : State) : State :=
    let bad := l.any fun e => e.elim false (·.2)
    setCore n (setCoreSyn 5 (4 * wd) (if bad then 0x7F else 0) (((List.range 4).zip l).foldl put (coreAt s n))) s
  if l.all (·.isSome) then write s
  else
    let r := scaleRead n (4 * wd) s
    if r.2.1 then r.2.2 else write r.2.2

/-- Scale entries go into the scale file; an entry of a poisoned source word poisons the word it lands in (R158). -/
def loadScales (n w : Nat) (s : State) : State :=
  let a := wloadAddr s n w
  let k := wloadBytes w
  let r := coreReads n true a (ceilDiv k 4) s
  let entries : List (Byte × Bool) := r.1.flatMap fun x => (leBytes 4 x.1.toNat).map fun b => (b, x.2)
  let b := bitsOf w 37 27
  (List.range (ceilDiv (b % 4 + k) 4)).foldl (fun s i =>
    let wd := b / 4 + i
    scaleWord n wd ((List.range 4).map fun j =>
      if b ≤ 4 * wd + j ∧ 4 * wd + j < b + k then entries[4 * wd + j - b]? else none) s) r.2

def execWloadWeights (core : BitVec 7) (w : BitVec 128) (s : State) : Res :=
  tileStep (fun w => insnOp w = 1 ∧ bitsOf w 9 8 = 0) checkWload wloadReady loadTile core w s

def execWloadScales (core : BitVec 7) (w : BitVec 128) (s : State) : Res :=
  tileStep (fun w => insnOp w = 1 ∧ bitsOf w 9 8 = 1) checkWload wloadReady loadScales core w s

/-! ## SYNC -/

/-- A SYNC row. -/
def isSync (sop w : Nat) : Bool := insnOp w == 7 && bitsOf w 10 8 == sop

/-- Transfers that a core's DMA instructions issued and that have not landed; `out` those out of the core. -/
def coreTransfers (s : State) (n : Nat) (out : Bool) : List Transfer :=
  (getAt [] (n / 8) s.mem.timed).filter fun t =>
    t.core == n + 1 && decide (t.done < t.total) && ((descSrcSpace t.desc == 3) == out)

/-- END (R227): every write of the core's DMA instructions has landed and every commit has updated its tag. -/
def endReady (s : State) (n _ : Nat) : Bool := (coreTransfers s n true).isEmpty && (coreTransfers s n false).isEmpty

def endProgram (n _ : Nat) (s : State) : State :=
  let c := coreAt s n
  setCore n { c with busy := false, seq := { c.seq with loop := none } } s

def setSteps (n w : Nat) (s : State) : State :=
  let c := coreAt s n
  setCore n { c with seq := { c.seq with
    sa := bitsOf w 26 11, sw := bitsOf w 41 27, so := bitsOf w 57 42, sr := bitsOf w 81 58 } } s

/-- QUIET: the named units are idle. Arrays, requantiser, vector and crop units have finished each instruction when the
next one issues; the transfers of the core may still run. -/
def quietReady (s : State) (n w : Nat) : Bool :=
  (!w.testBit 15 || (coreTransfers s n false).isEmpty) && (!w.testBit 16 || (coreTransfers s n true).isEmpty)

/-- MARKS (R219): a mark that the buffer does not have is not set. -/
def setMark (n w : Nat) (s : State) : State :=
  let c := coreAt s n
  let i := bitsOf w 12 11
  let v := bitsOf w 30 14
  setCore n { c with seq := if w.testBit 13 then { c.seq with wmark := c.seq.wmark.set i v }
                            else { c.seq with amark := c.seq.amark.set i v } } s

def setParam (n w : Nat) (s : State) : State :=
  let c := coreAt s n
  setCore n { c with seq := { c.seq with pb := bitsOf w 22 11 } } s

def execSyncEnd (core : BitVec 7) (w : BitVec 128) (s : State) : Res :=
  tileStep (isSync 1) [] endReady endProgram core w s
def execSyncSteps (core : BitVec 7) (w : BitVec 128) (s : State) : Res :=
  tileStep (isSync 2) [] always setSteps core w s
def execSyncQuiet (core : BitVec 7) (w : BitVec 128) (s : State) : Res :=
  tileStep (isSync 3) [] quietReady (fun _ _ s => s) core w s
def execSyncMarks (core : BitVec 7) (w : BitVec 128) (s : State) : Res :=
  tileStep (isSync 4) [] always setMark core w s
def execSyncParam (core : BitVec 7) (w : BitVec 128) (s : State) : Res :=
  tileStep (isSync 5) [] always setParam core w s

/-! ## CLAIM (R228, R229) -/

/-- The limit of a claim: LIMIT, or the smaller of LIMIT and the Granary word at LADDR; a poisoned word is LIMIT. -/
def claimLimit (w : Nat) (s : State) : Nat × Bool × State :=
  if w.testBit 30 then
    let r := dpaReads 0 (granaryBase + 4 * bitsOf w 57 31) 1 s
    match r.1 with
    | (v, p) :: _ => if p then (bitsOf w 29 14, true, r.2) else (min (bitsOf w 29 14) v.toNat, false, r.2)
    | [] => (bitsOf w 29 14, false, s)
  else (bitsOf w 29 14, false, s)

/-- Latches limit and TAG_BASE at the first claim after a reset. -/
def latchClaim (w : Nat) (s : State) : State :=
  let i := bitsOf w 13 8
  if (wcAt s i).latched then s
  else
    let r := claimLimit w s
    setWc i { wcAt r.2.2 i with
      latched := true, limit := BitVec.ofNat 16 r.1, tagBase := BitVec.ofNat 14 (bitsOf w 99 86)
      limitPoison := r.2.1 } r.2.2

/-- The loop that this claim continues. -/
def claimLoop (s : State) (n : Nat) : Option ClaimLoop :=
  match (coreAt s n).seq.loop with
  | some l => if l.pc = (coreAt s n).seq.pc then some l else none
  | none => none

def checkClaim : List Check :=
  [fun s n _ => if (coreAt s n).seq.loop.isSome && (claimLoop s n).isNone then some (1, 0) else none,
   fun s _ w =>
    let c := wcAt s (bitsOf w 13 8)
    let stop := if c.latched then c.tagBase.toNat + c.limit.toNat else bitsOf w 99 86 + (claimLimit w s).1
    if 16384 < stop then some (11, stop - 16384) else none]

/-- One claim: past MAX_ITER or the limit the loop is left, otherwise the body runs on the tile granted. -/
def claimTile (n w : Nat) (s : State) : State :=
  let i := bitsOf w 13 8
  let body := bitsOf w 69 58
  let a := (coreAt s n).seq.pc
  let iter := match claimLoop s n with | some l => l.iter + 1 | none => 0
  let leave (s : State) : State :=
    let c := coreAt s n
    setCore n { c with seq := { c.seq with pc := a + body, loop := none } } s
  if bitsOf w 85 70 ≤ iter then leave s
  else
    let s := latchClaim w s
    let k := wcAt s i
    if k.limit.toNat ≤ k.value.toNat then leave s
    else
      let s := setWc i { k with value := k.value + 1 } s
      let c := coreAt s n
      setCore n { c with
        seq := { c.seq with
          tn := k.value.toNat
          loop := some { pc := a, body, iter, wc := i, epoch := k.epoch, attempt := k.attempt } }
        cnt := { c.cnt with claims := satAdd c.cnt.claims 1 } } s

def execClaim (core : BitVec 7) (w : BitVec 128) (s : State) : Res :=
  tileStep (fun w => insnOp w = 8) checkClaim always claimTile core w s

/-! ## DMA (R219, R221, R230) -/

/-- Local byte address of a transfer instruction. -/
def dmaLocal (s : State) (n w : Nat) : Nat :=
  let q := (coreAt s n).seq
  16 * indexed s n w (bitsOf w 36 21) (if w.testBit 37 then q.sw else if w.testBit 38 then q.so else q.sa)

/-- Remote offset in bytes. -/
def dmaRemote (s : State) (n w : Nat) : Nat := 256 * indexed s n w (bitsOf w 80 57) (coreAt s n).seq.sr

/-- Tag entry. -/
def dmaTag (s : State) (n w : Nat) : Nat := indexed s n w (bitsOf w 56 43) 1

/-- The descriptor an instruction names, in the ACTIVE area's table. -/
def dmaDesc (s : State) (w : Nat) : BitVec 512 := (activeArea s).dma.getD (bitsOf w 20 8) 0

/-- Bytes of a core buffer that a descriptor's rows span. -/
def dmaSpan (d : BitVec 512) (out : Bool) : Nat :=
  (descRows d - 1) * (if out then descSrcPitch d else descDstPitch d) + descLength d

def checkDma : List Check :=
  [fun s n w => if w.testBit 37 then none else beyond 0x100000 3 (dmaLocal s n w + dmaSpan (dmaDesc s w) (w.testBit 38)),
   fun s n w => if w.testBit 37 then beyond 0x80000 4 (dmaLocal s n w + dmaSpan (dmaDesc s w) (w.testBit 38)) else none,
   fun s n w => if w.testBit 38 && w.testBit 42 && decide (16383 < dmaTag s n w) then
       some (11, dmaTag s n w - 16383) else none]

/-- The descriptor as executed: the core end from LADDR, ROFF added to the remote end. -/
def dmaExecuted (s : State) (n w : Nat) : BitVec 512 :=
  let d := dmaDesc s w
  let l := dmaLocal s n w
  let r := dmaRemote s n w
  if w.testBit 38 then
    mkDesc 3 (descDstSpace d) (descXctx d) (descLength d) l (descDstAddr d + r) (descRows d) (descSrcPitch d) (descDstPitch d)
  else
    mkDesc (descSrcSpace d) 3 (descXctx d) (descLength d) (descSrcAddr d + r) l (descRows d) (descSrcPitch d) (descDstPitch d)

/-- The transfer joins the timed channel of the core's group. A commit carries the generation of its claim. -/
def issueDma (n w : Nat) (s : State) : State :=
  let d := dmaExecuted s n w
  let gen : BitVec 16 × Byte := match (coreAt s n).seq.loop with | some l => (l.epoch, l.attempt) | none => (0, 0)
  queueTimed (n / 8) {
    desc := d, total := granulesOf d, cls := 0, owner := 0, core := n + 1, wgt := w.testBit 37
    mark := (if !w.testBit 38 && w.testBit 39 then some (bitsOf w 41 40) else none)
    commit := (if w.testBit 38 && w.testBit 42 then some (dmaTag s n w, gen.1, gen.2) else none) } s

def execDmaIn (core : BitVec 7) (w : BitVec 128) (s : State) : Res :=
  tileStep (fun w => insnOp w = 9 ∧ !w.testBit 38) checkDma always issueDma core w s
def execDmaOut (core : BitVec 7) (w : BitVec 128) (s : State) : Res :=
  tileStep (fun w => insnOp w = 9 ∧ w.testBit 38) checkDma always issueDma core w s

end Sys2Proof.Machine
end

