-- ==== Sys2Proof/Machine/Array.lean ====
section
/-! DEFINITION. Machine/Array.lean: what a Furrow core's arrays, pooling and crop-and-resize compute: MATMUL, CONV, POOL
and CROP (R148 to R150, R173 to R185, R220, R222, R223). -/

namespace Sys2Proof.Machine

/-! ## Operand pairings (R149) -/

def pairOf (w : Nat) : Nat := bitsOf w 11 8

/-- Activation format and weight format of PAIR. -/
def actFmt (w : Nat) : Fmt :=
  match pairOf w with
  | 0 => 0 | 1 => 1 | 2 => 2 | 3 => (if w.testBit 12 then 5 else 4) | 5 => 6 | _ => 3
def wgtFmt (w : Nat) : Fmt :=
  match pairOf w with
  | 0 => 0 | 3 => (if w.testBit 13 then 5 else 4) | 5 => 6 | 6 => 3 | _ => 1

/-- Weights per cell. -/
def perCell (w : Nat) : Nat := match pairOf w with | 0 => 4 | 5 => 1 | 6 => 1 | _ => 2

/-- Whether the pairing accumulates in FP32. -/
def pairFp (w : Nat) : Bool := pairOf w == 3 || pairOf w == 5

/-- Channel blocks of one vector of a pass. -/
def passBlocks (w : Nat) : Nat := 64 * perCell w / cpb (actFmt w)

/-- Vectors of array `j`, 0 where it takes no part. -/
def vectorsOf (w j : Nat) : Nat := if w.testBit (14 + j) then bitsOf w (18 + 8 * j + 7) (18 + 8 * j) + 1 else 0

def accBase (w : Nat) : Nat := bitsOf w 74 67
def accAdds (w : Nat) : Bool := w.testBit 66

/-! ## One vector through the array (R148, R173) -/

/-- Weight `j` of row `k` and column `n` of the stationary tile. -/
def weightAt (tile : List Byte) (w k n j : Nat) : Nat :=
  let b := fmtBits (wgtFmt w)
  bitsOf (numAt tile (128 * k + 2 * n) 2) (b * (j + 1) - 1) (b * j)

/-- A value of an accumulator entry: an integer of an INT32 row, or the FP32 value. -/
def entryInt (v : Word) : Int := v.toInt

/-- One product added to a partial sum, in the pairing's accumulation (R160, R165). -/
def mac (w : Nat) (acc : Word) (a b : Nat) : Word × Ev :=
  if pairFp w then
    let p := fmul (decodeAny (actFmt w) a) (decodeAny (wgtFmt w) b)
    let t := fadd (ofWord acc) p.1
    (toWord t.1, p.2.plus t.2)
  else
    let av : Int := if actFmt w = 2 then (a : Int) else signedOf (fmtBits (actFmt w)) a
    let r := sat32 (entryInt acc + av * signedOf (fmtBits (wgtFmt w)) b)
    (BitVec.ofInt 32 r.1, accEv r.2)

/-- The partial sum that leaves row 63 of column `n`: rows in order, and the activations of a row element in order. -/
def column (w : Nat) (tile : List Byte) (acts : List Nat) (n : Nat) : Word × Ev :=
  let p := perCell w
  (List.range (64 * p)).foldl (fun (r : Word × Ev) c =>
    let t := mac w r.1 (acts.getD c 0) (weightAt tile w (c / p) n (c % p))
    (t.1, r.2.plus t.2)) (0, noEv)

/-- The drain adds a partial sum into an accumulator entry (R148). -/
def drainAdd (w : Nat) (old new : Word) : Word × Ev :=
  if pairFp w then
    let t := fadd (ofWord old) (ofWord new)
    (toWord t.1, t.2)
  else
    let r := sat32 (entryInt old + entryInt new)
    (BitVec.ofInt 32 r.1, accEv r.2)

/-- The stationary tile; where no WLOAD has loaded one since the core's memories became undefined (R308, R321), free. -/
def tileOf (c : Core) : List Byte :=
  if c.tile.isEmpty && c.undef != 0 then (List.range 8192).map fun i => Config.freeByte c.undef (c.act.id + 3) i else c.tile

/-- One vector of array `j` into accumulator row `row` (R150, R158): `acts` its activations and whether one of their
words is poisoned. -/
def runVector (n w j row : Nat) (acts : List Nat) (poison : Bool) (s : State) : State :=
  let old := if accAdds w then accRead n (j * 256 + row) s else (accRow (coreAt s n) (j * 256 + row), s)
  let c := coreAt old.2 n
  let prev := accVals old.1
  let outs := (List.range 64).map fun k =>
    let t := column w (tileOf c) acts k
    if accAdds w then
      let u := drainAdd w (prev.getD k 0) t.1
      (u.1, t.2.plus u.2)
    else t
  let row' : AccRow := {
    fp := pairFp w
    poison := poison || c.tilePoison || (accAdds w && old.1.poison)
    vals := outs.map (·.1) }
  countEv n (outs.foldl (fun e o => e.plus o.2) noEv) (accWrite n (j * 256 + row) row' old.2)

/-- Words of the activation buffer, each read once in ascending address order. -/
def coreGather (n : Nat) (ws : List Nat) (s : State) : Gathered × State :=
  (insNats ws []).foldl (fun (r : Gathered × State) a =>
    let x := coreReads n false a 1 r.2
    (r.1 ++ [(a, x.1.headD (0, true))], x.2)) ([], s)

/-- A channel block of a vector: an address of the activation buffer, or a padding code (R176). -/
inductive BlockSrc where
  | mem (addr : Nat)
  | pad (code : Nat)
  deriving DecidableEq, Repr

/-- The elements of a block. -/
def blockElems (g : Gathered) (f : Fmt) : BlockSrc → List (Nat × Bool)
  | .mem a => (List.range (cpb f)).map fun j => elemIn g f a j
  | .pad v => List.replicate (cpb f) (v % 2 ^ fmtBits f, false)

/-- FEED_STALL, DRAIN_STALL and MAX_DRY count cycles of the pipelines of R152 to R154: by how much a pass raises them is free
(R169, notes/assumptions/23.md). -/
def countStalls (n : Nat) (s : State) : State :=
  let c := coreAt s n
  let k := c.cnt
  let s := hwPeak (0x10002C + 0x2000 * n) (min 65535 (Config.stallFc 2 n k.passes)) s
  setCore n { c with cnt := { k with
    passes := k.passes + 1
    feedStall := satAdd k.feedStall (Config.stallFc 0 n k.passes)
    drainStall := satAdd k.drainStall (Config.stallFc 1 n k.passes)
    maxDry := BitVec.ofNat 16 (max k.maxDry.toNat (min 65535 (Config.stallFc 2 n k.passes))) } } s

/-- Every vector of a pass, array by array; `src` gives block `b` of vector `v` of array `j`. -/
def runPass (n w : Nat) (src : State → Nat → Nat → Nat → BlockSrc) (s : State) : State :=
  countStalls n <| (List.range 4).foldl (fun s j => (List.range (vectorsOf w j)).foldl (fun s v =>
    let f := actFmt w
    let blocks := (List.range (passBlocks w)).map fun b => src s j v b
    let words := blocks.flatMap fun b => match b with | .mem a => blockWords f a | .pad _ => []
    let got := coreGather n words s
    let elems := blocks.flatMap (blockElems got.1 f)
    runVector n w j (accBase w + v) (elems.map (·.1)) (elems.any (·.2)) got.2) s) s

/-! ## Checks shared by the passes (R223) -/

/-- Rule 5. -/
def checkAccRows : Check := fun _ _ w =>
  beyond 256 5 (((List.range 4).map fun j => if vectorsOf w j = 0 then 0 else accBase w + vectorsOf w j).foldl max 0)

/-- Rule 6: the first row of the other type. -/
def checkAccType : Check := fun s n w =>
  if !accAdds w then none
  else
    let rows := (List.range 4).flatMap fun j => (List.range (vectorsOf w j)).map fun v => (j, accBase w + v)
    (rows.find? fun e => (accRow (coreAt s n) (e.1 * 256 + e.2)).fp != pairFp w).map fun e => (6, e.2)

/-! ## MATMUL (R179, R220) -/

/-- Byte address of block `b` of vector `v` of array `j`. -/
def matmulAddr (s : State) (n w j v b : Nat) : Nat :=
  16 * (indexed s n w (bitsOf w 65 50) (coreAt s n).seq.sa + j * bitsOf w 109 94 + b * bitsOf w 93 78)
    + v * blockBytes (actFmt w)

/-- End of the activation range a MATMUL reads. -/
def matmulEnd (s : State) (n w : Nat) : Nat :=
  ((List.range 4).map fun j =>
    if vectorsOf w j = 0 then 0
    else matmulAddr s n w j (vectorsOf w j - 1) (passBlocks w - 1) + blockBytes (actFmt w)).foldl max 0

def checkMatmul : List Check :=
  [fun s n w => beyond 0x100000 3 (matmulEnd s n w), checkAccRows, checkAccType]

def runMatmul (n w : Nat) (s : State) : State := runPass n w (fun s j v b => .mem (matmulAddr s n w j v b)) s

def execMatmul (core : BitVec 7) (w : BitVec 128) (s : State) : Res :=
  tileStep (fun w => insnOp w = 2) checkMatmul (fun s n w => amarkOk s n (bitsOf w 77 75) (matmulEnd s n w)) runMatmul core w s

/-! ## Geometry blocks (R222) -/

/-- A geometry block. -/
structure Geo where
  h : Nat
  w : Nat
  y0 : Nat
  bandH : Nat
  row : Nat
  oy0 : Nat
  ox0 : Nat
  ohT : Nat
  owT : Nat
  pt : Nat
  pb : Nat
  pl : Nat
  pr : Nat
  sy : Nat
  sx : Nat
  dy : Nat
  dx : Nat
  kh : Nat
  kw : Nat
  mode : Nat
  value : Nat
  deriving DecidableEq, Repr

/-- A word of the tile-program memory as a read corrects it. -/
def progRead (c : Core) (a : Nat) : Nat :=
  (List.range 4).foldl (fun r i =>
    let y := coreSyn c 6 (16 * a + 4 * i)
    let d : Word := ((getAt (0 : BitVec 128) a c.prog).extractLsb' (32 * i) 32)
    r + (eccFix d (eccKind y)).toNat * 2 ^ (32 * i)) 0

/-- Bytes of `n` words of the tile-program memory. -/
def progBytes (c : Core) (a n : Nat) : List Byte := (List.range n).flatMap fun i => leBytes 16 (progRead c (a + i))

/-- A geometry block's 48 bytes (R222); `pool` takes dilation 1 (R180). -/
def geoOf (l : List Byte) (pool : Bool) : Geo :=
  { h := numAt l 0 2, w := numAt l 2 2, y0 := numAt l 4 2, bandH := numAt l 6 2, row := 16 * numAt l 8 2
    oy0 := numAt l 10 2, ox0 := numAt l 12 2, ohT := numAt l 14 2, owT := numAt l 16 2
    pt := numAt l 18 2, pb := numAt l 20 2, pl := numAt l 22 2, pr := numAt l 24 2
    sy := numAt l 26 1, sx := numAt l 27 1
    dy := (if pool then 1 else numAt l 28 1), dx := (if pool then 1 else numAt l 29 1)
    kh := numAt l 30 1, kw := numAt l 31 1, mode := numAt l 32 1, value := numAt l 34 2 }

/-- The geometry block at tile-program address `a`. -/
def geoAt (c : Core) (a : Nat) (pool : Bool) : Geo := geoOf (progBytes c a 3) pool

/-- An uncorrectable error met while a unit reads geometry or parameters: like an instruction fetch, there is no poison
handling (R305). The corrected words are written back. -/
def withProg (n a k : Nat) (body : State → State) (s : State) : State :=
  let r := (List.range k).foldl (fun (r : Bool × State) i =>
    let f := fetchInsn n (a + i) r.2
    (r.1 && f.2.1, f.2.2)) (true, s)
  if r.1 then body r.2
  else eccReset (eccUnit 6 (n * 0x100000)) s.mem.ue
    (computeSuspect 0x401 (coreAt s n).seq.pc [n] (jobOfCore s n) s) r.2

/-- Output size along one axis (R175); it can be below 1. -/
def outSize (l p q d k st : Nat) : Int := ((l : Int) + p + q - d * ((k : Int) - 1) - 1) / st + 1
def geoOH (g : Geo) : Int := outSize g.h g.pt g.pb g.dy g.kh g.sy
def geoOW (g : Geo) : Int := outSize g.w g.pl g.pr g.dx g.kw g.sx

/-- The element index that a border rule takes for index `i` (R176), or none where it gives a value. -/
def borderIndex (mode l : Nat) (i : Int) : Option Nat :=
  if 0 ≤ i ∧ i < l then some i.toNat
  else match mode with
    | 2 => some (max 0 (min i ((l : Int) - 1))).toNat
    | 3 =>
      if l ≤ 1 then some 0
      else
        let p : Int := 2 * ((l : Int) - 1)
        let m := i % p
        some (if m ≤ (l : Int) - 1 then m.toNat else (p - m).toNat)
    | _ => none

/-- Input row and column that tap (i, j) reads for an output position. -/
def tapRow (g : Geo) (oy i : Nat) : Int := (oy : Int) * g.sy - g.pt + i * g.dy
def tapCol (g : Geo) (ox j : Nat) : Int := (ox : Int) * g.sx - g.pl + j * g.dx

/-- Output position `p` of the tile, in raster order (R222). -/
def tilePos (g : Geo) (p : Nat) : Nat × Nat := (g.oy0 + p / max 1 g.owT, g.ox0 + p % max 1 g.owT)

/-- Block `b` of a band at byte address `base` for input index (iy, ix), under the border rule. -/
def bandBlock (g : Geo) (f : Fmt) (base b : Nat) (iy ix : Int) : BlockSrc :=
  match borderIndex g.mode g.h iy, borderIndex g.mode g.w ix with
  | some y, some x => .mem (base + b * g.bandH * g.row + (y - g.y0) * g.row + x * blockBytes f)
  | _, _ => .pad (if g.mode = 1 then g.value else 0)

/-- Rule 2 for a block of `k` words at `a`. -/
def checkProg (a k : Nat) : Option (Nat × Nat) := beyond 4096 2 (a + k)

/-- Rule 8: output size, then positions of the tile beyond it, then vectors beyond the tile. -/
def shapeBad (g : Geo) (vectors : Nat) : Option (Nat × Nat) :=
  if geoOH g < 1 then some (8, (1 - geoOH g).toNat)
  else if geoOW g < 1 then some (8, (1 - geoOW g).toNat)
  else
    let inH := min g.ohT ((geoOH g).toNat - g.oy0)
    let inW := min g.owT ((geoOW g).toNat - g.ox0)
    if inH * inW < g.ohT * g.owT then some (8, g.ohT * g.owT - inH * inW)
    else if g.ohT * g.owT < vectors then some (8, vectors - g.ohT * g.owT)
    else none

/-- Rule 9: rows and columns that taps reach inside the tensor and the band does not hold. -/
def bandBad (g : Geo) (f : Fmt) (rows cols : List Int) : Option (Nat × Nat) :=
  let ys := insNats (rows.filterMap (borderIndex g.mode g.h)) []
  let xs := insNats (cols.filterMap (borderIndex g.mode g.w)) []
  let missY := (ys.filter fun y => y < g.y0 ∨ g.y0 + g.bandH ≤ y).length
  let missX := (xs.filter fun x => g.row < (x + 1) * blockBytes f).length
  if 0 < missY then some (9, missY) else if 0 < missX then some (9, missX) else none

/-! ## CONV (R175 to R177, R220) -/

def convGeoAddr (w : Nat) : Nat := bitsOf w 99 88
def convGeo (s : State) (n w : Nat) : Geo := geoAt (coreAt s n) (convGeoAddr w) false
def convBase (s : State) (n w : Nat) : Nat := 16 * indexed s n w (bitsOf w 65 50) (coreAt s n).seq.sa
def convVectors (w : Nat) : Nat := ((List.range 4).map fun j => vectorsOf w j).foldl (· + ·) 0

/-- End of the planes of the band that the pass reads. -/
def convEnd (s : State) (n w : Nat) : Nat :=
  let g := convGeo s n w
  convBase s n w + (bitsOf w 108 100 + passBlocks w) * g.bandH * g.row

def checkConv : List Check :=
  [fun _ _ w => checkProg (convGeoAddr w) 3,
   fun s n w => beyond 0x100000 3 (convEnd s n w), checkAccRows, checkAccType,
   fun s n w => shapeBad (convGeo s n w) (convVectors w),
   fun s n w =>
    let g := convGeo s n w
    let pos := (List.range (convVectors w)).map (tilePos g)
    bandBad g (actFmt w) (pos.map fun p => tapRow g p.1 (bitsOf w 82 78)) (pos.map fun p => tapCol g p.2 (bitsOf w 87 83))]

/-- Vectors of the arrays before array `j`. -/
def vectorsBefore (w j : Nat) : Nat := ((List.range j).map fun i => vectorsOf w i).foldl (· + ·) 0

/-- Block `b` of vector `v` of array `j` of a CONV. -/
def convBlock (s : State) (n w j v b : Nat) : BlockSrc :=
  let g := convGeo s n w
  let p := tilePos g (vectorsBefore w j + v)
  bandBlock g (actFmt w) (convBase s n w) (bitsOf w 108 100 + b)
    (tapRow g p.1 (bitsOf w 82 78)) (tapCol g p.2 (bitsOf w 87 83))

def runConv (n w : Nat) (s : State) : State :=
  withProg n (convGeoAddr w) 3 (runPass n w (fun s j v b => convBlock s n w j v b)) s

def execConv (core : BitVec 7) (w : BitVec 128) (s : State) : Res :=
  tileStep (fun w => insnOp w = 3) checkConv (fun s n w => amarkOk s n (bitsOf w 77 75) (convEnd s n w)) runConv core w s

/-! ## POOL (R180, R220) -/

def poolGeoAddr (w : Nat) : Nat := bitsOf w 22 11
def poolMode (w : Nat) : Nat := bitsOf w 10 8
def poolGeo (s : State) (n w : Nat) : Geo := geoAt (coreAt s n) (poolGeoAddr w) true
def poolSrc (s : State) (n w : Nat) : Nat := 16 * indexed s n w (bitsOf w 38 23) (coreAt s n).seq.sa
def poolDst (s : State) (n w : Nat) : Nat := 16 * indexed s n w (bitsOf w 54 39) (coreAt s n).seq.so
def poolFmt (w : Nat) : Fmt := bitsOf w 57 55
def poolBlocks (w : Nat) : Nat := bitsOf w 68 61 + 1

/-- A global mode. -/
def poolGlobal (w : Nat) : Bool := decide (3 ≤ poolMode w)

/-- Output rows and columns of the tile: one position in the global modes. -/
def poolRows (w : Nat) (g : Geo) : Nat := if poolGlobal w then 1 else g.ohT
def poolCols (w : Nat) (g : Geo) : Nat := if poolGlobal w then 1 else g.owT

/-- Bytes the output tile takes: the layout of R170 over the tile (notes/assumptions/17.md). -/
def poolOutBytes (w : Nat) (g : Geo) : Nat := poolBlocks w * poolRows w g * tensorRow (poolFmt w) (poolCols w g)

/-- The taps of output position (oy, ox): indices, and whether a position outside the tensor is read. -/
def poolTaps (w : Nat) (g : Geo) (oy ox : Nat) : List (Int × Int) :=
  if poolGlobal w then (List.range g.h).flatMap fun y => (List.range g.w).map fun x => ((y : Int), (x : Int))
  else
    let all := (List.range g.kh).flatMap fun i => (List.range g.kw).map fun j => (tapRow g oy i, tapCol g ox j)
    if poolMode w = 2 then all
    else all.filter fun t => decide (0 ≤ t.1) && decide (t.1 < g.h) && decide (0 ≤ t.2) && decide (t.2 < g.w)

/-- Divisor of an average. -/
def poolDivisor (w : Nat) (g : Geo) (taps : Nat) : Nat := if poolMode w = 2 then g.kh * g.kw else taps

def checkPool : List Check :=
  [fun _ _ w => checkProg (poolGeoAddr w) 3,
   fun s n w =>
    let g := poolGeo s n w
    beyond 0x100000 3 (max (poolSrc s n w + poolBlocks w * g.bandH * g.row) (poolDst s n w + poolOutBytes w g)),
   fun s n w => if poolGlobal w then none else shapeBad (poolGeo s n w) 0,
   fun s n w =>
    let g := poolGeo s n w
    let pos := if poolGlobal w then [(0, 0)] else (List.range (g.ohT * g.owT)).map (tilePos g)
    let taps := pos.flatMap fun p => poolTaps w g p.1 p.2
    bandBad g (poolFmt w) (taps.map (·.1)) (taps.map (·.2))]

/-- Exact quotient rounded half to even. -/
def divRne (a : Int) (d : Nat) : Int :=
  if d = 0 then 0
  else
    let q := a / d
    let r := a - q * d
    if (d : Int) < 2 * r ∨ (2 * r = (d : Int) ∧ q % 2 = 1) then q + 1 else q

/-- The largest value of a window; a NaN gives NaN. -/
def poolMax (f : Fmt) (l : List Nat) : Nat × Ev :=
  match l.map (decodeAny f) with
  | [] => (0, noEv)
  | v :: r => encodeAny f (r.foldl (fun a b => if isNan a || isNan b then .nan else if fpLt a b then b else a) v)

/-- The average of a window. -/
def poolAvg (f : Fmt) (d : Nat) (l : List Nat) : Nat × Ev :=
  if isFloatFmt f then
    encodeLane f (step2 fdiv (fsum (l.map fun v => plain (decodeAny f v))) (plain (fpNat d)))
  else
    let sum := l.foldl (fun (a : Int × Ev) (v : Nat) =>
      let x : Int := if f = 2 then Int.ofNat v else signedOf (fmtBits f) v
      let t := sat32 (a.1 + x)
      (t.1, a.2.plus (outEv t.2))) ((0 : Int), noEv)
    let y := satTo f (divRne sum.1 d)
    (wrapInt (fmtBits f) y.1, sum.2.plus (outEv y.2))

/-- The value of an empty window, which R180 excludes by the padding rule of an image: free. -/
def poolOpen (f : Fmt) : Nat := (Config.openResult 7 f).toNat % 2 ^ fmtBits f

/-- R171: an element that lies past C is written as zero; its sources, which some writer wrote, are zeros already
(DESIGN CHOICE, notes/assumptions/83.md). -/
def padsZero (w j : Nat) (sources : List Nat) : Bool := sources.all (· == 0) && Config.padPosition w j

/-- The codes of a window that lie in the tensor, the padding left out. -/
def windowCodes (g : Geo) (taps : List (Int × Int)) (win : List (Nat × Bool)) : List Nat :=
  (taps.zip win).filterMap fun t =>
    if (borderIndex g.mode g.h t.1.1).isSome && (borderIndex g.mode g.w t.1.2).isSome then some t.2.1 else none

/-- One output block: the window of each channel. -/
def windowBlock (w : Nat) (g : Geo) (got : Gathered) (base b oy ox : Nat) : List (Nat × Bool) × Ev :=
  let f := poolFmt w
  let taps := poolTaps w g oy ox
  let wins := taps.map fun t => blockElems got f (bandBlock g f base b t.1 t.2)
  let outs := (List.range (cpb f)).map fun k =>
    let win := wins.map fun l => l.getD k (0, false)
    let y := if padsZero w (b * cpb f + k) (windowCodes g taps win) then (0, noEv)
      else if win = [] ∨ poolDivisor w g taps.length = 0 then (poolOpen f, noEv)
      else if poolMode w = 0 ∨ poolMode w = 4 then poolMax f (win.map (·.1))
      else poolAvg f (poolDivisor w g taps.length) (win.map (·.1))
    ((y.1, win.any (·.2)), y.2)
  (outs.map (·.1), outs.foldl (fun e o => e.plus o.2) noEv)

/-- The output rows of the tile, one row of one channel block after another. -/
def poolTile (n w : Nat) (s : State) : State :=
  let g := poolGeo s n w
  let f := poolFmt w
  let base := poolSrc s n w
  let dst := poolDst s n w
  let r := if poolGlobal w then [0] else (List.range g.ohT).map (g.oy0 + ·)
  let c := if poolGlobal w then [0] else (List.range g.owT).map (g.ox0 + ·)
  let bytes := tensorRow f (poolCols w g)
  ((List.range (poolBlocks w)).flatMap fun b => (List.range r.length).map fun i => (b, i)).foldl (fun s bi =>
    let oy := r.getD bi.2 0
    let words := c.flatMap fun ox => (poolTaps w g oy ox).flatMap fun t =>
      match bandBlock g f base bi.1 t.1 t.2 with | .mem a => blockWords f a | .pad _ => []
    let got := coreGather n words s
    let blocks := c.map fun ox => windowBlock w g got.1 base bi.1 oy ox
    let out := (blocks.flatMap fun k => packBlock f k.1) ++ zeroWords (bytes - c.length * blockBytes f)
    countEv n (blocks.foldl (fun e k => e.plus k.2) noEv)
      (coreWrites n false (dst + (bi.1 * r.length + bi.2) * bytes) out got.2)) s

def execPool (core : BitVec 7) (w : BitVec 128) (s : State) : Res :=
  tileStep (fun w => insnOp w = 4) checkPool
    (fun s n w => amarkOk s n (bitsOf w 60 58) (poolSrc s n w + poolBlocks w * (poolGeo s n w).bandH * (poolGeo s n w).row))
    (fun n w s => withProg n (poolGeoAddr w) 3 (poolTile n w) s) core w s

/-! ## CROP (R184, R185, R220) -/

def insnCrop (s : State) (w : Nat) : CropRec := cropRec ((activeArea s).crops.getD (bitsOf w 19 8) 0)
def cropEntry (s : State) (n w : Nat) : Nat := indexed s n w (bitsOf w 35 20) 1
def cropDst (s : State) (n w : Nat) : Nat := 16 * indexed s n w (bitsOf w 51 36) (coreAt s n).seq.so

/-- Translation context of the network whose layer runs on core `n`. -/
def coreXctx (s : State) (n : Nat) : Nat :=
  match (activeArea s).slots[slotOfCore s n]? with
  | some w => (netAt s (netOfMap s (slotBatch w))).elim 0 (·.xctx)
  | none => 0

def checkCrop : List Check :=
  [fun s n w => if w.testBit 52 then none else beyond 0x100000 3 (cropDst s n w + regionBytes (insnCrop s w)),
   fun s _ w =>
    let l := (activeArea s).crops
    if l.getD (bitsOf w 19 8) 0 = 0 then some (10, bitsOf w 19 8 + 1 - min l.length (bitsOf w 19 8)) else none,
   fun s n w =>
    let cap := listCap s (insnCrop s w)
    if cap ≤ cropEntry s n w then some (10, cropEntry s n w + 1 - cap) else none]

/-- The region of one entry of sample 0's list goes to the activation buffer or to the record's regions. -/
def runCrop (n w : Nat) (s : State) : State :=
  let r := insnCrop s w
  let e := cropEntry s n w
  let t := regionOf (coreXctx s n) r (listCap s r) 0 e s
  match t.1 with
  | none => t.2.2
  | some l =>
    let s := countEv n t.2.1 t.2.2
    if w.testBit 52 then dpaWrites (granaryBase + r.regions + e * regionBytes r) l s
    else coreWrites n false (cropDst s n w) l s

def execCrop (core : BitVec 7) (w : BitVec 128) (s : State) : Res :=
  tileStep (fun w => insnOp w = 5) checkCrop always runCrop core w s

end Sys2Proof.Machine
end

