-- ==== Sys2Proof/Machine/Vector.lean ====
section
/-! DEFINITION. Machine/Vector.lean: the vector unit and the requantiser: operands and results of VEC (R220), element-wise
operations, the requantiser (R162, R163), reductions, tensor operations (R178, R181, R186), box decoding (R187) and
non-maximum suppression (R188). What R186 and R220 leave open is in Config and in notes/assumptions/18.md and 19.md. -/

namespace Sys2Proof.Machine

/-! ## Operands of VEC (R220) -/

def vecFunc (w : Nat) : Nat := bitsOf w 15 8
def fmtIn (w : Nat) : Fmt := bitsOf w 18 16
def fmtOut (w : Nat) : Fmt := bitsOf w 21 19
def vecA (s : State) (n w : Nat) : Nat := 16 * indexed s n w (bitsOf w 37 22) (coreAt s n).seq.sa
def vecB (s : State) (n w : Nat) : Nat := 16 * indexed s n w (bitsOf w 53 38) (coreAt s n).seq.sa
def vecDst (s : State) (n w : Nat) : Nat := 16 * indexed s n w (bitsOf w 69 54) (coreAt s n).seq.so
def vecAcc (w : Nat) : Bool := w.testBit 70
def vecAccRow (w : Nat) : Nat := bitsOf w 29 22
def vecCount (w : Nat) : Nat := bitsOf w 85 73 + 1
def vecImm (w : Nat) : Nat := bitsOf w 123 116
def vecSbase (w : Nat) : Nat := bitsOf w 96 86
def vecBias (w : Nat) : Nat := 16 * bitsOf w 112 98

/-- Elements of one line of SRC_A: a 32-byte block, or an accumulator row. -/
def lineLen (w : Nat) : Nat := if vecAcc w then 64 else 256 / fmtBits (fmtIn w)

/-- Elements of SRC_A. -/
def vecTotal (w : Nat) : Nat := vecCount w * lineLen w

/-- Bytes of `k` elements, in whole words. -/
def flatBytes (f : Fmt) (k : Nat) : Nat := 4 * ceilDiv (k * fmtBits f) 32

/-- Reads `k` elements that follow one another from a byte address. -/
def flatRead (n : Nat) (f : Fmt) (base k : Nat) (s : State) : List (Nat × Bool) × State :=
  let g := coreGather n ((List.range (flatBytes f k / 4)).map fun i => base + 4 * i) s
  ((List.range k).map fun j => elemIn g.1 f base j, g.2)

/-- Writes elements one after another from a byte address; bits of the last word past them are zero. -/
def flatWrite (n : Nat) (f : Fmt) (base : Nat) (l : List (Nat × Bool)) (s : State) : State :=
  let per := 32 / fmtBits f
  coreWrites n false base ((List.range (ceilDiv l.length per)).map fun i =>
    let part := (l.drop (i * per)).take per
    (BitVec.ofNat 32 (part.foldr (fun e a => e.1 % 2 ^ fmtBits f + 2 ^ fmtBits f * a) 0), part.any (·.2))) s

/-- A line of SRC_A: its format (8: INT32) and its elements with their poison. -/
abbrev Line := Fmt × List (Nat × Bool)

/-- Cuts a list into lines. -/
def chunk {α : Type} (k : Nat) (l : List α) (m : Nat) : List (List α) := (List.range m).map fun i => (l.drop (i * k)).take k

/-- SRC_A. A poisoned accumulator row poisons each of its elements. -/
def readA (n w : Nat) (s : State) : List Line × State :=
  if vecAcc w then
    (List.range (vecCount w)).foldl (fun (r : List Line × State) i =>
      let a := accRead n (bitsOf w 72 71 * 256 + vecAccRow w + i) r.2
      (r.1 ++ [(if a.1.fp then 7 else 8, (accVals a.1).map fun v => (v.toNat, a.1.poison))], a.2)) ([], s)
  else
    let r := flatRead n (fmtIn w) (vecA s n w) (vecTotal w) s
    ((chunk (lineLen w) r.1 (vecCount w)).map fun l => (fmtIn w, l), r.2)

/-! ## Checks (R223) -/

/-- Functions that read SRC_B element by element. -/
def usesB (w : Nat) : Bool := [1, 2, 3, 4, 5, 6, 8, 9, 0xB, 0x11].contains (vecFunc w)

/-- Words of the parameter block of a FUNC, in 4-byte parameters. -/
def paramCount (w : Nat) : Nat :=
  match vecFunc w with
  | 0x22 => 2
  | 0x30 => 17
  | 0x31 => 6
  | 0x38 => 3
  | 0x39 => 3
  | 0x3A => 4
  | 0x3B => 4
  | 0x40 => 44
  | 0x41 => 3
  | _ => 0

/-- Tile-program words of the block. -/
def paramProg (w : Nat) : Nat := ceilDiv (paramCount w) 4

/-- Parameter `i` at PB. -/
def vparam (s : State) (n i : Nat) : Nat :=
  let c := coreAt s n
  numAt (progBytes c (c.seq.pb + i / 4) 1) (4 * (i % 4)) 4

/-- The axis of an operation along one (R220): IMM where it names one (notes/assumptions/18.md). -/
def axisOf (w : Nat) : Nat :=
  if vecFunc w = 0x2C ∨ 2 < vecImm w then Config.openAxis (vecFunc w) (vecImm w) % 3 else vecImm w

/-- Lines of SRC_A that hold the channels of one position. -/
def channelSpan (w : Nat) : Nat := max 1 (min (vecCount w) (Config.channelBlocks w))

/-- Results of a reduction: one for each position along channels, else one for each place of a line. -/
def reduceOuts (w : Nat) : Nat := if axisOf w = 0 then ceilDiv (vecCount w) (channelSpan w) else lineLen w

/-- Dimensions (channels, height, width) and format of the tensors a tensor FUNC reads and writes. -/
structure Dims where
  f : Fmt
  c : Nat
  h : Nat
  w : Nat
  deriving DecidableEq, Repr

def dimsBytes (d : Dims) : Nat := tensorBytes d.f d.c d.h d.w

/-- The first source of a tensor FUNC. -/
def dimsIn (s : State) (n w : Nat) : Dims :=
  let p := vparam s n
  match vecFunc w with
  | 0x30 => { f := fmtIn w, h := p 13, w := p 14, c := p 15 }
  | 0x31 => { f := fmtIn w, h := p 0, w := p 1, c := cpb (fmtIn w) * vecCount w }
  | _ => { f := fmtIn w, h := p 0, w := p 1, c := p 2 }

/-- Output size of a depthwise convolution. -/
def depthGeo (s : State) (n : Nat) : Geo :=
  let p := vparam s n
  { h := p 13, w := p 14, y0 := 0, bandH := p 13, row := 0, oy0 := 0, ox0 := 0, ohT := 0, owT := 0
    pt := p 6, pb := p 7, pl := p 8, pr := p 9, sy := p 2, sx := p 3, dy := p 4, dx := p 5, kh := p 0, kw := p 1
    mode := p 10, value := p 11 }

/-- Replaces the size along an axis of R220. -/
def withAxis (axis v : Nat) (d : Dims) : Dims :=
  match axis with
  | 0 => { d with c := v }
  | 1 => { d with w := v }
  | _ => { d with h := v }
def axisSize (axis : Nat) (d : Dims) : Nat := match axis with | 0 => d.c | 1 => d.w | _ => d.h

/-- The result of a tensor FUNC. -/
def dimsOut (s : State) (n w : Nat) : Dims :=
  let p := vparam s n
  let d := dimsIn s n w
  match vecFunc w with
  | 0x30 => { f := fmtOut w, h := (geoOH (depthGeo s n)).toNat, w := (geoOW (depthGeo s n)).toNat, c := p 16 }
  | 0x31 => { d with h := p 2, w := p 3 }
  | 0x38 => { d with f := fmtOut w }
  | 0x39 => { d with h := d.w, w := d.h }
  | 0x3A => withAxis (axisOf w) (axisSize (axisOf w) d + p 3) d
  | 0x3B => withAxis (axisOf w) (p 3) d
  | _ => d

/-- Second source of a concatenation, or second part of a split. -/
def dimsSecond (s : State) (n w : Nat) : Dims :=
  let d := dimsIn s n w
  if vecFunc w = 0x3B then withAxis (axisOf w) (axisSize (axisOf w) d - vparam s n 3) d
  else withAxis (axisOf w) (vparam s n 3) d

def isTensorFunc (w : Nat) : Bool := [0x30, 0x31, 0x38, 0x39, 0x3A, 0x3B].contains (vecFunc w)

/-- Parameters of box decoding at PB. -/
structure BoxParams where
  stride : Nat
  sigmoid : Bool
  thr : Fp
  mode : Nat
  anchors : Nat
  size : Nat → Fp × Fp
  h : Nat
  w : Nat
  classes : Nat
  level : Nat
  geom : Nat
  picW : Nat
  picH : Nat

/-- The order in which R187 names them: stride, score, threshold, mode, anchors; then the sizes of 16 anchors, height and
width of the level, classes, level number, geometry record (Granary, 32-byte units) and picture size. -/
def boxParams (s : State) (n : Nat) : BoxParams :=
  let p := vparam s n
  { stride := p 0, sigmoid := p 1 == 0, thr := decodeFloat 7 (p 2), mode := p 3, anchors := min 16 (p 4)
    size := fun i => (decodeFloat 7 (p (5 + 2 * i)), decodeFloat 7 (p (6 + 2 * i)))
    h := p 37, w := p 38, classes := p 39, level := p 40, geom := p 41, picW := p 42, picH := p 43 }

/-- Anchors per position: 1 in mode 1. -/
def boxAnchors (b : BoxParams) : Nat := if b.mode = 0 then b.anchors else 1
def regDims (b : BoxParams) (w : Nat) : Dims := { f := fmtIn w, c := 4 * boxAnchors b, h := b.h, w := b.w }
def scoreDims (b : BoxParams) (w : Nat) : Dims := { f := fmtIn w, c := b.classes * boxAnchors b, h := b.h, w := b.w }

/-- CAP of a box list in the activation buffer. -/
def bufCap (s : State) (n a : Nat) : Nat := ((coreReads n false (a + 4) 1 s).1.headD (0, false)).1.toNat

/-- Format and bytes of the weights of a depthwise convolution: UINT8 inputs take INT8 weights (R149). -/
def depthFmt (w : Nat) : Fmt := if fmtIn w = 2 then 1 else fmtIn w
def depthBytes (s : State) (n w : Nat) : Nat :=
  flatBytes (depthFmt w) ((dimsOut s n w).c * (depthGeo s n).kh * (depthGeo s n).kw)

/-- Ends of the activation ranges that a VEC reads. -/
def vecSources (s : State) (n w : Nat) : List Nat :=
  let a := vecA s n w
  let b := vecB s n w
  let d := vecDst s n w
  let srcA := if vecAcc w then 0 else a + 32 * vecCount w
  match vecFunc w with
  | 0x40 =>
    let p := boxParams s n
    [a + dimsBytes (regDims p w), b + dimsBytes (scoreDims p w), d + 32 + 32 * bufCap s n d]
  | 0x41 => [a + 32 + 32 * bufCap s n a]
  | 0x30 => [a + dimsBytes (dimsIn s n w), b + depthBytes s n w]
  | 0x3A => [a + dimsBytes (dimsIn s n w), b + dimsBytes (dimsSecond s n w)]
  | _ =>
    if isTensorFunc w then [a + dimsBytes (dimsIn s n w)]
    else [srcA] ++ (if usesB w then [b + flatBytes (fmtIn w) (vecTotal w)] else [])
      ++ (if vecFunc w = 4 then [d + flatBytes (fmtOut w) (vecTotal w)] else [])

/-- Ends of the activation ranges that a VEC writes. -/
def vecTargets (s : State) (n w : Nat) : List Nat :=
  let d := vecDst s n w
  let fo := fmtOut w
  match vecFunc w with
  | 0x40 => [d + 32 + 32 * bufCap s n d]
  | 0x41 => [vecA s n w + 32 + 32 * bufCap s n (vecA s n w)]
  | 0x28 => [d + flatBytes fo (reduceOuts w)]
  | 0x29 => [d + flatBytes fo (reduceOuts w)]
  | 0x2A => [d + flatBytes fo (reduceOuts w)]
  | 0x2B => [d + flatBytes fo (reduceOuts w)]
  | 0x2C => [d + flatBytes fo (2 * reduceOuts w * (vecImm w + 1))]
  | 0x3B => [d + dimsBytes (dimsOut s n w), vecB s n w + dimsBytes (dimsSecond s n w)]
  | _ => if isTensorFunc w then [d + dimsBytes (dimsOut s n w)] else [d + flatBytes fo (vecTotal w)]

/-- Ends of the activation ranges that a VEC reads or writes. -/
def vecEnds (s : State) (n w : Nat) : List Nat := vecSources s n w ++ vecTargets s n w

/-- Whether a FUNC uses the scale file and the bias of the requantiser. -/
def usesScale (w : Nat) : Bool := vecFunc w == 0 || vecFunc w == 0x30

def checkVec : List Check :=
  [fun s n w => if vecFunc w < 0x21 then none else checkProg (coreAt s n).seq.pb (paramProg w),
   fun s n w => beyond 0x100000 3 ((vecEnds s n w).foldl max 0),
   fun _ _ w => if usesScale w && w.testBit 97 then beyond 0x80000 4 (vecBias w + 256) else none,
   fun _ _ w => if vecAcc w then beyond 256 5 (vecAccRow w + vecCount w) else none,
   fun _ _ w => if usesScale w then beyond 2048 7 (vecSbase w + 64) else none,
   fun s n w => if vecFunc w = 0x30 ∧ geoOH (depthGeo s n) < 1 then some (8, (1 - geoOH (depthGeo s n)).toNat)
     else if vecFunc w = 0x30 ∧ geoOW (depthGeo s n) < 1 then some (8, (1 - geoOW (depthGeo s n)).toNat) else none]

/-- AMARK: every range that the instruction reads ends at or below the mark. -/
def vecReady (s : State) (n w : Nat) : Bool :=
  amarkOk s n (bitsOf w 115 113) ((vecSources s n w).foldl max 0)

/-- A row of VEC. -/
def vecStep (func : Nat) (body : Nat → Nat → State → State) (core : BitVec 7) (w : BitVec 128) (s : State) : Res :=
  tileStep (fun w => insnOp w = 6 ∧ vecFunc w = func) checkVec vecReady
    (fun n w s => withProg n (coreAt s n).seq.pb (paramProg w) (body n w) s) core w s

/-! ## Element-wise operations -/

/-- One step in a lane's format: FP32 lanes round to FP32, integer lanes saturate (R165, R168). -/
def laneStep (f : Fmt) (x : Fp) : Fp × Ev :=
  if isFloatFmt f then fp32 x
  else
    let y := encodeAny f x
    (decodeAny f y.1, y.2)

/-- An operation on one element: lane format, IMM, source elements a and b, present destination element d. It gives the
value and what its steps count. -/
abbrev LaneOp := Fmt → Nat → Fp → Fp → Fp → Fp × Ev

/-- An operation of one step, from its exact result. -/
def exactly (op : Fmt → Nat → Fp → Fp → Fp → Fp) : LaneOp := fun f k a b d => laneStep f (op f k a b d)

/-- An operation that R186 lists for FP32 only: its lanes are FP32 whatever the source format. -/
def inFp32 (op : Fp → Fp → Fp × Ev) : LaneOp := fun _ _ a b _ => op a b

/-- An element-wise VEC. -/
def runLanes (op : LaneOp) (n w : Nat) (s : State) : State :=
  let a := readA n w s
  let total := vecTotal w
  let b := if usesB w then flatRead n (fmtIn w) (vecB s n w) total a.2 else ([], a.2)
  let d := if vecFunc w = 4 then flatRead n (fmtOut w) (vecDst s n w) total b.2 else ([], b.2)
  let elems := a.1.flatMap fun l => l.2.map fun e => (l.1, e)
  let outs := ((List.range elems.length).zip elems).map fun x =>
    let y := b.1.getD x.1 (0, false)
    let z := d.1.getD x.1 (0, false)
    let r := if padsZero w x.1 [x.2.2.1, y.1, z.1] then (0, noEv)
      else encodeLane (fmtOut w)
        (op x.2.1 (vecImm w) (decodeAny x.2.1 x.2.2.1) (decodeAny (fmtIn w) y.1) (decodeAny (fmtOut w) z.1))
    ((r.1, x.2.2.2 || y.2 || z.2), r.2)
  countEv n (outs.foldl (fun e o => e.plus o.2) noEv) (flatWrite n (fmtOut w) (vecDst s n w) (outs.map (·.1)) d.2)

def minExact (a b : Fp) : Fp := if isNan a || isNan b then .nan else if fpLt b a then b else a
def maxExact (a b : Fp) : Fp := if isNan a || isNan b then .nan else if fpLt a b then b else a

/-- The relation of a compare. -/
def relation (a b : Fp) : Nat := if isNan a || isNan b then 3 else if fpLt a b then 0 else if fpLt b a then 2 else 1

/-- The value of a code of the lane format, as Config gives open codes. -/
def openCode (f : Fmt) (c : Nat) : Fp := decodeAny f (c % 2 ^ fmtBits f)

/-- A shift by `k` in the mode Config gives (R168): integers only; a floating value is scaled exactly. -/
def shiftLane (k : Nat) (x : Fp) : Fp :=
  match x with
  | .fin n m e =>
    match Config.shiftMode k with
    | 0 => .fin n m (e + k)
    | 1 => ofInt (nearestInt n m (e - k))
    | _ => match floorFp (.fin n m (e - k)) with | some v => ofInt v | none => x
  | _ => x

/-- Sets the sign of a zero or value times 2^-e where it is below zero (leaky ReLU); integers round half to even. -/
def leaky (f : Fmt) (k : Nat) (x : Fp) : Fp :=
  match x with
  | .fin true m e => if isFloatFmt f then .fin true m (e - k) else ofInt (nearestInt true m (e - k))
  | _ => x

/-- x × sigmoid x, and the tanh form of GELU with its constants rounded to FP32. -/
def silu (x : Fp) : Fp × Ev := step2 fmul (plain x) (fsigmoid x)
def gelu (x : Fp) : Fp × Ev :=
  let x3 := step2 fmul (fmul x x) (plain x)
  let sum := step2 fadd (plain x) (step2 fmul (plain (ofWord 0x3D372713)) x3)
  let t := step1 ftanh (step2 fmul (plain (ofWord 0x3F4C422A)) sum)
  step2 fmul (fmul (.fin false 1 (-1)) x) (step2 fadd (plain fpOne) t)

/-! ## The requantiser (FUNC 0) -/

/-- SH of every column, the biases, and whether each is poisoned. -/
def scaleRow (n w : Nat) (s : State) : List (Int × Bool) × State :=
  (List.range 64).foldl (fun (r : List (Int × Bool) × State) k =>
    let x := scaleRead n (vecSbase w + k) r.2
    (r.1 ++ [(x.1, x.2.1)], x.2.2)) ([], s)

def biasRow (n w : Nat) (s : State) : List (Word × Bool) × State :=
  if w.testBit 97 then coreReads n true (vecBias w) 64 s else (List.replicate 64 (0, false), s)

/-- One element through the requantiser: integer rows by R162, floating ones by R163. -/
def requantElem (w : Nat) (f : Fmt) (v : Nat) (sh : Int) (bias : Word) : Nat × Ev :=
  if isFloatFmt f then requantFp (decodeAny f v) (ofWord bias) (w.testBit 97) sh (fmtOut w)
  else requantInt (if f = 2 then Int.ofNat v else signedOf (fmtBits f) v) bias.toInt sh (fmtOut w)

def requantise (n w : Nat) (s : State) : State :=
  let a := readA n w s
  let sc := scaleRow n w a.2
  let bi := biasRow n w sc.2
  let elems := a.1.flatMap fun l => l.2.map fun e => (l.1, e)
  let outs := ((List.range elems.length).zip elems).map fun x =>
    let sh := sc.1.getD (x.1 % 64) (0, false)
    let b := bi.1.getD (x.1 % 64) (0, false)
    let r := if padsZero w x.1 [x.2.2.1] then (0, noEv) else requantElem w x.2.1 x.2.2.1 sh.1 b.1
    ((r.1, x.2.2.2 || sh.2 || b.2), r.2)
  countEv n (outs.foldl (fun e o => e.plus o.2) noEv) (flatWrite n (fmtOut w) (vecDst s n w) (outs.map (·.1)) bi.2)

/-! ## Operations along an axis -/

/-- The groups of elements along the axis: the lines of one position for channels, else equal places of every line. -/
def groupsOf (w : Nat) (lines : List Line) : List Line :=
  match lines with
  | [] => []
  | l :: _ =>
    if axisOf w = 0 then
      (chunk (channelSpan w) lines (ceilDiv lines.length (channelSpan w))).map fun g => (l.1, g.flatMap (·.2))
    else (List.range l.2.length).map fun j => (l.1, lines.map fun m => m.2.getD j (0, false))

/-- Elements of groups back in line order. -/
def ungroup {α : Type} (axis : Nat) (d : α) (g : List (List α)) : List α :=
  if axis = 0 then g.flatMap id
  else match g with
    | [] => []
    | l :: _ => (List.range l.length).flatMap fun i => g.map fun m => m.getD i d

/-- Poison of a group: each of its results depends on all its elements. -/
def groupPoison (l : Line) : Bool := l.2.any (·.2)

/-- A VEC that maps each group to a group of the same length, in FP32. -/
def runNormal (f : List Fp → List (Fp × Ev)) (n w : Nat) (s : State) : State :=
  let a := readA n w s
  let outs := (groupsOf w a.1).map fun l =>
    (l.2.zip (f (l.2.map fun e => decodeAny l.1 e.1))).map fun x =>
      let r := encodeLane (fmtOut w) x.2
      (x.1.1, (r.1, groupPoison l), r.2)
  let flat := ungroup (axisOf w) (0, (0, false), noEv) outs
  let out := ((List.range flat.length).zip flat).map fun x =>
    if padsZero w x.1 [x.2.1] then (0, x.2.2.1.2) else x.2.2.1
  countEv n (flat.foldl (fun e o => e.plus o.2.2) noEv) (flatWrite n (fmtOut w) (vecDst s n w) out a.2)

/-- Gives the first of a group's results what steps shared by the group count. -/
def sharedEv (e : Ev) : List (Fp × Ev) → List (Fp × Ev)
  | [] => []
  | x :: r => (x.1, x.2.plus e) :: r

/-- Softmax: maximum, exp of difference, sum, reciprocal, multiply (R186). -/
def softmax (l : List Fp) : List (Fp × Ev) :=
  match l with
  | [] => []
  | x :: r =>
    let m := fp32 (r.foldl maxExact x)
    let es := l.map fun v => step1 fexp (fsub v m.1)
    let inv := step1 frecip (fsum es)
    sharedEv (m.2.plus inv.2) (es.map fun e => fmul e.1 inv.1)

/-- Layer normalisation: mean, variance, reciprocal square root, scale and bias (R186). -/
def layerNorm (scale bias : Fp) (l : List Fp) : List (Fp × Ev) :=
  let k := fpNat l.length
  let mean := step2 fdiv (fsum (l.map plain)) (plain k)
  let dev := l.map fun x => fsub x mean.1
  let var := step2 fdiv (fsum (dev.map fun d => fmul d.1 d.1)) (plain k)
  let r := step1 frsqrt var
  sharedEv (mean.2.plus r.2) (dev.map fun d => step2 fadd (step2 fmul (step2 fmul d (plain r.1)) (plain scale)) (plain bias))

/-- A VEC that gives one element, or several, per group. -/
def runReduce (f : Line → List (Nat × Ev)) (n w : Nat) (s : State) : State :=
  let a := readA n w s
  let outs := (groupsOf w a.1).flatMap fun l => (f l).map fun r => ((r.1, groupPoison l), r.2)
  countEv n (outs.foldl (fun e o => e.plus o.2) noEv) (flatWrite n (fmtOut w) (vecDst s n w) (outs.map (·.1)) a.2)

/-- A sum in the lane's format: FP32 adds in order, or exact adds that saturate (R165, R168). -/
def sumLine (fo : Fmt) (l : Line) : List (Nat × Ev) :=
  let add : Fp → Fp → Fp × Ev := if isFloatFmt l.1 then fadd else fun a b => laneStep 8 (addExact a b)
  [encodeLane fo (l.2.foldl (fun a e => step2 add a (plain (decodeAny l.1 e.1))) (plain fpZero))]

/-- Maximum or minimum. -/
def extremeLine (pick : Fp → Fp → Fp) (fo : Fmt) (l : Line) : List (Nat × Ev) :=
  match l.2.map fun e => decodeAny l.1 e.1 with
  | [] => []
  | x :: r => [encodeLane fo (laneStep l.1 (r.foldl pick x))]

/-- Indices in descending order of value, the lowest index first among equal values; a NaN orders below every number. -/
def ranked (l : Line) : List Nat :=
  let vals := l.2.map fun e => decodeAny l.1 e.1
  let above (i j : Nat) : Bool :=
    let a := vals.getD i fpZero
    let b := vals.getD j fpZero
    if isNan b then true else if isNan a then false else !fpLt a b
  sortBy above (List.range vals.length)

def argmaxLine (fo : Fmt) (l : Line) : List (Nat × Ev) := [encodeAny fo (fpNat ((ranked l).headD 0))]

/-- The k largest values, then their indices. Past the elements of the axis the results are not stated: free. -/
def topkLine (k : Nat) (fo : Fmt) (l : Line) : List (Nat × Ev) :=
  let top := (ranked l).take k
  let past := (List.range (k - l.2.length)).map fun j => ((Config.openResult 8 j).toNat % 2 ^ fmtBits fo, noEv)
  (top.map fun i => encodeLane fo (laneStep l.1 (decodeAny l.1 ((l.2.getD i (0, false)).1)))) ++ past
    ++ (top.map fun i => encodeAny fo (fpNat i)) ++ past

/-! ## Tensor operations -/

/-- Byte offset of a block of a tensor. -/
def dimsOff (d : Dims) (cb y x : Nat) : Nat :=
  cb * d.h * tensorRow d.f d.w + y * tensorRow d.f d.w + x * blockBytes d.f

/-- Rows and columns of a tensor of the activation buffer, as a function of channel, row and column. -/
def readPart (n base : Nat) (d : Dims) (rows cols : List Nat) (s : State) : (Nat → Nat → Nat → Nat × Bool) × State :=
  let words := (List.range (blocksOf d.f d.c)).flatMap fun cb => rows.flatMap fun y =>
    cols.flatMap fun x => blockWords d.f (base + dimsOff d cb y x)
  let g := coreGather n words s
  (fun c y x => elemIn g.1 d.f (base + dimsOff d (c / cpb d.f) y x) (c % cpb d.f), g.2)

/-- A whole tensor of the activation buffer. -/
def readTensor (n base : Nat) (d : Dims) (s : State) : (Nat → Nat → Nat → Nat × Bool) × State :=
  readPart n base d (List.range d.h) (List.range d.w) s

/-- Writes a whole tensor, padding zeros included (R171). -/
def writeTensor (n base : Nat) (d : Dims) (f : Nat → Nat → Nat → (Nat × Bool) × Ev) (s : State) : State :=
  (List.range (blocksOf d.f d.c)).foldl (fun s cb => (List.range d.h).foldl (fun s y =>
    let blocks := (List.range d.w).map fun x =>
      (List.range (min (cpb d.f) (d.c - cb * cpb d.f))).map fun k => f (cb * cpb d.f + k) y x
    let row := (blocks.flatMap fun b => packBlock d.f (b.map (·.1))) ++ zeroWords (tensorRow d.f d.w - d.w * blockBytes d.f)
    countEv n ((blocks.flatMap id).foldl (fun e o => e.plus o.2) noEv)
      (coreWrites n false (base + dimsOff d cb y 0) row s)) s) s

/-- Depthwise convolution (R178): output channel c reads input channel c / M; the weights of output channel c follow one
another at SRC_B in raster order of the taps, and the INT32 sum goes through the requantiser. Rows and columns that no tap
reaches are not read (R177). -/
def depthwise (n w : Nat) (s : State) : State :=
  let g := depthGeo s n
  let di := dimsIn s n w
  let dd := dimsOut s n w
  let fw := depthFmt w
  let m := max 1 (dd.c / max 1 di.c)
  let dst := vecDst s n w
  let rows := (List.range dd.h).flatMap fun oy => (List.range g.kh).filterMap fun i => borderIndex g.mode g.h (tapRow g oy i)
  let cols := (List.range dd.w).flatMap fun ox => (List.range g.kw).filterMap fun j => borderIndex g.mode g.w (tapCol g ox j)
  let x := readPart n (vecA s n w) di (insNats rows []) (insNats cols []) s
  let k := flatRead n fw (vecB s n w) (dd.c * g.kh * g.kw) x.2
  let sc := scaleRow n w k.2
  let bi := biasRow n w sc.2
  let int (f : Fmt) (v : Nat) : Int := if f = 2 then Int.ofNat v else signedOf (fmtBits f) v
  let sample (c : Nat) (iy ix : Int) : Nat × Bool :=
    match borderIndex g.mode g.h iy, borderIndex g.mode g.w ix with
    | some y, some xx => x.1 c y xx
    | _, _ => (if g.mode = 1 then g.value % 2 ^ fmtBits di.f else 0, false)
  writeTensor n dst dd (fun c oy ox =>
    let sum := (List.range (g.kh * g.kw)).foldl (fun (a : Int × Bool × Ev) t =>
      let e := sample (c / m) (tapRow g oy (t / max 1 g.kw)) (tapCol g ox (t % max 1 g.kw))
      let q := k.1.getD (c * g.kh * g.kw + t) (0, false)
      let r := sat32 (a.1 + int di.f e.1 * int fw q.1)
      (r.1, a.2.1 || e.2 || q.2, a.2.2.plus (accEv r.2))) ((0 : Int), false, noEv)
    let sh := sc.1.getD (c % 64) (0, false)
    let b := bi.1.getD (c % 64) (0, false)
    let y := requantInt sum.1 b.1.toInt sh.1 dd.f
    ((y.1, sum.2.1 || sh.2 || b.2), sum.2.2.plus y.2)) bi.2

/-- Source index or coordinate of an output index along one axis (R181). -/
def resampleNearest (mode o l ol : Nat) : Nat :=
  if mode = 0 then min (((2 * o + 1) * l) / (2 * max 1 ol)) (l - 1)
  else if ol ≤ 1 then 0
  else (divRne ((o * (l - 1) : Nat) : Int) (ol - 1)).toNat

/-- The two source indices and the FP32 weight of the second (R142, R181). -/
def resampleLinear (mode o l ol : Nat) : Nat × Nat × Fp :=
  let c : Fp :=
    if mode = 2 then (fsub (fdiv (fmul (fadd (fpNat o) (.fin false 1 (-1))).1 (fpNat l)).1 (fpNat ol)).1 (.fin false 1 (-1))).1
    else if ol ≤ 1 then fpZero
    else (fdiv (fmul (fpNat o) (fpNat (l - 1))).1 (fpNat (ol - 1))).1
  let c := if fpLt c fpZero then fpZero else if fpLt (fpNat (l - 1)) c then fpNat (l - 1) else c
  match floorFp c with
  | some i => (i.toNat, min (i.toNat + 1) (l - 1), (fsub c (ofInt i)).1)
  | none => (0, 0, fpZero)

def resample (n w : Nat) (s : State) : State :=
  let di := dimsIn s n w
  let dd := dimsOut s n w
  let mode := vparam s n 4
  let z := vparam s n 5
  let dst := vecDst s n w
  let x := readTensor n (vecA s n w) di s
  let copy (e : Nat × Bool) : (Nat × Bool) × Ev := (e, noEv)
  writeTensor n dst dd (fun c oy ox =>
    if mode = 0 ∨ mode = 1 then copy (x.1 c (resampleNearest mode oy di.h dd.h) (resampleNearest mode ox di.w dd.w))
    else if mode = 2 ∨ mode = 3 then
      let v := resampleLinear mode oy di.h dd.h
      let u := resampleLinear mode ox di.w dd.w
      let ey := (fsub fpOne v.2.2).1
      let ex := (fsub fpOne u.2.2).1
      let taps := [(v.1, u.1, (fmul ey ex).1), (v.1, u.2.1, (fmul ey u.2.2).1),
                   (v.2.1, u.1, (fmul v.2.2 ex).1), (v.2.1, u.2.1, (fmul v.2.2 u.2.2).1)]
      let y := encodeLane dd.f (fsum (taps.map fun t => fmul t.2.2 (decodeAny di.f (x.1 c t.1 t.2.1).1)))
      ((y.1, taps.any fun t => (x.1 c t.1 t.2.1).2), y.2)
    else if mode = 4 then
      if oy % max 1 z = 0 ∧ ox % max 1 z = 0 then copy (x.1 c (oy / max 1 z) (ox / max 1 z)) else copy (0, false)
    else copy (Config.resampleOpen mode (x.1 c 0 0).1, false)) x.2

/-- Repacking into the blocks of the output format, and transpose of height and width. -/
def repack (n w : Nat) (s : State) : State :=
  let di := dimsIn s n w
  let dst := vecDst s n w
  let dd := dimsOut s n w
  let x := readTensor n (vecA s n w) di s
  writeTensor n dst dd (fun c y xx =>
    let e := x.1 c y xx
    if di.f = dd.f then (e, noEv)
    else
      let r := encodeAny dd.f (decodeAny di.f e.1)
      ((r.1, e.2), r.2)) x.2

def transposeHW (n w : Nat) (s : State) : State :=
  let di := dimsIn s n w
  let dst := vecDst s n w
  let dd := dimsOut s n w
  let x := readTensor n (vecA s n w) di s
  writeTensor n dst dd (fun c y xx => (x.1 c xx y, noEv)) x.2

/-- Concatenation of two tensors along the axis of IMM. -/
def concat (n w : Nat) (s : State) : State :=
  let di := dimsIn s n w
  let axis := axisOf w
  let k := axisSize axis di
  let dst := vecDst s n w
  let dd := dimsOut s n w
  let base := vecB s n w
  let d2 := dimsSecond s n w
  let x := readTensor n (vecA s n w) di s
  let y := readTensor n base d2 x.2
  writeTensor n dst dd (fun c r q =>
    (match axis with
      | 0 => if c < k then x.1 c r q else y.1 (c - k) r q
      | 1 => if q < k then x.1 c r q else y.1 c r (q - k)
      | _ => if r < k then x.1 c r q else y.1 c (r - k) q, noEv)) y.2

/-- Split along the axis of IMM: the first part to DST, the rest to SRC_B. -/
def splitTensor (n w : Nat) (s : State) : State :=
  let di := dimsIn s n w
  let axis := axisOf w
  let k := vparam s n 3
  let dst := vecDst s n w
  let dd := dimsOut s n w
  let base := vecB s n w
  let d2 := dimsSecond s n w
  let x := readTensor n (vecA s n w) di s
  let s := writeTensor n dst dd (fun c r q => (x.1 c r q, noEv)) x.2
  writeTensor n base d2 (fun c r q =>
    (match axis with
      | 0 => x.1 (c + k) r q
      | 1 => x.1 c r (q + k)
      | _ => x.1 c (r + k) q, noEv)) s

/-! ## Box decoding (R187) -/

/-- A box in FP32. -/
structure FBox where
  x0 : Fp
  y0 : Fp
  x1 : Fp
  y1 : Fp

/-- The box of anchor `a` at position (px, py) in input pixels, with what its steps count; `r` gives regression value k of
the anchor. DESIGN CHOICE (notes/assumptions/84.md): the anchor's centre, ax and ay of R187, is ((px + 0.5) × S, (py + 0.5)
× S), the point that mode 1 measures its distances from. -/
def rawBox (b : BoxParams) (px py a : Nat) (r : Nat → Fp) : FBox × Ev :=
  let half : Fp := .fin false 1 (-1)
  let st := plain (fpNat b.stride)
  let cx := fadd (fpNat px) half
  let cy := fadd (fpNat py) half
  if b.mode = 0 then
    let lim := ofWord 0x408451EC
    let sz := b.size a
    let mx := step2 fadd (step2 fmul cx st) (fmul (r 0) sz.1)
    let my := step2 fadd (step2 fmul cy st) (fmul (r 1) sz.2)
    let hw := step2 fmul (step2 fmul (plain sz.1) (fexp (minExact (r 2) lim))) (plain half)
    let hh := step2 fmul (step2 fmul (plain sz.2) (fexp (minExact (r 3) lim))) (plain half)
    let x0 := fsub mx.1 hw.1
    let y0 := fsub my.1 hh.1
    let x1 := fadd mx.1 hw.1
    let y1 := fadd my.1 hh.1
    ({ x0 := x0.1, y0 := y0.1, x1 := x1.1, y1 := y1.1 },
      [mx.2, my.2, hw.2, hh.2, x0.2, y0.2, x1.2, y1.2].foldl Ev.plus noEv)
  else
    let x0 := step2 fmul (step2 fsub cx (plain (r 0))) st
    let y0 := step2 fmul (step2 fsub cy (plain (r 1))) st
    let x1 := step2 fmul (step2 fadd cx (plain (r 2))) st
    let y1 := step2 fmul (step2 fadd cy (plain (r 3))) st
    ({ x0 := x0.1, y0 := y0.1, x1 := x1.1, y1 := y1.1 }, [x0.2, y0.2, x1.2, y1.2].foldl Ev.plus noEv)

/-- A coordinate clipped to [0, limit], and whether it was. -/
def clipTo (limit : Nat) (x : Fp) : Fp × Bool :=
  if fpLt x fpZero then (fpZero, true) else if fpLt (fpNat limit) x then (fpNat limit, true) else (x, false)

/-- A candidate's entry: the box mapped to the decoded picture and clipped, with BFLAGS. -/
def boxEntryBytes (b : BoxParams) (g : Geometry) (box : FBox × Ev) (score : Fp) (cls : Nat) : List Byte × Ev :=
  let x (v : Fp) : Fp × Ev := toPicture (plain v) g.f g.cxr g.sx g.ox
  let y (v : Fp) : Fp × Ev := toPicture (plain v) g.f g.cyr g.sy g.oy
  let ps := [x box.1.x0, y box.1.y0, x box.1.x1, y box.1.y1]
  let cs := (ps.zip [b.picW, b.picH, b.picW, b.picH]).map fun p => clipTo p.2 p.1.1
  let clipped := cs.any (·.2)
  let invalid := cs.any fun c => isNan c.1
  ((cs.flatMap fun c => leBytes 4 (toWord c.1).toNat) ++ leBytes 4 (toWord score).toNat ++ leBytes 2 cls
    ++ leBytes 2 b.level ++ leBytes 4 0x1FFFF ++ leBytes 2 (b2n invalid + 2 * b2n clipped) ++ [0, 0],
   (ps.map (·.2)).foldl Ev.plus box.2)

/-- A box list of the activation buffer: its header and entries as bytes, and whether a word of them is poisoned. -/
def readList (n a : Nat) (s : State) : List Byte × List (List Byte) × Bool × State :=
  let h := coreBytes n false a 32 s
  let count := min (numAt h.1 0 4) (numAt h.1 4 4)
  let e := coreBytes n false (a + 32) (32 * count) h.2.2
  (h.1, chunk 32 e.1 count, h.2.1 || e.2.1, e.2.2)

/-- Writes a list back: COUNT, DROPPED, LFLAGS and the entries. -/
def writeList (n a : Nat) (header : List Byte) (entries : List (List Byte)) (dropped : Nat) (sorted poison : Bool)
    (s : State) : State :=
  let lf := (bitsOf (numAt header 14 2) 1 1 * 2) ||| (if poison then 2 else 0) ||| (if 0 < dropped then 1 else 0)
    ||| (if sorted then 4 else 0)
  let h := leBytes 4 entries.length ++ (header.drop 4).take 4 ++ leBytes 4 (min dropped 0xFFFFFFFF)
    ++ (header.drop 12).take 2 ++ leBytes 2 lf ++ header.drop 16
  coreStore n a (h ++ entries.flatMap id) false s

def decodeBoxes (n w : Nat) (s : State) : State :=
  let b := boxParams s n
  let dst := vecDst s n w
  let reg := readTensor n (vecA s n w) (regDims b w) s
  let sc := readTensor n (vecB s n w) (scoreDims b w) reg.2
  let gm := dpaBytes 0 (granaryBase + 32 * b.geom) 32 sc.2
  let lst := readList n dst gm.2.2
  let f := fmtIn w
  let poisonAt (get : Nat → Nat → Nat → Nat × Bool) (d : Dims) : Bool :=
    (List.range d.c).any fun c => (List.range d.h).any fun y => (List.range d.w).any fun x => (get c y x).2
  let marked := (lst.1.getD 14 0).getLsbD 1
  if poisonAt reg.1 (regDims b w) || poisonAt sc.1 (scoreDims b w) || gm.2.1 || lst.2.2.1 || marked then
    writeList n dst lst.1 [] (numAt lst.1 8 4) (lst.1.getD 14 0 |>.getLsbD 2) true lst.2.2.2
  else
    let g := geometryOf gm.1
    let cands := (List.range b.h).flatMap fun py => (List.range b.w).flatMap fun px =>
      (List.range (boxAnchors b)).flatMap fun a => (List.range b.classes).map fun c =>
        let raw := decodeAny f (sc.1 (a * b.classes + c) py px).1
        let score := if b.sigmoid then fsigmoid raw else plain raw
        if fpLt score.1 b.thr then (none, score.2)
        else
          let e := boxEntryBytes b g (rawBox b px py a fun k => decodeAny f (reg.1 (4 * a + k) py px).1) score.1 c
          (some e.1, score.2.plus e.2)
    let cap := numAt lst.1 4 4
    let all := lst.2.1 ++ cands.filterMap (·.1)
    countEv n (cands.foldl (fun e c => e.plus c.2) noEv)
      (writeList n dst lst.1 (all.take cap) (numAt lst.1 8 4 + (all.length - cap)) false false lst.2.2.2)

/-! ## Non-maximum suppression (R188) -/

def entryFp (e : List Byte) (o : Nat) : Fp := decodeFloat 7 (numAt e o 4)

/-- area and iou of R188, in FP32, with what their steps count. -/
def boxArea (e : List Byte) : Fp × Ev :=
  step2 fmul (fsub (entryFp e 8) (entryFp e 0)) (fsub (entryFp e 12) (entryFp e 4))
def iouSteps (a b : List Byte) : Fp × Ev :=
  let iw := step2 fmax (plain fpZero) (step2 fsub (fmin (entryFp a 8) (entryFp b 8)) (fmax (entryFp a 0) (entryFp b 0)))
  let ih := step2 fmax (plain fpZero) (step2 fsub (fmin (entryFp a 12) (entryFp b 12)) (fmax (entryFp a 4) (entryFp b 4)))
  let inter := step2 fmul iw ih
  let union := step2 fsub (step2 fadd (boxArea a) (boxArea b)) (plain inter.1)
  let made := inter.2.plus union.2
  if fpLt union.1 fpZero || fpEq union.1 fpZero then (fpZero, made)
  else
    let q := fdiv inter.1 union.1
    (q.1, made.plus q.2)

/-- iou of R188. -/
def boxIou (a b : List Byte) : Fp := (iouSteps a b).1

/-- The visiting loop: kept entries and how many were left unvisited. -/
def nmsLoop (thr : Fp) (maxOut : Nat) (perClass : Bool) : List (List Byte) → List (List Byte) → List (List Byte) × Nat
  | [], kept => (kept, 0)
  | b :: r, kept =>
    if kept.length = maxOut then (kept, r.length + 1)
    else if kept.any fun k => (!perClass || numAt k 20 2 == numAt b 20 2) && fpLt thr (boxIou k b) then
      nmsLoop thr maxOut perClass r kept
    else nmsLoop thr maxOut perClass r (kept ++ [b])

/-- What comparing `b` with the kept entries counts: up to the first that suppresses it. -/
def visitEv (thr : Fp) (perClass : Bool) (b : List Byte) : List (List Byte) → Ev
  | [] => noEv
  | k :: r =>
    if perClass && numAt k 20 2 != numAt b 20 2 then visitEv thr perClass b r
    else
      let q := iouSteps k b
      if fpLt thr q.1 then q.2 else q.2.plus (visitEv thr perClass b r)

/-- What the visiting loop counts, over the entries it visits and those it kept before each (R165, R169). -/
def nmsEv (thr : Fp) (maxOut : Nat) (perClass : Bool) (order : List (List Byte)) : Ev :=
  let visited := order.length - (nmsLoop thr maxOut perClass order []).2
  (List.range visited).foldl (fun e i =>
    e.plus (visitEv thr perClass (order.getD i []) (nmsLoop thr maxOut perClass (order.take i) []).1)) noEv

def suppress (n w : Nat) (s : State) : State :=
  let a := vecA s n w
  let maxOut := vparam s n 0
  let thr := decodeFloat 7 (vparam s n 1)
  let perClass := vparam s n 2 != 0
  let lst := readList n a s
  if lst.2.2.1 then writeList n a lst.1 [] (numAt lst.1 8 4) true true lst.2.2.2
  else
    let valid := lst.2.1.filter fun e => !(e.getD 28 0).getLsbD 0
    let order := sortBy (fun x y => !fpLt (entryFp x 16) (entryFp y 16)) valid
    let r := nmsLoop thr maxOut perClass order []
    countEv n (nmsEv thr maxOut perClass order) (writeList n a lst.1 r.1 (numAt lst.1 8 4 + r.2) true false lst.2.2.2)

/-! ## The rows of the table -/

def execVecRequantise (core : BitVec 7) (w : BitVec 128) (s : State) : Res := vecStep 0x00 requantise core w s
def execVecAdd (core : BitVec 7) (w : BitVec 128) (s : State) : Res :=
  vecStep 0x01 (runLanes (exactly fun _ _ a b _ => addExact a b)) core w s
def execVecSubtract (core : BitVec 7) (w : BitVec 128) (s : State) : Res :=
  vecStep 0x02 (runLanes (exactly fun _ _ a b _ => addExact a (negFp b))) core w s
def execVecMultiply (core : BitVec 7) (w : BitVec 128) (s : State) : Res :=
  vecStep 0x03 (runLanes (exactly fun _ _ a b _ => mulExact a b)) core w s
def execVecFusedMultiplyAdd (core : BitVec 7) (w : BitVec 128) (s : State) : Res :=
  vecStep 0x04 (runLanes (exactly fun _ _ a b d => addExact (mulExact a b) d)) core w s
def execVecMinimum (core : BitVec 7) (w : BitVec 128) (s : State) : Res :=
  vecStep 0x05 (runLanes (exactly fun _ _ a b _ => minExact a b)) core w s
def execVecMaximum (core : BitVec 7) (w : BitVec 128) (s : State) : Res :=
  vecStep 0x06 (runLanes (exactly fun _ _ a b _ => maxExact a b)) core w s
def execVecCompare (core : BitVec 7) (w : BitVec 128) (s : State) : Res :=
  vecStep 0x08 (runLanes (exactly fun f _ a b _ => openCode f (Config.compareCode f (relation a b)))) core w s
def execVecSelect (core : BitVec 7) (w : BitVec 128) (s : State) : Res :=
  vecStep 0x09 (runLanes (exactly fun _ _ a b _ => if Config.selectFirst (argOf [a]) (argOf [b]) then a else b)) core w s
def execVecRelu (core : BitVec 7) (w : BitVec 128) (s : State) : Res :=
  vecStep 0x0A (runLanes (exactly fun _ _ a _ _ => maxExact a fpZero)) core w s
def execVecClip (core : BitVec 7) (w : BitVec 128) (s : State) : Res :=
  vecStep 0x0B (runLanes (exactly fun f k a b _ =>
    minExact (maxExact a (openCode f (Config.clipBound 0 (argOf [b]) k))) (openCode f (Config.clipBound 1 (argOf [b]) k))))
    core w s
def execVecLeakyRelu (core : BitVec 7) (w : BitVec 128) (s : State) : Res :=
  vecStep 0x0C (runLanes (exactly fun f k a _ _ => leaky f k a)) core w s
def execVecShift (core : BitVec 7) (w : BitVec 128) (s : State) : Res :=
  vecStep 0x0D (runLanes (exactly fun _ k a _ _ => shiftLane k a)) core w s
def execVecConversion (core : BitVec 7) (w : BitVec 128) (s : State) : Res :=
  vecStep 0x10 (runLanes (exactly fun _ _ a _ _ => a)) core w s
def execVecDivide (core : BitVec 7) (w : BitVec 128) (s : State) : Res :=
  vecStep 0x11 (runLanes (inFp32 fdiv)) core w s
def execVecReciprocal (core : BitVec 7) (w : BitVec 128) (s : State) : Res :=
  vecStep 0x12 (runLanes (inFp32 fun a _ => frecip a)) core w s
def execVecSquareRoot (core : BitVec 7) (w : BitVec 128) (s : State) : Res :=
  vecStep 0x13 (runLanes (inFp32 fun a _ => fsqrt a)) core w s
def execVecReciprocalSquareRoot (core : BitVec 7) (w : BitVec 128) (s : State) : Res :=
  vecStep 0x14 (runLanes (inFp32 fun a _ => frsqrt a)) core w s
def execVecExp (core : BitVec 7) (w : BitVec 128) (s : State) : Res :=
  vecStep 0x18 (runLanes (inFp32 fun a _ => fexp a)) core w s
def execVecExp2 (core : BitVec 7) (w : BitVec 128) (s : State) : Res :=
  vecStep 0x19 (runLanes (inFp32 fun a _ => fexp2 a)) core w s
def execVecLog (core : BitVec 7) (w : BitVec 128) (s : State) : Res :=
  vecStep 0x1A (runLanes (inFp32 fun a _ => flog a)) core w s
def execVecLog2 (core : BitVec 7) (w : BitVec 128) (s : State) : Res :=
  vecStep 0x1B (runLanes (inFp32 fun a _ => flog2 a)) core w s
def execVecSigmoid (core : BitVec 7) (w : BitVec 128) (s : State) : Res :=
  vecStep 0x1C (runLanes (inFp32 fun a _ => fsigmoid a)) core w s
def execVecTanh (core : BitVec 7) (w : BitVec 128) (s : State) : Res :=
  vecStep 0x1D (runLanes (inFp32 fun a _ => ftanh a)) core w s
def execVecSoftplus (core : BitVec 7) (w : BitVec 128) (s : State) : Res :=
  vecStep 0x1E (runLanes (inFp32 fun a _ => fsoftplus a)) core w s
def execVecSilu (core : BitVec 7) (w : BitVec 128) (s : State) : Res :=
  vecStep 0x1F (runLanes (inFp32 fun a _ => silu a)) core w s
def execVecGelu (core : BitVec 7) (w : BitVec 128) (s : State) : Res :=
  vecStep 0x20 (runLanes (inFp32 fun a _ => gelu a)) core w s
def execVecSoftmax (core : BitVec 7) (w : BitVec 128) (s : State) : Res := vecStep 0x21 (runNormal softmax) core w s
def execVecLayerNormalisation (core : BitVec 7) (w : BitVec 128) (s : State) : Res :=
  vecStep 0x22 (fun n w s =>
    runNormal (layerNorm (decodeFloat 7 (vparam s n 0)) (decodeFloat 7 (vparam s n 1))) n w s) core w s
def execVecSum (core : BitVec 7) (w : BitVec 128) (s : State) : Res :=
  vecStep 0x28 (fun n w s => runReduce (sumLine (fmtOut w)) n w s) core w s
def execVecAxisMaximum (core : BitVec 7) (w : BitVec 128) (s : State) : Res :=
  vecStep 0x29 (fun n w s => runReduce (extremeLine maxExact (fmtOut w)) n w s) core w s
def execVecAxisMinimum (core : BitVec 7) (w : BitVec 128) (s : State) : Res :=
  vecStep 0x2A (fun n w s => runReduce (extremeLine minExact (fmtOut w)) n w s) core w s
def execVecArgmax (core : BitVec 7) (w : BitVec 128) (s : State) : Res :=
  vecStep 0x2B (fun n w s => runReduce (argmaxLine (fmtOut w)) n w s) core w s
def execVecTopK (core : BitVec 7) (w : BitVec 128) (s : State) : Res :=
  vecStep 0x2C (fun n w s => runReduce (topkLine (vecImm w + 1) (fmtOut w)) n w s) core w s
def execVecDepthwiseConvolution (core : BitVec 7) (w : BitVec 128) (s : State) : Res := vecStep 0x30 depthwise core w s
def execVecResampling (core : BitVec 7) (w : BitVec 128) (s : State) : Res := vecStep 0x31 resample core w s
def execVecRepacking (core : BitVec 7) (w : BitVec 128) (s : State) : Res := vecStep 0x38 repack core w s
def execVecTranspose (core : BitVec 7) (w : BitVec 128) (s : State) : Res := vecStep 0x39 transposeHW core w s
def execVecConcatenation (core : BitVec 7) (w : BitVec 128) (s : State) : Res := vecStep 0x3A concat core w s
def execVecSplit (core : BitVec 7) (w : BitVec 128) (s : State) : Res := vecStep 0x3B splitTensor core w s
def execVecBoxDecoding (core : BitVec 7) (w : BitVec 128) (s : State) : Res := vecStep 0x40 decodeBoxes core w s
def execVecNonMaximumSuppression (core : BitVec 7) (w : BitVec 128) (s : State) : Res := vecStep 0x41 suppress core w s

end Sys2Proof.Machine
end

