-- ==== Sys2Proof/Machine/Tracking.lean ====
section
/-! DEFINITION. Machine/Tracking.lean: the track store and the history pool (R233, R234), the operations ROWS, APPLY and
EMIT (R237 to R244), and the records of a frame list (R245 to R250). -/

namespace Sys2Proof.Machine

/-! ## Entries as memory holds them (R233, R234) -/

def wordsBytes (l : List Word) (n : Nat) : List Byte := padTo (4 * n) (l.flatMap fun w => leBytes 4 w.toNat)

def trackBytes (t : Track) : List Byte :=
  leBytes 2 (t.ctx.toNat + 0x1000) ++ leBytes 2 t.cls.toNat ++ leBytes 4 t.created.toNat ++ leBytes 4 t.firstSeq.toNat
    ++ leBytes 4 t.lastSeq.toNat ++ leBytes 2 t.hits.toNat
    ++ [t.misses, BitVec.ofNat 8 t.hist.length, BitVec.ofNat 8 t.hpos.toNat, 0]
    ++ leBytes 2 t.conf.toNat ++ wordsBytes t.box 4 ++ wordsBytes t.vel 4
    ++ padTo 64 (t.hist.flatMap fun h => leBytes 4 (h.1 + 0x80000 * b2n h.2)) ++ leBytes 4 t.missSeq.toNat ++ [0, 0, 0, 0]

def histBytes (h : HistEntry) : List Byte :=
  wordsBytes h.emb 24 ++ wordsBytes h.box 4 ++ leBytes 4 h.seq.toNat ++ leBytes 2 (b2n h.motionOnly + 2 * b2n h.poison)
    ++ List.replicate 10 0

/-! ## Frames and rows of the round -/

/-- Frame `i` of the round's frame list. -/
def listed (s : State) (i : Nat) : Option FrameRec := s.bell.frameList[i]?

/-- The row maps of network `n` in the round. -/
def mapsOf (s : State) (n : Nat) : List (List Row) :=
  (List.range (activeArea s).rowNets.length).filterMap fun b => if netOfMap s b = n then findAt b s.bell.rowMaps else none

/-- The rows of network `n` that frame `i` has. -/
def rowsOfFrame (s : State) (n i : Nat) : List Row :=
  (mapsOf s n).flatMap fun l => l.filter fun r => r.live && r.frame == i

/-- Network `n` ran on frame `i`: a live row without poison, and the network was not stopped in the round (R313). -/
def analysedOn (s : State) (n i : Nat) : Bool :=
  !s.bell.deadNets.contains n && (rowsOfFrame s n i).any fun r => !r.poison

/-- Tracked and association networks of a stream. -/
def tracked (s : State) (c : Nat) : Option Nat := trackedNet s (streamAt s c).ad.networks
def assocOf (s : State) (c : Nat) : Option Nat := assocNet s (streamAt s c).ad.networks

/-- The parameters of R235 for a stream: JOIN_SCORE and TRACK_CAP from the tracked image, the rest from the association
image. -/
def trackParams (s : State) (c : Nat) : TrackParams :=
  let t := ((tracked s c).bind (netAt s)).elim {} (·.track)
  let a := ((assocOf s c).bind (netAt s)).elim {} (·.track)
  { a with trackCap := t.trackCap, joinScore := t.joinScore }

/-- No association step is made for the stream in this round (R313). -/
def noStep (s : State) (c : Nat) : Bool :=
  s.bell.noAssoc || (match assocOf s c with | some n => s.bell.deadNets.contains n | none => true)

/-- A stream's analysed frames on its tracked network, in completion order: indices in the frame list. -/
def analysedFrames (s : State) (c : Nat) : List Nat :=
  match tracked s c with
  | none => []
  | some n =>
    let l := ((List.range s.bell.frameList.length).zip s.bell.frameList).filter fun e =>
      e.2.ctx.toNat == c && analysedOn s n e.1
    (sortBy frameBefore l).map (·.1)

/-- Streams of the frame list. -/
def listedStreams (s : State) : List Nat := insNats (s.bell.frameList.map fun f => f.ctx.toNat) []

/-- Live tracks in ascending CREATED. -/
def byCreated (l : List (Nat × Track)) : List (Nat × Track) := sortBy (fun a b => decide (a.2.created ≤ b.2.created)) l
def tracksOf (s : State) (c : Nat) : List (Nat × Track) := byCreated (s.trk.tracks.filter fun e => e.2.ctx.toNat == c)

/-- The record lists of the round: those already held win over those given (R244). -/
def mergeLists (have_ given : List RecList) : List RecList :=
  have_ ++ given.filter fun l => !have_.any fun k => k.frame == l.frame && k.net == l.net

/-- The entries of network `n` for frame `i`, at most CAP for each of its rows. -/
def entriesOf (s : State) (n i : Nat) : List BoxEntry :=
  (s.trk.lists.filter fun l => l.frame == i && l.net.toNat == n).flatMap (·.entries)

/-! ## ROWS (R238) -/

/-- The field of the track-store action in flight: OP and ARG. -/
def trackField (s : State) : Option (Nat × Nat) :=
  match s.bell.actions.find? fun a => a.unit == .track with
  | none => none
  | some a => ((activeArea s).slots[a.slot]?).map fun w => (slotTrack w % 16, bitsOf (slotTrack w) 31 8)

/-- The track-store unit runs operation `op` now. -/
def trackRuns (s : State) (op : Nat) : Option Nat :=
  if !s.trk.busy || s.flt.reset.isSome then none
  else match trackField s with
    | some (o, a) => if o = op then some a else none
    | none => none

/-- Tracks that take a row of association network `n`, with their stream's latest analysed frame. -/
def trackRows (s : State) (n : Nat) : List (Nat × Nat) :=
  (byCreated s.trk.tracks).filterMap fun e =>
    let c := e.2.ctx.toNat
    if assocOf s c = some n then ((analysedFrames s c).getLast?).map fun i => (e.1, i) else none

/-- Entries of a track's history in the order of its ring, the oldest first (R233). -/
def ringOrder (t : Track) : List Nat := (t.hist.drop t.hpos.toNat ++ t.hist.take t.hpos.toNat).map (·.1)

/-- ROWS: the row map, the track list, which follows the row map's B entries in the Granary (DESIGN CHOICE,
notes/assumptions/87.md), and the history-pool indices of each row. -/
def rowsOp (arg : Nat) (s : State) : State :=
  let b := arg % 4096
  let e := rowMapEntry s b
  let rows := (trackRows s (netOfMap s b)).take e.2.1
  let s := storeRowMap b (fillRows e.2.1 (rows.map fun r => frameRow ((listed s r.2).elim 0 (·.ctx)) r.2)) s
  let ids := padTo (4 * e.2.1) (rows.flatMap fun r => leBytes 4 r.1)
  let s := dpaStore (granaryBase + e.1 + 8 * e.2.1) ids s
  { s with trk := { s.trk with
    rowTracks := s.trk.rowTracks ++ rows
    rowHist := s.trk.rowHist ++ rows.map fun r => (findAt r.1 s.trk.tracks).elim [] ringOrder } }

def execRows (lists : List RecList) (s : State) : Res :=
  .next (match trackRuns s 1 with
    | none => s
    | some arg =>
      let s := rowsOp arg { s with trk := { s.trk with lists := mergeLists s.trk.lists lists } }
      { s with trk := { s.trk with busy := false } })

/-! ## Matching (R239) -/

/-- FRAME_SEQ − LAST_SEQ as a signed number: a frame before the last one associated lies a negative distance from it. -/
def seqStep (t : Track) (seq : Nat) : Fp := ofInt (BitVec.ofNat 32 seq - t.lastSeq).toInt

/-- BOX + VEL × (FRAME_SEQ − LAST_SEQ), in FP32. -/
def predictBox (t : Track) (seq : Nat) : List Word :=
  let k := seqStep t seq
  (List.range 4).map fun i => toWord (fadd (ofWord (t.box.getD i 0)) (fmul (ofWord (t.vel.getD i 0)) k).1).1

def entryBox (d : BoxEntry) : List Word := [d.x0, d.y0, d.x1, d.y1]

/-- iou of R188 on two boxes. -/
def iouWords (a b : List Word) : Fp := boxIou (wordsBytes a 4) (wordsBytes b 4)

/-- 1 − the cosine similarity, in FP32. -/
def embDist (a b : List Word) : Fp :=
  let dot (x y : List Word) : Fp := (x.zip y).foldl (fun t e => (fadd t (fmul (ofWord e.1) (ofWord e.2)).1).1) fpZero
  (fsub fpOne (fdiv (dot a b) (fmul (fsqrt (dot a a)).1 (fsqrt (dot b b)).1).1).1).1

/-- A candidate pair: cost, track, entry, and whether it carries MOTION_ONLY. -/
structure Pair where
  cost : Fp
  track : Nat
  entry : Nat
  motion : Bool
  deriving DecidableEq, Repr

/-- The words of an embedding that EMB_BYTES keeps (R234). -/
def embWords (a : TrackParams) (l : List Word) : List Word := l.take (a.embBytes / 4)

/-- The cost of a pair; without an embedding on either side LAMBDA is 1. With EMB_BYTES 0 emb_dist is 0 and LAMBDA stays in
force (DESIGN CHOICE, notes/assumptions/88.md); no embedding was used, so the pair carries MOTION_ONLY. -/
def pairOfTrack (a : TrackParams) (pred : Option (List Word)) (seq : Nat) (t : Nat × Track) (j : Nat) (d : BoxEntry) :
    Option Pair :=
  let u := iouWords (predictBox t.2 seq) (entryBox d)
  if fpLt u (ofWord a.gateIou) || isNan u || (a.classStrict == 1 && t.2.cls != d.cls) then none
  else
    let motionCost := (fsub fpOne u).1
    let motion := pred.isNone || d.emb.isEmpty || a.embBytes == 0
    let dist (p : List Word) : Fp := if a.embBytes = 0 then fpZero else embDist (embWords a p) (embWords a d.emb)
    let cost := match pred with
      | some p =>
        if d.emb.isEmpty && a.embBytes != 0 then motionCost
        else (fadd (fmul (ofWord a.lambda) motionCost).1 (fmul (fsub fpOne (ofWord a.lambda)).1 (dist p)).1).1
      | none => motionCost
    if isNan cost || fpLt (ofWord a.costMax) cost then none else some { cost, track := t.1, entry := j, motion }

/-- Cost ascending; ties: lower track identity, then lower entry index. -/
def pairBefore (a b : Pair) : Bool :=
  if fpLt a.cost b.cost then true else if fpLt b.cost a.cost then false
  else decide (a.track < b.track) || (a.track == b.track && decide (a.entry ≤ b.entry))

/-- The greedy matching of R239. -/
def greedy : List Pair → List Nat → List Nat → List Pair
  | [], _, _ => []
  | p :: r, ts, ds =>
    if ts.contains p.track || ds.contains p.entry then greedy r ts ds
    else p :: greedy r (p.track :: ts) (p.entry :: ds)

/-- Matches of tracks with the entries of one frame; an entry that has an identity keeps it (R244). -/
def matchFrame (a : TrackParams) (pred : Nat → Option (List Word)) (tracks : List (Nat × Track)) (seq : Nat)
    (entries : List BoxEntry) : List Pair :=
  let idx := (List.range entries.length).zip entries
  let taken := idx.filter fun e => e.2.track != 0x1FFFF
  let pairs := tracks.flatMap fun t => idx.filterMap fun e =>
    if e.2.track == 0x1FFFF then pairOfTrack a (pred t.1) seq t e.1 e.2 else none
  (taken.filterMap fun e => if tracks.any fun t => t.1 = e.2.track.toNat then
      some { cost := fpZero, track := e.2.track.toNat, entry := e.1, motion := false } else none)
    ++ greedy (sortBy pairBefore pairs) (taken.map fun e => e.2.track.toNat) []

/-! ## APPLY (R240 to R244) -/

/-- A track that holds a history entry without MOTION_ONLY. -/
def hasEmb (s : State) (t : Track) : Bool :=
  t.hist.any fun h => match findAt h.1 s.trk.hist with | some e => !e.motionOnly | none => false

/-- A match of the round: frame, pair. -/
abbrev RoundMatch := Nat × Pair

/-- The matches that the association network found for the latest frames (R239). -/
def networkMatches (s : State) (predicted : List Predicted) : List RoundMatch :=
  (listedStreams s).flatMap fun c =>
    if noStep s c then []
    else match (analysedFrames s c).getLast?, tracked s c with
      | some i, some n =>
        let rows := (tracksOf s c).filter fun t => s.trk.rowTracks.contains (t.1, i)
        let pred (t : Nat) : Option (List Word) :=
          match findAt t s.trk.tracks with
          | some v =>
            if (trackParams s c).embBytes = 0 then some []
            else if hasEmb s v then (predicted.find? fun p => p.track = t).map (·.emb) else none
          | none => none
        (matchFrame (trackParams s c) pred rows ((listed s i).elim 0 (·.seq)) (entriesOf s n i)).map fun p => (i, p)
      | _, _ => []

/-- TRACK and BFLAGS of entry `j` go to the list's bytes, where it lies in the Granary (R182). -/
def storeEntry (l : RecList) (j : Nat) (e : BoxEntry) (s : State) : State :=
  match l.base with
  | some b => dpaWrites (granaryBase + b + 32 + 32 * j + 24) [(e.track, false), (e.flags.setWidth 32, false)] s
  | none => s

/-- Changes entry `j` of the list of network `n` for frame `i`. -/
def editEntry (n i j : Nat) (f : BoxEntry → BoxEntry) (s : State) : State :=
  let named (l : RecList) : Bool := l.frame == i && l.net.toNat == n
  let s := (s.trk.lists.filter named).foldl (fun s l =>
    match l.entries[j]? with
    | some e => storeEntry l j (f e) s
    | none => s) s
  let edit (l : RecList) : RecList :=
    if named l then
      { l with entries := ((List.range l.entries.length).zip l.entries).map fun e => if e.1 = j then f e.2 else e.2 }
    else l
  { s with trk := { s.trk with lists := s.trk.lists.map edit } }

def addFree (c : Nat) (k : Int) (s : State) : State :=
  let st := streamAt s c
  setStream c { st with histFree := ((st.histFree : Int) + k).toNat } s

/-- A track leaves: its history entries are freed, its reservation goes back to its stream. -/
def leaveTrack (id : Nat) (s : State) : State :=
  match findAt id s.trk.tracks with
  | none => s
  | some t =>
    let c := t.ctx.toNat
    let shared := (t.hist.filter (·.2)).length
    let s := if holds (streamAt s c).state then addFree c (trackParams s c).histMin s else s
    { s with trk := { s.trk with
      tracks := dropAt id s.trk.tracks
      headroom := s.trk.headroom + shared
      hist := s.trk.hist.filter fun e => !t.hist.any fun h => h.1 = e.1 } }

/-- Step 1 of R242 for the track `id` of a stream with frame `f`. -/
def missTrack (matched : Bool) (maxMiss seq id : Nat) (s : State) : State :=
  match findAt id s.trk.tracks with
  | none => s
  | some t =>
    let t := if !matched && t.missSeq.toNat != seq then
      { t with misses := satAddW t.misses 1, missSeq := BitVec.ofNat 32 seq } else t
    let s := { s with trk := { s.trk with tracks := putAt id t s.trk.tracks } }
    if maxMiss ≤ t.misses.toNat then leaveTrack id s else s

/-- Confidence in the record format (R248). -/
def unorm16 (score : Word) : Nat :=
  match mulExact (ofWord score) (fpNat 65535) with
  | .fin n m e => (max 0 (min 65535 (nearestInt n m e))).toNat
  | .inf n => if n then 0 else 65535
  | .nan => 0

/-- The lowest history-pool entry not in use. -/
def freeHist (s : State) : Nat := (lowestFree (s.trk.hist.map (·.1)) 0x80000 0 1).headD 0

/-- Whether frame `i` is its stream's latest analysed one. -/
def isLatest (s : State) (c i : Nat) : Bool := (analysedFrames s c).getLast? == some i

/-- A ring with a new entry behind its newest one: before the oldest, which HPOS names, or at the end of a ring that starts
at 0. -/
def ringAdd (t : Track) (e : Nat × Bool) : Track :=
  let p := t.hpos.toNat
  if p = 0 ∨ t.hist.length ≤ p then { t with hist := t.hist ++ [e] }
  else { t with
    hist := t.hist.take p ++ [e] ++ t.hist.drop p
    hpos := t.hpos + 1 }

/-- Step 2 of R242: the matched track `id` takes the detection. -/
def growTrack (a : TrackParams) (seq : Nat) (p : Pair) (d : BoxEntry) (s : State) : State :=
  match findAt p.track s.trk.tracks with
  | none => s
  | some t =>
    if t.lastSeq.toNat = seq then s
    else
      let step := seqStep t seq
      let box := entryBox d
      let vel := (List.range 4).map fun i =>
        let v := (fp32 (divExact (fsub (ofWord (box.getD i 0)) (ofWord (t.box.getD i 0))).1 step)).1
        toWord (fp32 (mulExact (fadd (ofWord (t.vel.getD i 0)) v).1 (.fin false 1 (-1)))).1
      let t' := { t with
        box := box, vel := vel, cls := d.cls, conf := BitVec.ofNat 16 (unorm16 d.score)
        lastSeq := BitVec.ofNat 32 seq, hits := satAddW t.hits 1, misses := 0 }
      let e : HistEntry := { emb := embWords a d.emb, box := box, seq := BitVec.ofNat 32 seq
                             motionOnly := p.motion, poison := false }
      let take (shared : Bool) (s : State) : State :=
        let k := freeHist s
        { s with trk := { s.trk with
          tracks := putAt p.track (ringAdd t' (k, shared)) s.trk.tracks
          hist := putAt k e s.trk.hist } }
      if t.hist.length < a.histMin then take false s
      else if t.hist.length < a.histDepth ∧ 0 < s.trk.headroom then
        take true { s with trk := { s.trk with headroom := s.trk.headroom - 1 } }
      else
        let k := (t.hist.getD t.hpos.toNat (0, false)).1
        { s with trk := { s.trk with
          tracks := putAt p.track { t' with hpos := BitVec.ofNat 4 ((t.hpos.toNat + 1) % max 1 t.hist.length) } s.trk.tracks
          hist := putAt k e s.trk.hist
          reuse := satAdd s.trk.reuse (b2n (decide (t.hist.length < a.histDepth))) } }

/-- Step 3 of R242: entry `j` of frame `i` joins, or is refused. -/
def joinEntry (a : TrackParams) (n i j : Nat) (f : FrameRec) (d : BoxEntry) (s : State) : State :=
  let c := f.ctx.toNat
  let id := (lowestFree (s.trk.tracks.map (·.1)) 0x20000 0 1).head?
  match id with
  | some id =>
    if a.histMin ≤ (streamAt s c).histFree then
      let s := addFree c (-(a.histMin : Int)) s
      let k := freeHist s
      let motion := d.emb.isEmpty || a.embBytes == 0 || !isLatest s c i
      let t : Track := {
        ctx := f.ctx, cls := d.cls, created := s.trk.created, firstSeq := BitVec.ofNat 32 f.seq
        lastSeq := BitVec.ofNat 32 f.seq, hits := 1, misses := 0, hpos := 0, conf := BitVec.ofNat 16 (unorm16 d.score)
        box := entryBox d, vel := [0, 0, 0, 0], hist := [(k, false)], missSeq := 0xFFFFFFFF }
      let s := { s with trk := { s.trk with
        tracks := putAt id t s.trk.tracks
        created := s.trk.created + 1
        joined := (i * 0x20000 + id) :: s.trk.joined
        hist := putAt k { emb := embWords a d.emb, box := entryBox d, seq := BitVec.ofNat 32 f.seq, motionOnly := motion
                          poison := false } s.trk.hist } }
      editEntry n i j (fun e => { e with track := BitVec.ofNat 32 id }) s
    else
      editEntry n i j (fun e => { e with flags := e.flags ||| 4 })
        { s with trk := { s.trk with joinRefused := satAdd s.trk.joinRefused 1 } }
  | none =>
    editEntry n i j (fun e => { e with flags := e.flags ||| 4 })
      { s with trk := { s.trk with joinRefused := satAdd s.trk.joinRefused 1 } }

/-- The frames at position `q` of the round, in completion order, with their tracked network. -/
def framesAt (s : State) (q : Nat) : List (Nat × FrameRec × Nat) :=
  let l := (listedStreams s).filterMap fun c =>
    if noStep s c then none
    else match (analysedFrames s c)[q]?, tracked s c with
      | some i, some n => (listed s i).map fun f => (i, f, n)
      | _, _ => none
  sortBy (fun a b => frameBefore (a.1, a.2.1) (b.1, b.2.1)) l

/-- One step of APPLY (R242); `net` holds the association network's matches. Every record of a stream's earlier frame
carries MOTION_ONLY (R240). -/
def applyStep (net : List RoundMatch) (q : Nat) (s : State) : State :=
  let fs := framesAt s q
  let ms : List (Nat × FrameRec × Nat × List Pair) := fs.map fun x =>
    let c := x.2.1.ctx.toNat
    let live := tracksOf s c
    let ps := if isLatest s c x.1 then
        (net.filter fun m => m.1 = x.1 ∧ live.any fun t => t.1 = m.2.track).map (·.2)
      else (matchFrame (trackParams s c) (fun _ => none) live x.2.1.seq (entriesOf s x.2.2 x.1)).map
        fun p => { p with motion := true }
    (x.1, x.2.1, x.2.2, ps)
  let s := ms.foldl (fun s x => x.2.2.2.foldl (fun s p =>
    let s := editEntry x.2.2.1 x.1 p.entry (fun e => { e with track := BitVec.ofNat 32 p.track }) s
    if p.motion then { s with trk := { s.trk with motion := (x.1, p.entry) :: s.trk.motion } } else s) s) s
  let s := ms.foldl (fun s x =>
    if isLatest s x.2.1.ctx.toNat x.1 then s
    else { s with trk := { s.trk with
      motion := ((List.range (entriesOf s x.2.2.1 x.1).length).map fun j => (x.1, j)) ++ s.trk.motion } }) s
  let s := ms.foldl (fun s x =>
    let c := x.2.1.ctx.toNat
    (tracksOf s c).foldl (fun s t =>
      missTrack (x.2.2.2.any fun p => p.track = t.1) (trackParams s c).maxMiss x.2.1.seq t.1 s) s) s
  let grown := sortBy (fun a b => decide (a.1 ≤ b.1)) (ms.flatMap fun x => x.2.2.2.filterMap fun p =>
    (findAt p.track s.trk.tracks).map fun t => (t.created.toNat, x, p))
  let s := grown.foldl (fun s g =>
    let x := g.2.1
    match (entriesOf s x.2.2.1 x.1)[g.2.2.entry]? with
    | some d => growTrack (trackParams s x.2.1.ctx.toNat) x.2.1.seq g.2.2 d s
    | none => s) s
  ms.foldl (fun s x =>
    let a := trackParams s x.2.1.ctx.toNat
    let es := entriesOf s x.2.2.1 x.1
    ((List.range es.length).zip es).foldl (fun s e =>
      if !fpLt (ofWord e.2.score) (ofWord a.joinScore) && !isNan (ofWord e.2.score) && e.2.track == 0x1FFFF
          && !e.2.flags.getLsbD 2 then
        joinEntry a x.2.2.1 x.1 e.1 x.2.1 e.2 s
      else s) s) s

/-- Positions of the round. -/
def positionsOf (s : State) : Nat := ((listedStreams s).map fun c => (analysedFrames s c).length).foldl max 0

def applyOp (predicted : List Predicted) (s : State) : State :=
  let net := networkMatches s predicted
  (List.range (positionsOf s)).foldl (fun s q => applyStep net q s) s

def execApply (lists : List RecList) (predicted : List Predicted) (s : State) : Res :=
  .next (match trackRuns s 2 with
    | none => s
    | some _ =>
      let s := applyOp predicted { s with trk := { s.trk with lists := mergeLists s.trk.lists lists } }
      { s with trk := { s.trk with busy := false } })

/-- Every track of a stream leaves (R243). -/
def dropTracks (c : Nat) (s : State) : State := (tracksOf s c).foldl (fun s t => leaveTrack t.1 s) s

/-- The unused headroom of R236, counted anew from reservations and shared entries. -/
def refreshHeadroom (s : State) : State :=
  let reserved := ((s.streams.filter fun e => holds e.2.state).map fun e =>
    let a := trackParams s e.1
    a.trackCap * (if a.trackCap = 0 then 0 else a.histMin)).foldl (· + ·) 0
  let shared := (s.trk.tracks.map fun t => (t.2.hist.filter (·.2)).length).foldl (· + ·) 0
  { s with trk := { s.trk with headroom := 0x80000 - reserved - shared } }

/-! ## Records (R247 to R250) -/

/-- A coordinate with 2 fractional bits. -/
def coord16 (x : Word) : Nat :=
  match mulExact (ofWord x) (fpNat 4) with
  | .fin n m e => (max 0 (min 65535 (nearestInt n m e))).toNat
  | .inf n => if n then 0 else 65535
  | .nan => 0

/-- One observation record before its egress. -/
structure ObsRec where
  status : Nat
  rflags : Nat := 0
  net : Nat := 0xFFFF
  index : Nat := 0
  count : Nat := 0
  box : List Word := []
  cls : Nat := 0
  conf : Nat := 0
  track : Nat := 0x1FFFF
  hits : Nat := 0
  fused : Bool := false
  ext : Option Extension := none
  deriving DecidableEq, Repr

/-- The UTF-8 bytes of a plate: an entry of the image's character table for each class index, as long as whole
characters fit into the 32 bytes of R250 (notes/assumptions/45.md). -/
def plateText (table : List (List Byte)) (characters : List Nat) : List Byte :=
  characters.foldl (fun t i =>
    let ch := (table.getD i []).takeWhile fun b => b != 0
    if t.length + ch.length ≤ 32 then t ++ ch else t) []

/-- A confidence of a frame's records: multiplied by TAINT_WEIGHT / 256 where the frame's report carries TAINTED, rounded
down (R134). -/
def weighted (s : State) (f : FrameRec) (conf : Nat) : Nat :=
  if f.report.causes.getLsbD 5 then conf * s.taintWeight.toNat / 256 else conf

/-- KIND, LEN and PAYLOAD of an extension record (R250). -/
def extPayload (s : State) (f : FrameRec) (net : Nat) (e : Extension) : List Byte :=
  match e with
  | .plate characters lowest mean =>
    let t := plateText ((netAt s net).elim [] (·.chars)) characters
    [1, BitVec.ofNat 8 t.length] ++ padTo 32 t ++ leBytes 2 (weighted s f lowest.toNat) ++ leBytes 2 (weighted s f mean.toNat)
      ++ padTo 12 (leBytes 1 characters.length)
  | .event cls conf values =>
    let n := min 44 (((netAt s net).bind (·.event)).elim 0 (·.2))
    [2, BitVec.ofNat 8 (4 + n)] ++ leBytes 2 cls.toNat ++ leBytes 2 (weighted s f conf.toNat) ++ padTo 44 (padTo n values)

/-- The bytes of a record (R248); PHASE, EXT_FOLLOWS, LATE, AGE and WAIT are filled in at egress. -/
def obsBytes (s : State) (f : FrameRec) (o : ObsRec) : List Byte :=
  let conf := weighted s f o.conf
  let sheaf := (streamAt s f.ctx.toNat).sheaf.getD 0
  [1, 0] ++ leBytes 2 f.ctx.toNat ++ leBytes 4 f.ts.toNat ++ leBytes 8 f.capture.toNat ++ leBytes 4 f.seq
    ++ leBytes 4 (f.report.outcome.toNat + 256 * f.report.causes.toNat + 65536 * f.report.coverage.toNat
        + 0x1000000 * f.flags.toNat)
    ++ [BitVec.ofNat 8 o.status, BitVec.ofNat 8 o.rflags] ++ leBytes 2 o.net ++ leBytes 2 o.index ++ leBytes 2 o.count
    ++ (List.range 4).flatMap (fun i => leBytes 2 (if o.box.isEmpty then 0 else coord16 (o.box.getD i 0)))
    ++ leBytes 2 o.cls ++ leBytes 2 conf ++ leBytes 4 o.track ++ List.replicate 8 0 ++ leBytes 4 s.bell.roundSeq.toNat
    ++ leBytes 2 o.hits ++ leBytes 2 (sheaf + 512 * b2n o.fused)

/-- An extension record (R250). -/
def extBytes (s : State) (f : FrameRec) (o : ObsRec) (e : Extension) : List Byte :=
  [2, 0] ++ leBytes 2 f.ctx.toNat ++ leBytes 4 f.ts.toNat ++ leBytes 4 f.seq ++ leBytes 2 o.index
    ++ extPayload s f o.net e

/-- The identity that an entry's record gives: of a network that is not tracked and reads regions of tracked boxes, the
region's box TRACK (R247). -/
def entryTrack (s : State) (c i n : Nat) (d : BoxEntry) : Nat :=
  let up := (netAt s n).elim 0xFFFF (·.upstream)
  match d.region with
  | some r =>
    if tracked s c = some up ∧ tracked s c ≠ some n then ((entriesOf s up i)[r]?).elim 0x1FFFF fun u => u.track.toNat
    else d.track.toNat
  | none => d.track.toNat

/-- The record of one record-list entry. -/
def objectRec (s : State) (i n j : Nat) (mask : Nat) (fused : Bool) (d : BoxEntry) : ObsRec :=
  let c := ((listed s i).elim 0 fun f => f.ctx.toNat)
  let lost := !fused && noStep s c && decide (tracked s c = some n)
  let track := if fused || lost then 0x1FFFF else entryTrack s c i n d % 0x20000
  let newTrack := !fused && s.trk.joined.contains (i * 0x20000 + track)
  { status := 0
    rflags := 2 * b2n (s.trk.motion.contains (i, j) && decide (tracked s c = some n)) + 4 * b2n newTrack
      + 8 * b2n (d.flags.getLsbD 2 || lost) + 32 * b2n (d.flags.getLsbD 1)
    net := n
    box := entryBox d
    cls := d.cls.toNat
    conf := unorm16 d.score
    track := track + 0x1000000 * mask
    hits := (findAt track s.trk.tracks).elim 0 fun t => t.hits.toNat
    fused := fused
    ext := d.ext }

/-- A network whose image writes records that EMIT builds from. -/
def writesRecords (s : State) (n : Nat) : Bool := (netAt s n).any fun v => decide (0 < v.recCap)

/-- Object records of frame `i`: networks in ascending handle, entries in list order, a fused set's records with its
first frame (R245). -/
def objectsOf (s : State) (i : Nat) (f : FrameRec) : List ObsRec :=
  let base := s.bell.frameList.length
  let sets := ((List.range s.bell.fused.length).zip s.bell.fused).filter fun e =>
    (e.2.2.head?).any fun g => g.ctx == f.ctx && g.seq == f.seq
  let nets := insNats (s.trk.lists.map fun l => l.net.toNat) []
  nets.flatMap fun n =>
    let own := if analysedOn s n i && !f.skipped.contains n && writesRecords s n then
        let es := entriesOf s n i
        ((List.range es.length).zip es).map fun e => objectRec s i n e.1 0 false e.2
      else []
    let fused := sets.flatMap fun e =>
      if (getAt ({} : Sheaf) e.2.1 s.sheaves).network = n ∧ analysedOn s n (base + e.1) ∧ writesRecords s n then
        let sh := getAt ({} : Sheaf) e.2.1 s.sheaves
        let mask := ((List.range 8).filter fun k =>
          e.2.2.any fun g => memberEntry sh g.ctx.toNat == some k).foldl (fun a k => a + 2 ^ k) 0
        (entriesOf s n (base + e.1)).map fun d => objectRec s i n 0 mask true d
      else []
    own ++ fused

/-- Records of a frame skipped on its tracked network: one per live track (R241). -/
def extrapolated (s : State) (f : FrameRec) : List ObsRec :=
  match tracked s f.ctx.toNat with
  | none => []
  | some n =>
    if f.skipped.contains n && passedOn f && !f.notAnalysed then
      (tracksOf s f.ctx.toNat).map fun t =>
        { status := 5, net := n, box := predictBox t.2 f.seq, cls := t.2.cls.toNat, conf := t.2.conf.toNat
          track := t.1, hits := t.2.hits.toNat }
    else []

/-- Networks of the stream that take the frame itself as a row. -/
def frameNets (s : State) (f : FrameRec) : List Nat :=
  (streamAt s f.ctx.toNat).ad.networks.filter fun n => isRole s 0 n

/-- STATUS of a frame that gives no object (R241, R249). -/
def emptyStatus (s : State) (i : Nat) (f : FrameRec) : Nat :=
  match f.report.outcome.toNat with
  | 2 => 4
  | 3 => 4
  | 4 => 4
  | 6 => 4
  | 5 => 3
  | 7 => 2
  | 8 => 1
  | _ =>
    if !f.covered then 3
    else if f.notAnalysed then 1
    else
      let nets := (frameNets s f).filter fun n => !f.skipped.contains n
      if nets.any fun n => (rowsOfFrame s n i).any (·.poison) then 2
      else if nets.any fun n => (rowsOfFrame s n i).isEmpty || s.bell.deadNets.contains n then 1
      else if f.gated || !f.skipped.isEmpty then 6
      else 0

/-- The instant from which a record's age counts: the earliest completion of a fused set's frames, or the frame's own. -/
def bornOf (s : State) (f : FrameRec) (o : ObsRec) : Nat :=
  if o.fused then
    (s.bell.fused.filter fun e => (e.2.head?).any fun g => g.ctx == f.ctx && g.seq == f.seq).foldl
      (fun a e => e.2.foldl (fun b g => min b g.doneAt) a) f.doneAt
  else f.doneAt

/-- The records of one frame enter egress (R247). -/
def emitFrame (i : Nat) (f : FrameRec) (s : State) : State :=
  let recs := objectsOf s i f ++ extrapolated s f
  let recs := ((List.range recs.length).zip recs).map fun e => { e.2 with index := e.1, count := recs.length }
  let recs := if recs.isEmpty then [{ status := emptyStatus s i f }] else recs
  recs.foldl (fun s o =>
    enqueueRecord f.ctx.toNat (obsBytes s f o) (some (bornOf s f o)) (o.ext.map fun e => extBytes s f o e) s) s

/-- EMIT over the round's frame list; a replay of its slot gives no record twice. -/
def emitAll (s : State) : State :=
  if s.bell.emitRan then s
  else
  let s := ((List.range s.bell.frameList.length).zip s.bell.frameList).foldl (fun s e => emitFrame e.1 e.2 s) s
  { s with bell := { s.bell with emitRan := true } }

def execEmit (lists : List RecList) (s : State) : Res :=
  .next (match trackRuns s 3 with
    | none => s
    | some _ =>
      let s := emitAll { s with trk := { s.trk with lists := mergeLists s.trk.lists lists } }
      lastRecordSweep { s with trk := { s.trk with busy := false } })

end Sys2Proof.Machine
end

