-- ==== Sys2Proof/Machine/Boundary.lean ====
section
/-! DEFINITION. Machine/Boundary.lean: round boundaries (R63, R203, R204, R246, R315, R318), changes that wait for a
timetable (R21, R50), timetable areas and their check (R202), scrub and error injection in the fallow slot, engine retirement (R80). -/

namespace Sys2Proof.Machine

/-! ## The timetable check (R202) -/

/-- Round length and region ends with the round settings that the marked changes bring. -/
def plannedSet (s : State) : RoundSet :=
  s.bell.changes.foldl (fun r c => match c.kind with
    | .round len res lock jit =>
      if c.included then { len := BitVec.ofNat 2 len, reserve := res, locked := lock, jitter := BitVec.ofNat 8 jit } else r
    | _ => r) s.bell.set
def plannedLen (s : State) : Nat := roundLen { s with bell := { s.bell with set := plannedSet s } }
def fallowStart (s : State) : Nat := plannedLen s - 62500
def workEnd (s : State) : Nat := fallowStart s - (if (plannedSet s).reserve then 750000 else 0)

/-- Rule 1. -/
def slotCrcBad (w : BitVec 4096) : Bool :=
  crc32c ((leBytes 512 w.toNat).take 508) != BitVec.ofNat 32 (slotBits w 4095 4064)

/-- An entry of a table that is filled. -/
def filled {n : Nat} (l : List (BitVec n)) (i : Nat) : Bool := l.getD i 0 != 0

/-- Rule 2. -/
def slotFieldBad (c : AreaContent) (w : BitVec 4096) : Bool :=
  let k := slotKind w
  let group (g : Nat) : Bool :=
    let f := slotGroup w g
    f % 4 == 3 || bitsOf f 7 2 != 0 || bitsOf f 31 28 != 0 || bitsOf f 63 56 != 0 || bitsOf f 127 80 != 0
  let dma (i : Nat) : Bool :=
    let f := slotDma w i
    decide (1 < f % 4) || bitsOf f 7 2 != 0 || bitsOf f 63 56 != 0 || (f % 4 == 1 && !filled c.dma (bitsOf f 31 8))
  let crop (g : Nat) : Bool :=
    let f := slotCrop w g
    bitsOf f 7 1 != 0 || (f % 2 == 1 && !filled c.crops (bitsOf f 31 16))
  let t := slotTrack w
  let serves := k == 0 && (slotUnits id w).any fun u => u != .track
  decide (3 < k) || slotBits w 31 30 != 0 || slotBits w 63 60 != 0 || slotBits w 127 105 != 0 || slotBits w 4063 3840 != 0
    || (k != 1 && slotBits w 104 80 != 0) || (k != 0 && slotWake w != 0)
    || decide (3 < t % 16) || bitsOf t 7 4 != 0 || bitsOf t 63 56 != 0
    || (List.range 16).any (fun g => group g || dma g || crop g) || (serves && !filled c.rowMaps (slotBatch w))

/-- Rule 3: slot `i`, the slot before it, and whether it is the last. -/
def slotOrderBad (r : Nat) (prev : Option (BitVec 4096)) (last : Bool) (w : BitVec 4096) : Bool :=
  (match prev with | some p => decide (slotStart w < slotStart p + 2) | none => false)
    || (last != (slotKind w == 3)) || (last && slotStart w != r)

/-- FINISH of every action of a slot. -/
def slotFinishes (w : BitVec 4096) : List Nat :=
  ((List.range 16).filterMap fun g => if groupAction (slotGroup w g) = 1 then some (groupFinish (slotGroup w g)) else none)
    ++ ((List.range 16).filterMap fun g => if slotCrop w g % 2 = 1 then some (groupFinish (slotGroup w g)) else none)
    ++ ((List.range 16).filterMap fun c => if slotDma w c % 4 = 1 then some (bitsOf (slotDma w c) 55 32) else none)
    ++ (if slotTrack w % 16 = 0 then [] else [bitsOf (slotTrack w) 55 32])

/-- Rule 4; `rest` the slots after this one. -/
def slotRegionBad (work fallow r : Nat) (rest : List (BitVec 4096)) (w : BitVec 4096) : Bool :=
  let st := slotStart w
  let runs := (List.range 16).any (fun g => groupAction (slotGroup w g) = 1 ∨ slotCrop w g % 2 = 1) || slotTrack w % 16 != 0
  let moves := slotWake w != 0 || (List.range 16).any fun g => groupAction (slotGroup w g) = 2 ∨ slotDma w g % 4 = 1
  let next := rest.find? fun v => slotKind v = 0 ∨ slotKind v = 2
  slotClass w != 0 || (runs && (decide (st < 125000) || decide (work ≤ st))) || (moves && decide (work ≤ st))
    || (slotKind w == 2 && (decide (st < fallow) || decide (r ≤ st)))
    || ((slotFinishes w).any fun f => decide (fallow ≤ st + f))
    || (slotKind w == 1 && (match next with | some v => decide (slotStart v < slotGapEnd w) | none => false))

/-- Rule 5: each core that a RUN names was woken 10,000 fc before, with no SLEEP between; `before` the slots ahead of
this one, latest first. -/
def slotWakeBad (before : List (BitVec 4096)) (w : BitVec 4096) : Bool :=
  (slotCores id w 1).any fun c =>
    let since := before.takeWhile fun v => !(slotCores id v 2).contains c
    !since.any fun v => (slotWake v).testBit (c / 8) && decide (slotStart v + 10000 ≤ slotStart w)

/-- Rule 6. -/
def slotRetiredBad (s : State) (w : BitVec 4096) : Bool :=
  ((slotCores id w 1 ++ slotCores id w 2).any fun c => (coreAt s c).retired)
    || (slotUnits id w).any fun u => match u with | .crop n => (coreAt s n.toNat).retired | _ => false

/-- The first slot that breaks a rule, with the number of slots before it. -/
def firstSlot (bad : List (BitVec 4096) → BitVec 4096 → List (BitVec 4096) → Bool) :
    List (BitVec 4096) → List (BitVec 4096) → Option Nat
  | _, [] => none
  | before, w :: r => if bad before w r then some before.length else firstSlot bad (w :: before) r

/-- The first rule of R202 that an area breaks: number of the rule and slot. -/
def areaFault (s : State) (c : AreaContent) : Option (Nat × Nat) :=
  let r := plannedLen s
  let rules : List (List (BitVec 4096) → BitVec 4096 → List (BitVec 4096) → Bool) := [
    fun _ w _ => slotCrcBad w,
    fun _ w _ => slotFieldBad c w,
    fun b w rest => slotOrderBad r b.head? rest.isEmpty w,
    fun _ w rest => slotRegionBad (workEnd s) (fallowStart s) r rest w,
    fun b w _ => slotWakeBad b w,
    fun _ w _ => slotRetiredBad s w]
  if c.slots.isEmpty then some (3, 0)
  else ((List.range 6).zip rules).findSome? fun e => (firstSlot e.2 [] c.slots).map fun i => (e.1 + 1, i)

/-- An area that fails is freed: CHECK_FAIL, FAIL_SLOT, the GLB cause and a record. -/
def failArea (area : BitVec 2) (rule slot : Nat) (s : State) : State :=
  let s := recordFault { code := BitVec.ofNat 16 (0x10F + rule), scope := 0, unit := unitCode 5 0
                         body := leBytes 4 area.toNat ++ leBytes 2 slot } s
  updateWire (hwSet 0x80008 6 { s with bell := { s.bell with
    areas := dropAt area.toNat s.bell.areas, checkFail := true, failSlot := BitVec.ofNat 16 slot } })

/-- NEXT is given up: its changes wait for another timetable (R21). -/
def dropNext (s : State) : State :=
  { s with bell := { s.bell with
    next := { s.bell.next with state := 0 }
    changes := s.bell.changes.map fun c => { c with included := false } } }
def dropStandby (s : State) : State :=
  { s with bell := { s.bell with standby := { s.bell.standby with state := 0 } } }

/-- TIMETABLE_CHECK_COMPLETE: the area becomes ready, or is freed. -/
def execTimetableCheckComplete (standby : Bool) (s : State) : Res :=
  let mine := if standby then s.bell.standby else s.bell.next
  .next (if mine.state != 2 then s
    else match areaFault s (areaAt s mine.area) with
      | none =>
        if standby then { s with bell := { s.bell with standby := { mine with state := 3 } } }
        else { s with bell := { s.bell with next := { mine with state := 3 } } }
      | some (rule, slot) =>
        let s := failArea mine.area rule slot s
        if standby then dropStandby s else dropNext s)

/-- The lists that R79 would shed in each class below the current one, down to 64 cores (R80). -/
def classLists : Nat → State → List (List (BitVec 12))
  | 0, _ => []
  | k + 1, s =>
    let down := nextClassDown s
    if 64 ≤ coresLeft down then (shedList down).map (BitVec.ofNat 12) :: classLists k down else []

/-- The lowest area that is neither ACTIVE nor NEXT. -/
def spareArea (s : State) : BitVec 2 :=
  (([0, 1, 2] : List (BitVec 2)).find? fun a =>
    a != s.bell.active && (s.bell.next.state == 0 || a != s.bell.next.area)).getD 2

/-- STANDBY_REBUILD: Bailiff draws up its shed lists for the classes below and starts to write an area as STANDBY (R80,
R202), which is not ready until it has been marked complete and checked. -/
def execStandbyRebuild (s : State) : Res :=
  let lists := classLists 8 s
  .next (if lists.isEmpty || s.bell.standby.state == 2 then s
    else { s with bell := { s.bell with
      standbyShed := lists.headD []
      shedLists := lists.drop 1
      areas := (if s.bell.standby.state = 3 then dropAt s.bell.standby.area.toNat s.bell.areas else s.bell.areas)
      standby := { state := 1, area := if s.bell.standby.state = 0 then spareArea s else s.bell.standby.area } } })

/-! ## Changes (R21, R50) -/

/-- A change begins to wait: NEXT is being written. -/
def addChange (c : Change) (s : State) : State :=
  { s with bell := { s.bell with
    changes := s.bell.changes ++ [c]
    next := if s.bell.next.state = 0 then { s.bell.next with state := 1 } else s.bell.next } }

/-- Changes that satisfy `p` are dropped. -/
def dropChanges (p : Change → Bool) (s : State) : State :=
  { s with bell := { s.bell with changes := s.bell.changes.filter fun c => !p c } }

/-- A command that waits for the records of a stream's earlier state (R49, R52). -/
def waitLast (cmd : BitVec 6 × BitVec 16) (s : State) : State :=
  { s with cmd := { s.cmd with outstanding := s.cmd.outstanding.map fun o =>
    if o.ring = cmd.1 ∧ o.tag = cmd.2 ∧ o.cause = .boundary then { o with cause := .lastRecord s.bell.roundSeq } else o } }

/-- The records of a stream that wait are those of its earlier state: the reply that tells the new state comes after them
(R52). -/
def markOld (c : Nat) (s : State) : State :=
  let n := (streamAt s c).op.mr.toNat
  let mark (l : List QRec) : List QRec := l.map fun q => if q.ctx.toNat = c then { q with old := true } else q
  let m := mrAt s n
  let d := destAt s n
  let s := if m.queue.isEmpty then s else setMr n { m with queue := mark m.queue } s
  if d.queue.isEmpty then s else setDest n { d with queue := mark d.queue } s

/-- The multicast group of a stream is joined when it is admitted (R40, R91). -/
def joinGroup (c : Nat) (s : State) : State :=
  let op := (streamAt s c).op
  if op.multicast && decide (op.source < 2) then
    let p := portAt s op.source
    let g := (op.dstIp, op.srcIp)
    if p.groups.contains g then s
    else sendControl op.source (.membership op.dstIp op.srcIp true (legacyQuerier s op.source op.ipv6))
      (setPort op.source { p with groups := p.groups ++ [g] } s)
  else s

/-- The decode and preparation engines of a stream go on when it is bound to them (R323). -/
def wakeEngines (c : Nat) (s : State) : State :=
  let e := (streamAt s c).ad.engine
  wakeDomain (168 + e / 2) (wakeDomain (128 + e) s)

/-- A pending admission takes effect: ADMITTED in this round, counts of the new life, its history reservation. -/
def admitNow (c : Nat) (cmd : Option (BitVec 6 × BitVec 16)) (s : State) : State :=
  let st := streamAt s c
  let a := trackParams s c
  let s := setStream c { st with
    ad := { st.ad with round := s.bell.roundSeq, order := s.bell.admitCount }
    shedRank := st.ad.rank
    cnt := { st.cnt with frameSeq := 0 }
    ro := { needBegin := true }
    clk := { lastDone := s.now }
    dec := {}
    ring := { st.ring with write := 0, entries := [] }
    histFree := a.trackCap * a.histMin } s
  let s := joinGroup c (transitionByReply c .admitted { wakeEngines c s with bell := { s.bell with admitCount := s.bell.admitCount + 1 } })
  match cmd with
  | some k => lastRecordCheck c (waitLast k (markOld c s))
  | none => s

/-- A stream is closed at this boundary (R49): clips end, the flow entry and what it holds are freed; its multicast group
is left where it held a reservation (R40). -/
def closeNow (c : Nat) (cmd : Option (BitVec 6 × BitVec 16)) (s : State) : State :=
  let held := holds (streamAt s c).state
  let s := endClipsOf c 3 s
  let s := giveUp held c (transitionByReply c .closed (removeFlow c s))
  let s := setStream c { streamAt s c with keys := [], replaySeen := [], rtcpSeen := [] } s
  match cmd with
  | some k => lastRecordCheck c (waitLast k s)
  | none => s

/-- Answers the command of a change with ST_OK and the round. -/
def answerChange (cmd : Option (BitVec 6 × BitVec 16)) (s : State) : State :=
  match cmd with
  | some k => finish k { round := s.bell.roundSeq } s
  | none => s

/-- A change takes effect; the streams that leave hard in it are marked by `leftHard`. -/
def applyChange (c : Change) (s : State) : State :=
  match c.kind with
  | .admission x => admitNow x.toNat c.cmd s
  | .close x => closeNow x.toNat c.cmd s
  | .shed x => shedStream x.toNat 1 s
  | .sheafDefine n =>
    let sh : Sheaf := getAt {} n s.sheaves
    let live := sh.members.filter fun m => holds (streamAt s m.toNat).state && (streamAt s m.toNat).sheaf.isNone
    if live.length < 2 then
      let s := { s with sheaves := dropAt n s.sheaves }
      (match c.cmd with | some k => finish k (failWith 0x304 0) s | none => s)
    else
      answerChange c.cmd (live.foldl (fun s m => setStream m.toNat { streamAt s m.toNat with sheaf := some n } s)
        { s with sheaves := putAt n { sh with members := live } s.sheaves })
  | .sheafDissolve n =>
    let sh : Sheaf := getAt {} n s.sheaves
    let s := sh.members.foldl (fun s m =>
      let st := streamAt s m.toNat
      if st.sheaf = some n then setStream m.toNat { st with sheaf := none } s else s) s
    answerChange c.cmd { s with sheaves := dropAt n s.sheaves }
  | .round len res lock jit =>
    answerChange c.cmd { s with bell := { s.bell with set :=
      { len := BitVec.ofNat 2 len, reserve := res, locked := lock, jitter := BitVec.ofNat 8 jit } } }
  | .windows x w =>
    let st := streamAt s x.toNat
    if holds st.state then setStream x.toNat { st with clk := { st.clk with charged := some w } } s else s
  | .unlocked x =>
    let st := streamAt s x.toNat
    setStream x.toNat { st with clk := { st.clk with charged := none } } s
  | .rebind x e =>
    let st := streamAt s x.toNat
    wakeEngines x.toNat (setStream x.toNat { st with ad := { st.ad with engine := e } } s)
  | .retire kind i =>
    match kind with
    | .decode => setDec i { decAt s i with retired := true, retiring := false } s
    | .prep => setPrep i { prepAt s i with retired := true, retiring := false } s
    | .encode => setEnc i { encAt s i with retired := true, retiring := false } s

/-- The streams whose life ends at once with a change, or begins anew: frames that wait are not analysed (R49, R81). -/
def changeLeaves (c : Change) : List Nat :=
  match c.kind with
  | .close x => [x.toNat]
  | .shed x => [x.toNat]
  | .admission x => [x.toNat]
  | _ => []

/-- Every change that NEXT holds takes effect. -/
def applyChanges (s : State) : State :=
  let now := s.bell.changes.filter fun c => c.included
  now.foldl (fun s c => applyChange c s) (dropChanges (fun c => c.included) s)

/-- A pending admission is given up: what Roll Call placed for it is freed. -/
def undoAdmit (c : Nat) (s : State) : State := freePinned c (removeFlow c s)

/-- A pending admission that no longer fits is refused (R50, R84). -/
def refuseAdmission (c : Nat) (cmd : Option (BitVec 6 × BitVec 16)) (r : Reply) (s : State) : State :=
  let s := undoAdmit c (dropChanges (fun x => x.kind == ChangeKind.admission (BitVec.ofNat 12 c)) s)
  match cmd with
  | some k => finish k r s
  | none => s

/-- Pending admissions, the oldest first, each with its command. -/
def pendingAdmits (s : State) : List (Nat × Option (BitVec 6 × BitVec 16)) :=
  s.bell.changes.filterMap fun c => match c.kind with | .admission x => some (x.toNat, c.cmd) | _ => none

/-- R50: Roll Call runs again for every pending admission, the oldest first, against the reduced capacity with the streams
admitted and the older pending admissions that still fit (R84). -/
def recheckAdmissions (s : State) : State :=
  let pend := pendingAdmits s
  pend.foldl (fun s p =>
    let c := p.1
    let st := streamAt s c
    let cand : Load := { ctx := c, ad := st.ad, windows := none }
    let ns := st.ad.networks
    let before := (pend.map (·.1)).takeWhile (· != c)
    let older := (loadsBut s c).filter fun l => holds (streamAt s l.ctx).state || before.contains l.ctx
    if setPasses s (older ++ [cand]) then s
    else
      refuseAdmission c p.2 (match rollCall s older cand st.op ((List.range ns.length).zip ns) with
        | .refuse d r => { status := 0x300, detail := BitVec.ofNat 8 d, result := BitVec.ofNat 96 r }
        | .pass _ => failWith 0x300 3) s) s

/-! ## The frame list and the fused sets (R113, R246) -/

/-- A frame ended without reaching the networks: refused, not decoded, empty or poisoned. -/
def frameEnded (f : FrameRec) : Bool := f.stage == .decoded && !passedOn f

/-- Streams whose waiting frames are listed at this boundary: those of `left`, and any that is CLOSED or FAULTED. -/
def leftHard (s : State) (left : List Nat) (f : FrameRec) : Bool :=
  let c := f.ctx.toNat
  left.contains c || (streamAt s c).state == .closed || (streamAt s c).state == .faulted

/-- A frame as it is listed: one that leaves hard is not analysed, with outcome 8 if it was never decoded (R131). -/
def listFrame (s : State) (left : List Nat) (f : FrameRec) : FrameRec :=
  let hard := leftHard s left f
  let never := hard && f.stage == .waiting
  { f with
    stage := if f.stage == .waiting then .listed else f.stage
    notAnalysed := f.notAnalysed || (hard && (f.stage == .waiting || passedOn f))
    report := if never then { outcome := 8, causes := if f.flags.getLsbD 2 then 0x80 else 0, coverage := 0 } else f.report }

/-- Whether a frame is ready for the list of the round that starts. -/
def listable (s : State) (left : List Nat) (f : FrameRec) : Bool :=
  f.stage != .listed && (f.stage == .prepared || frameEnded f || leftHard s left f
    || decide (2 ≤ (s.bell.roundSeq - f.round).toNat))

/-- Whether a frame's records are produced in the round that starts: records keep the order of completion (R52), so a
frame waits for the earlier frames of its stream. -/
def isListed (s : State) (left : List Nat) (f : FrameRec) : Bool :=
  listable s left f && !s.frames.any fun g =>
    g.ctx == f.ctx && decide (g.seq < f.seq) && g.stage != .listed && !listable s left g

/-- The distance of two capture instants in NTP units. -/
def captureGap (a b : BitVec 64) : Nat := (if a.toNat ≤ b.toNat then b.toNat - a.toNat else a.toNat - b.toNat)

/-- tol of R113 in NTP units: half the smallest frame interval of the members, which is 500 s over the highest rate. -/
def fusedTol (s : State) (sh : Sheaf) : Nat :=
  500 * 2 ^ 32 / max 1 ((sh.members.map fun m => (streamAt s m.toNat).ad.frameRate).foldl max 0)

/-- A stream's capture mapping is known: a sender report has arrived within the last 60 s (R108). -/
def mappingKnown (s : State) (c : Nat) : Bool :=
  match (streamAt s c).clk.srAt with | some t => decide (s.now ≤ t + 75000000000) | none => false

/-- Expected members: RUNNING with a known capture mapping. -/
def expected (s : State) (sh : Sheaf) : List (BitVec 12) :=
  sh.members.filter fun m => (streamAt s m.toNat).state == .running && mappingKnown s m.toNat

/-- The earliest of some frames by a key, ties by context. -/
def earliest (key : FrameRec → Nat) : List FrameRec → Option FrameRec
  | [] => none
  | f :: r => match earliest key r with
    | none => some f
    | some g => if key f < key g ∨ (key f = key g ∧ f.ctx.toNat ≤ g.ctx.toNat) then some f else some g

/-- The nearest pending frame of member `m` within tol of `a`; ties: the earlier capture. -/
def nearestFrame (tol : Nat) (a : FrameRec) (m : BitVec 12) (pending : List FrameRec) : Option FrameRec :=
  earliest (fun f => 2 * captureGap f.capture a.capture + b2n (decide (a.capture.toNat < f.capture.toNat)))
    (pending.filter fun f => f.ctx == m && decide (captureGap f.capture a.capture ≤ tol))

/-- The loop of R113: the sets formed and the frames still pending. -/
def formSets (s : State) (sh : Sheaf) (tol : Nat) : Nat → List FrameRec → List (List FrameRec) × List FrameRec
  | 0, p => ([], p)
  | fuel + 1, p =>
    match earliest (fun f => f.capture.toNat) p with
    | none => ([], p)
    | some a =>
      let others := (expected s sh).filter fun m => m != a.ctx
      let got := others.filterMap fun m => nearestFrame tol a m p
      if got.length = others.length ∨ 4 ≤ (s.bell.roundSeq - a.round).toNat then
        let set := a :: got
        let t := formSets s sh tol fuel (p.filter fun f => !set.any fun g => g.ctx == f.ctx && g.seq == f.seq)
        (set :: t.1, t.2)
      else ([], p)

/-- Fused sets of the round, sheaf by sheaf; `listed` the frames listed now. -/
def fuseSheaves (listed : List FrameRec) (s : State) : State :=
  s.sheaves.foldl (fun s e =>
    let sh := e.2
    let live := sh.members.filter fun m => (streamAt s m.toNat).sheaf == some e.1
    if live.isEmpty then s
    else
      let fresh := listed.filter fun f => live.contains f.ctx && f.stage == .prepared && !f.flags.getLsbD 3
        && !f.notAnalysed
      let r := formSets s { sh with members := live } (fusedTol s { sh with members := live })
        (sh.pending.length + fresh.length) (sh.pending ++ fresh)
      { s with
        sheaves := putAt e.1 { sh with pending := r.2 } s.sheaves
        bell := { s.bell with fused := s.bell.fused ++ r.1.map fun x => (e.1, x) } }) s

/-- Writes the round's frame list and fused sets (R113, R246). A frame never decoded stays with the device until its
decode has run; of a stream that leaves, one whose picture an engine holds, which no boundary interrupts (R124): `held`. -/
def makeFrameList (held : List FrameRec) (left : List Nat) (s : State) : State :=
  let now := s.frames.filter (isListed s left)
  let l := now.map (listFrame s left)
  let inHand (f : FrameRec) : Bool := held.any fun g => g.ctx == f.ctx && g.seq == f.seq
  let gone (f : FrameRec) : Bool := f.stage != .waiting || (leftHard s left f && !inHand f)
  let rest := s.frames.filterMap fun f =>
    if isListed s left f then (if gone f then none else some { f with stage := .listed }) else some f
  let freed := now.filter gone
  let s := poolFree 3 (freed.flatMap (·.hostBlocks)) (poolFree 0 (freed.flatMap (·.blocks)) s)
  let never := l.filter fun f => f.report.outcome == 8
  let s := never.foldl (fun s f =>
    let st := streamAt s f.ctx.toNat
    setStream f.ctx.toNat { st with cnt := { st.cnt with notDecoded := satNat st.cnt.notDecoded 1 } } s) s
  fuseSheaves l { s with
    frames := rest
    bell := { s.bell with frameList := l, fused := [] } }

/-! ## Round boundary (R203) -/

/-- ROUND_SEQ after `r`. -/
def nextRound (r : Word) : Word := if r == 0xFFFFFFFE then 0 else r + 1

/-- Powered cores load from the new ACTIVE area (R200); one whose load fails is left not ready, and the first RUN that
names it hangs. -/
def reloadCores (s : State) : State :=
  ((s.cores.filter fun e => e.2.powered).map (·.1)).foldl (fun s n =>
    let r := coreLoad n s
    if r.1 then r.2 else setCore n { coreAt r.2 n with ready := false } r.2) s

/-- RETIRED bits of the cores decided since the last END slot (R318). -/
def applyCoreRetire (s : State) : State :=
  let l := s.bell.retireCores
  if l.isEmpty then s
  else classCheck (l.foldl (fun s n => retireCore n s) { s with bell := { s.bell with retireCores := [] } })

/-- A ready NEXT or STANDBY that names a retired core is freed (R202). -/
def recheckReady (s : State) : State :=
  let bad (r : AreaRole) : Option Nat :=
    if r.state = 3 then firstSlot (fun _ w _ => slotRetiredBad s w) [] (areaAt s r.area).slots else none
  let s := match bad s.bell.next with
    | some i => dropNext (failArea s.bell.next.area 6 i s)
    | none => s
  match bad s.bell.standby with
  | some i => dropStandby (failArea s.bell.standby.area 6 i s)
  | none => s

/-- Sheds streams at once with a DETAIL. -/
def shedAll (l : List Nat) (detail : Nat) (s : State) : State := l.foldl (fun s c => shedStream c detail s) s

/-- Steps 2 to 4 of R203, with R83 and R204: the area to run, and the streams that leave hard. With no standby ready, the
list is the one that the rebuild under way would hold: R79 against the capacity left. -/
def swapAreas (s : State) : State × List Nat :=
  if s.bell.retireDecided then
    let s := recheckReady (applyCoreRetire s)
    if s.bell.standby.state = 3 then
      let shed := s.bell.standbyShed.map (·.toNat)
      let areas := dropAt s.bell.active.toNat s.bell.areas
      let areas := if s.bell.next.state = 0 then areas else dropAt s.bell.next.area.toNat areas
      let s := { s with bell := { s.bell with
        active := s.bell.standby.area, areas, retireDecided := false, standbyShed := [], fallowOnly := false } }
      let s := dropNext (dropStandby s)
      (reloadCores (recheckAdmissions (shedAll shed 1 s)), shed)
    else
      let shed := if s.bell.fallowOnly then [] else shedList s
      let s := recheckAdmissions (shedAll shed 1 s)
      if s.bell.next.state = 3 then
        let leaves := (s.bell.changes.filter (·.included)).flatMap changeLeaves
        let s := { s with bell := { s.bell with
          areas := dropAt s.bell.active.toNat s.bell.areas
          active := s.bell.next.area, next := { s.bell.next with state := 0 }, retireDecided := false, fallowOnly := false
          standbyShed := [] } }
        (reloadCores (applyChanges s), shed ++ leaves)
      else
        let again := s.bell.next.state = 1 ∨ s.bell.next.state = 2
        ({ s with bell := { s.bell with
          fallowOnly := true, standbyShed := []
          repeats := (if again then satAddW s.bell.repeats 1 else s.bell.repeats) } }, shed)
  else if s.bell.next.state = 3 then
    let leaves := (s.bell.changes.filter (·.included)).flatMap changeLeaves
    let s := { s with bell := { s.bell with
      areas := dropAt s.bell.active.toNat s.bell.areas
      active := s.bell.next.area, next := { s.bell.next with state := 0 }, fallowOnly := false } }
    (reloadCores (applyChanges s), leaves)
  else if s.bell.next.state = 1 ∨ s.bell.next.state = 2 then
    ({ s with bell := { s.bell with repeats := satAddW s.bell.repeats 1 } }, [])
  else (s, [])

/-- OUT_OF_SERVICE at its first boundary (R315): every stream is shed, jobs and clips end, and commands that wait for a
timetable that no longer comes are answered. -/
def oosBoundary (s : State) : State × List Nat :=
  if !s.flt.oosPending then (s, [])
  else
    let all := (holders s).map (·.1)
    let s := shedAll all 4 { s with flt := { s.flt with oosPending := false } }
    let s := endJobs (failWith 0x202 0) s
    let s := ((s.clips.filter fun k => !k.ended).map fun k => (k.num, k.cflags.getLsbD 6)).foldl
      (fun s k => endClip k.1 (if k.2 then 1 else 3) 0 s) s
    let refuse := s.bell.changes.filter fun c => match c.kind with
      | .admission _ => true
      | .sheafDefine _ => true
      | _ => false
    let s := refuse.foldl (fun s c =>
      let s := match c.kind with
        | .admission x => undoAdmit x.toNat s
        | .sheafDefine n => { s with sheaves := dropAt n s.sheaves }
        | _ => s
      match c.cmd with | some k => finish k (failWith 0x202 0) s | none => s)
      (dropChanges (fun c => match c.kind with | .admission _ => true | .sheafDefine _ => true | _ => false) s)
    ({ s with bell := { s.bell with fallowOnly := true } }, all)

/-- Streams shed at a boundary without waiting for a timetable (R80, R82, R118): their earlier frames keep their rows. -/
def softSheds (s : State) : State :=
  s.bell.shedDue.foldl (fun s e => shedStream e.1.toNat e.2 s) { s with bell := { s.bell with shedDue := [] } }

/-- Self-tests of a whole test that ran in the round are answered at its end (R319). -/
def wholeTests (s : State) : State :=
  let done := s.tests.filter fun t => t.whole && decide (0 < t.rounds)
  done.foldl (fun s t =>
    let outcome := if t.retiredAny then 1 else if t.failedAny then 2 else 0
    finish (t.ring, t.tag) (okWith (outcome + 65536 * t.rounds + 2 ^ 32 * t.firstFail)) s)
    { s with tests := s.tests.filter fun t => !(t.whole && decide (0 < t.rounds)) }

/-- Per-round state of the sequencer, the tracker and the streams at fc 0 (R61, R203, R208). -/
def newRound (s : State) : State :=
  let s := startRounds s
  { s with
    bell := { s.bell with
      lastIssue := s.now - 1, layerSlot := 0, deadNets := [], deadOps := [], reported := [], rowMaps := [], noAssoc := false
      frameList := [], fused := [] }
    trk := { s.trk with lists := [], rowTracks := [], rowHist := [], joined := [], motion := [] }
    streams := mapAt (fun (st : Stream) => { st with clk := { st.clk with inRound := 0 } }) s.streams
    jobs := s.jobs.map fun j => { j with allowance := if j.slice = 0 then 0 else j.allowance + j.slice * 1250 } }

/-- Tracks of streams that hold no reservation leave (R243). -/
def leaveTracks (s : State) : State :=
  let gone := insNats ((s.trk.tracks.filter fun t => !holds (streamAt s t.2.ctx.toNat).state).map fun t => t.2.ctx.toNat) []
  refreshHeadroom (gone.foldl (fun s c => dropTracks c s) s)

/-- The loss of a pseudo-channel takes effect at a boundary (R283). -/
def substBoundary (s : State) : State := { s with mem := { s.mem with substPending := none } }

/-- The END slot can issue: rounds run, every slot ahead has issued and finished, the fallow slot has run its full
0.05 ms and its activities have ended (R63, R196), and no compute reset runs. -/
def boundaryDue (s : State) : Bool :=
  s.bell.running && s.flt.reset.isNone && s.bell.actions.isEmpty && !gapBusy s && s.bell.fallowDone
    && decide (s.bell.fallowEnd ≤ s.now) && decide (s.bell.lastIssue < s.now) &&
    (match nextSlot s with
      | some (_, w) => slotKind w == 3 && decide (s.bell.roundStart + slotStart w ≤ s.now)
      | none => decide (s.bell.roundStart + roundLen s ≤ s.now))

/-- Step 2 of a switch (R376): at the first END slot after step 1 Proctor holds the management cluster in reset. Step 1
ends when the running image has quiesced, or at its limit. -/
def switchBoundary (s : State) : State :=
  let took := min (Config.quiesceFc s.fw.triggerAt) 2000000
  if s.fw.step = 1 ∧ s.fw.triggerAt + took ≤ s.now then
    { s with fw := { s.fw with
      step := 2, clusterReset := true, quiesced := true, switchRound := s.bell.roundSeq,
      handover := decide (Config.quiesceFc s.fw.triggerAt ≤ 2000000) } }
  else s

/-- The pinned memory of streams that hold no reservation is released once none of their frames is decoded, prepared or
analysed any more (R20, R81). -/
def releaseLeft (s : State) : State :=
  let needed (c : Nat) : Bool := s.frames.any (fun f => f.ctx.toNat == c)
    || s.bell.frameList.any fun f => f.ctx.toNat == c && !f.notAnalysed && !f.inputs.isEmpty
  let gone := s.streams.filter fun e => !holds e.2.state && !(e.2.ad.pages.isEmpty && e.2.ad.granary4k == 0)
    && !(s.bell.changes.any fun x => x.kind == .admission (BitVec.ofNat 12 e.1)) && !needed e.1
  (gone.map (·.1)).foldl (fun s c => freePinned c s) s

/-- END is issued late (R196). -/
def endLate (s : State) : Bool :=
  match nextSlot s with
  | some (_, w) => decide (s.bell.roundStart + slotStart w < s.now)
  | none => decide (s.bell.roundStart + roundLen s < s.now)

/-- Everything of one boundary, in the order of R203. -/
def boundary (s : State) : State :=
  let s := { s with bell := { s.bell with lateIssue := satAdd s.bell.lateIssue (b2n (endLate s)) } }
  let s := switchBoundary (closeLayer (wholeTests s))
  let held := (List.range 32).filterMap (decHead s)
  let s := { s with bell := { s.bell with roundSeq := nextRound s.bell.roundSeq } }
  let o := oosBoundary (softSheds s)
  let w := swapAreas o.1
  let left := o.2 ++ w.2
  let s := newRound (substBoundary (sheafBoundary w.1))
  let s := releaseHeld (releaseLeft (makeFrameList held left s))
  let s := { s with bell := { s.bell with lastIssue := s.now, fallowOnly := s.bell.fallowOnly || s.flt.oos } }
  leaveTracks s

/-- ROUND_BOUNDARY. A failed claimed-tile check of the last layer is handled first (R231). -/
def execRoundBoundary (s : State) : Res :=
  .next (if !boundaryDue s then s
    else match failedCounter s with
      | some n => tileMissing n s
      | none =>
        let run (s : State) : State := lastRecordSweep (boundary s)
        match nextSlot s with
        | some (i, w) => fetchSlot i w run s
        | none => run s)

/-! ## Retirement decisions (R80, R318) -/

/-- A core's second failure, or the failure of a requested test: FC_CORE_RETIRED; the fall comes with the END slot. -/
def decideCore (n : Nat) (s : State) : State :=
  if (coreAt s n).retired || s.bell.retireCores.contains n then s
  else recordFault { code := 0x109, scope := 0, unit := unitCode 0 n }
    { s with bell := { s.bell with retireCores := insNat n s.bell.retireCores, retireDecided := true } }

/-- A decode or preparation engine is RETIRING; an encode engine without a clip is retired at once. -/
def decideEngine (kind : VideoKind) (i : Nat) (s : State) : State :=
  match kind with
  | .decode =>
    let v := decAt s i
    if v.retired || v.retiring then s
    else recordFault { code := 0x10A, scope := 0, unit := unitCode 6 i } (setDec i { v with retiring := true } s)
  | .prep =>
    let v := prepAt s i
    if v.retired || v.retiring then s
    else recordFault { code := 0x10A, scope := 0, unit := unitCode 7 i } (setPrep i { v with retiring := true } s)
  | .encode =>
    let v := encAt s i
    if v.retired || v.retiring then s
    else recordFault { code := 0x10A, scope := 0, unit := unitCode 8 i }
      (setEnc i (if v.clip.isNone then { v with retired := true } else { v with retiring := true }) s)

/-- The rebinding of R80: each stream that finds an engine is rebound; when none of the others does, the first of them in
shedding order is shed and the rest are tried again. -/
def rebind (s : State) : Nat → List (Nat × Stream) → List Load → List ChangeKind
  | 0, _, _ => []
  | fuel + 1, todo, loads =>
    match todo.findSome? fun e =>
        match bindStream s (loads.filter fun l => l.ctx != e.1) { ctx := e.1, ad := e.2.ad, windows := e.2.clk.charged } with
        | .found k => some (e, k)
        | _ => none with
    | some (e, k) =>
      let loads := loads.map fun l => if l.ctx = e.1 then { l with ad := { l.ad with engine := k } } else l
      .rebind (BitVec.ofNat 12 e.1) k :: rebind s fuel (todo.filter fun x => x.1 != e.1) loads
    | none => match firstToShed todo with
      | none => []
      | some e => .shed (BitVec.ofNat 12 e.1)
          :: rebind s fuel (todo.filter fun x => x.1 != e.1) (loads.filter fun l => l.ctx != e.1)

/-- Whether an engine number is one that a retiring engine serves. -/
def servedBy (kind : VideoKind) (i e : Nat) : Bool :=
  match kind with
  | .decode => e == i
  | .prep => e / 2 == i
  | .encode => false

/-- Streams bound to an engine, oldest admission first. -/
def boundTo (s : State) (kind : VideoKind) (i : Nat) : List (Nat × Stream) :=
  let mine := (holders s).filter fun e => servedBy kind i e.2.ad.engine
  sortBy (fun a b => shedBefore { fst := b.1, snd := { b.2 with shedRank := 0 } } { fst := a.1, snd := { a.2 with shedRank := 0 } }) mine

def isRetiring (s : State) (kind : VideoKind) (i : Nat) : Bool :=
  match kind with
  | .decode => (decAt s i).retiring
  | .prep => (prepAt s i).retiring
  | .encode => false

/-- The loads once the changes of bindings and the sheds of a list have taken effect. -/
def loadsAfter (ks : List ChangeKind) (loads : List Load) : List Load :=
  (loads.filter fun l => !ks.any fun k => k == .shed (BitVec.ofNat 12 l.ctx)).map fun l =>
    match ks.findSome? fun k => match k with
      | .rebind x e => if x.toNat = l.ctx then some e else none
      | _ => none with
    | some e => { l with ad := { l.ad with engine := e } }
    | none => l

/-- A pending admission bound to a retiring engine takes another binding, or is refused under R50 (R80, R84). -/
def rebindPending (kind : VideoKind) (i : Nat) (ks : List ChangeKind) (s : State) : State :=
  let pend := pendingAdmits s
  pend.foldl (fun s p =>
    let st := streamAt s p.1
    if !servedBy kind i st.ad.engine then s
    else
      let before := (pend.map (·.1)).takeWhile (· != p.1)
      let older := (loadsAfter ks (loadsBut s p.1)).filter fun l => holds (streamAt s l.ctx).state || before.contains l.ctx
      let refused (d t : Nat) : Reply :=
        { status := 0x300, detail := BitVec.ofNat 8 d, result := BitVec.ofNat 96 (u32 (ceilDiv t 3264)) }
      match bindStream s older { ctx := p.1, ad := st.ad, windows := none } with
      | .found e => setStream p.1 { st with ad := { st.ad with engine := e } } s
      | .decode t => refuseAdmission p.1 p.2 (refused 1 t) s
      | .prep t => refuseAdmission p.1 p.2 (refused 2 t) s) s

/-- ENGINE_REBIND: Bailiff writes the new bindings, the sheds and the retirement into a NEXT timetable. -/
def execEngineRebind (kind : VideoKind) (index : BitVec 5) (s : State) : Res :=
  let i := index.toNat
  .next (if !isRetiring s kind i || s.bell.changes.any (fun c => c.kind == ChangeKind.retire kind i) then s
    else
      let l := boundTo s kind i
      let ks := rebind s (2 * l.length + 1) l (loadsBut s 0x1000)
      (ks ++ [ChangeKind.retire kind i]).foldl (fun s k => addChange { kind := k } s) (rebindPending kind i ks s))

/-! ## The fallow slot (R46, R247, R276, R282, R317 to R319) -/

/-- Words with errors in the part of a memory of `size` bytes that is scrubbed this round, 64 KiB or 512 KiB of it. -/
def scrubWords (s : State) (size step : Nat) (errs : List Nat) : List Nat :=
  let k := s.bell.roundSeq.toNat % max 1 (size / step)
  errs.filter fun a => k * step ≤ a % size ∧ a % size < (k + 1) * step

/-- Scrub of the Granary banks and the powered cores (R282): only a word that holds an error is changed or reported. -/
def scrub (s : State) : State :=
  let g := (s.mem.dpa.syn.map (·.1)).filter fun a => granaryBase ≤ a
  let s := (scrubWords s 0x800000 0x80000 g).foldl (fun s a => (dpaReads 0 a 1 s).2) s
  ((s.cores.filter fun e => e.2.powered).map (·.1)).foldl (fun s n =>
    let c := coreAt s n
    let s := (scrubWords s 0x100000 0x10000 (c.act.syn.map (·.1))).foldl (fun s a => (coreReads n false a 1 s).2) s
    let s := (scrubWords s 0x80000 0x10000 (c.wgt.syn.map (·.1))).foldl (fun s a => (coreReads n true a 1 s).2) s
    let of (m : Nat) : List Nat := c.syn.filterMap fun e => if e.1 / 0x100000 = m then some (e.1 % 0x100000) else none
    let s := (scrubWords s 0x40000 0x10000 (of 4)).foldl (fun s a => (accRead n (a / 256) s).2) s
    let s := (of 5).foldl (fun s a => (scaleRead n a s).2.2) s
    (of 6).foldl (fun s a => (progWord 0 n (a / 16) s).2.2) s) s

/-- Bytes of each memory that MAINT_ERR_INJECT can name (R46). -/
def injectOk (s : State) (p : Packet) : Option Nat :=
  let m := param p 8 1
  let a := param p 16 8
  if m = 0 then (if dpaRegion a == .granary then none else some 16)
  else if m = 1 then (if dpaRegion a == .hbm then none else some 16)
  else if coreMemBytes.getD m 0 ≤ a then some 16
  else if (coreAt s (param p 12 1)).retired || !(coreAt s (param p 12 1)).powered then some 12
  else none

/-- Flips codeword bits of a core memory kept apart from its syndromes, or writes the marker. -/
def injectCore (n m a : Nat) (y : BitVec 7) (mask : Word) (marker : Bool) (s : State) : State :=
  let c := coreAt s n
  match m with
  | 2 => setCore n { c with act := injectMem c.act } s
  | 3 => setCore n { c with wgt := injectMem c.wgt } s
  | _ =>
    let c := setCoreSyn m a (if marker then 0x7F else coreSyn c m a ^^^ y) c
    let c := match m with
      | 4 =>
        let i := a / 256
        let k := a % 256 / 4
        let r := accRow c i
        { c with acc := putAt i { r with vals := (accVals r).set k ((accVals r).getD k 0 ^^^ mask) } c.acc }
      | 5 =>
        let sc := (List.range 4).foldl (fun t i =>
          putAt (a + i) (getAt 0 (a + i) t ^^^ mask.extractLsb' (8 * i) 8) t) c.scale
        { c with scale := sc }
      | _ =>
        let w := getAt 0 (a / 16) c.prog ^^^ BitVec.ofNat 128 (mask.toNat * 2 ^ (8 * (a % 16)))
        { c with prog := putAt (a / 16) w c.prog }
    setCore n c s
where
  injectMem (mm : Mem) : Mem :=
    if marker then memPutSyn mm a 0x7F
    else memPutWord mm a (memWord mm a ^^^ mask) (memSyn mm a ^^^ y)

/-- One injection: data bits to flip and the syndrome change. -/
def inject (p : Packet) (s : State) : State :=
  let m := param p 8 1
  let kind := param p 9 1
  let a := param p 16 8
  let bits := match kind with | 0 => [param p 10 1] | 1 => [param p 10 1, param p 11 1] | _ => []
  let mask : Word := bits.foldl (fun w b => if b < 32 then w ^^^ (1#32 <<< b) else w) 0
  let y : BitVec 7 := bits.foldl (fun v b =>
    v ^^^ (if b < 32 then BitVec.ofNat 7 (eccColumns.getD b 0) else BitVec.ofNat 7 (1 <<< (b - 32)))) 0
  if m < 2 then
    let phys := if dpaRegion a == .hbm then redirect s a else a
    let d := s.mem.dpa
    let d := if kind = 2 then memPutSyn d phys 0x7F else memPutWord d phys (memWord d phys ^^^ mask) (memSyn d phys ^^^ y)
    { s with mem := { s.mem with dpa := d } }
  else injectCore (param p 12 1) m a y mask (kind == 2) s

/-- The injections that waited for the fallow slot, each answered. -/
def injections (s : State) : State :=
  s.mem.inject.foldl (fun s e =>
    let p : Packet := { opcode := 0x82, flags := 0, tag := e.2.2, ctx := 0, length := 16, rsv := 0, params := e.1 }
    match injectOk s p with
    | some o => finish (e.2.1, e.2.2) (failWith 0x100 o) s
    | none => finish (e.2.1, e.2.2) (okWith s.bell.roundSeq.toNat) (inject p s))
    { s with mem := { s.mem with inject := [] } }

/-- The cores of a group that are in service. -/
def groupCores (s : State) (g : Nat) : List Nat :=
  ((List.range 8).map (8 * g + ·)).filter fun n => !(coreAt s n).retired && !s.bell.retireCores.contains n

/-- Engine number in the rotation over 32 decode, 16 preparation and 8 encode engines. -/
def engineOf (i : Nat) : VideoKind × Nat := if i < 32 then (.decode, i) else if i < 48 then (.prep, i - 32) else (.encode, i - 48)

def engineBusy (s : State) (k : VideoKind) (i : Nat) : Bool :=
  match k with
  | .decode => (decHead s i).isSome
  | .prep => (prepHead s i).isSome
  | .encode => (encAt s i).busy
def engineGone (s : State) (k : VideoKind) (i : Nat) : Bool :=
  match k with
  | .decode => (decAt s i).retired || (decAt s i).retiring
  | .prep => (prepAt s i).retired || (prepAt s i).retiring
  | .encode => (encAt s i).retired || (encAt s i).retiring
def engineFailed (s : State) (k : VideoKind) (i : Nat) : Bool :=
  match k with
  | .decode => (decAt s i).failed
  | .prep => (prepAt s i).failed
  | .encode => (encAt s i).failed
def setFailed (b : Bool) (k : VideoKind) (i : Nat) (s : State) : State :=
  match k with
  | .decode => setDec i { decAt s i with failed := b } s
  | .prep => setPrep i { prepAt s i with failed := b } s
  | .encode => setEnc i { encAt s i with failed := b } s
def engineUnit (k : VideoKind) (i : Nat) : BitVec 16 :=
  match k with
  | .decode => unitCode 6 i
  | .prep => unitCode 7 i
  | .encode => unitCode 8 i

/-! ### Requested tests (R319) -/

/-- Whether the unit of a test is retired already. -/
def testRetired (s : State) (t : TestReq) : Bool :=
  match t.test with
  | 0 => (groupCores s t.target).isEmpty
  | 1 => (coreAt s t.target).retired || s.bell.retireCores.contains t.target
  | 2 => (groupCores s t.segment).isEmpty
  | 3 => engineGone s .decode t.target
  | 4 => engineGone s .prep t.target
  | 5 => engineGone s .encode t.target
  | _ => false

end Sys2Proof.Machine
end

