-- ==== Sys2Proof/Machine/Dma.lean ====
section
/-! DEFINITION. Machine/Dma.lean: how DMA engines move granules (R230, R285 to R292, R346), page-table entries, refresh,
patrol scrub and the substitute copy (R276, R282, R284), and host accesses through BAR2 (R20, R272). -/

namespace Sys2Proof.Machine

/-! ## Bytes with their poison -/

/-- The bytes of words, each with its word's poison. -/
def spread (l : List (Word × Bool)) : List (Byte × Bool) := l.flatMap fun e => (leBytes 4 e.1.toNat).map fun b => (b, e.2)

/-- Four bytes as a word. -/
def packWord (l : List Byte) : Word := BitVec.ofNat 32 (leNat (l.take 4))

/-- The words that a byte string at address `a` touches: address, byte enables, data, poison. -/
def cutWords (a : Nat) (l : List (Byte × Bool)) : List (Nat × BitVec 4 × Word × Bool) :=
  (List.range (ceilDiv (a % 4 + l.length) 4)).map fun i =>
    let w := a / 4 * 4 + 4 * i
    let at_ (j : Nat) : Option (Byte × Bool) := if w + j < a then none else l[w + j - a]?
    let four := (List.range 4).map at_
    let be := (List.range 4).foldl (fun m j => if (at_ j).isSome then m + 2 ^ j else m) 0
    (w, BitVec.ofNat 4 be, packWord (four.map fun o => (o.getD (0, false)).1), four.any fun o => (o.getD (0, false)).2)

/-- A write of some bytes of one word of a memory (R280); poisoned data leaves the marker. -/
def memWriteBytes (m : Mem) (w : Nat) (be : BitVec 4) (d : Word) (poison : Bool) : Mem × List EccEvent :=
  if be == 0xF then (memPutWord m w d (if poison then 0x7F else 0), [])
  else if poison then (memPoison m w, [])
  else memWrite m w d be

/-- Bytes at a DPA. -/
def dpaReadBytes (a n : Nat) (s : State) : List (Byte × Bool) × State :=
  let w := a / 4 * 4
  let r := dpaReads 0 w (ceilDiv (a + n - w) 4) s
  (((spread r.1).drop (a - w)).take n, r.2)

/-- Writes bytes at a DPA. -/
def dpaWriteBytes (a : Nat) (l : List (Byte × Bool)) (s : State) : State :=
  (cutWords a l).foldl (fun s x =>
    if dpaRegion x.1 == .reserved then faultDpa s
    else
      let phys := if dpaRegion x.1 == .hbm then redirect s x.1 else x.1
      let r := memWriteBytes s.mem.dpa phys x.2.1 x.2.2.1 x.2.2.2
      reportDpa 0 r.2 { s with mem := { s.mem with dpa := r.1 } }) s

/-- Bytes of a core buffer. -/
def coreReadBytes (n : Nat) (wgt : Bool) (a k : Nat) (s : State) : List (Byte × Bool) × State :=
  let w := a / 4 * 4
  let r := coreReads n wgt w (ceilDiv (a + k - w) 4) s
  (((spread r.1).drop (a - w)).take k, r.2)

/-- Writes bytes to a core buffer. -/
def coreWriteBytes (n : Nat) (wgt : Bool) (a : Nat) (l : List (Byte × Bool)) (s : State) : State :=
  (cutWords a l).foldl (fun s x =>
    let c := coreAt s n
    let r := memWriteBytes (if wgt then c.wgt else c.act) x.1 x.2.1 x.2.2.1 x.2.2.2
    coreEvents n (if wgt then 3 else 2) r.2 (setCore n (if wgt then { c with wgt := r.1 } else { c with act := r.1 }) s)) s

/-! ## Translation by an engine (R285 to R288) -/

/-- DPA of a page-table entry. -/
def pteAddr (xctx page : Nat) : Nat := 0x800B000000 + xctx * 0x8000 + 8 * page

/-- A page-table entry as bank 22 returns it, with whether its data is poisoned. -/
def pteRead (xctx page : Nat) (s : State) : BitVec 64 × Bool × State :=
  let e := getAt 0 (xctx * 4096 + page) s.mem.ptes
  let r := dpaReads 0 (pteAddr xctx page) 2 s
  let flips : BitVec 64 := BitVec.ofNat 64 (leNat (wordBytes r.1))
  (e ^^^ flips, r.1.any (·.2), r.2)

/-- The cached or fetched entry of an engine. -/
def translateEntry (e : DmaEngine) (xctx page : Nat) (s : State) : BitVec 64 × Bool × State :=
  match s.mem.tlb.find? fun x => x.1 == e && x.2.1 == xctx && x.2.2.1 == page with
  | some x => (x.2.2.2, false, s)
  | none =>
    let r := pteRead xctx page s
    if r.2.1 then r
    else (r.1, false, { r.2.2 with mem := { r.2.2.mem with tlb := (e, xctx, page, r.1) :: r.2.2.mem.tlb } })

/-- The cause for which an entry cannot be used, 0 for none: a timed channel needs VALID, PINNED and TIMED. -/
def pteCause (timed write : Bool) (e : BitVec 64) : Byte :=
  if !e.getLsbD 0 || (timed && !(e.getLsbD 2 && e.getLsbD 3)) then 0x10
  else if write && !e.getLsbD 1 then 0x11
  else if 0xAE00 ≤ bitsOf e.toNat 36 21 then 0x12
  else 0

/-- One translation: a DPA, or the cause of the fault. -/
def translate (e : DmaEngine) (timed write : Bool) (xctx dva : Nat) (s : State) : Option Nat × Byte × State :=
  if 4096 ≤ dva / 0x200000 then (none, 0x10, s)
  else
    let r := translateEntry e xctx (dva / 0x200000) s
    if r.2.1 then (none, 0x21, r.2.2)
    else
      let k := pteCause timed write r.1
      if k = 0 then (some (bitsOf r.1.toNat 36 21 * 0x200000 + dva % 0x200000), 0, r.2.2) else (none, k, r.2.2)

/-- The physical runs of `len` bytes at a DVA, at most 256, so at most two pages. -/
def spansOf (e : DmaEngine) (timed write : Bool) (xctx dva len : Nat) (s : State) :
    Option (List (Nat × Nat)) × Byte × State :=
  let first := min len (0x200000 - dva % 0x200000)
  match translate e timed write xctx dva s with
  | (none, k, s) => (none, k, s)
  | (some a, _, s) =>
    if len ≤ first then (some [(a, len)], 0, s)
    else match translate e timed write xctx (dva + first) s with
      | (none, k, s) => (none, k, s)
      | (some b, _, s) => (some [(a, first), (b, len - first)], 0, s)

/-- Invalidations that wait for engine `e` apply at its granule boundary (R287). -/
def boundaryFlush (e : DmaEngine) (s : State) : State :=
  let mine := s.mem.tlbWait.filter fun x => x.1 == e
  if mine.isEmpty then s
  else
    let hit (c : Nat) : Bool := mine.any fun x => match x.2 with | none => true | some k => k.toNat == c
    { s with mem := { s.mem with
      tlb := s.mem.tlb.filter fun x => !(x.1 == e && hit x.2.1)
      tlbWait := s.mem.tlbWait.filter fun x => x.1 != e } }

/-- The transfers queued on an engine. -/
def engineList (s : State) : DmaEngine → List Transfer
  | .timed n => getAt [] n.toNat s.mem.timed
  | .bulk n => getAt [] n.toNat s.mem.bulk
  | .host n => getAt [] n.toNat s.mem.host

/-- Every engine of R289. -/
def allEngines : List DmaEngine :=
  ((List.range 16).map fun n => DmaEngine.timed (BitVec.ofNat 4 n))
    ++ ((List.range 4).map fun n => DmaEngine.bulk (BitVec.ofNat 2 n))
    ++ (List.range 8).map fun n => DmaEngine.host (BitVec.ofNat 3 n)

/-- DONE of MEM_TLB_INV: every engine has passed a granule boundary; an idle engine is at one. -/
def tlbDone (s : State) : Bool := s.mem.tlbWait.all fun x => (activeOf (engineList s x.1)).isNone

/-- A write to MEM_TLB_INV: idle engines are at a boundary at once. -/
def invalidate_ (value : Word) (s : State) : State :=
  let c : Option (BitVec 8) := if value.getLsbD 8 then none else some (value.extractLsb' 0 8)
  let s := { s with mem := { s.mem with tlbWait := s.mem.tlbWait ++ allEngines.map fun e => (e, c) } }
  allEngines.foldl (fun s e => if (activeOf (engineList s e)).isNone then boundaryFlush e s else s) s

/-- TLB_INVALIDATE: a host write of MEM_TLB_INV. -/
def execTlbInvalidate (value : Word) (s : State) : Res := .next (if hostAccess s then invalidate_ value s else s)

/-- Sets a page-table entry through the MMU's check (R286): a write that would unmap or change a pinned entry of a context
in use is discarded and recorded. -/
def ptePut (xctx page : Nat) (e : BitVec 64) (s : State) : State :=
  let old := getAt 0 (xctx * 4096 + page) s.mem.ptes
  let keeps := (List.range 4).all fun i => !old.getLsbD i || e.getLsbD i
  let same := decide (bitsOf old.toNat 36 21 = bitsOf e.toNat 36 21)
  if old.getLsbD 2 && contextUsed s xctx && !(keeps && same) then
    recordFault { code := 0x412, scope := 0, unit := unitCode 10 22 } s
  else { s with mem := { s.mem with ptes :=
    (if e = 0 then dropAt (xctx * 4096 + page) s.mem.ptes else putAt (xctx * 4096 + page) e s.mem.ptes) } }

/-! ## The two ends of a granule (R290, R291) -/

/-- Host-ingest or clip-segment block address of granule `k` of a transfer whose Granary end is pool blocks (R116). -/
def blockAddr (t : Transfer) (k : Nat) : Nat :=
  if descDstSpace t.desc = 2 then poolBase 2 + 0x10000 * t.blocks.getD (k / 256) 0 + 256 * (k % 256)
  else poolBase 3 + 4096 * t.blocks.getD (k / 16 % max 1 t.blocks.length) 0 + 256 * (k % 16)

/-- What a granule's source gives. -/
inductive Source where
  | bytes (l : List (Byte × Bool))
  | fault (cause : Byte)
  | nothing
  deriving DecidableEq, Repr

/-- Reads granule `k` from its source. What a network's job output holds when its host engine reads it is not stated:
free bytes (notes/assumptions/20.md). -/
def readGranule (e : DmaEngine) (timed : Bool) (t : Transfer) (k : Nat) (s : State) : Source × State :=
  let len := granuleLen t.desc k
  let a := granuleSrc t.desc k
  match descSrcSpace t.desc with
  | 0 =>
    if t.cls = 4 then
      let d := drawFree s
      (.bytes ((List.range len).map fun i => (Config.freeByte (d.1 + 1) 1 i, false)), d.2)
    else
      let r := dpaReadBytes (if t.blocks.isEmpty then granaryBase + a else blockAddr t k) len s
      (.bytes r.1, r.2)
  | 1 => match spansOf e timed false (descXctx t.desc) a len s with
    | (none, c, s) => (.fault c, s)
    | (some l, _, s) =>
      let r := l.foldl (fun (p : List (Byte × Bool) × State) x =>
        let q := dpaReadBytes x.1 x.2 p.2
        (p.1 ++ q.1, q.2)) ([], s)
      (.bytes r.1, r.2)
  | 3 => let r := coreReadBytes (t.core - 1) t.wgt a len s; (.bytes r.1, r.2)
  | _ => (.nothing, s)

/-- Writes a run of bytes over physical runs. -/
def writeSpans : List (Nat × Nat) → List (Byte × Bool) → State → State
  | [], _, s => s
  | (a, n) :: r, l, s => writeSpans r (l.drop n) (dpaWriteBytes a (l.take n) s)

/-- Writes granule `k` at its destination: the cause of a fault, 0 for none, and whether it was written. -/
def writeGranule (e : DmaEngine) (timed : Bool) (t : Transfer) (k : Nat) (l : List (Byte × Bool)) (s : State) :
    Byte × Bool × State :=
  let a := granuleDst t.desc k
  match descDstSpace t.desc with
  | 0 => (0, true, dpaWriteBytes (if t.blocks.isEmpty then granaryBase + a else blockAddr t k) l s)
  | 1 => match spansOf e timed true (descXctx t.desc) a l.length s with
    | (none, c, s) => (c, false, s)
    | (some x, _, s) => (0, true, writeSpans x l s)
  | 2 => if l.any (·.2) then (0x20, false, s)
         else if hostUp s then (0, true, hostWrites a (l.map (·.1)) s) else (0, false, s)
  | 3 => (0, true, coreWriteBytes (t.core - 1) t.wgt a l s)
  | _ => (0, false, s)

/-! ## Granules of a transfer in flight (R291, R292) -/

/-- The next granule that has not been issued. -/
def nextIssue (t : Transfer) : Nat := ((t.landed ++ t.flight).map (· + 1)).foldl max t.done

/-- Issues granules in ascending order, up to 16 in flight, unless the transfer is frozen or has met a fault. -/
def refill (t : Transfer) : Transfer :=
  if t.frozen || t.failed.isSome then t
  else
    let n := nextIssue t
    { t with flight := t.flight ++ (List.range (min (t.total - n) (16 - t.flight.length))).map (n + ·) }

/-- Issue of granules, where the transfer reads or writes host memory only while host requests may be issued (R352,
R354, R355). -/
def refillIn (s : State) (t : Transfer) : Transfer :=
  if (descSrcSpace t.desc == 2 || descDstSpace t.desc == 2) && !hostUp s then t else refill t

/-- The leading run of landed granules. -/
def leadRun : Nat → Nat → List Nat → Nat
  | 0, d, _ => d
  | f + 1, d, l => if l.contains d then leadRun f (d + 1) l else d

/-- Granule `k` has landed. -/
def landed (t : Transfer) (k : Nat) : Transfer :=
  let l := insNat k t.landed
  let d := leadRun (l.length + 1) t.done l
  { t with done := d, landed := l.filter (d ≤ ·), flight := t.flight.filter (· != k), buf := dropAt k t.buf }

/-- Granule `k` has failed; the lowest failing granule counts (R296). -/
def failGranule (t : Transfer) (k : Nat) (cause : Byte) : Transfer :=
  { t with
    flight := t.flight.filter (· != k)
    buf := dropAt k t.buf
    failed := (match t.failed with
      | some (j, c) => if j < k then some (j, c) else some (k, cause)
      | none => some (k, cause)) }

/-- Replaces a transfer on a bulk or host engine. -/
def putTransfer (bulk : Bool) (n : Nat) (old : Transfer) (new : List Transfer) (s : State) : State :=
  if bulk then { s with mem := { s.mem with bulk := putAt n (swapTransfer old new (getAt [] n s.mem.bulk)) s.mem.bulk } }
  else { s with mem := { s.mem with host := putAt n (swapTransfer old new (getAt [] n s.mem.host)) s.mem.host } }

/-- A transfer that is complete: job input and output (R76, R77), clip output (R116). AU_PUSH data and clip sources stay
until their access unit is taken. -/
def completeTransfer (bulk : Bool) (n : Nat) (t : Transfer) (s : State) : State :=
  let gone := putTransfer bulk n t [] s
  let key := (ownerRing t.owner, ownerTag t.owner)
  let toHost : Bool := descDstSpace t.desc == 2
  match t.cls with
  | 3 => s
  | 4 =>
    if toHost then endJob key.1 key.2 {} gone
    else { gone with jobs := gone.jobs.map fun j => if (j.ring, j.tag) = key then { j with inDone := true } else j }
  | 5 =>
    if toHost then
      let s := poolFree 2 t.blocks gone
      let num := t.owner.toNat % 65536
      let s := { s with clips := s.clips.map fun k =>
        if k.num.toNat = num then { k with segBlocks := k.segBlocks.filter fun b => !t.blocks.contains b } else k }
      clipSweep num (clipComplete num s)
    else s
  | _ => gone

/-- After a granule landed or failed: the transfer parks, freezes, completes or issues more. -/
def settle (bulk : Bool) (n : Nat) (t : Transfer) (s : State) : State :=
  match t.failed, t.flight.isEmpty with
  | some (k, cause), true =>
    let addr := if cause.toNat < 0x10 ∨ cause = 0x20 ∨ descSrcSpace t.desc = 1 then granuleSrc t.desc k else granuleDst t.desc k
    parkTransfer bulk n t cause addr 0 s
  | some _, false => s
  | none, e =>
    if t.total ≤ t.done then completeTransfer bulk n t s
    else if t.frozen && e then freezeRecord bulk n t s
    else if t.frozen then s
    else putTransfer bulk n t [refillIn s t] s

/-- A change of the transfer that an engine is moving, then what follows from it. -/
def stepTransfer (bulk : Bool) (n : Nat) (old new : Transfer) (s : State) : State :=
  settle bulk n new (putTransfer bulk n old [new] s)

/-! ## HOST_READ_COMPLETION, COMPLETION_TIMEOUT (R296, R297, R346) -/

/-- A submission fetch that fails parks with class 0; its ring fetches nothing meanwhile (R293). -/
def parkFetch (n : Nat) (cause : Byte) (s : State) : State :=
  let q := sqAt s n
  if !q.enable || q.parked || q.head == q.tail then s
  else match freePark s with
    | none => s
    | some i =>
      let a := q.base.toNat + 64 * q.head
      let pr : ParkRecord := {
        desc := mkDesc 2 0 0 64 a 0 1 0 0, done := 0, total := 1, engine := 0x20, cause := cause, state := 1, cls := 0
        owner := BitVec.ofNat 32 n, faultAddr := BitVec.ofNat 64 a, round := s.bell.roundSeq, retries := 0
        faultSeq := s.flt.nextSeq }
      let s := recordFault { code := 0x410, scope := 1, unit := unitCode 9 0, body := parkBytes pr } s
      setSq n { q with parked := true } { s with mem := { s.mem with parks := putAt i pr s.mem.parks } }

/-- The code of a completion without data. -/
def cplCause : Cpl → Byte
  | .piece _ => 0
  | .unsupported => 1
  | .abort => 2
  | .poisoned => 4

/-- A piece of a granule's data: the granule lands when all of its bytes have arrived. -/
def hostPiece (n : Nat) (old t : Transfer) (k : Nat) (bytes : List Byte) (s : State) : State :=
  let got := (getAt [] k t.buf ++ bytes).take (granuleLen t.desc k)
  if got.length < granuleLen t.desc k then putTransfer false n old [{ t with buf := putAt k got t.buf }] s
  else
    let r := writeGranule (.host (BitVec.ofNat 3 n)) false t k (got.map fun b => (b, false)) s
    if r.1 ≠ 0 then stepTransfer false n old (failGranule t k r.1) r.2.2
    else stepTransfer false n old (landed t k) r.2.2

/-- A response, or its absence, for a host read of an engine. On host engine 0 with no transfer, `granule` names the
submission ring that was being fetched. -/
def hostResponse (engine : BitVec 3) (granule : Nat) (cause : Byte) (bytes : List Byte) (s : State) : State :=
  let n := engine.toNat
  let s := boundaryFlush (.host engine) s
  match activeOf (getAt [] n s.mem.host) with
  | none => if n = 0 ∧ cause ≠ 0 ∧ granule < 64 then parkFetch granule cause s else s
  | some old =>
    let t := refillIn s old
    if descSrcSpace t.desc ≠ 2 ∨ !t.flight.contains granule then s
    else if cause ≠ 0 then stepTransfer false n old (failGranule t granule cause) s
    else hostPiece n old t granule bytes s

/-- Completions of requests in flight are taken in D3hot and after a loss of presence (R352, R355), and discarded during
a function-level reset (R354). -/
def takesCompletions (s : State) : Bool := linkSpeaks s && !s.link.flr

/-- A request that fails once presence is lost parks with HOST_LINK (R355). -/
def failCause (s : State) (cause : Byte) : Byte := if cause != 0 && !s.slot.present then 5 else cause

/-- HOST_READ_COMPLETION: a completion, or a piece of one, for a host read. -/
def execHostReadCompletion (engine : BitVec 3) (granule : Nat) (c : Cpl) (s : State) : Res :=
  .next (if takesCompletions s then
    hostResponse engine granule (failCause s (cplCause c)) (match c with | .piece b => b | _ => []) s else s)

/-- COMPLETION_TIMEOUT: a host read with no completion in time. -/
def execCompletionTimeout (engine : BitVec 3) (granule : Nat) (s : State) : Res :=
  .next (if takesCompletions s then hostResponse engine granule (failCause s 3) [] s else s)

/-! ## Issue stops and the link goes (R352, R355, R357) -/

/-- Requests already issued when issue stops: they are in flight. -/
def holdIssue (s : State) : State :=
  s.mem.host.foldl (fun s e => match activeOf (getAt [] e.1 s.mem.host) with
    | some t => putTransfer false e.1 t [refill t] s
    | none => s) s

/-- Every transfer of the host engines that reads or writes host memory parks with HOST_LINK; a frozen one, with nothing
in flight now, goes into its park record. -/
def parkHostLink (s : State) : State :=
  s.mem.host.foldl (fun s e =>
    (e.2.filter fun t => descSrcSpace t.desc == 2 || descDstSpace t.desc == 2).foldl (fun s t =>
      if t.frozen then freezeRecord false e.1 t s
      else
        let a := if descSrcSpace t.desc = 2 then granuleSrc t.desc t.done else granuleDst t.desc t.done
        parkTransfer false e.1 t 5 a 0 s) s) s

/-! ## DMA_GRANULE_LAND: timed channels (R219, R230, R288) -/

/-- A timed channel stops: FC_DMA_TIMED with the park record, handled as a hang. -/
def timedStop (c : Nat) (t : Transfer) (cause : Byte) (addr : Nat) (s : State) : State :=
  let pr : ParkRecord := {
    desc := t.desc, done := t.done, total := t.total, engine := BitVec.ofNat 8 c, cause := cause, state := 1, cls := 0
    owner := 0, faultAddr := BitVec.ofNat 64 addr, round := s.bell.roundSeq, retries := 0, faultSeq := s.flt.nextSeq }
  let u : UnitId := if t.core = 0 then .channel (BitVec.ofNat 4 c) else .core (BitVec.ofNat 7 (t.core - 1))
  let a := s.bell.actions.find? fun a => a.unit == u
  let slot := (a.map (·.slot)).getD 0xFFFF
  let cores := if t.core = 0 then [] else [t.core - 1]
  let s := noteHang 1 c 0 slot s
  startReset (slotRecord slot s { code := 0x411, unit := unitCode 2 c, body := parkBytes pr })
    (computeSuspect 0x411 0 cores (a.bind (·.job)) s) s

/-- A generation is lower than an entry's within the same EPOCH. -/
def staleGen (e : BitVec 16 × BitVec 8) (epoch : BitVec 16) (attempt : Byte) : Bool :=
  e.1 == epoch && decide (attempt < e.2)

/-- A commit that an entry of a higher generation has overtaken. -/
def overtaken (s : State) (t : Transfer) : Bool :=
  match t.commit with
  | some (k, e, a) => staleGen (getAt (0, 0) k s.tags) e a
  | none => false

/-- A generation is higher than another: (EPOCH, ATTEMPT) as one number (notes/assumptions/44.md). -/
def higherGen (x y : BitVec 16 × BitVec 8) : Bool := decide (256 * y.1.toNat + y.2.toNat < 256 * x.1.toNat + x.2.toNat)

/-- The entry takes the generation of a commit that is complete, unless it holds a higher one. -/
def commitTag (t : Transfer) (s : State) : State :=
  match t.commit with
  | some (k, e, a) => if higherGen (getAt (0, 0) k s.tags) (e, a) then s else { s with tags := putAt k (e, a) s.tags }
  | none => s

/-- A granule of a core's transfer raises its fill mark to the end of the granule in 16-byte units; a mark number that the
buffer does not have names no mark. -/
def raiseMark (t : Transfer) (k : Nat) (s : State) : State :=
  match t.mark with
  | none => s
  | some m =>
    let n := t.core - 1
    let c := coreAt s n
    let v := ceilDiv (granuleDst t.desc k + granuleLen t.desc k) 16
    let up (l : List Nat) : List Nat := l.set m (max (l.getD m 0) v)
    setCore n { c with seq := if t.wgt then { c.seq with wmark := up c.seq.wmark } else { c.seq with amark := up c.seq.amark } } s

/-- Replaces a transfer on a timed channel; one that a core issued leaves the channel when it is complete. -/
def putTimed (c : Nat) (old new : Transfer) (s : State) : State :=
  let new := if new.total ≤ new.done ∧ new.core ≠ 0 then [] else [new]
  { s with mem := { s.mem with timed := putAt c (swapTransfer old new (getAt [] c s.mem.timed)) s.mem.timed } }

/-- The next granule of a timed channel lands, in ascending order. A descriptor end that is not of a timed channel is
given no meaning (R8): the granule never lands. -/
def timedGranule (c : BitVec 4) (k : Nat) (t : Transfer) (s : State) : State :=
  let n := c.toNat
  if t.done ≠ k then s
  else if overtaken s t then putTimed n t { t with done := t.total } s
  else match readGranule (.timed c) true t k s with
    | (.nothing, _) => s
    | (.fault cause, s') => timedStop n t cause (granuleSrc t.desc k) s'
    | (.bytes l, s') =>
      let r := writeGranule (.timed c) true t k l s'
      if r.1 ≠ 0 then timedStop n t r.1 (granuleDst t.desc k) r.2.2
      else if !r.2.1 || descDstSpace t.desc == 2 then s
      else
        let t' := { t with done := k + 1 }
        let u : UnitId := if t.core = 0 then .channel c else .core (BitVec.ofNat 7 (t.core - 1))
        let s := raiseMark t k (putTimed n t t' (meetPoison u (l.any (·.2)) r.2.2))
        if t'.total ≤ t'.done then commitTag t s else s

/-! ## DMA_GRANULE_LAND: bulk and host engines -/

/-- A granule in flight that needs no host read lands in any order. -/
def freeGranule (bulk : Bool) (n : Nat) (e : DmaEngine) (k : Nat) (old : Transfer) (s : State) : State :=
  let t := refillIn s old
  if descSrcSpace t.desc = 2 ∨ !t.flight.contains k then s
  else match readGranule e false t k s with
    | (.nothing, _) => s
    | (.fault cause, s') => stepTransfer bulk n old (failGranule t k cause) s'
    | (.bytes l, s') =>
      let r := writeGranule e false t k l s'
      if r.1 ≠ 0 then stepTransfer bulk n old (failGranule t k r.1) r.2.2
      else if !r.2.1 then s
      else stepTransfer bulk n old (landed t k) r.2.2

/-- DMA_GRANULE_LAND: a granule is written and acknowledged. No transfer moves during a compute reset (R307). -/
def execDmaGranuleLand (engine : DmaEngine) (granule : Nat) (s : State) : Res :=
  .next (if s.flt.reset.isSome then s
    else
      let s := boundaryFlush engine s
      match activeOf (engineList s engine) with
      | none => s
      | some t => match engine with
        | .timed c => timedGranule c granule t s
        | .bulk n => freeGranule true n.toNat engine granule t s
        | .host n => freeGranule false n.toNat engine granule t s)

/-! ## Refresh, scrub, substitute copy -/

/-- HBM_REFRESH: a refresh interval ends, with the levels that the buffers of real-time ports have reached since the last.
With a port in panic and a request of it waiting at the group the refresh is owed, at most 8; one more issues despite panic
and is counted. Without panic the owed refreshes issue (R276, R277). -/
def execHbmRefresh (pc : BitVec 7) (ports : RefreshPorts) (s : State) : Res :=
  let n := pc.toNat
  let s := ports.levels.foldl (fun s e => setLevel e.1 e.2 s) s
  let panic := ports.waiting && inPanic s
  let owed := getAt 0 n s.mem.owed
  let top := BitVec.ofNat 4 (max s.mem.maxOwed.toNat (min 8 (owed + 1)))
  let s := if panic && decide (8 ≤ owed) then s else hwPeak 0x21000C (min 8 (owed + 1)) s
  .next { s with mem :=
    (if !panic then { s.mem with owed := dropAt n s.mem.owed, maxOwed := top }
     else if owed < 8 then { s.mem with owed := putAt n (owed + 1) s.mem.owed, maxOwed := top }
     else { s.mem with forced := satAddW s.mem.forced 1 }) }

/-- PATROL_SCRUB: patrol scrub reads one HBM granule; an error is corrected or marked, and reported (R282). -/
def execPatrolScrub (addr : BitVec 40) (s : State) : Res :=
  let a := addr.toNat / 256 * 256
  .next (if dpaRegion a == .hbm then
    let s := (dpaReads 0 a 64 s).2
    { s with mem := { s.mem with patrol := BitVec.ofNat 40 (a + 256) } }
  else s)

/-- Weight granules of loaded images on the lost pseudo-channel. -/
def lostWeights (s : State) : List Nat :=
  s.nets.flatMap fun e => e.2.pages.flatMap fun p =>
    ((List.range 8192).map fun i => p * 0x200000 + 256 * i).filter fun a => decide (pcOf a = s.mem.substPc.toNat)

/-- Where a granule of the lost pseudo-channel lies in the substitute area (R283). -/
def substAddr (s : State) (a : Nat) : Nat :=
  let g := granuleIndex a
  (substGranules s.mem.substPc.toNat (g / 127)).getD (g % 127) a

/-- Copies one mirrored granule into the substitute area. -/
def copyGranule (s : State) (a : Nat) : State :=
  match mirrorOf s a with
  | none => s
  | some m =>
    let r := dpaReads 0 m 64 s
    dpaWrites (substAddr s a) r.1 r.2

/-- SUBSTITUTE_COPY: the named granules are copied; when every weight granule has been, mirror reads end (R284). -/
def execSubstituteCopy (granules : List Nat) (s : State) : Res :=
  .next (if s.mem.substActive && s.mem.mirrorReads then
    let need := lostWeights s
    let s := (need.filter granules.contains).foldl copyGranule s
    if need.all granules.contains then { s with mem := { s.mem with mirrorReads := false } } else s
  else s)

/-! ## BAR2 (R20, R272, R324) -/

/-- Granary bank of an offset, and its power domain (R323). -/
def bankOf (o : Nat) : Nat := o / 0x800000
def bankOn (s : State) (o : Nat) : Bool := s.pwr.on.contains (184 + bankOf o)

/-- The bank of an offset holds its contents: it is on, or retained (R333). -/
def bankKept (s : State) (o : Nat) : Bool := bankOn s o || s.pwr.retained.contains (184 + bankOf o)

/-- A sealed 4 KiB unit: banks 24 to 31, and units that hold prepared inputs. -/
def sealedUnit (s : State) (o : Nat) : Bool :=
  decide (24 ≤ bankOf o ∧ bankOf o < 32) || (decide (32 ≤ bankOf o ∧ bankOf o < 48) && s.mem.sealed.contains (o / 4096))

/-- Bytes of a timetable area at an offset (R190); the lane lists have no stated layout and read as free values. -/
def areaByte (s : State) (area o : Nat) : Byte :=
  let c := areaAt s (BitVec.ofNat 2 area)
  let pick {w : Nat} (l : List (BitVec w)) (size r : Nat) : Byte := BitVec.ofNat 8 ((l.getD (r / size) 0).toNat >>> (8 * (r % size)))
  if o < 0xF00000 then pick c.slots 512 o
  else if o < 0xF10000 then Config.freeByte (area + 1) 2 o
  else if o < 0xF90000 then pick c.dma 64 (o - 0xF10000)
  else if o < 0xFB0000 then pick c.crops 32 (o - 0xF90000)
  else if o < 0xFC0000 then pick c.rowMaps 16 (o - 0xFB0000)
  else if o < 0xFC0800 then pick c.images 16 (o - 0xFC0000)
  else 0

/-- What a Granary bank holds at an offset beside the memory itself: page tables, the track store, the history pool and
timetable areas, which State holds by field, and banks 21 and 23, whose layout the specification does not state. -/
def bankByte (s : State) (o : Nat) : Byte :=
  let b := bankOf o
  if b = 22 then
    let r := o - 22 * 0x800000
    BitVec.ofNat 8 ((getAt 0 (r / 8) s.mem.ptes).toNat >>> (8 * (r % 8)))
  else if b = 21 ∨ b = 23 then Config.freeByte 1 3 o
  else if b = 48 ∨ b = 49 then
    let r := o - 48 * 0x800000
    match findAt (r / 128) s.trk.tracks with | some t => (trackBytes t).getD (r % 128) 0 | none => 0
  else if 50 ≤ b ∧ b < 58 then
    let r := o - 50 * 0x800000
    match findAt (r / 128) s.trk.hist with | some h => (histBytes h).getD (r % 128) 0 | none => 0
  else if 58 ≤ b ∧ b < 64 then areaByte s ((b - 58) / 2) ((o - 58 * 0x800000) % 0x1000000)
  else 0

/-- One dword read through BAR2. -/
def bar2Dword (o : Nat) (s : State) : Word × State :=
  if sealedUnit s o || !bankKept s o || decide (0x20000000 ≤ o) then (0, s)
  else
    let r := dpaReads 0 (granaryBase + o) 1 s
    let w := r.1.headD (0, true)
    if w.2 then (0xFFFFFFFF, r.2)
    else (w.1 ^^^ packWord ((List.range 4).map fun i => bankByte s (o + i)), r.2)

/-- A run of dwords. -/
def bar2Dwords : Nat → Nat → State → List Word × State
  | 0, _, s => ([], s)
  | n + 1, o, s =>
    let x := bar2Dword o s
    let y := bar2Dwords n (o + 4) x.2
    (x.1 :: y.1, y.2)

/-- BAR2_READ: the first sealed dword of the request gives the offset of the fault record. -/
def execBar2Read (offset : BitVec 29) (dwords : Nat) (s : State) : Res :=
  let o := offset.toNat / 4 * 4
  .next (if !hostAccess s then send .unsupportedRequest s
    else
      let r := bar2Dwords dwords o s
      let s := match ((List.range dwords).map fun i => o + 4 * i).find? fun a => sealedUnit s a with
        | some a => recordFault { code := 0x414, scope := 2, unit := unitCode 10 (bankOf a), body := leBytes 4 a } r.2
        | none => r.2
      send (.completionBytes (r.1.flatMap fun w => leBytes 4 w.toNat)) s)

/-- A BAR2 write takes effect: MAINT_EN, and only unsealed units of banks 32 to 47. -/
def bar2Writable (s : State) (o n : Nat) : Bool :=
  s.cmd.maintEn && ((List.range (n + 4)).map fun i => min (o + i) (o + n - 1)).all fun a =>
    decide (32 ≤ bankOf a ∧ bankOf a < 48) && !sealedUnit s a && bankOn s a

/-- BAR2_WRITE: any other write is discarded and recorded. -/
def execBar2Write (offset : BitVec 29) (bytes : List Byte) (s : State) : Res :=
  let o := offset.toNat
  .next (if !hostAccess s || bytes.isEmpty then s
    else if bar2Writable s o bytes.length then dpaWriteBytes (granaryBase + o) (bytes.map fun b => (b, false)) s
    else recordFault { code := 0x413, scope := 2, unit := unitCode 10 (bankOf o), body := leBytes 4 o } s)

end Sys2Proof.Machine
end

