-- ==== Sys2Proof/Machine/Query.lean ====
section
/-! DEFINITION. Machine/Query.lean: commands that report or restore: IDENTIFY (R44), TELEMETRY_READ (R340),
FAULT_LOG_READ (R303), STREAM_QUERY (R45), the maintenance commands (R46), SELFTEST_REQUEST (R319), SERVICE_RESTORE
(R316). -/

namespace Sys2Proof.Machine

/-- DSTATE of R44 and R340. -/
def dstate (s : State) : Nat :=
  b2n s.pwr.recess + 2 * b2n s.flt.oos + 4 * b2n s.pwr.aonLow + 8 * b2n (s.pwr.transition != 0)

/-- The image of the Bailiff bank that runs. -/
def runningImage (s : State) : FwImage :=
  getAt { build := Config.flashBuild s.fw.bank.toNat, svn := (Config.flashSvn s.fw.bank.toNat).setWidth 16,
          key := Config.flashKey s.fw.bank.toNat, outFmt := Config.flashHandoverOut s.fw.bank.toNat,
          digest := Config.flashDigest s.fw.bank.toNat }
    s.fw.bank.toNat s.fw.banks

/-- SVN of the Proctor patch that runs, 0 for none. -/
def runningPatchSvn (s : State) : Nat :=
  match s.fw.patchRun with
  | some n => ((getAt ({} : FwImage) n s.fw.patchSlots).svn).toNat
  | none => 0

/-! ## IDENTIFY (R44) -/

/-- RESULT of IDENTIFY. -/
def identifyResult (s : State) : List Byte :=
  [Config.stepping, BitVec.ofNat 8 (dstate s), BitVec.ofNat 8 (capacityClass s),
   BitVec.ofNat 8 (s.fw.upd.toNat + 8 * s.fw.bank.toNat)]
    ++ leBytes 4 (runningImage s).build.toNat
    ++ [Config.romRevision, BitVec.ofNat 8 (runningPatchSvn s), BitVec.ofNat 8 s.nets.length, 0]

def execIdentify (ring : BitVec 6) (p : Packet) (s : State) : Res :=
  packetStep (ofOp 0x01) ring p (fun f s => answer f (okWith (leNat (identifyResult s))) s) s

/-! ## TELEMETRY_READ (R340) -/

/-- Domains that are on (R323): cores by their own power. -/
def domainOn (s : State) (d : Nat) : Bool := if d < 128 then (coreAt s d).powered else s.pwr.on.contains d

/-- The numbers of the domains that are on. -/
def domainsOn (s : State) : List Nat := (List.range 272).filter (domainOn s)

/-- The sample of this instant, a management step boundary: every field of the telemetry block belongs to one (R340). -/
def telSample (s : State) : TelSample :=
  { step := mgmtStep s
    round := s.bell.roundSeq
    dstate := BitVec.ofNat 8 (dstate s)
    cls := BitVec.ofNat 8 (capacityClass s)
    temps := s.tel.temps
    domains := domainsOn s
    wakes := s.pwr.wakes
    refusals := s.pwr.refusals
    stallMax := s.pwr.stallSince
    browns := s.pwr.browns
    onDie := s.pwr.onDie }

/-- A word of the domain bit map. -/
def domainWord (on : List Nat) (k : Nat) : Nat :=
  (List.range 32).foldl (fun v i => if on.contains (32 * k + i) then v + 2 ^ i else v) 0

/-- A temperature as 2 bytes. -/
def tempBytes (t : Int) : List Byte := leBytes 2 (wrapInt 16 t)

/-- The telemetry block of the last management step boundary; `m` the meter readings of the step. -/
def telemetryBytes (m : PowerSample) (s : State) : List Byte :=
  let x := s.tel.sample
  leBytes 8 x.step ++ leBytes 4 x.round.toNat ++ [x.dstate, x.cls, 0, 0]
    ++ leBytes 4 m.power.toNat ++ leBytes 4 m.peak.toNat ++ leBytes 8 m.energy.toNat
    ++ padTo 32 (m.rails.flatMap fun r => leBytes 2 r.toNat)
    ++ tempBytes x.temps.compute ++ tempBytes x.temps.base ++ tempBytes x.temps.hbm0
    ++ tempBytes x.temps.hbm1 ++ tempBytes x.temps.hbm2 ++ tempBytes x.temps.hbm3 ++ [0, 0, 0, 0]
    ++ (List.range 9).flatMap (fun k => leBytes 4 (domainWord x.domains k))
    ++ leBytes 4 x.wakes.toNat ++ leBytes 4 x.refusals.toNat ++ leBytes 2 x.stallMax.toNat
    ++ leBytes 2 x.browns.toNat ++ padTo 16 (x.onDie.flatMap fun w => leBytes 4 w.toNat) ++ List.replicate 112 0

/-- The longest stall starts anew at the sample that TELEMETRY_READ has copied: stalls since count towards the next one. -/
def stallRead (s : State) : State :=
  { s with
    pwr := { s.pwr with stallSince := s.pwr.stallStep }
    tel := { s.tel with sample := { s.tel.sample with stallMax := 0 } } }

/-- Host buffer parameters of R38. -/
def bufAddr (f : Fetched) : Nat := param f.p 8 8
def bufBytes (f : Fetched) : Nat := param f.p 16 4
def bufArg (f : Fetched) : Nat := param f.p 20 4

def execTelemetryRead (ring : BitVec 6) (p : Packet) (m : PowerSample) (s : State) : Res :=
  packetStep (ofOp 0x02) ring p (fun f s =>
    if bufBytes f < 256 then answer f (failWith 0x100 16) s
    else answerWrite f {} (bufAddr f) (telemetryBytes m s) (stallRead s)) s

/-! ## FAULT_LOG_READ (R303) -/

/-- The records held from SEQ `a` on, in the order they were written: from the record of that SEQ, or all of them where `a`
is older. SEQ starts again at 1 after 0x7FFF_FFFF (R300). -/
def recordsFrom (s : State) (a : Nat) : List FaultRec :=
  let all := faultsHeld s
  match all.findIdx? fun r => r.seq.toNat = a with
  | some i => all.drop i
  | none => match all.head? with
    | some r =>
      let wrapped := decide (s.flt.lastSeq.toNat < r.seq.toNat)
      if (if wrapped then a = s.flt.nextSeq.toNat else r.seq.toNat < a) then [] else all
    | none => []

/-- The copy of records from SEQ `arg` on. -/
def readRecords (f : Fetched) (s : State) : State :=
  let all := recordsFrom s (bufArg f)
  let l := all.take (bufBytes f / 256)
  let first := match l with | r :: _ => r.seq.toNat | [] => 0
  let next := match l.getLast? with
    | some r => (nextSeqAfter r.seq).toNat
    | none => match all with | r :: _ => r.seq.toNat | [] => s.flt.nextSeq.toNat
  answerWrite f (okWith (first + 2 ^ 32 * l.length + 2 ^ 64 * next)) (bufAddr f) (l.flatMap faultBytes) s

/-- The copy of the capture set of one record. -/
def readCapture (f : Fetched) (s : State) : State :=
  let seq := bufArg f % 2 ^ 31
  if bufBytes f < 8192 then answer f (failWith 0x100 16) s
  else match (s.flt.copiedCaptures ++ s.flt.captures).find? fun c => c.seq.toNat = seq with
    | none => answer f (failWith 0x100 20) s
    | some c =>
      let next := (nextSeqAfter c.seq).toNat
      answerWrite f (okWith (seq + 2 ^ 32 + 2 ^ 64 * next)) (bufAddr f) (captureBytes c) s

def execFaultLogRead (ring : BitVec 6) (p : Packet) (s : State) : Res :=
  packetStep (ofOp 0x03) ring p (fun f s => if bufArg f < 2 ^ 31 then readRecords f s else readCapture f s) s

/-! ## STREAM_QUERY (R45) -/

/-- A count as `n` bytes, saturated. -/
def countBytes (n v : Nat) : List Byte := leBytes n (min v (2 ^ (8 * n) - 1))

/-- The stream report. -/
def reportBytes (s : State) (c : Nat) : List Byte :=
  let st := streamAt s c
  let k := st.sampled
  let bound := holds st.state
  leBytes 2 (c + 4096 * stateCode st.state)
    ++ [st.lastEvent, BitVec.ofNat 8 (b2n st.clk.locked + 2 * b2n st.sheaf.isSome + 4 * b2n (!st.dec.taint.isEmpty))]
    ++ leBytes 4 st.lastRound.toNat ++ countBytes 4 k.frameSeq ++ leBytes 2 st.shedRank.toNat
    ++ leBytes 2 (st.sheaf.getD 0) ++ countBytes 8 k.records ++ countBytes 4 k.recordsDropped
    ++ countBytes 4 k.lateRecords ++ countBytes 4 k.dropLate ++ countBytes 4 k.dropDuplicate ++ countBytes 4 k.dropRtp
    ++ countBytes 4 k.dropAuth ++ countBytes 4 k.dropReplay ++ countBytes 4 k.incomplete
    ++ countBytes 4 k.refusedUncovered ++ countBytes 4 k.notDecoded
    ++ [BitVec.ofNat 8 (min 255 st.dec.refuseCount), BitVec.ofNat 8 (if bound then st.ad.engine else 0xFF),
        BitVec.ofNat 8 (if bound then st.ad.engine / 2 else 0xFF), 0]
    ++ countBytes 4 (k.creditWait / 1250000) ++ leBytes 8 k.lastCapture.toNat ++ countBytes 4 k.dropResync
    ++ List.replicate 44 0

/-- RESULT of STREAM_QUERY. -/
def queryResult (s : State) (c : Nat) : Nat :=
  let st := streamAt s c
  stateCode st.state + 256 * st.lastEvent.toNat + 65536 * st.shedRank.toNat
    + 2 ^ 32 * min st.sampled.frameSeq 0xFFFFFFFF + 2 ^ 64 * (st.sampled.records % 2 ^ 32)

def execStreamQuery (ring : BitVec 6) (p : Packet) (s : State) : Res :=
  packetStep (ofOp 0x0B) ring p (fun f s =>
    let c := fCtx f
    answerWrite f (okWith (queryResult s c)) (bufAddr f)
      (if bufAddr f = 0 ∧ bufBytes f = 0 then [] else reportBytes s c) s) s

/-! ## Maintenance commands (R38, R46) -/

/-- MAINT_ECHO: the first 12 parameter bytes, those past LENGTH zero. -/
def execMaintEcho (ring : BitVec 6) (p : Packet) (s : State) : Res :=
  packetStep (ofOp 0x80) ring p (fun f s => answer f (okWith (param f.p 8 12)) s) s

/-- MAINT_PEEK: 8 bytes of the Granary, under the seals of R272. -/
def peek (o : Nat) (s : State) : List Word × State :=
  let r := bar2Dwords 2 o s
  (r.1, if sealedUnit s o then
    recordFault { code := 0x414, scope := 2, unit := unitCode 10 (bankOf o), body := leBytes 4 o } r.2 else r.2)

def execMaintPeek (ring : BitVec 6) (p : Packet) (s : State) : Res :=
  packetStep (ofOp 0x81) ring p (fun f s =>
    let r := peek (param f.p 8 8) s
    answer f (okWith ((r.1.getD 0 0).toNat + 2 ^ 32 * (r.1.getD 1 0).toNat)) r.2) s

/-- MAINT_ERR_INJECT: an address outside the memory is refused at once; the injection waits for the fallow slot. -/
def execMaintErrInject (ring : BitVec 6) (p : Packet) (s : State) : Res :=
  packetStep (ofOp 0x82) ring p (fun f s =>
    match deviceRefuses true false s with
    | some r => answer f r s
    | none =>
      if injectOk s f.p = some 16 then answer f (failWith 0x100 16) s
      else wait_ f .fallow { s with mem := { s.mem with inject := s.mem.inject ++ [(f.p.params, f.ring, f.tag)] } }) s

/-- MAINT_COUNTERS_CLEAR: the counters of the telemetry block (R340). -/
def execMaintCountersClear (ring : BitVec 6) (p : Packet) (s : State) : Res :=
  packetStep (ofOp 0x83) ring p (fun f s =>
    answer f {} { s with pwr := { s.pwr with
      wakes := 0, refusals := 0, stallSince := 0, stallStep := 0, browns := 0, onDie := [0, 0, 0, 0] } }) s

/-! ## SELFTEST_REQUEST, SERVICE_RESTORE -/

/-- The test asked for. -/
def testOf (f : Fetched) (s : State) : TestReq :=
  { ring := f.ring, tag := f.tag, test := param f.p 8 1, noRetire := decide (param f.p 9 1 % 2 = 1),
    target := param f.p 10 2, since := s.bell.roundSeq }

def execSelftestRequest (ring : BitVec 6) (p : Packet) (s : State) : Res :=
  packetStep (ofOp 0x18) ring p (fun f s =>
    match deviceRefuses true false s with
    | some r => answer f r s
    | none =>
      let t := testOf f s
      if t.test ≠ 2 ∧ testRetired s t then answer f (okWith 3) s
      else wait_ f .selftest { s with tests := s.tests ++ [t] }) s

/-- Causes of OUT_OF_SERVICE that SERVICE_RESTORE does not clear. -/
def restorable (cause : BitVec 12) : Bool := !(cause == 0x108 || cause == 0x405 || cause == 0x105)

def execServiceRestore (ring : BitVec 6) (p : Packet) (s : State) : Res :=
  packetStep (ofOp 0x19) ring p (fun f s =>
    if s.flt.oos && restorable s.flt.oosCause then
      answer f {} { s with flt := { s.flt with oos := false, oosPending := false, resetSteps := [] } }
    else answer f (failWith 0x200 0) s) s

end Sys2Proof.Machine
end

