-- ==== Sys2Proof/Machine/Ingest.lean ====
section
/-! DEFINITION. Machine/Ingest.lean: ports and their configuration (R85 to R91), the checks of a received frame (R86,
R89, R92, R93, R96), SRTP (R100 to R102, R384), reordering and access units (R103 to R109), arrival cadence (R65, R67),
replay rings (R110, R111), TRUANT (R47), stash moves (R99) and the shedding of pool stage 3 (R118). -/

namespace Sys2Proof.Machine

/-! ## Sequence numbers and timestamps -/

/-- Position of a sequence number from base. -/
def seqPos (base q : BitVec 16) : Nat := (q - base).toNat

/-- Timestamp `a` is later than `b`. -/
def laterTs (a b : Word) : Bool := a != b && decide ((a - b).toNat < 0x80000000)

/-- Nearest integer of a quotient, ties to even. -/
def roundTiesEven (n : Int) (d : Nat) : Int :=
  let q := n / (d : Int)
  let r := 2 * (n - q * (d : Int))
  if r < (d : Int) then q else if (d : Int) < r then q + 1 else if q % 2 = 0 then q else q + 1

/-! ## Arrival cadence (R64, R65, R67) -/

/-- The present instant in round number and fc. -/
def roundTime (s : State) : Nat := s.bell.roundSeq.toNat * roundLen s + roundFc s

/-- Number of the window nearest to an instant. -/
def nearestWindow (w : Cadence) (t : Nat) : Int :=
  ((2 * ((t * w.den : Int) - (w.t0 : Int)) + (w.period : Int)) / (2 * (max 1 w.period : Nat) : Int))

/-- Signed distance of an instant from the nearest window, in fc rounded away from it; none inside it. -/
def windowDistance (w : Cadence) (t : Nat) : Option Int :=
  let d : Int := (t * w.den : Int) - ((w.t0 : Int) + nearestWindow w t * (w.period : Int))
  let out : Nat := d.natAbs - w.half
  if out = 0 then none else some (if d < 0 then -(ceilDiv out (max 1 w.den) : Int) else ceilDiv out (max 1 w.den))

/-- Order of two ratios. -/
def ratioLe (a b : Nat × Nat) : Bool := decide (a.1 * b.2 ≤ b.1 * a.2)

/-- q of R65: the median ratio of measured to declared interval over the locked streams, 1 before any has locked. -/
def cadenceRatio (s : State) : Nat × Nat :=
  let l := sortBy ratioLe ((s.streams.filter fun e => e.2.clk.locked).map fun e => e.2.clk.ratio)
  let a := l.getD ((l.length - 1) / 2) (1, 1)
  let b := l.getD (l.length / 2) (1, 1)
  if l.length % 2 = 1 then a else (a.1 * b.2 + b.1 * a.2, 2 * a.2 * b.2)

/-- T(s) * q in fc, as a quotient in lowest terms. -/
def fittedPeriod (s : State) (rate : Nat) : Nat × Nat :=
  let q := cadenceRatio s
  let n := 1250000000000 * q.1
  let d := rate * q.2
  let g := max 1 (Nat.gcd n d)
  (max 1 (n / g), max 1 (d / g))

/-- A fit of four completions, oldest first: the cadence, and measured and declared time of its intervals; none unless
each lies within J/2 of it. DESIGN CHOICE (notes/assumptions/32.md): the fit is the mean of the four. -/
def fitCadence (s : State) (rate : Nat) (l : List Nat) : Option (Cadence × (Nat × Nat)) :=
  let (p, d) := fittedPeriod s rate
  let a := l.headD 0
  let ns := l.map fun t => (2 * (t - a) * d + p) / (2 * p)
  let t0 := ((l.zip ns).map fun e => e.1 * d - e.2 * p).foldl (· + ·) 0 / max 1 l.length
  let near := (l.zip ns).all fun e => decide (2 * ((e.1 * d : Int) - (t0 + e.2 * p : Nat)).natAbs ≤ jitterFc s * d)
  if l.length = 4 ∧ ns.eraseDups.length = 4 ∧ near then
    some ({ t0, period := p, half := jitterFc s * d, den := d }, ((l.getLastD 0 - a) * rate, ns.getLastD 0 * 1250000000000))
  else none

/-- The windows that apply to a stream (R65). -/
def applyingWindows (k : Clocking) : Option Cadence :=
  match k.charged with
  | some w => some w
  | none => if k.locked then k.fit else none

/-- Lock state after a completion at `t`, with whether it was a slip. -/
def cadenceStep (s : State) (rate t : Nat) (slip : Bool) (k : Clocking) : Clocking :=
  if k.locked then
    if slip then { k with locked := false, fit := none, completions := [t] } else k
  else
    let l := newest 4 (k.completions ++ [t])
    match fitCadence s rate l with
    | some (w, r) => { k with locked := true, fit := some w, ratio := r, relockCheck := true, completions := [] }
    | none => { k with completions := l }

/-- Whether a check of R68 with the unlocked charge is pending for a stream. -/
def slipPending (s : State) (c : Nat) : Bool :=
  (streamAt s c).clk.slipCheck || s.bell.changes.any fun x => x.kind == ChangeKind.unlocked (BitVec.ofNat 12 c)

/-- R65 and R67 for a completion of stream `c` now: whether it is covered, and the state with slip and lock noted. -/
def coverage (c : Nat) (s : State) : Bool × State :=
  let st := streamAt s c
  let k := st.clk
  let room := decide (k.inRound < mRate s st.ad.frameRate)
  if !s.bell.set.locked then
    (room, setStream c { st with clk := { k with inRound := k.inRound + b2n room } } s)
  else
    let t := roundTime s
    let dist := match applyingWindows k with | some w => windowDistance w t | none => none
    let slip := dist.isSome
    let covered := room && !(slip && k.charged.isSome)
    let k' := cadenceStep s st.ad.frameRate t slip k
    let check := k.slipCheck || (slip && k.charged.isSome && !slipPending s c)
    let s := setStream c { st with clk := { k' with
      inRound := k.inRound + b2n covered
      slipCheck := check } } s
    (covered, match dist with
      | some d => streamEvent c 5 0 (wrapInt 64 d) s
      | none => s)

/-! ## Replay rings (R110, R111) -/

/-- Bytes [o, o + n) and [p, p + m) overlap. -/
def overlaps (o n p m : Nat) : Bool := decide (o < p + m) && decide (p < o + n)

/-- Drops the oldest entries until data of `n` bytes at `o` fits and the index has room. -/
def makeRoom (o n count : Nat) : List ReplayEntry → List ReplayEntry
  | [] => []
  | e :: r =>
    if (e :: r).any (fun x => overlaps o n x.offset x.length) || decide (count ≤ (e :: r).length) then makeRoom o n count r
    else e :: r

/-- Writes a completed access unit whole; a wrap never splits it. -/
def replayWrite (c : Nat) (e : ReplayEntry) (data : List (Byte × Bool)) (s : State) : State :=
  let st := streamAt s c
  let r := st.ring
  let n := data.length
  let o := if r.dataBytes < r.write + n then 0 else r.write
  let e := { e with offset := o, length := n }
  let s := setStream c { st with ring := { r with
    write := o + n
    entries := makeRoom o n r.entryCount r.entries ++ [e] } } s
  writeSpans (pageRuns st.ad.pages (n / 0x200000 + 2) (r.base + o) n) data s

/-! ## Completion of an access unit (R107, R47) -/

/-- A complete access unit: `capture` none is NO_CAPTURE; `data` its bytes, `gaps` the offsets in them at which bytes are
missing (R105); `blocks` of the bitstream pool and `hostBlocks` of the host-ingest pool. -/
structure AccessUnit where
  ts : Word
  capture : Option (BitVec 64)
  incomplete : Bool
  oversize : Bool
  discontinuity : Bool
  refFree : Bool
  data : List (Byte × Bool)
  blocks : List Nat
  hostBlocks : List Nat
  gaps : List Nat := []
  deriving DecidableEq, Repr

/-- Ingest flags of R107. -/
def auFlags (a : AccessUnit) : BitVec 4 :=
  BitVec.ofNat 4 (b2n a.incomplete + 2 * b2n a.oversize + 4 * b2n a.discontinuity + 8 * b2n a.capture.isNone)

/-- Decode report of an access unit refused under R67 (R131). -/
def refusedReport (st : Stream) (a : AccessUnit) : DecReport :=
  { outcome := 5
    causes := BitVec.ofNat 8 (b2n (a.incomplete || a.oversize) + 32 * b2n (!st.dec.taint.isEmpty) + 128 * b2n a.discontinuity)
    coverage := 0 }

/-- The stream goes RUNNING at a completion (R47), unless it became TRUANT in this round (R48). -/
def runningNow (c : Nat) (s : State) : State :=
  let st := streamAt s c
  if st.state == .admitted || (st.state == .truant && !(st.lastEvent == 2 && st.lastRound == s.bell.roundSeq)) then
    transition c .running 1 0 0 s
  else s

/-- An access unit of stream `c` completes now. -/
def completeAu (c : Nat) (a : AccessUnit) (s : State) : State :=
  let st := streamAt s c
  let seq := st.cnt.frameSeq
  let s := setStream c { st with
    clk := { st.clk with lastDone := s.now }
    cnt := { st.cnt with
      frameSeq := seq + 1
      incomplete := satNat st.cnt.incomplete (b2n a.incomplete)
      lastCapture := a.capture.getD 0 } } s
  let cov := coverage c s
  let s := runningNow c cov.2
  let s := replayWrite c {
      seq := seq, ts := a.ts, capture := a.capture.getD 0, round := s.bell.roundSeq, offset := 0, length := 0
      flags := auFlags a, refFree := a.refFree, refused := !cov.1 } a.data s
  let f : FrameRec := {
    ctx := BitVec.ofNat 12 c, seq := seq, ts := a.ts, capture := a.capture.getD 0, round := s.bell.roundSeq
    doneAt := s.now, flags := auFlags a, covered := cov.1, blocks := a.blocks, hostBlocks := a.hostBlocks
    gaps := a.gaps }
  if cov.1 then { s with frames := s.frames ++ [f] }
  else
    let s := poolFree 3 a.hostBlocks (poolFree 0 a.blocks s)
    let st := streamAt s c
    let s := setStream c { st with
      cnt := { st.cnt with refusedUncovered := satNat st.cnt.refusedUncovered 1 }
      dec := { st.dec with skips := [] } } s
    let e := decAt s st.ad.engine
    let s := setDec st.ad.engine { e with count2 := satAdd e.count2 1 } s
    { s with frames := s.frames ++
      [{ f with stage := .decoded, report := refusedReport st a, blocks := [], hostBlocks := [] }] }

/-! ## Capture instants (R108) -/

/-- The mapping of the most recent sender report at a timestamp, in NTP units. -/
def captureAt (k : Clocking) (ts : Word) : BitVec 64 :=
  BitVec.ofInt 64 ((k.srNtp.toNat : Int) + roundTiesEven ((ts - k.srTs).toInt * 2 ^ 32) 90000)

/-- The capture instant of an access unit, unknown before the first sender report and 60 s after the last. -/
def captureOf (s : State) (c : Nat) (ts : Word) : Option (BitVec 64) :=
  if mappingKnown s c then some (captureAt (streamAt s c).clk ts) else none

/-- A sender report arrives; a mapping that differs by more than 1 ms is a clock step. -/
def senderReport (c : Nat) (ntp : BitVec 64) (ts : Word) (s : State) : State :=
  let st := streamAt s c
  let k := st.clk
  -- difference of the mappings at `ts` in units of 2^-32 / 90,000 s
  let num : Int := (ntp - k.srNtp).toInt * 90000 - (ts - k.srTs).toInt * 2 ^ 32
  let s := setStream c { st with clk := { k with srNtp := ntp, srTs := ts, srAt := some s.now } } s
  if k.srAt.isSome ∧ 90000 * 2 ^ 32 < 1000 * num.natAbs then
    streamEvent c 7 0 (wrapInt 64 (Int.tdiv (num * 1000000000) (90000 * 2 ^ 32))) s
  else s

/-! ## Reordering (R103 to R106) -/

/-- The pending access unit: positions of its first and last packet, its timestamp, and whether it is complete. -/
structure AuSpan where
  first : Nat
  last : Nat
  ts : Word
  whole : Bool
  deriving DecidableEq, Repr

/-- Position of the first packet of the next access unit (R104). -/
def auFirst (base : BitVec 16) (ro : Reorder) : Option Nat :=
  if ro.needBegin then (ro.window.find? fun p => p.begins && !p.lost).map fun p => seqPos base p.seq else some 0

/-- The next access unit as placed so far: it ends with the packet of its timestamp that carries the marker bit, or before
one of a later timestamp, and holds packets of one timestamp only. -/
def nextAu (base : BitVec 16) (ro : Reorder) : Option AuSpan :=
  match auFirst base ro with
  | none => none
  | some f =>
    let ks := ro.window.filter fun p => decide (f ≤ seqPos base p.seq)
    match ks with
    | [] => none
    | p :: _ =>
      let limit := match ks.find? fun x => x.ts != p.ts with | some x => seqPos base x.seq - 1 | none => 65535
      match ks.find? fun q => (q.ts == p.ts && q.marker) || laterTs q.ts p.ts with
      | some q =>
        let stop := if q.ts = p.ts then seqPos base q.seq else seqPos base q.seq - 1
        let n := (ks.filter fun x => decide (seqPos base x.seq ≤ stop) && !x.lost).length
        some { first := f, last := min stop limit, ts := p.ts, whole := decide (n = stop + 1 - f) }
      | none =>
        let last := ((ks.filter fun x => x.ts == p.ts).map fun x => seqPos base x.seq).foldl max f
        some { first := f, last := min last limit, ts := p.ts, whole := false }

/-- Offsets in an access unit at which bytes are missing (R105): where packets up to `last` from position `e` on were never
placed, and where MAX_AU_BYTES cut one. `o` the bytes before. -/
def gapsOf (base : BitVec 16) (last : Nat) : List Placed → Nat → Nat → List Nat
  | [], e, o => if e ≤ last then [o] else []
  | p :: r, e, o =>
    (if e < seqPos base p.seq then [o] else []) ++ (if p.oversize then [o + p.bytes] else [])
      ++ gapsOf base last r (seqPos base p.seq + 1) (o + p.bytes)

/-- When the reorder wait of an access unit started: its marker packet, or a packet with a later timestamp (R105). -/
def waitStart (ro : Reorder) (a : AuSpan) : Option Nat :=
  match (ro.window.filter fun q => (q.ts == a.ts && q.marker) || laterTs q.ts a.ts).map (·.arrived) with
  | [] => none
  | t :: r => some (r.foldl min t)

/-- Reads the payload bytes of placed packets from their blocks. -/
def readPlaced : List Placed → State → List (Byte × Bool) × State
  | [], s => ([], s)
  | p :: r, s =>
    let one := ((List.range p.blocks.length).zip p.blocks).foldl (fun (a : List (Byte × Bool) × State) e =>
      let x := dpaReadBytes (poolBase 0 + 2048 * e.2) (min 2048 (p.bytes - 2048 * e.1)) a.2
      (a.1 ++ x.1, x.2)) ([], s)
    let t := readPlaced r one.2
    (one.1 ++ t.1, t.2)

/-- The next access unit of stream `c` completes. DESIGN CHOICE (notes/assumptions/73.md): R103 does not say when base moves
apart from a resync; it moves to one past the last packet of each access unit as that completes. -/
def takeAu (c : Nat) (base : BitVec 16) (a : AuSpan) (forced : Bool) (s : State) : State :=
  let st := streamAt s c
  let ro := st.ro
  let below := ro.window.filter fun p => decide (seqPos base p.seq < a.first)
  let mine := ro.window.filter fun p =>
    decide (a.first ≤ seqPos base p.seq) && decide (seqPos base p.seq ≤ a.last) && !p.lost
  let rest := ro.window.filter fun p => decide (a.last < seqPos base p.seq)
  let s := setStream c { st with ro := { ro with
    base := some (base + BitVec.ofNat 16 (a.last + 1)), window := rest, needBegin := false, discontinuity := false
    flushed := none } } s
  let s := poolFree 0 (below.flatMap (·.blocks)) s
  let r := readPlaced mine s
  completeAu c {
    ts := a.ts, capture := captureOf s c a.ts, incomplete := forced, oversize := mine.any (·.oversize)
    discontinuity := ro.discontinuity, refFree := mine.any (·.refFree), data := r.1
    blocks := mine.flatMap (·.blocks), hostBlocks := [], gaps := gapsOf base a.last mine a.first 0 } r.2

/-- Completes every access unit of stream `c` that is complete (R104). -/
def scanAus (c : Nat) : Nat → State → State
  | 0, s => s
  | fuel + 1, s =>
    match (streamAt s c).ro.base with
    | none => s
    | some base => match nextAu base (streamAt s c).ro with
      | none => s
      | some a => if a.whole then scanAus c fuel (takeAu c base a false s) else s

/-- Completes every pending access unit of stream `c` as INCOMPLETE (R103, R105); packets of the last one that arrive later
are late. -/
def flushAus (c : Nat) : Nat → State → State
  | 0, s => s
  | fuel + 1, s =>
    match (streamAt s c).ro.base with
    | none => s
    | some base => match nextAu base (streamAt s c).ro with
      | none => s
      | some a =>
        let s := takeAu c base a true s
        let st := streamAt s c
        flushAus c fuel (setStream c { st with ro := { st.ro with flushed := some a.ts } } s)

/-- Every pending access unit of a stream completes at once. -/
def flushAll (c : Nat) (s : State) : State := flushAus c ((streamAt s c).ro.window.length + 1) s

/-- Puts a packet in a window kept in sequence order; it takes the place of one with its number that was lost. -/
def insPlaced (base : BitVec 16) (p : Placed) : List Placed → List Placed
  | [] => [p]
  | q :: r =>
    if seqPos base p.seq < seqPos base q.seq then p :: q :: r
    else if p.seq = q.seq then p :: r
    else q :: insPlaced base p r

/-- A packet without its blocks, with its payload; `full` when the port's write buffer has no room for it (R277). -/
structure RtpPacket where
  seq : BitVec 16
  ts : Word
  marker : Bool
  begins : Bool
  refFree : Bool
  payload : List Byte
  full : Bool := false
  deriving DecidableEq, Repr

/-- Takes bitstream blocks for a packet and stores what MAX_AU_BYTES leaves of its payload (R106, R117, R119); a full write
buffer drops it (R277). DESIGN CHOICE (notes/assumptions/74.md): R106 does not say which payload is discarded when packets
arrive out of order; MAX_AU_BYTES is spent in the order of arrival, over the packets placed with the timestamp. -/
def storePacket (c port : Nat) (k : RtpPacket) (s : State) : Option Placed × State :=
  let st := streamAt s c
  let have_ := ((st.ro.window.filter fun p => p.ts == k.ts).map (·.bytes)).foldl (· + ·) 0
  let n := min k.payload.length (st.ad.maxAu - have_)
  let drop (s : State) : Option Placed × State :=
    (none, setPort port { portAt s port with dropPool := satAdd (portAt s port).dropPool 1 } s)
  if k.full then drop s
  else match poolAlloc 0 c (ceilDiv n 2048) s with
  | (none, s) => drop s
  | (some bs, s) =>
    let s := ((List.range bs.length).zip bs).foldl (fun s e =>
      dpaStore (poolBase 0 + 2048 * e.2) ((k.payload.drop (2048 * e.1)).take (min 2048 (n - 2048 * e.1))) s) s
    (some { seq := k.seq, ts := k.ts, marker := k.marker, begins := k.begins, refFree := k.refFree, bytes := n
            oversize := decide (n < k.payload.length), arrived := s.now, blocks := bs }, s)

/-- A packet that was dropped for want of blocks: its arrival counts, but it is not placed (R105, R119). -/
def lostPacket (k : RtpPacket) (now : Nat) : Placed :=
  { seq := k.seq, ts := k.ts, marker := k.marker, begins := k.begins, refFree := k.refFree, bytes := 0, oversize := false
    arrived := now, blocks := [], lost := true }

/-- Places a packet, and completes what is complete. -/
def putPlaced (c : Nat) (base : BitVec 16) (p : Placed) (s : State) : State :=
  let st := streamAt s c
  let ro := st.ro
  let s := setStream c { st with ro := { ro with base := some base, window := insPlaced base p ro.window } } s
  scanAus c (ro.window.length + 2) s

/-- Adds to a packet-drop count of a stream. -/
def countDrop (c : Nat) (f : StreamCounts → StreamCounts) (s : State) : State :=
  setStream c { streamAt s c with cnt := f (streamAt s c).cnt } s
def dropLate (k : StreamCounts) : StreamCounts := { k with dropLate := satNat k.dropLate 1 }
def dropDup (k : StreamCounts) : StreamCounts := { k with dropDuplicate := satNat k.dropDuplicate 1 }
def dropRtp (k : StreamCounts) : StreamCounts := { k with dropRtp := satNat k.dropRtp 1 }
def dropAuth (k : StreamCounts) : StreamCounts := { k with dropAuth := satNat k.dropAuth 1 }
def dropReplay (k : StreamCounts) : StreamCounts := { k with dropReplay := satNat k.dropReplay 1 }
def dropResync (k : StreamCounts) : StreamCounts := { k with dropResync := satNat k.dropResync 1 }

/-- The held resync candidate is dropped and counted. -/
def dropCandidate (c : Nat) (s : State) : State :=
  let st := streamAt s c
  match st.ro.candidate with
  | none => s
  | some p => countDrop c dropResync (poolFree 0 p.blocks (setStream c { st with ro := { st.ro with candidate := none } } s))

/-- The resync of R103: pending access units complete, base moves to the held candidate, both packets are placed. -/
def resync (c port : Nat) (held : Placed) (k : RtpPacket) (s : State) : State :=
  let s := flushAll c s
  let st := streamAt s c
  let s := poolFree 0 (st.ro.window.flatMap (·.blocks)) s
  let s := setStream c { streamAt s c with ro := {
    base := some held.seq, window := [held], needBegin := true, discontinuity := true } } s
  let r := storePacket c port k s
  putPlaced c held.seq (r.1.getD (lostPacket k s.now)) r.2

/-- A packet accepted under R92 and R93. -/
def placePacket (c port : Nat) (k : RtpPacket) (s : State) : State :=
  let st := streamAt s c
  let base := st.ro.base.getD k.seq
  let s := setStream c { st with ro := { st.ro with base := some base } } s
  let d := seqPos base k.seq
  let far := decide (1024 ≤ d) && decide (d < 65536 - 3072)
  match st.ro.candidate with
  | some held =>
    if far && k.seq == held.seq + 1 then resync c port held k s
    else place d base far (dropCandidate c s)
  | none => place d base far s
where
  place (d : Nat) (base : BitVec 16) (far : Bool) (s : State) : State :=
    if far then
      match storePacket c port k s with
      | (none, s) => s
      | (some p, s) => setStream c { streamAt s c with ro := { (streamAt s c).ro with candidate := some p } } s
    else if 1024 ≤ d then countDrop c dropLate s
    else if (streamAt s c).ro.flushed == some k.ts then lateAfterFlush d s
    else if (streamAt s c).ro.window.any fun p => p.seq == k.seq && !p.lost then countDrop c dropDup s
    else
      let r := storePacket c port k s
      putPlaced c base (r.1.getD (lostPacket k s.now)) r.2
  /-- A packet of an access unit that has been completed without it is late; the next one begins after it (R104, R105). -/
  lateAfterFlush (d : Nat) (s : State) : State :=
    let s := countDrop c dropLate s
    let st := streamAt s c
    if st.ro.window.isEmpty then
      setStream c { st with ro := { st.ro with base := st.ro.base.map (· + BitVec.ofNat 16 (d + 1)) } } s
    else s

/-! ## SRTP (R100 to R102) -/

/-- Packet index of an SRTP packet, estimated as RFC 3711 says from the highest index accepted. -/
def srtpIndexOf (st : Stream) (seq : BitVec 16) : Nat :=
  let q := seq.toNat
  if st.replaySeen.isEmpty then
    match (st.keys.find? fun e => !e.2.fromValid).orElse (fun _ => st.keys.head?) with
    | some e => e.2.roc.toNat * 65536 + q
    | none => q
  else
    let roc := st.replayTop / 65536
    let l := st.replayTop % 65536
    let v := if l < 32768 then (if l + 32768 < q then (roc + 0xFFFFFFFF) % 0x100000000 else roc)
      else if q + 32768 < l then (roc + 1) % 0x100000000 else roc
    v * 65536 + q

/-- The key that applies to a packet index (R102). -/
def keyFor (st : Stream) (index : Nat) : Option KeySlot :=
  let ks := (st.keys.map (·.2)).filter fun k => !k.fromValid || decide (k.fromIndex ≤ index)
  ks.foldl (fun b k => match b with
    | none => some k
    | some a => if !k.fromValid || (a.fromValid && decide (k.fromIndex ≤ a.fromIndex)) then some a else some k) none

/-- An index already seen, or below the window of 128. -/
def replayed (top : Nat) (seen : List Nat) (index : Nat) : Bool :=
  !seen.isEmpty && (decide (index + 128 ≤ top) || seen.contains index)

/-- The replay window with one more index. -/
def noteIndex (top : Nat) (seen : List Nat) (index : Nat) : Nat × List Nat :=
  let t := max top index
  (t, (insNat index seen).filter fun i => decide (t < i + 128))

/-- Authentication and replay check of a packet; the packet without its protection. `rtcp` packets carry their index. -/
def unprotect (c : Nat) (rtcp : Bool) (index : Nat) (payload : List Byte) (s : State) : Option (List Byte) × State :=
  let st := streamAt s c
  if !st.op.srtp then (some payload, s)
  else
    let top := if rtcp then st.rtcpTop else st.replayTop
    let seen := if rtcp then st.rtcpSeen else st.replaySeen
    match keyFor st (if rtcp then st.replayTop else index) with
    | none => (none, countDrop c dropAuth s)
    | some k =>
      if replayed top seen index then (none, countDrop c dropReplay s)
      else if !Config.srtpAuthentic k.suite k.material index payload then (none, countDrop c dropAuth s)
      else
        let w := noteIndex top seen index
        let s := setStream c (if rtcp then { st with rtcpTop := w.1, rtcpSeen := w.2 }
          else { st with replayTop := w.1, replaySeen := w.2 }) s
        (some (Config.srtpPlain k.suite k.material index payload), s)

/-! ## FRAME_RECEIVE (R86, R89, R92, R96) -/

/-- Group address of a joined group: 01-00-5E with 23 bits of an IPv4 group, 33-33 with 32 bits of an IPv6 group. -/
def groupMac (g : BitVec 128) : BitVec 48 :=
  if ipByte g 0 = 0xFF then
    BitVec.ofNat 48 (0x333300000000 + leNat [BitVec.ofNat 8 (ipByte g 15), BitVec.ofNat 8 (ipByte g 14),
      BitVec.ofNat 8 (ipByte g 13), BitVec.ofNat 8 (ipByte g 12)])
  else BitVec.ofNat 48 (0x01005E000000 + ipByte g 1 % 128 * 65536 + ipByte g 2 * 256 + ipByte g 3)

/-- The link-local address of a port: modified EUI-64 of its MAC address (R87). -/
def linkLocal (port : Nat) : BitVec 128 :=
  let m (i : Nat) : Nat := bitsOf (Config.mac port).toNat (47 - 8 * i) (40 - 8 * i)
  BitVec.ofNat 128 (leNat ([0xFE, 0x80, 0, 0, 0, 0, 0, 0].map (BitVec.ofNat 8) ++
    ([m 0 ^^^ 2, m 1, m 2, 0xFF, 0xFE, m 3, m 4, m 5].map (BitVec.ofNat 8))))

/-- Solicited-node group address of an IPv6 address. -/
def solicitedMac (a : BitVec 128) : BitVec 48 :=
  BitVec.ofNat 48 (0x3333FF000000 + ipByte a 13 * 65536 + ipByte a 14 * 256 + ipByte a 15)

/-- Destination addresses that a port accepts (R86). -/
def macAccepted (s : State) (port : Nat) (m : BitVec 48) : Bool :=
  let p := portAt s port
  m == Config.mac port || m == 0xFFFFFFFFFFFF || p.groups.any (fun g => groupMac g.1 == m)
    || m == 0x333300000001 || m == solicitedMac (linkLocal port) || (p.ipv6 != 0 && m == solicitedMac p.ipv6)

/-- Rules 1 to 4 of R89 for an IP packet. -/
def ipAccepted (f : Frame) : Bool :=
  ((f.etherType == 0x0800 && f.ipVersion == 4 && decide (5 ≤ f.ihl) && decide (f.ihl ≤ 15) && f.ipChecksumOk)
    || (f.etherType == 0x86DD && f.ipVersion == 6 && !f.extOther && decide (f.extBytes ≤ 64))) && !f.fragment

/-- Protocols that go to Bailiff (R89 rule 5). -/
def controlProto (n : Nat) : Bool := [1, 2, 58].contains n

/-- Rule 6 of R89. -/
def udpAccepted (f : Frame) : Bool := if f.udpChecksumZero then f.ipVersion == 4 else f.udpChecksumOk

/-- Flow key of a packet with a given source and destination port; the priority bits of its tag are ignored (R86, R94). -/
def packetKey (port : Nat) (f : Frame) (src dst : BitVec 16) : BitVec 384 :=
  let vlan : BitVec 16 := if f.tags = 0 then 0 else f.vlan &&& 0xFFF ||| 0x1000
  keyBits (flowKey { source := port, ipv6 := f.ipVersion == 6, vlan, srcIp := f.srcIp, dstIp := f.dstIp,
                     srcPort := src, dstPort := dst, ssrc := f.ssrc })

/-- Way 0, way 1 and the stash, probed at once (R96). -/
def flowProbe (t : FlowTable) (k : BitVec 384) : Option Nat :=
  match (match findAt (flowSlot 0 k) t.way0 with | some e => if e.1 == k then some e.2 else none | none => none) with
  | some c => some c.toNat
  | none => match (match findAt (flowSlot 1 k) t.way1 with | some e => if e.1 == k then some e.2 else none | none => none) with
    | some c => some c.toNat
    | none => (t.stash.find? fun e => e.1 == k).map fun e => e.2.toNat

/-- The key, and then the key with SRC_PORT 0. -/
def flowFind (s : State) (port : Nat) (f : Frame) (dst : BitVec 16) : Option Nat :=
  match flowProbe s.flow (packetKey port f f.srcPort dst) with
  | some c => some c
  | none => flowProbe s.flow (packetKey port f 0 dst)

/-- A second header byte of 200 to 204 marks RTCP (R92). -/
def isRtcp (f : Frame) : Bool := decide (200 ≤ f.second.toNat) && decide (f.second.toNat ≤ 204)

/-- The stream of a UDP packet: RTCP is multiplexed on DST_PORT, or on DST_PORT + 1. -/
def flowOf (s : State) (port : Nat) (f : Frame) : Option Nat :=
  match flowFind s port f f.dstPort with
  | some c => some c
  | none => if isRtcp f then flowFind s port f (f.dstPort - 1) else none

/-- An RTCP packet of stream `c`: sender reports are decoded, every other type is ignored. -/
def rtcpPacket (c : Nat) (f : Frame) (s : State) : State :=
  match unprotect c true f.srtpIndex f.payload s with
  | (none, s) => s
  | (some _, s) => if f.second == 200 then senderReport c f.rtcpNtp f.rtcpTs s else s

/-! ### Payload formats (R93)

The bit positions in a payload are those of RFC 6184, RFC 7798, RFC 2435 and the AV1 RTP specification, which R93 names. -/

/-- Byte `i` of a payload. -/
def payloadByte (l : List Byte) (i : Nat) : Nat := (l.getD i 0).toNat

/-- NAL unit type of the first bytes of a payload: H.264 (codec 0) or HEVC. -/
def nalType (codec : Nat) (l : List Byte) : Nat :=
  if codec = 0 then payloadByte l 0 % 32 else payloadByte l 0 / 2 % 64

/-- The payload is of a form of R93 that the device takes: no interleaved mode, no PACI, no derived tables, no interlaced
image. -/
def formatTaken (codec : Nat) (l : List Byte) : Bool :=
  match codec with
  | 0 => let n := nalType 0 l; (decide (1 ≤ n) && decide (n ≤ 24)) || n == 28
  | 1 => decide (nalType 1 l ≤ 49)
  | 2 => !l.isEmpty
  | _ => decide (8 ≤ l.length) && payloadByte l 0 == 0 && [0, 1, 64, 65].contains (payloadByte l 4)
      && decide (128 ≤ payloadByte l 5)

/-- The payload begins a picture: a whole NAL unit or a start-bit fragment, a new temporal unit, a fragment offset of 0
(R104). -/
def beginsPicture (codec : Nat) (newUnit : Bool) (l : List Byte) : Bool :=
  match codec with
  | 0 => nalType 0 l != 28 || decide (128 ≤ payloadByte l 1)
  | 1 => nalType 1 l != 49 || decide (128 ≤ payloadByte l 2)
  | 2 => newUnit
  | _ => payloadByte l 1 == 0 && payloadByte l 2 == 0 && payloadByte l 3 == 0

/-- NAL units of an aggregation packet, each behind its 2-byte length. -/
def aggregated : Nat → List Byte → List (List Byte)
  | 0, _ => []
  | fuel + 1, l =>
    if l.length < 2 then []
    else
      let n := payloadByte l 0 * 256 + payloadByte l 1
      (l.drop 2).take n :: aggregated fuel (l.drop (2 + n))

/-- A NAL unit behind an Annex B start code. -/
def annexB (nal : List Byte) : List Byte := [0, 0, 0, 1] ++ nal

/-- The bytes that a payload adds to its access unit. PRESUMED (notes/assumptions/75.md): NAL units stand there behind Annex B
start codes, and AV1 and Motion-JPEG payloads as they came, without the AV1 aggregation header. -/
def unpacked (codec : Nat) (l : List Byte) : List Byte :=
  match codec with
  | 0 =>
    let b := payloadByte l 1
    if nalType 0 l = 24 then (aggregated l.length (l.drop 1)).flatMap annexB
    else if nalType 0 l = 28 then
      (if 128 ≤ b then annexB [BitVec.ofNat 8 (payloadByte l 0 / 32 * 32 + b % 32)] else []) ++ l.drop 2
    else annexB l
  | 1 =>
    let b := payloadByte l 2
    if nalType 1 l = 48 then (aggregated l.length (l.drop 2)).flatMap annexB
    else if nalType 1 l = 49 then
      (if 128 ≤ b then annexB [BitVec.ofNat 8 (payloadByte l 0 / 128 * 128 + b % 64 * 2 + payloadByte l 0 % 2), l.getD 1 0]
        else []) ++ l.drop 3
    else annexB l
  | 2 => l.drop 1
  | _ => l

/-- Room of an ingest write buffer (R277). -/
def writeBuffer : Nat := 524288

/-- An RTP packet of stream `c` (R92, R93, R100, R103). -/
def rtpPacket (c port : Nat) (f : Frame) (s : State) : State :=
  let st := streamAt s c
  if f.version ≠ 2 ∨ f.second.toNat % 128 ≠ st.op.pt.toNat then countDrop c dropRtp s
  else match unprotect c false (srtpIndexOf st f.seq) f.payload s with
    | (none, s) => s
    | (some plain, s) =>
      let codec := st.op.codec
      let l := (plain.drop f.payloadOffset).take f.payloadLength
      if !(f.formatOk && formatTaken codec l) then countDrop c dropRtp s
      else
        let full := decide (writeBuffer < f.held + f.payload.length)
        placePacket c port {
          seq := f.seq, ts := f.ts, marker := f.marker, begins := beginsPicture codec f.begins l, refFree := f.refFree
          payload := unpacked codec l, full } (setLevel port (if full then f.held else f.held + f.payload.length) s)

/-- FRAME_RECEIVE: a frame is received whole. A packet of a stream that holds no reservation is discarded. -/
def execFrameReceive (port : BitVec 1) (f : Frame) (s : State) : Res :=
  let n := port.toNat
  let p := portAt s n
  .next (if !p.linkUp then s
    else if !(f.fcsOk && decide (64 ≤ f.length) && decide (f.length ≤ p.mtu + 22) && decide (f.tags ≤ 1)
        && macAccepted s n f.dstMac) then
      setPort n { p with dropMac := satAdd p.dropMac 1 } s
    else
      let p := { p with rxFrames := satAdd p.rxFrames 1 }
      let s := setPort n p s
      if f.etherType == 0x0806 then s
      else if !ipAccepted f then setPort n { p with dropIp := satAdd p.dropIp 1 } s
      else if controlProto f.proto then s
      else if f.proto ≠ 17 ∨ !udpAccepted f then setPort n { p with dropIp := satAdd p.dropIp 1 } s
      else match flowOf s n f with
        | none => setPort n { p with dropUnmatched := satAdd p.dropUnmatched 1 } s
        | some c =>
          if !holds (streamAt s c).state then s
          else if isRtcp f then rtcpPacket c f s
          else rtpPacket c n f s)

/-! ## Other port events -/

/-- fc of one pause quantum, 512 bit times, times 10: at 10 or 25 Gb/s. -/
def quantumFc10 (mode : BitVec 4) : Nat := if mode == 1 || mode == 5 then 640 else 256

/-- PAUSE_FRAME: the transmit side is held for the quanta named. -/
def execPauseFrame (port : BitVec 1) (quanta : BitVec 16) (s : State) : Res :=
  let p := portAt s port.toNat
  .next (if !p.linkUp then s
    else releaseTx port.toNat
      (setPort port.toNat { p with pauseUntil := s.now + ceilDiv (quanta.toNat * quantumFc10 p.mode) 10 } s))

/-- A control answer is sent. -/
def answerIf (own : Bool) (n : Nat) (k : ControlKind) (s : State) : State := if own then sendControl n (.answer k) s else s

/-- Reports the membership of every joined group of one IP version. -/
def reportGroups (n : Nat) (v6 : Bool) (s : State) : State :=
  ((portAt s n).groups.filter fun g => (ipByte g.1 0 == 0xFF) == v6).foldl
    (fun s g => sendControl n (.membership g.1 g.2 true (legacyQuerier s n v6)) s) s

/-- How long an older querier counts as present after its query: 260 s, the timeout of RFC 3376 and RFC 3810 with their
default values. PRESUMED (notes/assumptions/76.md). -/
def querierFc : Nat := 260 * 1250000000

/-- Asks for the next hop of an enabled destination that has none yet (R88). -/
def askNextHop (n : Nat) (s : State) : State :=
  let d := destAt s n
  let hop := nextHop s d.port.toNat d.ipv6 d.dstIp
  if d.enable && !d.resolved && hop != 0 then sendControl d.port.toNat (.resolve hop) s else s

/-- What Bailiff does with a control packet (R87, R88, R90, R91). -/
def controlBody (n : Nat) (k : ControlKind) (s : State) : State :=
  let p := portAt s n
  let own6 (a : BitVec 128) : Bool := a == linkLocal n || (p.ipv6 != 0 && a == p.ipv6)
  match k with
  | .arpRequest a => answerIf (p.ipv4 != 0 && a == p.ipv4) n k s
  | .neighbourSolicit a => answerIf (own6 a) n k s
  | .icmpEcho a => answerIf (p.ipv4 != 0 && a == p.ipv4) n k s
  | .icmpv6Echo a => answerIf (own6 a) n k s
  | .igmpQuery v => reportGroups n false (if v < 3 then setPort n { p with igmpV2Until := s.now + querierFc } s else s)
  | .mldQuery v => reportGroups n true (if v < 2 then setPort n { p with mldV1Until := s.now + querierFc } s else s)
  | .routerAdvert r =>
    ((s.dests.filter fun e => e.2.ipv6 && e.2.port.toNat == n).map (·.1)).foldl (fun s m => askNextHop m s)
      (setPort n { p with router6 := r } s)
  | .other => s

/-- CONTROL_PACKET: at most 10,000 packets per second per port reach Bailiff (R90). -/
def execControlPacket (port : BitVec 1) (k : ControlKind) (s : State) : Res :=
  let n := port.toNat
  let p := portAt s n
  let sec := s.now / 1250000000
  let count := if p.controlSecond = sec then p.controlCount else 0
  .next (if !p.linkUp then s
    else if 10000 ≤ count then setPort n { p with dropControl := satAdd p.dropControl 1 } s
    else controlBody n k (setPort n { p with controlSecond := sec, controlCount := count + 1 } s))

/-- REORDER_WAIT_EXPIRY: W has run out for the next access unit of a stream (R105). -/
def execReorderWaitExpiry (ctx : BitVec 12) (s : State) : Res :=
  let c := ctx.toNat
  let ro := (streamAt s c).ro
  .next (match ro.base with
    | none => s
    | some base => match nextAu base ro with
      | none => s
      | some a => match waitStart ro a with
        | none => s
        | some t =>
          if s.now < t + jitterFc s then s
          else scanAus c (ro.window.length + 1) (takeAu c base a true s))

/-- Pending access units of every stream of a port complete (R105). -/
def flushPort (n : Nat) (s : State) : State :=
  ((s.streams.filter fun e => holds e.2.state && e.2.op.source == n).map (·.1)).foldl (fun s c => flushAll c s) s

/-- A port's link goes up or down (R105, R120). A port that comes up reports its joined groups, and asks for the next hops
that it lacks: DEDUCED from R88, R90 and R91 (notes/assumptions/76.md). -/
def setLink (n : Nat) (up : Bool) (s : State) : State :=
  let p := portAt s n
  if p.linkUp = up then s
  else
    let s := updateWire (setPort n { p with linkUp := up, linkChange := true, held := [] } (hwSet (0x20000 + 0x1000 * n) 8 s))
    if up then
      ((s.dests.filter fun e => e.2.port.toNat == n).map (·.1)).foldl (fun s m => askNextHop m s)
        (reportGroups n true (reportGroups n false s))
    else flushPort n s

/-- PORT_LINK_CHANGE: the link of a port that is on comes up or is lost. -/
def execPortLinkChange (port : BitVec 1) (up : Bool) (s : State) : Res :=
  .next (if s.pwr.on.contains (264 + port.toNat) && (portAt s port.toNat).mode != 0 then setLink port.toNat up s else s)

/-- TRUANT_TIMEOUT: TRUANT_FRAMES frame intervals without a completion (R47). -/
def execTruantTimeout (ctx : BitVec 12) (s : State) : Res :=
  let c := ctx.toNat
  let st := streamAt s c
  .next (if (st.state == .running || st.state == .admitted)
      && decide (1250000000000 * st.ad.truantFrames ≤ (s.now - st.clk.lastDone) * st.ad.frameRate) then
    transition c .truant 2 st.ad.truantFrames 0 s
  else s)

/-- STASH_MOVE: the stash moves after a removal (R99). -/
def execStashMove (s : State) : Res := .next (if s.flow.moveDue then { s with flow := stashMoves s.flow } else s)

/-- Streams with a record that waits for credit or for next-hop resolution. -/
def recordWaits (s : State) (c : Nat) : Bool :=
  let n := (streamAt s c).op.mr.toNat
  ((mrAt s n).queue ++ (destAt s n).queue).any fun q => q.ctx.toNat == c && q.waitFrom.isSome

/-- The stream that stage 3 sheds next: with the metadata pool at stage 3, one whose records wait comes first. -/
def stage3Stream (s : State) : Option Nat :=
  let l := (holders s).filter fun e => !s.bell.shedDue.any fun d => d.1.toNat == e.1
  let first := if (poolAt s 1).stage = 3 then firstToShed (l.filter fun e => recordWaits s e.1) else none
  match first with
  | some e => some e.1
  | none => (firstToShed l).map (·.1)

/-- POOL_STAGE3_SHED: at most one stream per management step (R118); it enters SHED at the next boundary (R80). -/
def execPoolStage3Shed (s : State) : Res :=
  .next (if maxStage s < 3 || s.bell.stageShed == some (mgmtStep s) then s
    else match stage3Stream s with
      | none => s
      | some c => { s with bell := { s.bell with
          shedDue := s.bell.shedDue ++ [(BitVec.ofNat 12 c, 3)], stageShed := some (mgmtStep s) } })

/-! ## PORT_CONFIG (R87, R88) -/

/-- KIND 0: a port's mode and addresses; it relinks. A mode other than 0 needs the port and the classifier; with MODE 0
they go off through the handshake of R327. -/
def configPort (p : Packet) (s : State) : State :=
  let n := param p 9 1
  let s := setLink n false s
  let q := portAt s n
  let s := setPort n { q with
    mode := BitVec.ofNat 4 (param p 10 1), mtu := param p 12 2, vlan := BitVec.ofNat 16 (param p 14 2)
    ipv4 := BitVec.ofNat 32 (param p 16 4), prefix4 := param p 20 1, prefix6 := param p 21 1
    ipv6 := BitVec.ofNat 128 (param p 24 16), gateway4 := BitVec.ofNat 32 (param p 40 4) } s
  if param p 10 1 = 0 then s else wakeDomain (264 + n) (wakeDomain 270 s)

/-- Datagram copies of a destination are discarded: each counts in RECORDS_DROPPED of its stream (R88). -/
def discardCopies (l : List QRec) (s : State) : State :=
  l.foldl (fun s q =>
    let c := q.ctx.toNat
    let st := streamAt s c
    let s := setStream c { st with cnt := { st.cnt with recordsDropped := satNat st.cnt.recordsDropped 1 } } s
    lastRecordCheck c (poolFree 1 (q.block :: (match q.ext with | some (_, b) => [b] | none => [])) s)) s

/-- KIND 1: where a metadata ring's records are sent. -/
def configDest (p : Packet) (s : State) : State :=
  let n := param p 10 1 % 64
  let d := destAt s n
  let flags := param p 11 1
  let enable := flags.testBit 1
  let d' : DgDest := { d with
    enable := enable, port := BitVec.ofNat 1 (param p 9 1), ipv6 := flags.testBit 0
    dstPort := BitVec.ofNat 16 (param p 12 2), srcPort := BitVec.ofNat 16 (param p 14 2)
    dstIp := BitVec.ofNat 128 (param p 16 16), dscp := BitVec.ofNat 6 (param p 32 1), resolved := false
    queue := d.queue.map fun q => { q with waitFrom := some (q.waitFrom.getD s.now) }
    seq := (if enable && !d.enable then 0 else d.seq), lost := (if enable && !d.enable then 0 else d.lost) }
  if enable then askNextHop n (setDest n d' s) else discardCopies d.queue (setDest n { d' with queue := [] } s)

/-- A PORT_CONFIG takes effect. -/
def configAny (p : Packet) (s : State) : State := if param p 8 1 = 0 then configPort p s else configDest p s

/-- PORT_CONFIG is accepted in Recess and applied at the exit (R335). -/
def portConfigBody (f : Fetched) (s : State) : State :=
  answer f {} (if s.pwr.recess then { s with pwr := { s.pwr with deferred := s.pwr.deferred ++ [f.p.params] } }
    else configAny f.p s)

def execPortConfigPort (ring : BitVec 6) (p : Packet) (s : State) : Res :=
  packetStep (ofKind 0x06 8 1 0xFF 0 1) ring p portConfigBody s

def execPortConfigDatagram (ring : BitVec 6) (p : Packet) (s : State) : Res :=
  packetStep (ofKind 0x06 8 1 0xFF 1 1) ring p portConfigBody s

/-- The PORT_CONFIGs accepted in Recess take effect, in order. -/
def applyDeferred (s : State) : State :=
  s.pwr.deferred.foldl (fun s b => configAny
    { opcode := 0x06, flags := 0, tag := 0, ctx := 0, length := 48, rsv := 0, params := b } s)
    { s with pwr := { s.pwr with deferred := [] } }

/-! ## KEY_LOAD (R101, R102, R384) -/

/-- Material bytes of a suite, and the length of its wrapped form. -/
def keyBytes (suite : Nat) : Nat := [30, 30, 28, 44].getD suite 0
def wrappedBytes (suite : Nat) : Nat := if suite = 3 then 56 else 40

/-- Proctor's handling of a wrapped key: the material, or none (ST_AUTH_FAILED). -/
def unwrapKey (f : Fetched) (blob : List Byte) : Option (List Byte) :=
  let suite := param f.p 8 1
  let w := wrappedBytes suite
  let n := param f.p 32 4
  let blob := padTo n blob
  if n < 99 + w ∨ numAt blob 0 1 ≠ 1 ∨ numAt blob 1 1 ≠ suite ∨ (blob.drop (99 + w)).any (fun b => b != 0) then none
  else match Config.keyUnwrap ((blob.drop 2).take 97) f.ctx (BitVec.ofNat 1 (param f.p 9 1)) ((blob.drop 99).take w) with
    | none => none
    | some m =>
      if m.length ≠ w - 8 ∨ (m.drop (keyBytes suite)).any (fun b => b != 0) then none
      else some (m.take (keyBytes suite))

/-- A key goes into its slot (R102). One with FROM_VALID 0 applies at once: another key in force is given up and the
packet index starts at ROC. -/
def loadKey (c kslot : Nat) (k : KeySlot) (s : State) : State :=
  let st := streamAt s c
  let other := 1 - kslot
  let keep := match findAt other st.keys with
    | some o => k.fromValid || (o.fromValid && (st.replaySeen.isEmpty || decide (st.replayTop < o.fromIndex)))
    | none => true
  let keys := putAt kslot k (if keep then st.keys else dropAt other st.keys)
  setStream c (if k.fromValid then { st with keys := keys }
    else { st with keys := keys, replayTop := 0, replaySeen := [], rtcpTop := 0, rtcpSeen := [] }) s

def keyLoadBody (blob : HostRead (List Byte)) (f : Fetched) (s : State) : State :=
  let c := fCtx f
  let st := streamAt s c
  if !(st.op.srtp && (st.state == .opened || holds st.state)) then answer f (stState s c) s
  else match blob with
    | .fault d => answer f (failWith 0x104 d.toNat) s
    | .data b => match unwrapKey f b with
      | none => answer f (failWith 0x400 0) s
      | some m => answer f {} (loadKey c (param f.p 9 1) {
          suite := param f.p 8 1, fromValid := (param f.p 10 1).testBit 0, fromIndex := param f.p 12 6
          roc := BitVec.ofNat 32 (param f.p 20 4), material := m } s)

def execKeyLoad (ring : BitVec 6) (p : Packet) (blob : HostRead (List Byte)) (s : State) : Res :=
  packetStep (ofOp 0x0C) ring p (keyLoadBody blob) s

/-! ## AU_PUSH (R42, R109) -/

/-- Marks the newest outstanding command of a ring and tag with its access unit. -/
def noteAu (cmd : BitVec 6 × BitVec 16) (a : AuPush) (s : State) : State :=
  { s with cmd := { s.cmd with outstanding := s.cmd.outstanding.map fun o =>
    if o.ring = cmd.1 ∧ o.tag = cmd.2 ∧ o.cause = .transfer then { o with au := some a } else o } }

/-- Host engine that reads the access units of a submission ring: 2 or 3. -/
def pushEngine (ring : BitVec 6) : Nat := 2 + ring.toNat % 2

def auPushBody (f : Fetched) (s : State) : State :=
  let c := fCtx f
  let st := streamAt s c
  let n := param f.p 16 4
  if st.state == .closed || st.state == .faulted then answer f (stState s c) s
  else if st.op.source ≠ 2 then answer f (failWith 0x204 0) s
  else if !holds st.state then answer f (stState s c) s
  else if st.ad.maxAu < n then answer f (failWith 0x100 16) s
  else match poolAlloc 3 c (ceilDiv n 4096) s with
    | (none, s) => answer f (failWith 0x301 3) s
    | (some bs, s) =>
      let d := mkDesc 2 0 0 n (param f.p 8 8) 0 1 0 0
      let t : Transfer := { desc := d, total := granulesOf d, cls := 3, blocks := bs
                            owner := BitVec.ofNat 32 (f.tag.toNat + 65536 * f.ring.toNat) }
      let e := pushEngine f.ring
      let s := { s with mem := { s.mem with host := putAt e (getAt [] e s.mem.host ++ [t]) s.mem.host } }
      noteAu (f.ring, f.tag) { bytes := n, ts := BitVec.ofNat 32 (param f.p 20 4)
                               capture := BitVec.ofNat 64 (param f.p 24 8)
                               discontinuity := (param f.p 32 4).testBit 0 } (wait_ f .transfer s)

def execAuPush (ring : BitVec 6) (p : Packet) (s : State) : Res := packetStep (ofOp 0x40) ring p auPushBody s

/-- Reads `n` bytes from host-ingest blocks. -/
def readIngest (blocks : List Nat) (n : Nat) (s : State) : List (Byte × Bool) × State :=
  ((List.range blocks.length).zip blocks).foldl (fun (a : List (Byte × Bool) × State) e =>
    let x := dpaReadBytes (poolBase 3 + 4096 * e.2) (min 4096 (n - 4096 * e.1)) a.2
    (a.1 ++ x.1, x.2)) ([], s)

/-- AU_PUSH_COMPLETE: the last byte of a pushed access unit has landed. `refFree` says whether its picture is decodable
without references. -/
def execAuPushComplete (ring : BitVec 6) (tag : BitVec 16) (refFree : Bool) (s : State) : Res :=
  let own := tag.toNat + 65536 * ring.toNat
  let e := pushEngine ring
  let l := getAt [] e s.mem.host
  .next (match l.find? (fun t => t.cls == 3 && t.owner.toNat == own && decide (t.total ≤ t.done)),
      s.cmd.outstanding.find? (fun o => o.ring == ring && o.tag == tag && o.cause == .transfer && o.au.isSome) with
    | some t, some o =>
      let a := o.au.getD { bytes := 0, ts := 0, capture := 0, discontinuity := false }
      let s := { s with mem := { s.mem with host := putAt e (swapTransfer t [] l) s.mem.host } }
      let r := readIngest t.blocks a.bytes s
      let s := completeAu o.ctx.toNat {
        ts := a.ts, capture := (if a.capture == 0 then none else some a.capture), incomplete := false, oversize := false
        discontinuity := a.discontinuity, refFree := refFree, data := r.1, blocks := [], hostBlocks := t.blocks } r.2
      finish (ring, tag) {} s
    | _, _ => s)

end Sys2Proof.Machine
end

