-- ==== Sys2Proof/Machine/Admission.lean ====
section
/-! DEFINITION. Machine/Admission.lean: opening, admitting and closing streams (R40, R41, R47, R49, R50), shed ranks
(R79), sheaves (R112, R115), ROUND_CONFIG (R56), and the Roll Calls of a slip and of a re-lock (R68). -/

namespace Sys2Proof.Machine

/-- A stream's admission waits for its round (R50). -/
def pendingAdmit (s : State) (c : Nat) : Option Change :=
  s.bell.changes.find? fun x => x.kind == ChangeKind.admission (BitVec.ofNat 12 c)

/-- Networks a stream names: those of its present or pending admission. -/
def namedBy (s : State) (c : Nat) : List Nat :=
  let st := streamAt s c
  if holds st.state || (pendingAdmit s c).isSome then st.ad.networks else []

/-- Lowest-numbered stream in ADMITTED, RUNNING or TRUANT (R38, R56). -/
def firstAdmitted (s : State) : Option Nat := (s.streams.find? fun e => holds e.2.state).map (·.1)

/-! ## STREAM_OPEN (R40) -/

/-- Source and addressing from the packet. -/
def openOf (p : Packet) : OpenParams :=
  let flags := param p 10 1
  { source := param p 8 1, codec := param p 9 1, ipv6 := flags.testBit 0, multicast := flags.testBit 1
    srtp := flags.testBit 2, toRing := flags.testBit 3, asUdp := flags.testBit 4, mr := BitVec.ofNat 6 (param p 11 1)
    dstPort := BitVec.ofNat 16 (param p 12 2), srcPort := BitVec.ofNat 16 (param p 14 2)
    ssrc := BitVec.ofNat 32 (param p 16 4), srcIp := BitVec.ofNat 128 (param p 20 16)
    dstIp := BitVec.ofNat 128 (param p 36 16), vlan := BitVec.ofNat 16 (param p 52 2), pt := BitVec.ofNat 8 (param p 54 1) }

def streamOpenBody (f : Fetched) (s : State) : State :=
  let c := fCtx f
  if (streamAt s c).state ≠ .closed then answer f (stState s c) s
  else answer f {} (setStream c { state := .opened, op := openOf f.p, lastRound := s.bell.roundSeq } s)

def execStreamOpen (ring : BitVec 6) (p : Packet) (s : State) : Res := packetStep (ofOp 0x08) ring p streamOpenBody s

/-! ## STREAM_ADMIT (R41, R69) -/

/-- Used entries of NETWORKS: index and handle. -/
def networkEntries (p : Packet) : List (Nat × Nat) :=
  ((List.range 8).map fun i => (i, param p (28 + 2 * i) 2)).filter fun e => e.2 != 0xFFFF

/-- What the packet fixes. -/
def admitOf (p : Packet) : AdmitParams :=
  { maxW := param p 8 2, maxH := param p 10 2, maxAu := param p 12 4, frameRate := param p 16 4
    profile := BitVec.ofNat 8 (param p 20 1), bitDepth := param p 21 1
    truantFrames := (if param p 22 1 = 0 then 3 else param p 22 1), rank := BitVec.ofNat 16 (param p 24 2)
    networks := ((networkEntries p).map (·.2)).eraseDups }

/-- `n` numbers below `bound` that are not in use: the ones proposed where they are valid, else the lowest free. -/
def pickFree (used proposed : List Nat) (lo bound n : Nat) : List Nat :=
  let good := proposed.length == n && proposed.eraseDups.length == n
    && proposed.all fun x => decide (lo ≤ x) && decide (x < bound) && !used.contains x
  if good then proposed else lowestFree used (bound - lo) lo n

/-- Translation contexts in use (R285). -/
def contextsHeld (s : State) : List Nat :=
  (s.streams.filterMap fun e => if e.2.ad.pages.isEmpty then none else some e.2.ad.xctx) ++ (s.nets.map fun e => e.2.xctx)
    ++ s.mem.leaving.map fun h => h.xctx

/-- The lowest free translation context, 256 where none is free. -/
def freeContext (s : State) : Nat := (lowestFree (contextsHeld s) 256 0 1).headD 256

/-- Maps pages at DVA 0 of a context with the low bits of their entries (R285). -/
def mapPages (x bits : Nat) (pages : List Nat) (s : State) : State :=
  if 256 ≤ x then s
  else (((List.range 4096).zip pages)).foldl (fun s e => ptePut x e.1 (BitVec.ofNat 64 (e.2 * 2 ^ 21 + bits)) s) s

/-- 4 KiB units for the prepared inputs of a stream (R145, R271). -/
def inputUnits (s : State) (c : Nat) (ad : AdmitParams) : Nat :=
  granaryUnits s c ad - decoderUnits ad

/-- The candidate with its placement: pages, translation context, units of banks 32 to 47, and of banks 24 to 31 for its
decoder state, the lowest free ones. -/
def placed (s : State) (c : Nat) (p : Packet) (pages units : List Nat) : AdmitParams :=
  let ad := admitOf p
  let ad := { ad with reduction := reductionOf s c ad }
  { ad with
    pages := pickFree s.mem.usedPages pages 0 totalPages (hbmPages ad)
    xctx := freeContext s
    granary4k := granaryUnits s c ad
    units := pickFree s.mem.sealed units (32 * 2048) (48 * 2048) (inputUnits s c ad)
    decUnits := pickFree s.mem.sealed [] (24 * 2048) (32 * 2048) (decoderUnits ad) }

/-- The replay ring in its allocation (R110). -/
def replayOf (ad : AdmitParams) : Replay :=
  let index := 32 * replayEntries ad
  { base := index, dataBytes := replayBytes ad - index, entryCount := replayEntries ad }

/-- Roll Call passed: flow entry, memory and binding are taken, and the admission waits for its round. -/
def beginAdmission (f : Fetched) (ad : AdmitParams) (s : State) : State :=
  let c := fCtx f
  let s := freePinned c s
  let st := streamAt s c
  let flow := if st.op.source < 2 then
    (flowInsert (keyBits (flowKey st.op), BitVec.ofNat 12 c) s.flow).getD s.flow else s.flow
  let s := setStream c { st with ad := ad, ring := replayOf ad } { s with
    flow := flow
    mem := { s.mem with
      usedPages := insNats ad.pages s.mem.usedPages
      used4k := s.mem.used4k + ad.granary4k
      sealed := insNats (ad.units ++ ad.decUnits) s.mem.sealed } }
  addChange { kind := .admission (BitVec.ofNat 12 c), cmd := some (f.ring, f.tag) }
    (wait_ f .boundary (mapPages ad.xctx 7 ad.pages s))

def streamAdmitBody (pages units : List Nat) (f : Fetched) (s : State) : State :=
  let c := fCtx f
  let st := streamAt s c
  match deviceRefuses true true s with
  | some r => answer f r s
  | none =>
    if (st.state ≠ .opened ∧ st.state ≠ .shed) ∨ (pendingAdmit s c).isSome then answer f (stState s c) s
    else if param f.p 20 1 / 16 ≠ st.op.codec + 1 then answer f (failWith 0x100 20) s
    else
      let ad := placed s c f.p pages units
      match rollCall s (loadsBut s c) { ctx := c, ad := ad, windows := none } st.op (networkEntries f.p) with
      | .refuse d r => answer f { status := 0x300, detail := BitVec.ofNat 8 d, result := BitVec.ofNat 96 r } s
      | .pass e => beginAdmission f { ad with engine := e } s

def execStreamAdmit (ring : BitVec 6) (p : Packet) (pages units : List Nat) (s : State) : Res :=
  packetStep (ofOp 0x09) ring p (streamAdmitBody pages units) s

/-! ## STREAM_CLOSE (R49, R50) -/

/-- A pending admission is ended by a close. -/
def abortAdmission (c : Nat) (s : State) : State :=
  match pendingAdmit s c with
  | none => s
  | some x =>
    let s := undoAdmit c (dropChanges (fun y => y.kind == ChangeKind.admission (BitVec.ofNat 12 c)) s)
    match x.cmd with
    | some k => finish k (failWith 0x203 0x0A) s
    | none => s

/-- A stream without a reservation is closed at once; one with a reservation at the boundary that brings a timetable
without it. -/
def streamCloseBody (f : Fetched) (s : State) : State :=
  let c := fCtx f
  let st := streamAt s c
  if st.state = .closed then answer f (stState s c) s
  else
    let s := abortAdmission c s
    let cmd := (f.ring, f.tag)
    if holds st.state then
      addChange { kind := .close (BitVec.ofNat 12 c), cmd := some cmd }
        (wait_ f .boundary s)
    else closeNow c (some cmd) (wait_ f .boundary s)

def execStreamClose (ring : BitVec 6) (p : Packet) (s : State) : Res := packetStep (ofOp 0x0A) ring p streamCloseBody s

/-! ## SHED_RANK_SET (R79) -/

def shedRankBody (f : Fetched) (s : State) : State :=
  let c := fCtx f
  let st := streamAt s c
  if st.state = .closed ∨ st.state = .faulted then answer f (stState s c) s
  else
    let r := BitVec.ofNat 16 (param f.p 8 2)
    answer f {} (setStream c { st with shedRank := r, ad := { st.ad with rank := r } } s)

def execShedRankSet (ring : BitVec 6) (p : Packet) (s : State) : Res := packetStep (ofOp 0x0F) ring p shedRankBody s

/-! ## Sheaves (R112, R115) -/

/-- Members named by the packet. -/
def sheafMembers (p : Packet) : List (BitVec 12) :=
  ((List.range 8).map fun i => param p (10 + 2 * i) 2).filterMap fun v => if v = 0xFFFF then none else some (BitVec.ofNat 12 v)

/-- The eight MEMBERS entries of the packet. -/
def sheafEntries (p : Packet) : List (BitVec 16) := (List.range 8).map fun i => BitVec.ofNat 16 (param p (10 + 2 * i) 2)

/-- A stream belongs to a sheaf in being or being formed. -/
def inSheaf (s : State) (c : Nat) : Bool :=
  (streamAt s c).sheaf.isSome || s.bell.changes.any fun x => match x.kind with
    | .sheafDefine n => (getAt ({} : Sheaf) n s.sheaves).members.any fun m => m.toNat == c
    | _ => false

/-- Whether a stream may become a member. -/
def memberOk (s : State) (c : Nat) : Bool :=
  let st := streamAt s c
  (st.state == .opened || holds st.state) && !inSheaf s c

/-- The DETAIL of ST_SHEAF_INVALID (R53): the index, among the eight MEMBERS entries, of the first that cannot be a member
or names a stream a second time; 0 where no entry is at fault (DESIGN CHOICE). -/
def badMember (s : State) (p : Packet) : Nat :=
  let v (i : Nat) : Nat := param p (10 + 2 * i) 2
  let bad (i : Nat) : Bool := v i != 0xFFFF &&
    (!memberOk s (v i % 4096) || (List.range i).any fun j => v j == v i)
  (((List.range 8).find? bad).getD 0)

/-- Multi-view networks that every member names. -/
def commonFused (s : State) (ms : List (BitVec 12)) : List Nat :=
  match ms with
  | [] => []
  | m :: r => (namedBy s m.toNat).filter fun n => isRole s 2 n && r.all fun k => (namedBy s k.toNat).contains n

/-- SHEAF_DEFINE. DESIGN CHOICE (notes/assumptions/77.md): R112 gives no status for a sheaf number that is in being; it is
ST_SHEAF_INVALID. -/
def sheafDefineBody (f : Fetched) (s : State) : State :=
  match deviceRefuses true true s with
  | some r => answer f r s
  | none =>
    let n := param f.p 8 2
    let ms := sheafMembers f.p
    let bad := ms.length < 2 ∨ ms.eraseDups.length ≠ ms.length ∨ (findAt n s.sheaves).isSome
      ∨ !ms.all (fun m => memberOk s m.toNat)
    if bad then answer f (failWith 0x304 (badMember s f.p)) s
    else match commonFused s ms with
      | [net] =>
        let sheaves := putAt n { members := ms, entries := sheafEntries f.p, network := net } s.sheaves
        match computeTerm s (loadsBut s 0x1000) sheaves with
        | some (h, l, t) => answer f { status := 0x300, detail := 3, result := BitVec.ofNat 96 (h + 65536 * l + 2 ^ 32 * u32 t) } s
        | none => addChange { kind := .sheafDefine n, cmd := some (f.ring, f.tag) } (wait_ f .boundary { s with sheaves })
      | _ => answer f (failWith 0x304 0) s

def execSheafDefine (ring : BitVec 6) (p : Packet) (s : State) : Res := packetStep (ofOp 0x0D) ring p sheafDefineBody s

/-- A change that waits for a timetable while rounds run, and takes effect at once while none does. -/
def changeOrNow (f : Fetched) (k : ChangeKind) (s : State) : State :=
  let c : Change := { kind := k, cmd := some (f.ring, f.tag) }
  let s := wait_ f .boundary s
  if s.bell.running then addChange c s else applyChange c s

def sheafDissolveBody (f : Fetched) (s : State) : State :=
  let n := param f.p 8 2
  if (findAt n s.sheaves).isNone then answer f (failWith 0x100 8) s else changeOrNow f (.sheafDissolve n) s

def execSheafDissolve (ring : BitVec 6) (p : Packet) (s : State) : Res := packetStep (ofOp 0x0E) ring p sheafDissolveBody s

/-! ## ROUND_CONFIG (R56) -/

def roundConfigBody (f : Fetched) (s : State) : State :=
  match firstAdmitted s with
  | some c => answer f (stState s c) s
  | none =>
    let fl := param f.p 9 1
    changeOrNow f (.round (param f.p 8 1) (fl.testBit 0) (fl.testBit 1) (param f.p 10 1)) s

def execRoundConfig (ring : BitVec 6) (p : Packet) (s : State) : Res := packetStep (ofOp 0x12) ring p roundConfigBody s

/-! ## Slips and re-locks (R68) -/

/-- The terms that a changed charge of a stream can break: networks, PER_SAMPLE, lanes, layer time. Flow-table placement
and balance are decided at admission only (R72). -/
def chargePasses (s : State) (c : Nat) (w : Option Cadence) : Bool :=
  let loads := loadsBut s c ++ [{ ctx := c, ad := (streamAt s c).ad, windows := w }]
  setPasses s loads && decide (s.mem.used4k + fixedUnits s + sampleUnits s loads s.sheaves ≤ totalUnits)

/-- SLIP_ROLL_CALL: the stream charged as unlocked. -/
def execSlipRollCall (ctx : BitVec 12) (s : State) : Res :=
  let c := ctx.toNat
  let st := streamAt s c
  .next (if !st.clk.slipCheck || !holds st.state then s
    else
      let ok := chargePasses s c none
      let s := setStream c { st with clk := { st.clk with slipCheck := false } } s
      if ok then addChange { kind := .unlocked ctx } s else s)

/-- RELOCK_ROLL_CALL: the stream charged by its new windows; the LOCKED event tells whether they are adopted. -/
def execRelockRollCall (ctx : BitVec 12) (s : State) : Res :=
  let c := ctx.toNat
  let st := streamAt s c
  .next (if !st.clk.relockCheck || !holds st.state then s
    else
      let s' := setStream c { st with clk := { st.clk with relockCheck := false } } s
      match (if st.clk.locked then st.clk.fit else none) with
      | some w =>
        if chargePasses s c (some w) then addChange { kind := .windows ctx w } (streamEvent c 6 1 0 s')
        else streamEvent c 6 0 0 s'
      | none => streamEvent c 6 0 0 s')

end Sys2Proof.Machine
end

