-- ==== Sys2Proof/Machine/NetLoad.lean ====
section
/-! DEFINITION. Machine/NetLoad.lean: NETWORK_LOAD and NETWORK_UNLOAD: what an image must satisfy (R209 to R214) and
what loading it takes. Reserved bits and fields of an image are ignored (R8). -/

namespace Sys2Proof.Machine

/-! ## Header (R210) -/

/-- The header fields that the device reads. -/
structure ImageHead where
  role : Nat
  iflags : Nat
  body : Nat
  sections : Nat
  layers : Nat
  mask : Nat
  regionCap : Nat
  inputs : Nat
  views : Nat
  recCap : Nat
  progWords : Nat
  scaleUsed : Nat
  deriving DecidableEq, Repr

def headOf (l : List Byte) : ImageHead :=
  { role := numAt l 6 1, iflags := numAt l 7 1 % 32, body := numAt l 8 8, sections := numAt l 16 2
    layers := numAt l 18 2, mask := numAt l 20 2 % 512, regionCap := numAt l 22 2, inputs := numAt l 24 1
    views := numAt l 25 1, recCap := numAt l 26 2, progWords := numAt l 28 2, scaleUsed := numAt l 30 2 }

/-- CHECK_BYTES. -/
def checkBytes (body : Nat) : Nat := roundUp 256 (4 * ceilDiv body 65536)

/-- A number lies in [lo, hi]. -/
def within (lo hi v : Nat) : Bool := decide (lo ≤ v) && decide (v ≤ hi)

/-- MAGIC, FORMAT and every field in its range. -/
def headOk (l : List Byte) (h : ImageHead) : Bool :=
  l.take 4 == [0x4B, 0x56, 0x4E, 0x49] && numAt l 4 2 == 1 && within 0 4 h.role
    && h.body % 256 == 0 && decide (256 ≤ h.body) && within 1 64 h.sections && within 1 4096 h.layers
    && (if h.role = 1 then within 1 8192 h.regionCap else h.regionCap == 0)
    && (if h.role = 0 ∨ h.role = 2 then within 1 8 h.inputs else h.inputs == 0)
    && (if h.role = 2 then within 2 8 h.views else h.views == 0)
    && (if h.iflags.testBit 0 then within 1 8192 h.recCap else h.recCap == 0)
    && within 1 4096 h.progWords && within 0 2048 h.scaleUsed

/-- Check values of the body's blocks of 65,536 bytes. -/
def checksOk (table body : List Byte) : Bool :=
  let bs := pieces 65536 body
  (List.range bs.length).all fun i => crc32c (bs.getD i []) == BitVec.ofNat 32 (numAt table (4 * i) 4)

/-! ## Sections (R211) -/

/-- Section types with a copy for each class. -/
def perClass (t : Nat) : Bool := within 2 9 t

/-- Classes that CLASS_MASK names. -/
def maskClasses (h : ImageHead) : List Nat := (List.range 9).filter fun c => h.mask.testBit c

/-- Bytes of one entry of a section type. -/
def entrySize (h : ImageHead) (t : Nat) : Nat :=
  match t with
  | 1 => 64 | 2 => 32 | 3 => 512 | 4 => 16 | 5 => 16 * h.progWords | 6 => roundUp 4 h.scaleUsed | 7 => 64 | 8 => 32
  | 9 => 16 | 10 => 1 | 11 => 64 | 12 => 8 | 13 => 4 | _ => 16

/-- COUNT as the section types table gives it; above the largest table size the table overflows (R214 0x09). -/
def countOk (h : ImageHead) (e : Section) : Bool :=
  match e.type with
  | 1 => e.count == h.inputs
  | 2 => e.count == h.layers
  | 5 | 6 => e.count == 64 + 8 * e.cls
  | 7 | 8 | 9 | 13 => decide (1 ≤ e.count)
  | 11 | 12 | 14 | 15 => e.count == 1
  | _ => true

def tableOver (e : Section) : Bool :=
  match e.type with
  | 7 => decide (8192 < e.count)
  | 8 | 9 | 13 => decide (4096 < e.count)
  | _ => false

/-- First byte after a section. -/
def sectionEnd (h : ImageHead) (e : Section) : Nat := e.offset + e.count * entrySize h e.type

/-- No two sections overlap, the section table included. -/
def disjointFrom (h : ImageHead) : List Section → Bool
  | [] => true
  | e :: r => (r.all fun f => decide (sectionEnd h e ≤ f.offset) || decide (sectionEnd h f ≤ e.offset)
      || e.count == 0 || f.count == 0) && disjointFrom h r

/-- Each section by itself, duplicates, overlaps. -/
def sectionsOk (h : ImageHead) (secs : List Section) : Bool :=
  (secs.all fun e => within 1 15 e.type && countOk h e && e.offset % 256 == 0
      && decide (16 * h.sections ≤ e.offset ∨ e.count = 0) && decide (sectionEnd h e ≤ h.body)
      && (if perClass e.type then (maskClasses h).contains e.cls else e.cls == 0xFF))
    && (secs.map fun e => (e.type, e.cls)).eraseDups.length == secs.length
    && disjointFrom h secs

/-- Slot templates of a class. -/
def templates (body : List Byte) (secs : List Section) (c : Nat) : List (BitVec 4096) :=
  match findSection secs 3 c with
  | none => []
  | some x => (List.range x.count).map fun i => BitVec.ofNat 4096 (leNat (((sectionBytes body x).drop (512 * i)).take 512))

/-- The tile program of logical core `i` for a class. -/
def imageProgram (h : ImageHead) (body : List Byte) (secs : List Section) (c i : Nat) : List Byte :=
  match findSection secs 5 c with
  | none => []
  | some x => ((sectionBytes body x).drop (i * 16 * h.progWords)).take (16 * h.progWords)

/-- Instructions of a program from an entry point to its END, each with the parameter pointer in force, ENTRY at first: an
instruction stream has no branches, and a loop body follows its CLAIM (R216, R229). -/
def scanProgram (prog : List Byte) : Nat → Nat → Nat → List (Nat × Nat)
  | 0, _, _ => []
  | fuel + 1, a, pb =>
    let w := numAt prog (16 * a) 16
    let pb := if w % 16 = 7 ∧ bitsOf w 10 8 = 5 then bitsOf w 22 11 else pb
    if w % 16 = 7 ∧ bitsOf w 10 8 = 1 then [(w, pb)] else (w, pb) :: scanProgram prog fuel (a + 1) pb

/-- Entry points that slot templates give logical core `i`. -/
def entryPoints (ts : List (BitVec 4096)) (i : Nat) : List Nat :=
  (ts.filterMap fun w =>
    let o := 192 + 128 * (i / 8)
    if slotBits w (o + 1) o = 1 then some (slotBits w (o + 27) (o + 16)) else none).eraseDups

/-- Every instruction that the programs of a class can reach, with its program. -/
def imageInsns (h : ImageHead) (body : List Byte) (secs : List Section) (c : Nat) : List (List Byte × Nat × Nat) :=
  let ts := templates body secs c
  (List.range (64 + 8 * c)).flatMap fun i =>
    let prog := imageProgram h body secs c i
    (entryPoints ts i).flatMap fun e => (scanProgram prog (h.progWords - e) e e).map fun x => (prog, x.1, x.2)

/-- A slot template or tile program of the class starts a transfer. -/
def startsTransfer (ts : List (BitVec 4096)) (insns : List (List Byte × Nat × Nat)) : Bool :=
  (ts.any fun w => (List.range 16).any fun k => slotBits w (2240 + 64 * k + 1) (2240 + 64 * k) == 1)
    || insns.any fun x => x.2.1 % 16 == 9

/-- The DMA descriptors of a class. -/
def imageDma (body : List Byte) (secs : List Section) (c : Nat) : List (BitVec 512) :=
  match findSection secs 7 c with
  | none => []
  | some x => (List.range x.count).map fun i => BitVec.ofNat 512 (leNat (((sectionBytes body x).drop (64 * i)).take 64))

/-- Section types that each image requires once: inputs, weights, tracking, gate, characters, event, Granary needs. -/
def requiredOnce (h : ImageHead) (body : List Byte) (secs : List Section) : List Nat :=
  let reads := (maskClasses h).any fun c => (imageDma body secs c).any fun d => descSrcSpace d == 1
  (if 0 < h.inputs then [1] else []) ++ (if reads then [10] else []) ++ (if h.iflags.testBit 2 then [11] else [])
    ++ (if h.iflags.testBit 1 then [12] else []) ++ (if h.iflags.testBit 3 then [13] else [])
    ++ (if h.iflags.testBit 4 then [14] else []) ++ [15]

/-- Section types that each class requires. -/
def requiredPer (h : ImageHead) (body : List Byte) (secs : List Section) (c : Nat) : List Nat :=
  [2, 3, 4, 5, 9] ++ (if 0 < h.scaleUsed then [6] else []) ++ (if h.role = 1 then [8] else [])
    ++ (if startsTransfer (templates body secs c) (imageInsns h body secs c) then [7] else [])

/-- DETAIL of R211, or none. -/
def sectionVerdict (s : State) (h : ImageHead) (body : List Byte) (secs : List Section) : Option Nat :=
  if !sectionsOk h secs || !(requiredOnce h body secs).all (fun t => (findSection secs t 0xFF).isSome)
      || (h.role == 3 && !h.iflags.testBit 2) then some 1
  else if !((maskClasses h).all fun c => (requiredPer h body secs c).all fun t => (findSection secs t c).isSome)
      || !(maskClasses h).contains (classCode s) then some 2
  else if !((maskClasses h).all fun c => (findSection secs 3 c).map (·.count) == (findSection secs 4 c).map (·.count)) then
    some 1
  else none

/-! ## Layers (R212) -/

/-- Layers of a class. -/
def imageLayers (body : List Byte) (secs : List Section) (c : Nat) : List Layer :=
  match findSection secs 2 c with
  | none => []
  | some x => (List.range x.count).map (layerAt (sectionBytes body x))

/-- A SLACK outside its range, or a layer longer than its chained limit. -/
def slackBad (role : Nat) (l : Layer) : Bool :=
  !within 1250 12500 l.slack || (decide (role < 4) && decide (650000 < layerTime l l.batchLimit + l.slack))

/-- BATCH_LIMIT, SLOTS and OPS in range, slots within section 3, and BARRIER in the first slot template. -/
def layerOk (ts : List (BitVec 4096)) (l : Layer) : Bool :=
  decide (1 ≤ l.batchLimit) && decide (1 ≤ l.slots) && within 1 8 l.ops && decide (l.firstSlot + l.slots ≤ ts.length)
    && slotBarrier (ts.getD l.firstSlot 0)

def layerVerdict (h : ImageHead) (body : List Byte) (secs : List Section) : Option Nat :=
  let each (p : List (BitVec 4096) → Layer → Bool) : Bool :=
    (maskClasses h).any fun c => (imageLayers body secs c).any (p (templates body secs c))
  if each (fun _ l => slackBad h.role l) then some 7
  else if each (fun ts l => !layerOk ts l) then some 1
  else none

/-! ## Parameters (R140, R174, R175, R180, R213, R235) -/

def inputOk (h : ImageHead) (d : InputDesc) : Bool :=
  (if d.cropMode = 1 then within 1 8192 d.w && within 1 4320 d.h
    else d.cropMode == 0 && d.x == 0 && d.y == 0 && d.w == 0 && d.h == 0)
  && within 0 1 d.fit && within 0 1 d.filter && within 0 3 d.colour && within 0 3 d.matrix && within 0 2 d.range
  && within 0 3 d.format && (d.fold == 1 || d.fold == 8) && within 1 8192 d.outW && within 1 4320 d.outH
  && d.shift.all (fun v => decide (-10 ≤ v) && decide (v ≤ 7)) && d.offset.all (within 0 1023) && d.pad.all (within 0 1023)
  && (if h.role = 2 then within 0 7 d.view else d.view == 0)

/-- An FP32 pattern between 0 and `top`, a pattern of a positive number. -/
def fpUpTo (top w : Word) : Bool := decide (w.toNat ≤ top.toNat) || w == 0x80000000

/-- Tracking parameters of a tracked network and of the association network. -/
def trackOk (h : ImageHead) (t : TrackParams) : Bool :=
  if h.role = 3 then
    t.trackCap == 0 && t.joinScore == 0 && within 1 16 t.histMin && within t.histMin 16 t.histDepth && within 1 255 t.maxMiss
      && within 0 1 t.classStrict && fpUpTo 0x3F800000 t.gateIou && fpUpTo 0x3F800000 t.lambda
      && fpUpTo 0x40000000 t.costMax && t.embBytes % 32 == 0 && within 0 96 t.embBytes
  else
    within 0 8192 t.trackCap && fpUpTo 0x3F800000 t.joinScore && t.histMin == 0 && t.histDepth == 0 && t.maxMiss == 0
      && t.classStrict == 0 && t.gateIou == 0 && t.lambda == 0 && t.costMax == 0 && t.embBytes == 0
      && (t.trackCap == 0 || (h.iflags.testBit 0 && h.role != 2))

def trackOf (l : List Byte) : TrackParams :=
  let w (o : Nat) : Word := BitVec.ofNat 32 (numAt l o 4)
  { trackCap := numAt l 0 2, joinScore := w 4, histMin := numAt l 8 1, histDepth := numAt l 9 1, maxMiss := numAt l 10 1
    classStrict := numAt l 11 1, gateIou := w 12, lambda := w 16, costMax := w 20, embBytes := numAt l 24 1 }

/-- One UTF-8 character of one to four bytes, padded with zeros. -/
def utf8Ok (l : List Byte) : Bool :=
  let b (i : Nat) : Nat := numAt l i 1
  let tail (i : Nat) : Bool := within 0x80 0xBF (b i)
  let zero (i : Nat) : Bool := b i == 0
  (within 0 0x7F (b 0) && zero 1 && zero 2 && zero 3)
  || (within 0xC2 0xDF (b 0) && tail 1 && zero 2 && zero 3)
  || (within 0xE0 0xEF (b 0) && tail 1 && tail 2 && zero 3 && !(b 0 == 0xE0 && decide (b 1 < 0xA0))
      && !(b 0 == 0xED && decide (0xA0 ≤ b 1)))
  || (within 0xF0 0xF4 (b 0) && tail 1 && tail 2 && tail 3 && !(b 0 == 0xF0 && decide (b 1 < 0x90))
      && !(b 0 == 0xF4 && decide (0x90 ≤ b 1)))

/-- Ranges of the crop records and row maps of a class. -/
def cropOk (r : CropRec) (log2 : Nat) : Bool :=
  within 1 8192 r.w && within 1 8192 r.h && within 1 16384 r.c && within 0 7 r.fmt && within 0 6 log2 && within 1 4 r.samples

def rowMapOk (b : List Byte) : Bool := numAt b 0 8 % 256 == 0 && numAt b 8 4 == 0 && within 0 3 (numAt b 12 1)

/-- Entries of a section, each as its bytes. -/
def entriesIn (h : ImageHead) (body : List Byte) (secs : List Section) (t c : Nat) : List (List Byte) :=
  match findSection secs t c with
  | none => []
  | some x => (List.range x.count).map fun i => ((sectionBytes body x).drop (i * entrySize h t)).take (entrySize h t)

/-- Kernel, stride, dilation, padding and size within R174, and PAD_VALUE one code of the input format. -/
def windowOk (f : Fmt) (g : Geo) : Bool :=
  within 1 32 g.kh && within 1 32 g.kw && within 1 32 g.sy && within 1 32 g.sx && within 1 32 g.dy && within 1 32 g.dx
    && [g.pt, g.pb, g.pl, g.pr].all (within 0 1023) && within 0 3 g.mode && decide (g.value < 2 ^ fmtBits f)
    && within 1 8192 g.h && within 1 8192 g.w

/-- Geometry of a CONV within R174 and R175. -/
def convOk (f : Fmt) (g : Geo) : Bool := windowOk f g && decide (1 ≤ geoOH g) && decide (1 ≤ geoOW g)

/-- Geometry of a POOL: the fields of R174 and, in every mode, padding below the kernel size (R180); the output of a global
mode is one position. -/
def poolOk (f : Fmt) (mode : Nat) (g : Geo) : Bool :=
  within 0 4 mode && (if 2 < mode then windowOk f g else convOk f g) && decide (g.pt < g.kh) && decide (g.pb < g.kh)
    && decide (g.pl < g.kw) && decide (g.pr < g.kw)

/-- The parameter block of a depthwise convolution: the parameters of R174 in its order, with one input channel a group and
C_out = M × C_in for M from 1 to 8 (R178). -/
def depthOk (f : Fmt) (block : List Byte) : Bool :=
  let p (i : Nat) : Nat := numAt block (4 * i) 4
  let g : Geo := {
    h := p 13, w := p 14, y0 := 0, bandH := p 13, row := 0, oy0 := 0, ox0 := 0, ohT := 0, owT := 0
    pt := p 6, pb := p 7, pl := p 8, pr := p 9, sy := p 2, sx := p 3, dy := p 4, dx := p 5, kh := p 0, kw := p 1
    mode := p 10, value := p 11 }
  convOk f g && within 1 16384 (p 15) && within 1 16384 (p 16) && p 12 == p 15 && p 16 % p 15 == 0
    && within 1 8 (p 16 / p 15)

/-- DETAIL of one instruction: 3, 4, 8 or 9. -/
def insnVerdict (h : ImageHead) (crops descs : Nat) (x : List Byte × Nat × Nat) : Option Nat :=
  let w := x.2.1
  let block (a k : Nat) : List Byte := (x.1.drop (16 * a)).take (16 * k)
  match w % 16 with
  | 3 =>
    let a := bitsOf w 99 88
    if h.progWords < a + 3 then some 9 else if convOk (actFmt w) (geoOf (block a 3) false) then none else some 3
  | 4 =>
    let a := bitsOf w 22 11
    if h.progWords < a + 3 then some 9 else 
      if poolOk (poolFmt w) (bitsOf w 10 8) (geoOf (block a 3) true) then none else some 3
  | 5 => if crops ≤ bitsOf w 19 8 then some 9 else none
  | 6 =>
    if 0x21 ≤ vecFunc w ∧ h.progWords < x.2.2 + paramProg w then some 9
    else if vecFunc w = 0x30 ∧ !depthOk (fmtIn w) (block x.2.2 (paramProg w)) then some 3
    else if usesScale w ∧ 1984 < vecSbase w then some 4
    else if bitsOf w 15 8 = 0x41 ∧ h.iflags.testBit 0 ∧ h.recCap < numAt (block x.2.2 1) 0 4 then some 8
    else none
  | 9 => if descs ≤ bitsOf w 20 8 then some 9 else none
  | _ => none

/-- Scale entries hold SH from -16 up (R161). -/
def scalesOk (h : ImageHead) (body : List Byte) (secs : List Section) (c : Nat) : Bool :=
  (entriesIn h body secs 6 c).all fun e => (e.take h.scaleUsed).all fun b => decide (-16 ≤ signedOf 6 b.toNat)

/-- Indices of slot templates into the image's own tables. -/
def slotTablesOk (h : ImageHead) (descs crops maps : Nat) (w : BitVec 4096) : Bool :=
  ((List.range 16).all fun g =>
    let o := 192 + 128 * g
    slotBits w (o + 1) o != 1 || (decide (slotBits w (o + 27) (o + 16) < h.progWords) && decide (slotBatch w < maps)))
  && ((List.range 16).all fun k =>
    let o := 2240 + 64 * k
    slotBits w (o + 1) o != 1 || decide (slotBits w (o + 31) (o + 8) < descs))
  && (List.range 16).all fun g =>
    let o := 3264 + 32 * g
    slotBits w o o != 1 || decide (slotBits w (o + 31) (o + 16) < crops)

/-- Entries of a section of a class. -/
def countIn (secs : List Section) (t c : Nat) : Nat := match findSection secs t c with | some x => x.count | none => 0

/-- DETAIL of R213, R174, R161, R188 and the table sizes, or none. -/
def paramVerdict (h : ImageHead) (body : List Byte) (secs : List Section) : Option Nat :=
  let once (t : Nat) : List (List Byte) := entriesIn h body secs t 0xFF
  let fields :=
    (once 1).all (fun e => inputOk h (inputAt e 0)) && (once 11).all (fun e => trackOk h (trackOf e))
    && (once 12).all (fun e => within 0 63 (numAt e 0 1) && within 1 65535 (numAt e 2 2) && within 1 255 (numAt e 4 1))
    && (once 13).all utf8Ok && (once 14).all (fun e => within 1 65535 (numAt e 0 2) && within 0 44 (numAt e 2 1))
    && (maskClasses h).all fun c =>
      (entriesIn h body secs 8 c).all (fun e => cropOk (cropRec (BitVec.ofNat 256 (leNat e))) (numAt e 23 1))
      && (entriesIn h body secs 9 c).all rowMapOk
  let insns := (maskClasses h).flatMap fun c =>
    (imageInsns h body secs c).filterMap (insnVerdict h (countIn secs 8 c) (countIn secs 7 c))
  let scales := (maskClasses h).all (scalesOk h body secs)
  let tables := !secs.any tableOver && (maskClasses h).all fun c =>
    (templates body secs c).all (slotTablesOk h (countIn secs 7 c) (countIn secs 8 c) (countIn secs 9 c))
  if !fields || insns.contains 3 then some 3
  else if !scales || insns.contains 4 then some 4
  else if insns.contains 8 then some 8
  else if !tables || insns.contains 9 then some 9
  else none

/-! ## What loading takes (R209, R213, R284) -/

/-- The constant part of a page's pseudo-channel hash (R274). -/
def pageHash (pg : Nat) : Nat := pcOf (pg * 0x200000)

/-- A mirror page for each weight page: the lowest free page whose constant part differs (R284). -/
def mirrorPages (used : List Nat) : List Nat → Option (List Nat)
  | [] => some []
  | w :: r =>
    match (lowestFree used (used.length + 256) 0 256).find? fun m => decide (m < totalPages) && pageHash m != pageHash w with
    | none => none
    | some m => (mirrorPages (insNat m used) r).map (m :: ·)

/-- Pages for weights and mirror: the ones proposed where they are free, distinct and properly paired, else the lowest
free. -/
def weightPages (s : State) (n : Nat) (proposed : List Nat) : Option (List Nat × List Nat) :=
  let used := s.mem.usedPages
  let w := proposed.take n
  let m := proposed.drop n
  if proposed.length = 2 * n ∧ pickFree used proposed 0 totalPages (2 * n) = proposed
      ∧ (w.zip m).all (fun e => pageHash e.1 != pageHash e.2) then some (w, m)
  else if totalPages < used.length + 2 * n then none
  else
    let w := lowestFree used totalPages 0 n
    (mirrorPages (insNats w used) w).map fun m => (w, m)

/-- The first run of `n` free units from `from_` below `top`, among the ascending used units. -/
def freeRun (n top : Nat) : List Nat → Nat → Option Nat
  | [], from_ => if from_ + n ≤ top then some from_ else none
  | u :: r, from_ =>
    if u < from_ then freeRun n top r from_
    else if from_ + n ≤ u then (if from_ + n ≤ top then some from_ else none)
    else freeRun n top r (u + 1)

/-- Units of the image's Granary allotment in banks 32 to 47 (R213). -/
def allotment (s : State) (fixed : Nat) : Option (List Nat) :=
  let n := ceilDiv fixed 4096
  if totalUnits < s.mem.used4k + fixedUnits s + n then none
  else (freeRun n (48 * 2048) s.mem.sealed (32 * 2048)).map fun a => (List.range n).map (a + ·)

/-- The lowest free network handle (R209). -/
def freeHandle (s : State) : Option Nat := ((List.range 64).map (· + 1)).find? fun n => (netAt s n).isNone

/-- An UPSTREAM that a region-fed image may name. -/
def upstreamOk (s : State) (h : ImageHead) (u : Nat) : Bool :=
  match netAt s u with
  | some v => decide (v.role ≤ 1) && v.iflags.getLsbD 0 && v.recCap == h.regionCap
  | none => false

/-- The network that an image describes, without its memory. -/
def networkOf (h : ImageHead) (body : List Byte) (secs : List Section) (upstream : Nat) : Network :=
  let once (t : Nat) : List (List Byte) := entriesIn h body secs t 0xFF
  { role := h.role, iflags := BitVec.ofNat 8 h.iflags, classMask := BitVec.ofNat 16 h.mask, regionCap := h.regionCap
    views := h.views, recCap := h.recCap, progWords := h.progWords, scaleUsed := h.scaleUsed, upstream
    layersByClass := (maskClasses h).map fun c => (c, imageLayers body secs c)
    inputs := (once 1).map (inputAt · 0)
    track := ((once 11).head?.map trackOf).getD {}
    gate := (once 12).head?.map fun e => (numAt e 0 1, numAt e 2 2, numAt e 4 1)
    chars := once 13
    event := (once 14).head?.map fun e => (numAt e 0 2, numAt e 2 1)
    fixed := numAt ((once 15).headD []) 0 8
    perSample := numAt ((once 15).headD []) 8 8
    dma := (maskClasses h).map fun c => (c, imageDma body secs c)
    sections := h.sections, body }

/-- Copies the weights to their pages. -/
def storeWeights (pages : List Nat) (weights : List Byte) (s : State) : State :=
  ((List.range pages.length).zip pages).foldl (fun s e =>
    dpaStore (e.2 * 0x200000) ((weights.drop (e.1 * 0x200000)).take 0x200000) s) s

/-- Weight bytes of an image. -/
def weightsOf (body : List Byte) (secs : List Section) : List Byte :=
  match findSection secs 10 0xFF with
  | some x => (sectionBytes body x).take x.count
  | none => []

/-- The image is loaded under handle `n`: pinned pages and their mirror, Granary allotment, translation context with
TIMED and PINNED entries and no WRITE. -/
def loadImage (n : Nat) (v : Network) (w m units : List Nat) (weights : List Byte) (s : State) : State :=
  let x := freeContext s
  let s := setNet n { v with pages := w, mirror := m, units, xctx := x } s
  let s := { s with mem := { s.mem with
    usedPages := insNats (w ++ m) s.mem.usedPages
    sealed := insNats units s.mem.sealed } }
  mapPages x 13 w (storeWeights m weights (storeWeights w weights s))

/-- Checks and loads an image that host engine 7 has read. -/
def loadVerdict (s : State) (p : Packet) (raw : List Byte) : Except Reply (ImageHead × List Byte × List Section) :=
  let l := padTo (param p 16 4) raw
  let h := headOf l
  let body := (l.drop (256 + checkBytes h.body)).take h.body
  let secs := sectionsOf body h.sections
  let unfit (d : Nat) : Except Reply (ImageHead × List Byte × List Section) := .error (failWith 0x303 d)
  if param p 16 4 ≠ 256 + checkBytes h.body + h.body then .error (failWith 0x100 16)
  else if !headOk l h || !checksOk (l.drop 256) body then unfit 1
  else if h.role ≠ 1 ∧ param p 20 2 ≠ 0xFFFF then .error (failWith 0x100 20)
  else match sectionVerdict s h body secs with
    | some d => unfit d
    | none => match layerVerdict h body secs with
      | some d => unfit d
      | none => match paramVerdict h body secs with
        | some d => unfit d
        | none => .ok (h, body, secs)

def networkLoadBody (image : HostRead (List Byte)) (pages : List Nat) (f : Fetched) (s : State) : State :=
  match deviceRefuses true true s with
  | some r => answer f r s
  | none => match image with
    | .fault c => answer f (failWith 0x104 c.toNat) s
    | .data raw => match loadVerdict s f.p raw with
      | .error r => answer f r s
      | .ok (h, body, secs) =>
        let v := networkOf h body secs (param f.p 20 2)
        let weights := weightsOf body secs
        let k := ceilDiv weights.length 0x200000
        match weightPages s k pages, allotment s v.fixed, freeHandle s with
        | some (w, m), some units, some n =>
          if h.role = 1 ∧ !upstreamOk s h v.upstream then answer f (failWith 0x303 0x0C) s
          else answer f (okWith (n + 65536 * h.layers + 2 ^ 32 * (2 * k) + 2 ^ 64 * h.mask)) (loadImage n v w m units weights s)
        | some _, some _, none => answer f (failWith 0x303 0x0B) s
        | _, _, _ => answer f (failWith 0x303 0x0A) s

def execNetworkLoad (ring : BitVec 6) (p : Packet) (image : HostRead (List Byte)) (pages : List Nat) (s : State) : Res :=
  packetStep (ofOp 0x10) ring p (networkLoadBody image pages) s

/-! ## NETWORK_UNLOAD (R38, R209) -/

/-- State code of the first stream that uses a network: admitted, or about to be. -/
def networkUser (s : State) (n : Nat) : Option Nat := (s.streams.find? fun e => (namedBy s e.1).contains n).map (·.1)

/-- The image is gone, and gives back what it holds (R286). -/
def unloadImage (n : Nat) (v : Network) (s : State) : State :=
  giveBack { xctx := v.xctx, pages := v.pages ++ v.mirror, units := v.units } { s with nets := dropAt n s.nets }

def networkUnloadBody (f : Fetched) (s : State) : State :=
  let n := param f.p 8 2
  match netAt s n with
  | none => answer f (failWith 0x100 8) s
  | some v => match networkUser s n with
    | some c => answer f (stState s c) s
    | none =>
      if s.nets.any (fun e => e.2.upstream == n) || s.jobs.any (fun j => j.network == n) then answer f (failWith 0x200 0) s
      else answer f {} (unloadImage n v s)

def execNetworkUnload (ring : BitVec 6) (p : Packet) (s : State) : Res :=
  packetStep (ofOp 0x11) ring p networkUnloadBody s

end Sys2Proof.Machine
end

