-- ==== Sys2Proof/Machine/Assembly.lean ====
section
/-! DEFINITION. Machine/Assembly.lean: how Bailiff assembles a timetable area from the network images (R199 to R201, R211,
R212, R225, R237), and the command that marks an area complete (R202). -/

namespace Sys2Proof.Machine

/-! ## What an area serves -/

/-- The machine that an area is assembled for: NEXT for the machine once its changes have taken effect (R21), STANDBY for the
next class down (R80). -/
def servedState (standby : Bool) (s : State) : State :=
  let d := if standby then nextClassDown s
    else applyChanges { s with bell := { s.bell with changes := s.bell.changes.map fun x => { x with included := true } } }
  { d with bell := { d.bell with set := if standby then plannedSet s else d.bell.set } }

/-- The streams that it serves: those that hold reservations, for STANDBY without those of the shed list (R80). -/
def servedLoads (standby : Bool) (s : State) : List Load :=
  let d := servedState standby s
  (loadsBut d 4096).filter fun l => holds (streamAt d l.ctx).state
    && !(standby && s.bell.standbyShed.any fun c => c.toNat == l.ctx)

/-! ## Where an image's parts stand in an area (R211) -/

/-- First tile-program word, scale entry, and entry of the DMA, crop and row-map tables of a network. -/
structure NetBase where
  net : Nat
  prog : Nat
  scale : Nat
  dma : Nat
  crop : Nat
  rowMap : Nat
  deriving DecidableEq, Repr

/-- The image of a loaded network, as its checks read it. -/
def imageOf (v : Network) : ImageHead :=
  { headOf [] with role := v.role, sections := v.sections, progWords := v.progWords, scaleUsed := v.scaleUsed }

/-- The sections of a loaded network. -/
def netSections (v : Network) : List Section := sectionsOf v.body v.sections

/-- The entries of one per-class section of a network, for the present class. -/
def netEntries (s : State) (v : Network) (t : Nat) : List (List Byte) :=
  entriesIn (imageOf v) v.body (netSections v) t (classCode s)

/-- Networks one after another in ascending handle, each behind those before it. -/
def netBases (s : State) : List Nat → NetBase → List NetBase
  | [], _ => []
  | n :: r, b =>
    match netAt s n with
    | none => netBases s r b
    | some v => { b with net := n } :: netBases s r { b with
        prog := b.prog + v.progWords
        scale := b.scale + v.scaleUsed
        dma := b.dma + (netEntries s v 7).length
        crop := b.crop + (netEntries s v 8).length
        rowMap := b.rowMap + (netEntries s v 9).length }

/-- The networks that an area runs, ascending: those that its streams name, and the best-effort ones given. -/
def areaNets (loads : List Load) (bestEffort : List Nat) : List Nat := insNats bestEffort (namedNets loads)

/-! ## Relocation (R211) -/

/-- Adds to bits [hi:lo] of a number. -/
def addBits (v hi lo x : Nat) : Nat := setBits v hi lo (bitsOf v hi lo + x)

/-- An instruction with its tile-program address, its table entry or its scale entry relocated. -/
def relocWord (b : NetBase) (w : Nat) : Nat :=
  match w % 16 with
  | 1 => if bitsOf w 9 8 = 1 then addBits w 37 27 b.scale else w
  | 3 => addBits w 99 88 b.prog
  | 4 => addBits w 22 11 b.prog
  | 5 => addBits w 19 8 b.crop
  | 6 => addBits w 96 86 b.scale
  | 7 => if bitsOf w 10 8 = 5 then addBits w 22 11 b.prog else w
  | 9 => addBits w 20 8 b.dma
  | _ => w

/-- Addresses of the instructions of a program from an entry point to its END. -/
def insnAddrs (prog : List Byte) : Nat → Nat → List Nat
  | 0, _ => []
  | fuel + 1, a =>
    let w := numAt prog (16 * a) 16
    if w % 16 = 7 ∧ bitsOf w 10 8 = 1 then [a] else a :: insnAddrs prog fuel (a + 1)

/-- The program of logical core `i` of a network, relocated; geometry and parameter blocks stay as they are. -/
def relocProgram (s : State) (v : Network) (b : NetBase) (i : Nat) : List Byte :=
  let prog := imageProgram (imageOf v) v.body (netSections v) (classCode s) i
  let insns := (entryPoints (templates v.body (netSections v) (classCode s)) i).flatMap fun e =>
    insnAddrs prog (v.progWords - e) e
  (List.range v.progWords).flatMap fun a =>
    let w := numAt prog (16 * a) 16
    leBytes 16 (if insns.contains a then relocWord b w else w)

/-- The core image of logical core `i`: the programs of every network, then their scale entries (R200). -/
def coreImage (s : State) (bases : List NetBase) (i : Nat) : List Byte :=
  let nets := bases.filterMap fun b => (netAt s b.net).map fun v => (b, v)
  padTo 65536 (nets.flatMap fun e => relocProgram s e.2 e.1 i)
    ++ padTo 2048 (nets.flatMap fun e => padTo e.2.scaleUsed ((netEntries s e.2 6).getD i []))

/-- The entry of the core image table: none for a core outside the mapping. -/
def imageEntry (addr : Nat) (image : List Byte) : BitVec 128 :=
  BitVec.ofNat 128 (addr % 2 ^ 40 + 2 ^ 64 * (crc32c image).toNat + 2 ^ 96)

/-- Granary offset of a network's allotment (R213). -/
def allotBase (v : Network) : Nat := 4096 * v.units.headD 0

/-- A DMA descriptor with its context, and its Granary ends relocated (R290). -/
def relocDesc (v : Network) (d : BitVec 512) : BitVec 512 :=
  let w := setBits d.toNat 23 16 v.xctx
  let w := if bitsOf w 7 0 = 0 then addBits w 127 64 (allotBase v) else w
  BitVec.ofNat 512 (if bitsOf w 15 8 = 0 then addBits w 191 128 (allotBase v) else w)

/-- A crop record with its Granary offsets relocated (R213). -/
def relocCrop (v : Network) (l : List Byte) : BitVec 256 :=
  let w := addBits (leNat l) 31 0 (allotBase v / 256)
  let w := if w.testBit 63 then w else addBits w 62 32 (allotBase v / 256)
  let w := addBits w 95 64 (allotBase v / 32)
  BitVec.ofNat 256 (addBits w 127 96 (allotBase v / 256))

/-- A row-map entry with its offset relocated and the batch of R71. -/
def relocRowMap (v : Network) (batch : Nat) (l : List Byte) : BitVec 128 :=
  BitVec.ofNat 128 (setBits (addBits (leNat l) 63 0 (allotBase v)) 95 64 batch)

/-! ## Slots -/

/-- Physical group `p` of a template's core-group and crop fields: the cores that R225 maps into it. The fields of one group
are those of the lowest logical group with an action there, and FINISH the largest (DESIGN CHOICE,
notes/assumptions/91.md). -/
def mapGroup (phys : Nat → Nat) (w : BitVec 4096) (p : Nat) : Nat × Nat :=
  let cores (mask g : Nat) : List Nat := ((maskBits mask).map fun j => phys (8 * g + j)).filter fun c => c / 8 == p
  let runs := (List.range 16).filter fun g => groupAction (slotGroup w g) ≠ 0 ∧ (cores (groupMask (slotGroup w g)) g) ≠ []
  let crops := (List.range 16).filter fun g => slotCrop w g % 2 = 1 ∧ (cores (bitsOf (slotCrop w g) 15 8) g) ≠ []
  let mask (l : List Nat) : Nat := ((l.eraseDups).map fun c => 2 ^ (c % 8)).foldl (· + ·) 0
  let finish := ((runs ++ crops).map fun g => groupFinish (slotGroup w g)).foldl max 0
  let runMask := mask (runs.flatMap fun g => cores (groupMask (slotGroup w g)) g)
  let cropMask := mask (crops.flatMap fun g => cores (bitsOf (slotCrop w g) 15 8) g)
  let field := match runs with
    | g :: _ => setBits (slotGroup w g) 15 8 runMask
    | [] => 0
  (setBits field 55 32 finish,
    match crops with
    | g :: _ => setBits (slotCrop w g) 15 8 cropMask
    | [] => 0)

/-- Physical groups of the cores that a template wakes. -/
def mapWake (phys : Nat → Nat) (w : BitVec 4096) : Nat :=
  let groups := ((List.range 128).filter fun c => (slotWake w).testBit (c / 8)).map fun c => phys c / 8
  ((groups.eraseDups).map fun g => 2 ^ g).foldl (· + ·) 0

/-- A slot template, instantiated, at its place in the timetable: START and LAYER of the layer, entries behind those of the
networks before it, and physical cores. -/
def placeSlot (phys : Nat → Nat) (b : NetBase) (layer start : Nat) (w : BitVec 4096) : BitVec 4096 :=
  let v := setBits w.toNat 23 0 (start + slotStart w)
  let v := setBits v 47 32 layer
  let v := addBits v 59 48 b.rowMap
  let v := setBits v 79 64 (mapWake phys w)
  let v := (List.range 16).foldl (fun v p =>
    let m := mapGroup phys w p
    let run := if m.1 % 4 = 1 then addBits m.1 27 16 b.prog else m.1
    let crop := if m.2 % 2 = 1 then addBits m.2 31 16 b.crop else m.2
    setBits (setBits v (192 + 128 * p + 127) (192 + 128 * p) run) (3264 + 32 * p + 31) (3264 + 32 * p) crop) v
  BitVec.ofNat 4096 ((List.range 16).foldl (fun v c =>
    if slotDma w c % 4 = 1 then addBits v (2240 + 64 * c + 31) (2240 + 64 * c + 8) b.dma else v) v)

/-- A track-store operation's slot (R237): OP, ARG, and FINISH 2,500 fc above its worst-case time. -/
def trackSlot (op arg time layer start : Nat) : BitVec 4096 :=
  BitVec.ofNat 4096 (start + 2 ^ 28 + 2 ^ 32 * layer + 2 ^ 3776 * (op + 2 ^ 8 * arg + 2 ^ 32 * (time + 2500)))

/-- A GAP slot; its GAP_END is set once every slot has its place. -/
def gapSlot (start : Nat) (reserve : Bool) : BitVec 4096 :=
  BitVec.ofNat 4096 (start + 2 ^ 24 + (if reserve then 2 ^ 104 else 0))

/-- A WORK slot that carries only a WAKE (R199). -/
def wakeSlot (start group : Nat) : BitVec 4096 := BitVec.ofNat 4096 (start + 2 ^ (64 + group))

/-- The slot with its CHECK (R191). -/
def sealSlot (w : BitVec 4096) : BitVec 4096 :=
  let v := w.toNat % 2 ^ 4064
  BitVec.ofNat 4096 (v + 2 ^ 4064 * (crc32c ((leBytes 512 v).take 508)).toNat)

/-! ## Placing (R201) -/

/-- A layer at its place: the fc it has, and its slots. -/
structure Placing where
  start : Nat
  stop : Nat
  slots : List (BitVec 4096)
  deriving DecidableEq, Repr

/-- The slots of a piece of the compute term: a layer's templates at the batch of its network, or a track-store operation's
slot; ROWS names the row map of the association network. -/
def pieceSlots (s : State) (loads : List Load) (bases : List NetBase) (p : Piece) (layer start : Nat) : List (BitVec 4096) :=
  if p.1 = 0xFFFF then
    let assoc := (bases.find? fun b => isAssoc s b.net).elim 0 (·.rowMap)
    [trackSlot p.2.1 (if p.2.1 = 1 then assoc else 0) p.2.2.1 layer start]
  else match netAt s p.1, bases.find? fun b => b.net = p.1 with
    | some v, some b => match (layersOf s v)[p.2.1]? with
      | some l => (layerSlots s v l (batchOf s loads s.sheaves 64 p.1)).map (placeSlot (physOf s) b layer start)
      | none => []
    | _, _ => []

/-- The layers one after another from `t` on, with the idle time that Bailiff leaves before each. -/
def placePieces (s : State) (loads : List Load) (bases : List NetBase) : List Piece → List Nat → Nat → Nat → List Placing
  | [], _, _, _ => []
  | p :: r, idle, layer, t =>
    let start := t + idle.headD 0
    let stop := start + p.2.2.1
    { start, stop, slots := pieceSlots s loads bases p layer start } :: placePieces s loads bases r idle.tail (layer + 1) stop

/-- The GAP slots between layers that lie 20 µs or more apart. -/
def gapsBetween : List Placing → List (BitVec 4096)
  | a :: b :: r => (if a.stop + 25000 ≤ b.start then [gapSlot a.stop false] else []) ++ gapsBetween (b :: r)
  | _ => []

/-- Puts a slot into a list that rises by START. -/
def insertSlot (w : BitVec 4096) : List (BitVec 4096) → List (BitVec 4096)
  | [] => [w]
  | v :: r => if slotStart w < slotStart v then w :: v :: r else v :: insertSlot w r

/-- Wakes a group at `t` or as soon before it as a slot can: in the WORK slot that lies there, else in one of its own.
`before` holds the slots ahead, latest first. -/
def addWake (g : Nat) : Nat → List (BitVec 4096) → List (BitVec 4096)
  | t, [] => [wakeSlot t g]
  | t, v :: r =>
    if slotStart v + 2 ≤ t then wakeSlot t g :: v :: r
    else if slotStart v ≤ t then
      (if slotKind v = 0 then
        BitVec.ofNat 4096 (setBits v.toNat 79 64 (slotWake v ||| 2 ^ g)) :: r
      else v :: addWake g (slotStart v - 2) r)
    else v :: addWake g (min t (slotStart v - 2)) r

/-- The groups of the cores that a slot runs and nothing has woken 10,000 fc before. -/
def asleepGroups (before : List (BitVec 4096)) (w : BitVec 4096) : List Nat :=
  (((slotCores id w 1).filter fun c =>
    !((before.takeWhile fun v => !(slotCores id v 2).contains c).any fun v =>
      (slotWake v).testBit (c / 8) && decide (slotStart v + 10000 ≤ slotStart w))).map (· / 8)).eraseDups

/-- Each WAKE that the slots lack, 10,000 fc before the first RUN that needs it (R199); latest slot first. -/
def withWakes : List (BitVec 4096) → List (BitVec 4096) → List (BitVec 4096)
  | [], before => before
  | w :: r, before =>
    withWakes r (w :: (asleepGroups before w).foldl (fun l g => addWake g (slotStart w - 10000) l) before)

/-- GAP_END of each gap: the next WORK or FALLOW slot, and of the fault reserve's the fallow slot. -/
def withGapEnds (fallow : Nat) : List (BitVec 4096) → List (BitVec 4096)
  | [] => []
  | w :: r =>
    let next := (r.find? fun v => slotKind v = 0 ∨ slotKind v = 2).elim fallow slotStart
    (if slotKind w = 1 then BitVec.ofNat 4096 (setBits w.toNat 103 80 (if slotGapReserve w then fallow else next)) else w)
      :: withGapEnds fallow r

/-- The slot array: layers, gaps, the fault reserve's gap, the fallow slot, and END at R. -/
def areaSlots (s : State) (loads : List Load) (bases : List NetBase) (idle : List Nat) : List (BitVec 4096) :=
  let placed := placePieces s loads bases (computePieces s loads s.sheaves) idle 0 125000
  let r := roundLen s
  let fallow := r - 62500
  let reserve := if s.bell.set.reserve then [gapSlot (fallow - 750000) true] else []
  let slots := (placed.flatMap (·.slots) ++ gapsBetween placed ++ reserve).foldl (fun l w => insertSlot w l) []
  (withGapEnds fallow (withWakes (slots ++ [bareSlot 2 fallow]) []).reverse).map sealSlot ++ [sealSlot (bareSlot 3 r)]

/-! ## The area -/

/-- The area as R201 and R211 have Bailiff assemble it. -/
def assemble (standby : Bool) (p : AreaPlan) (s : State) : AreaContent :=
  let d := servedState standby s
  let loads := servedLoads standby s
  let bases := netBases d (areaNets loads p.bestEffort)
    { net := 0, prog := 0, scale := 0, dma := 0, crop := 0, rowMap := 0 }
  let nets := bases.filterMap fun b => (netAt d b.net).map fun v => (b.net, v)
  let batch (n : Nat) : Nat := match d.jobs.find? fun j => j.network = n with
    | some j => j.batch
    | none => batchOf d loads d.sheaves 64 n
  let cores := classCores d
  let image (c : Nat) : Option (List Byte) := ((List.range cores.length).find? fun i => cores.getD i 128 = c).map (coreImage d bases)
  { slots := areaSlots d loads bases p.idle
    lanes := p.lanes
    dma := nets.flatMap fun e => (netEntries d e.2 7).map fun l => relocDesc e.2 (BitVec.ofNat 512 (leNat l))
    crops := nets.flatMap fun e => (netEntries d e.2 8).map (relocCrop e.2)
    rowMaps := nets.flatMap fun e => (netEntries d e.2 9).map (relocRowMap e.2 (batch e.1))
    rowNets := nets.flatMap fun e => (netEntries d e.2 9).map fun _ => e.1
    images := (List.range 128).map fun c => (image c).elim 0 (imageEntry (p.images.getD c 0))
    coreImages := (List.range 128).map fun c => (image c).getD []
    bases := bases.map fun b => { net := b.net, prog := b.prog, dma := b.dma, crop := b.crop, rowMap := b.rowMap } }

/-- The contents that a write of an area leaves. -/
def areaOf (standby : Bool) (w : AreaWrite) (s : State) : AreaContent :=
  match w with
  | .assembled p => assemble standby p s
  | .other c => c

/-- Stores the core images of an area at the addresses of its core image table (R200). -/
def storeImages (c : AreaContent) (s : State) : State :=
  ((List.range 128).zip c.images).foldl (fun s e =>
    if e.2.getLsbD 96 then dpaStore (bitsOf e.2.toNat 39 0) (c.coreImages.getD e.1 []) s else s) s

/-- The words of an area as its writing leaves them: without errors. -/
def cleanArea (a : Nat) (s : State) : State :=
  let lo := granaryBase + (58 + 2 * a) * 0x800000
  let out (x : Nat) : Bool := decide (x < lo) || decide (lo + 0x1000000 ≤ x)
  { s with mem := { s.mem with dpa := { s.mem.dpa with
    cells := s.mem.dpa.cells.filter fun e => out e.1
    syn := s.mem.dpa.syn.filter fun e => out e.1 } } }

/-- TIMETABLE_MARK_COMPLETE: Bailiff has written an area as NEXT or STANDBY, and the check starts. -/
def execTimetableMarkComplete (standby : Bool) (area : BitVec 2) (w : AreaWrite) (s : State) : Res :=
  let other := if standby then s.bell.next else s.bell.standby
  let mine := if standby then s.bell.standby else s.bell.next
  let c := areaOf standby w s
  .next (if area == s.bell.active || area.toNat == 3 || mine.state == 2 || (other.state != 0 && other.area == area) then s
    else
      let s := if mine.state != 0 && mine.area != area then
        { s with bell := { s.bell with areas := dropAt mine.area.toNat s.bell.areas } } else s
      let s := storeImages c (cleanArea area.toNat { s with bell := { s.bell with areas := putAt area.toNat c s.bell.areas } })
      if standby then { s with bell := { s.bell with standby := { state := 2, area } } }
      else { s with bell := { s.bell with
        next := { state := 2, area }
        changes := s.bell.changes.map fun x => { x with included := true } } })

end Sys2Proof.Machine
end

