-- ==== Sys2Proof/Machine/Video.lean ====
section
/-! DEFINITION. Machine/Video.lean: decoding of one picture (R122 to R139), preparation of one network input (R140 to
R146), and the watchdogs of both. -/

namespace Sys2Proof.Machine

/-! ## A stream's frame buffers in its pinned pages (R125, R126) -/

/-- The DPA of a byte of a stream's pinned memory, by offset from its first page. -/
def streamDpa (ad : AdmitParams) (off : Nat) : Nat := ad.pages.getD (off / 0x200000) 0 * 0x200000 + off % 0x200000

def readWords (ad : AdmitParams) (off : Nat) : Nat → State → List (Word × Bool) × State
  | 0, s => ([], s)
  | n + 1, s =>
    let r := dpaReads 0 (streamDpa ad off) 1 s
    let t := readWords ad (off + 4) n r.2
    (r.1 ++ t.1, t.2)

def writeWords (ad : AdmitParams) (off : Nat) : List (Word × Bool) → State → State
  | [], s => s
  | w :: r, s => writeWords ad (off + 4) r (dpaWrites (streamDpa ad off) [w] s)

/-- Row pitch and the two planes of a buffer for pictures up to `w` by `h`. -/
def lumaPitch (w b : Nat) : Nat := roundUp 256 (w * b)
def chromaPitch (w b : Nat) : Nat := roundUp 256 (ceilDiv w 2 * 2 * b)
def lumaBytes (w h b : Nat) : Nat := roundUp 0x200000 (lumaPitch w b * h)

/-- Offset of frame buffer `i`, and of reduced-copy buffer `k`. -/
def frameOffset (ad : AdmitParams) (i : Nat) : Nat := replayBytes ad + i * bufferBytes ad.maxW ad.maxH (sampleBytes ad)
def copyW (ad : AdmitParams) : Nat := ceilDiv ad.maxW (max 1 ad.reduction)
def copyH (ad : AdmitParams) : Nat := ceilDiv ad.maxH (max 1 ad.reduction)
def copyOffset (ad : AdmitParams) (k : Nat) : Nat :=
  frameOffset ad 10 + k * bufferBytes (copyW ad) (copyH ad) (sampleBytes ad)

/-- Stores rows of bytes at a pitch. -/
def storeRows (ad : AdmitParams) (off pitch : Nat) (rows : List (List Byte)) (s : State) : State :=
  ((List.range rows.length).zip rows).foldl (fun s e =>
    writeWords ad (off + e.1 * pitch) ((byteWords e.2).map fun w => (w, false)) s) s

/-- `n` rows of `len` bytes cut from a byte list. -/
def rowsOf (n len : Nat) (l : List Byte) : List (List Byte) :=
  (List.range n).map fun y => padTo len ((l.drop (y * len)).take len)

/-- The grey of a plane with no picture, in samples of `b` bytes: 128, or 512 for 10-bit samples (R126, R133). An 8-bit picture
of a stream of BIT_DEPTH 10 keeps its 8-bit values: DESIGN CHOICE (notes/assumptions/71.md). -/
def greyWord (b depth : Nat) : Word := if b = 1 then 0x80808080 else if depth = 8 then 0x00800080 else 0x02000200

/-- Rows of samples with the bits above the sample's value forced to zero (R126). -/
def maskRows (b depth : Nat) (rows : List (List Byte)) : List (List Byte) :=
  if b = 1 then rows
  else rows.map fun r => ((List.range r.length).zip r).map fun e =>
    if e.1 % 2 = 0 then e.2 else e.2 &&& (if depth = 8 then 0 else 3)

/-- Chroma rows of a 4:2:2 picture at half height: the mean of two rows, rounded half up (R126). -/
def meanRows : List (List Byte) → List (List Byte)
  | a :: b :: r => ((a.zip b).map fun e => BitVec.ofNat 8 ((e.1.toNat + e.2.toNat + 1) / 2)) :: meanRows r
  | l => l

/-! ## The decisions of R132 to R135 -/

/-- The reference picture held for a FRAME_SEQ. -/
def refOf (refs : List RefPic) (seq : Nat) : Option RefPic := refs.find? fun r => r.seq = seq

/-- The nearest available reference by output position, the earlier on a tie (R133). -/
def nearestRef (pos : Int) : List RefPic → Option RefPic
  | [] => none
  | r :: l => match nearestRef pos l with
    | none => some r
    | some q =>
      let dr := (r.outPos - pos).natAbs
      let dq := (q.outPos - pos).natAbs
      if dr < dq ∨ (dr = dq ∧ r.outPos ≤ q.outPos) then some r else some q

/-- A block that no slice covers. -/
def bareBlock : BlockFacts :=
  { covered := false, missing := false, syntaxErr := false, units := 0, intra := false, refs := [], mv := 0, levels := 0 }

/-- A block decoded from the picture's own data; `e` is the entropy budget. -/
def ownBlock (e : Nat) (b : BlockFacts) : Bool := b.covered && !b.missing && !b.syntaxErr && decide (b.units ≤ e)

/-- The block's prediction reads a substituted reference, or a tainted block of one it has (R134). -/
def badRefs (refs : List RefPic) (b : BlockFacts) : Bool :=
  b.refs.any fun x => match refOf refs x.seq with
    | none => true
    | some r => r.taint.contains x.block
def lacksRef (refs : List RefPic) (b : BlockFacts) : Bool := b.refs.any fun x => (refOf refs x.seq).isNone

/-- The reference that a prediction reads: the one named, or its substitute (R133). -/
def usedRef (refs : List RefPic) (x : RefUse) : Option RefPic :=
  match refOf refs x.seq with
  | some r => some r
  | none => nearestRef x.pos refs

/-- KIND and LEVEL of a block (R138); `mv` counts sixteenths of a luma pixel. -/
def blockActivity (tainted : Bool) (b : BlockFacts) : Nat × Nat :=
  if tainted then (3, 63)
  else if b.intra then (0, 63)
  else if b.mv ≠ 0 ∨ b.levels ≠ 0 then (1, min 63 (min 31 (b.mv / 16) + min 32 (4 * bitLen b.levels)))
  else (2, 0)

/-- What decoding the blocks of one picture gives. -/
structure Decoded where
  report : DecReport
  taint : List Nat
  concealed : List Nat
  kinds : List Nat
  levels : List Nat
  deriving DecidableEq, Repr

/-- Orders 7 to 13 over a picture's blocks; `short` the access unit lacks bytes, `disc` it carries DISCONTINUITY, `poison` the
blocks for which a read returned poisoned data. -/
def decodeBlocks (refs : List RefPic) (e : Nat) (short disc : Bool) (p : PicFacts) (poison : List Nat)
    (blocks : List BlockFacts) : Decoded :=
  let ix := (List.range blocks.length).zip blocks
  let own (x : Nat × BlockFacts) : Bool := ownBlock e x.2 && !poison.contains x.1
  let cov := if blocks.isEmpty then 0 else (ix.filter own).length * 255 / blocks.length
  let gone := (ix.filter fun x => !own x).map (·.1)
  let bad := (ix.filter fun x => !own x || badRefs refs x.2).map (·.1)
  let taint := if p.intraOnly && cov == 255 then [] else bad
  let low := b2n (short || blocks.any (·.missing)) + 2 * b2n (blocks.any (·.syntaxErr))
    + 4 * b2n (blocks.any (lacksRef refs)) + 8 * b2n (blocks.any fun b => !b.covered)
    + 16 * b2n (blocks.any fun b => b.covered && decide (e < b.units))
  let causes := low + 32 * b2n (!taint.isEmpty) + 64 * b2n p.profileMismatch + 128 * b2n disc
  let outcome := if !poison.isEmpty then 7 else if cov = 0 then 6 else if low ≠ 0 then 1 else 0
  let act := ix.map fun x => blockActivity (bad.contains x.1) x.2
  { report := { outcome := BitVec.ofNat 4 outcome, causes := BitVec.ofNat 8 causes, coverage := BitVec.ofNat 8 cov }
    taint := taint, concealed := gone, kinds := act.map (·.1), levels := act.map (·.2) }

/-- Parameter sets after those of an access unit are stored. -/
def storeSets (held new_ : List ParamSet) : List ParamSet :=
  new_.foldl (fun l p => l.filter (fun q => q.id ≠ p.id) ++ [p]) held

/-- Chroma formats that a profile allows (R121). -/
def chromaOk (profile : Byte) (chroma : Nat) : Bool :=
  match profile.toNat with
  | 0x13 | 0x31 => chroma == 0 || chroma == 2
  | 0x41 => chroma == 0 || chroma == 1
  | _ => chroma == 0

/-- A tool that the table of R122 handles as unsupported syntax. -/
def unsupported (codec : Nat) (a : ParamSet) (p : PicFacts) : Bool :=
  decide (8 < a.refsRequired) ||
    match codec with
    | 0 => !a.frameMbsOnly || p.partitioned || decide (8 < a.sliceGroups)
    | 1 => a.fieldSeq || decide (0 < p.layerId)
    | 2 => a.operatingPoint != 0 || a.largeScaleTile || decide (1 < a.layers)
    | _ => false

/-- Orders 4 to 6: the active set, or the outcome of the refusal. -/
def refusalOf (codec : Nat) (ad : AdmitParams) (sets : List ParamSet) (p : PicFacts) : Except Nat ParamSet :=
  match p.active.bind fun i => sets.find? fun q => q.id = i ∧ q.valid with
  | none => .error 2
  | some a =>
    if unsupported codec a p then .error 3
    else if ad.maxW < a.width ∨ ad.maxH < a.height ∨ ad.bitDepth < a.bitDepth ∨ !chromaOk ad.profile a.chroma then .error 4
    else .ok a

/-- The blocks of a picture of the active set's size; only where bytes of the access unit are missing does a block lack
some. -/
def blocksOfPic (a : ParamSet) (short : Bool) (blocks : List BlockFacts) : List BlockFacts :=
  let n := ceilDiv a.width 16 * ceilDiv a.height 16
  (blocks.take n ++ List.replicate (n - blocks.length) bareBlock).map fun b => { b with missing := b.missing && short }

/-- References after a picture: the ones its standard keeps, then itself if it is one, or if it is not passed on (orders 12
and 13); at most 8 (R122). -/
def refsAfter (refs : List RefPic) (kept : List Nat) (isRef : Bool) (me : RefPic) : List RefPic :=
  let l := (refs.filter fun r => kept.contains r.seq) ++ (if isRef then [me] else [])
  l.drop (l.length - 8)

/-! ## Frame buffers -/

/-- The lowest frame buffer that no reference and no picture awaiting preparation uses. -/
def freeBuffer (s : State) (c : Nat) (refs : List RefPic) : Nat :=
  let waiting := (s.frames ++ s.bell.frameList).filter fun f => f.ctx.toNat = c ∧ f.stage = .decoded ∧ passedOn f
  let used := refs.map (·.buffer) ++ waiting.map (·.buffer)
  ((List.range 10).find? fun i => !used.contains i).getD 9

/-- Where block `i` of a picture lies in a frame buffer: offset and words of each of its rows, luma and chroma. -/
def blockSpans (ad : AdmitParams) (a : ParamSet) (i : Nat) : List (Nat × Nat) :=
  let b := sampleBytes ad
  let bw := max 1 (ceilDiv a.width 16)
  let x := i % bw
  let y := i / bw
  let chroma := lumaBytes ad.maxW ad.maxH b
  let lp := lumaPitch ad.maxW b
  let cp := chromaPitch ad.maxW b
  let wide := ceilDiv (min 16 (a.width - 16 * x) * b) 4
  let wideC := ceilDiv (min 8 (ceilDiv a.width 2 - 8 * x) * 2 * b) 4
  ((List.range (min 16 (a.height - 16 * y))).map fun r => ((16 * y + r) * lp + 16 * x * b, wide))
    ++ (List.range (min 8 (ceilDiv a.height 2 - 8 * y))).map fun r => (chroma + (8 * y + r) * cp + 16 * x * b, wideC)

/-- Conceals block `i` in the buffer at `dst`: from the co-located block of a reference, or grey; whether a read returned
poisoned data. -/
def concealBlock (ad : AdmitParams) (a : ParamSet) (src : Option Nat) (dst i : Nat) (s : State) : Bool × State :=
  (blockSpans ad a i).foldl (fun (r : Bool × State) e =>
    let w := match src with
      | some b => readWords ad (b + e.1) e.2 r.2
      | none => (List.replicate e.2 (greyWord (sampleBytes ad) a.bitDepth, false), r.2)
    (r.1 || w.1.any (·.2), writeWords ad (dst + e.1) w.1 w.2)) (false, s)

/-- A read of block `i` of the picture in a frame buffer returned poisoned data. -/
def readBlock (ad : AdmitParams) (a : ParamSet) (src i : Nat) (s : State) : Bool × State :=
  (blockSpans ad a i).foldl (fun (r : Bool × State) e =>
    let w := readWords ad (src + e.1) e.2 r.2
    (r.1 || w.1.any (·.2), w.2)) (false, s)

/-- The reference fetches of a picture: the blocks whose prediction read poisoned data (order 13). -/
def fetchRefs (ad : AdmitParams) (a : ParamSet) (refs : List RefPic) (blocks : List BlockFacts) (s : State) : List Nat × State :=
  ((List.range blocks.length).zip blocks).foldl (fun (r : List Nat × State) e =>
    let one := e.2.refs.foldl (fun (t : Bool × State) x => match usedRef refs x with
      | none => t
      | some q => let w := readBlock ad a (frameOffset ad q.buffer) x.block t.2; (t.1 || w.1, w.2)) (false, r.2)
    (if one.1 then r.1 ++ [e.1] else r.1, one.2)) ([], s)

/-- Samples of a plane with their poison, row by row; `step` samples lie between neighbours of one component. -/
def readPlane (ad : AdmitParams) (off pitch b w h : Nat) (s : State) : List (List (Nat × Bool)) × State :=
  (List.range h).foldl (fun (r : List (List (Nat × Bool)) × State) y =>
    let x := readWords ad (off + y * pitch) (ceilDiv (w * b) 4) r.2
    let bytes := x.1.flatMap fun e => (leBytes 4 e.1.toNat).map fun v => (v.toNat, e.2)
    let at_ (i : Nat) : Nat × Bool := bytes.getD i (0, false)
    let row := (List.range w).map fun i =>
      if b = 1 then at_ i else ((at_ (2 * i)).1 + 256 * (at_ (2 * i + 1)).1, (at_ (2 * i)).2)
    (r.1 ++ [row], x.2)) ([], s)

/-- A sample with both indices held to the plane. -/
def sampleAt (rows : List (List (Nat × Bool))) (x y : Nat) : Nat × Bool :=
  let row := rows.getD (min y (rows.length - 1)) []
  row.getD (min x (row.length - 1)) (0, true)

/-- Mean of an f x f block of samples, rounded half up (R127); component `k` of `n` interleaved ones. -/
def meanBlock (rows : List (List (Nat × Bool))) (f n k x y w h : Nat) : Nat × Bool :=
  let l := (List.range (f * f)).map fun i =>
    sampleAt rows (min (f * x + i % f) (w - 1) * n + k) (min (f * y + i / f) (h - 1))
  (((l.map (·.1)).foldl (· + ·) 0 + f * f / 2) / (f * f), l.any (·.2))

/-- Stores samples as rows of words. -/
def storeSamples (ad : AdmitParams) (off pitch b : Nat) (rows : List (List (Nat × Bool))) (s : State) : State :=
  let per := 4 / b
  ((List.range rows.length).zip rows).foldl (fun s e =>
    let words := (List.range (ceilDiv e.2.length per)).map fun i =>
      let part := (e.2.drop (per * i)).take per
      ((BitVec.ofNat 32 (part.foldr (fun v a => v.1 % 2 ^ (8 * b) + 2 ^ (8 * b) * a) 0) : Word), part.any (·.2))
    writeWords ad (off + e.1 * pitch) words s) s

/-- The reduced copy of R127 of the picture in the buffer at `src`; whether a read returned poisoned data. -/
def writeCopy (ad : AdmitParams) (a : ParamSet) (src k : Nat) (s : State) : Bool × State :=
  let f := ad.reduction
  if f ≤ 1 then (false, s)
  else
    let b := sampleBytes ad
    let w := a.width
    let h := a.height
    let luma := readPlane ad src (lumaPitch ad.maxW b) b w h s
    let chroma := readPlane ad (src + lumaBytes ad.maxW ad.maxH b) (chromaPitch ad.maxW b) b (2 * ceilDiv w 2) (ceilDiv h 2) luma.2
    let rw := ceilDiv w f
    let rh := ceilDiv h f
    let l := (List.range rh).map fun y => (List.range rw).map fun x => meanBlock luma.1 f 1 0 x y w h
    let c := (List.range (ceilDiv rh 2)).map fun y => (List.range (2 * ceilDiv rw 2)).map fun i =>
      meanBlock chroma.1 f 2 (i % 2) (i / 2) y (ceilDiv w 2) (ceilDiv h 2)
    let dst := copyOffset ad k
    let s := storeSamples ad dst (lumaPitch (copyW ad) b) b l chroma.2
    ((luma.1 ++ chroma.1).any fun r => r.any (·.2),
      storeSamples ad (dst + lumaBytes (copyW ad) (copyH ad) b) (chromaPitch (copyW ad) b) b c s)

/-- Writes a decoded picture to its frame buffer and conceals what is not its own; whether a read returned poisoned data. -/
def writePicture (ad : AdmitParams) (a : ParamSet) (p : PicFacts) (refs : List RefPic) (gone : List Nat) (buffer : Nat)
    (s : State) : Bool × State :=
  let b := sampleBytes ad
  let dst := frameOffset ad buffer
  let crow := ceilDiv a.width 2 * 2 * b
  let ch := ceilDiv a.height 2
  let s := storeRows ad dst (lumaPitch ad.maxW b) (maskRows b a.bitDepth (rowsOf a.height (a.width * b) p.luma)) s
  let grey := (List.range ch).map fun _ => (List.range (ceilDiv crow 4)).flatMap fun _ => leBytes 4 (greyWord b a.bitDepth).toNat
  let chroma := match a.chroma with
    | 2 => grey
    | 1 => meanRows (rowsOf a.height crow p.chroma)
    | _ => maskRows b a.bitDepth (rowsOf ch crow p.chroma)
  let s := storeRows ad (dst + lumaBytes ad.maxW ad.maxH b) (chromaPitch ad.maxW b) chroma s
  let src := (nearestRef p.outPos refs).map fun r => frameOffset ad r.buffer
  gone.foldl (fun (r : Bool × State) i => let w := concealBlock ad a src dst i r.2; (r.1 || w.1, w.2)) (false, s)

/-! ## The activity map (R137) -/

/-- The bytes of the map of a picture. -/
def activityMap (a : ParamSet) (kinds levels : List Nat) : List Byte :=
  let bw := ceilDiv a.width 16
  let bh := ceilDiv a.height 16
  let cells := (kinds.zip levels).map fun e => (BitVec.ofNat 8 (64 * e.1 + e.2) : Byte)
  leBytes 2 bw ++ leBytes 2 bh ++ leBytes 4 (levels.foldl (· + ·) 0) ++ List.replicate 8 0
    ++ ((List.range 64).flatMap fun v => leBytes 4 (levels.filter (· == v)).length)
    ++ (List.range bh).flatMap fun y => padTo (ceilDiv bw 64 * 64) ((cells.drop (y * bw)).take bw)

/-- Offset of the map in a stream's decoder state: DESIGN CHOICE (notes/assumptions/78.md). -/
def mapOffset : Nat := 8192

/-- Writes bytes into a stream's decoder state in the Granary, as far as it reaches (R125, R271). -/
def writeDecoder (ad : AdmitParams) (off : Nat) (l : List Byte) (s : State) : State :=
  let room := 4096 * ad.decUnits.length - off
  ((List.range (ceilDiv (min room l.length) 4)).zip (byteWords (l.take room))).foldl (fun s e =>
    let o := off + 4 * e.1
    dpaWrites (granaryBase + ad.decUnits.getD (o / 4096) 0 * 4096 + o % 4096) [(e.2, false)] s) s

/-! ## Gates (R139) -/

/-- Whether a network's gate skips a frame with this report and these levels. -/
def gateSkips (s : State) (dec : Decoder) (d : Decoded) (n : Nat) : Bool :=
  match netAt s n with
  | none => false
  | some v =>
    match v.gate with
    | some (level, blocks, most) =>
      v.role == 0 && d.report.outcome == 0 && d.report.causes == 0
        && decide ((d.levels.filter fun x => level ≤ x).length < blocks) && decide (getAt 0 n dec.skips < most)
    | none => false

/-- Networks that are skipped, those fed by a skipped network's regions included. -/
def withFed (s : State) (ns skipped : List Nat) : List Nat :=
  ns.foldl (fun k _ => k ++ ns.filter fun n => !k.contains n && isRole s 1 n
    && (match netAt s n with | some v => k.contains v.upstream | none => false)) skipped

/-- Counts of consecutive skips of the gated networks after a picture. -/
def skipsAfter (s : State) (ns skipped : List Nat) (m : SMap Nat) : SMap Nat :=
  ns.foldl (fun m n => match netAt s n with
    | some v => if v.gate.isSome then (if skipped.contains n then putAt n (getAt 0 n m + 1) m else putAt n 0 m) else m
    | none => m) m

/-! ## DECODE_PICTURE -/

/-- Replaces a frame by stream and FRAME_SEQ. -/
def swapFrame (f : FrameRec) (l : List FrameRec) : List FrameRec :=
  l.map fun g => if g.ctx = f.ctx ∧ g.seq = f.seq then f else g

/-- A frame's decode has ended with report `r`: its blocks are free; one that the round's list holds already leaves the
device's own list. -/
def decodeEnded (f : FrameRec) (g : FrameRec) (s : State) : State :=
  let s := poolFree 3 f.hostBlocks (poolFree 0 f.blocks s)
  let g := { g with blocks := [], hostBlocks := [], decodedAt := s.now }
  if f.stage = .listed then
    let s := { s with frames := s.frames.filter fun x => !(x.ctx = f.ctx ∧ x.seq = f.seq) }
    let old := s.bell.frameList.find? fun x => x.ctx = f.ctx ∧ x.seq = f.seq
    match old with
    | some x => { s with bell := { s.bell with
        frameList := if x.report.outcome = 8 then s.bell.frameList else swapFrame ({ x with
          stage := .decoded, report := g.report, skipped := g.skipped, gated := g.gated, buffer := g.buffer, pic := g.pic
          decodedAt := s.now }) s.bell.frameList } }
    | none => s
  else { s with frames := swapFrame g s.frames }

/-- Counters of a decode engine after an outcome (R147). -/
def countDecode (n outcome cycles : Nat) (ctx : BitVec 12) (s : State) : State :=
  let v := decAt s n
  setDec n { v with
    ctx := ctx
    idleFrom := s.now
    count0 := satAdd v.count0 (b2n (decide (outcome < 2)))
    count1 := satAdd v.count1 (b2n (outcome == 1 || outcome == 6 || outcome == 7))
    count2 := satAdd v.count2 (b2n (decide (2 ≤ outcome) && decide (outcome ≤ 5)))
    maxCycles := BitVec.ofNat 32 (max v.maxCycles.toNat (min cycles 0xFFFFFFFF)) } (hwPeak (0x40010 + 0x1000 * n) cycles s)

/-- A refusal at order 5 or 6 counts; at REFUSE_LIMIT the stream is FAULTED (R135). -/
def countRefusal (c : Nat) (counts : Bool) (s : State) : State :=
  if !counts then s
  else
    let st := streamAt s c
    let n := st.dec.refuseCount + 1
    let s := setStream c { st with dec := { st.dec with refuseCount := n } } s
    if s.refuseLimit.toNat ≤ n then faultStream c { code := 0x304 } s else s

/-- A picture refused at orders 4 to 6: references and taint map stay. -/
def refusePicture (n outcome : Nat) (p : PicFacts) (f : FrameRec) (s : State) : State :=
  let c := f.ctx.toNat
  let taint := (streamAt s c).dec.taint
  let r : DecReport := {
    outcome := BitVec.ofNat 4 outcome
    causes := BitVec.ofNat 8 (b2n (f.flags.getLsbD 0 || f.flags.getLsbD 1) + 32 * b2n (!taint.isEmpty)
      + 128 * b2n (f.flags.getLsbD 2))
    coverage := 0 }
  let st := streamAt s c
  let s := setStream c { st with dec := { st.dec with skips := [] } } s
  let s := decodeEnded f { f with stage := .decoded, report := r } s
  countRefusal c (outcome == 3 || outcome == 4) (countDecode n outcome p.cycles f.ctx s)

/-- Reads the blocks that hold an access unit; whether they returned poisoned data (R131). -/
def readAu (f : FrameRec) (s : State) : Bool × State :=
  let of (base size : Nat) (l : List Nat) (r : Bool × State) : Bool × State :=
    l.foldl (fun r b => let x := dpaReads 0 (base + size * b) (size / 4) r.2; (r.1 || x.1.any (·.2), x.2)) r
  of (poolBase 3) 4096 f.hostBlocks (of (poolBase 0) 2048 f.blocks (false, s))

/-- The output position of a picture: for Motion-JPEG its RTP timestamp (R133). -/
def outPosOf (codec : Nat) (ts : Word) (p : PicFacts) : Int := if codec = 3 then ts.toNat else p.outPos

/-- One coded frame of an access unit: its report with the poison of every read, and its reference picture, written to frame
buffer `buffer`. -/
def decodeFrame (st : Stream) (a : ParamSet) (short disc : Bool) (p : PicFacts) (refs : List RefPic) (seq buffer : Nat)
    (s : State) : Decoded × RefPic × State :=
  let blocks := blocksOfPic a short p.blocks
  let r := fetchRefs st.ad a refs blocks s
  let d := decodeBlocks refs (8 * st.ad.maxAu) short disc p r.1 blocks
  let w := writePicture st.ad a p refs d.concealed buffer r.2
  let d := if w.1 then { d with report := { d.report with outcome := 7 } } else d
  (d, { seq, outPos := p.outPos, buffer, taint := d.taint }, w.2)

/-- A picture is kept as a reference where its standard says so, and where it is empty or poisoned (orders 12, 13). -/
def keepsRef (isRef : Bool) (d : Decoded) : Bool := isRef || decide (6 ≤ d.report.outcome.toNat)

/-- The frames of a temporal unit that are not shown, in order: the references after them (R128). -/
def decodeHidden (c : Nat) (a : ParamSet) (short disc : Bool) (p : PicFacts) (seq : Nat) :
    List HiddenFrame → Nat → List RefPic → State → List RefPic × State
  | [], _, refs, s => (refs, s)
  | h :: r, i, refs, s =>
    let q : PicFacts := { p with
      intraOnly := false, outPos := h.outPos, blocks := h.blocks, kept := h.kept, isRef := h.isRef, hidden := []
      luma := h.luma, chroma := h.chroma }
    let x := decodeFrame (streamAt s c) a short disc q refs (seq + 2 ^ 32 * (i + 1)) (freeBuffer s c refs) s
    decodeHidden c a short disc p seq r (i + 1) (refsAfter refs h.kept (keepsRef h.isRef x.1) x.2.1) x.2.2

/-- A picture that is decoded: blocks, references, taint map, activity map, gates. -/
def decodeOne (n : Nat) (a : ParamSet) (p : PicFacts) (f : FrameRec) (s : State) : State :=
  let c := f.ctx.toNat
  let st := streamAt s c
  let p := { p with outPos := outPosOf st.op.codec f.ts p }
  let au := readAu f s
  let short := f.flags.getLsbD 0 || f.flags.getLsbD 1 || au.1
  let disc := f.flags.getLsbD 2
  let h := decodeHidden c a short disc p f.seq p.hidden 0 st.dec.refs au.2
  let buffer := freeBuffer h.2 c h.1
  let x := decodeFrame st a short disc p h.1 f.seq buffer h.2
  let w := writeCopy st.ad a (frameOffset st.ad buffer) (f.seq % 2) x.2.2
  let d := if w.1 then { x.1 with report := { x.1.report with outcome := 7 } } else x.1
  let s := writeDecoder st.ad mapOffset (activityMap a d.kinds d.levels) w.2
  let own := st.ad.networks.filter fun k => gateSkips s st.dec d k
  let skipped := withFed s st.ad.networks own
  let st := streamAt s c
  let s := setStream c { st with dec := { st.dec with
    refs := refsAfter h.1 p.kept (keepsRef p.isRef d) x.2.1
    taint := d.taint
    refuseCount := 0
    skips := skipsAfter s st.ad.networks own st.dec.skips
    levels := d.levels
    kinds := d.kinds } } s
  let g := { f with
    stage := .decoded, report := d.report, skipped := skipped, gated := !own.isEmpty, buffer := buffer
    pic := { w := a.width, h := a.height, depth := a.bitDepth, matrix := a.matrix, full := a.fullRange } }
  let g := if passedOn g && (inputsLeft s false g).isEmpty then { g with stage := .prepared } else g
  countDecode n d.report.outcome.toNat p.cycles f.ctx (decodeEnded f g s)

/-- An access unit without a coded picture: its parameter sets are stored, and it yields no record (order 3). -/
def noPicture (n : Nat) (f : FrameRec) (s : State) : State :=
  let s := dropFrame f.ctx.toNat f.seq s
  setDec n { decAt s n with ctx := f.ctx, idleFrom := s.now } s

/-- DECODE_PICTURE: engine `n` ends the decode of the picture it holds. -/
def decodeStep (n : Nat) (p : PicFacts) (f : FrameRec) (s : State) : State :=
  let c := f.ctx.toNat
  let st := streamAt s c
  let sets := storeSets st.dec.params p.stored
  let cut := f.flags.getLsbD 2
  let s := setStream c { st with dec := { st.dec with
    params := sets
    refs := (if cut then [] else st.dec.refs)
    taint := (if cut then [] else st.dec.taint) } } s
  let s := endReplay (.decode n f.ctx f.seq) s
  if !p.coded then noPicture n f s
  else match refusalOf st.op.codec st.ad sets p with
    | .error o => refusePicture n o p f s
    | .ok a => decodeOne n a p f s

def execDecodePicture (engine : BitVec 5) (f : PicFacts) (s : State) : Res :=
  .next (match decHead s engine.toNat with
    | none => s
    | some h => decodeStep engine.toNat f h s)

/-- BODY of a video watchdog's record: FRAME_SEQ, cycles run, bound in engine cycles (R300). -/
def watchdogBody (seq ran bound : Nat) : List Byte := leBytes 4 seq ++ leBytes 4 (ran * 4 / 5) ++ leBytes 4 (bound * 4 / 5)

/-- DECODE_WATCHDOG: a picture has run d + 4 µs (R129). -/
def execDecodeWatchdog (engine : BitVec 5) (s : State) : Res :=
  let n := engine.toNat
  .next (match decHead s n with
    | none => s
    | some f =>
      let ran := s.now - decBegan s n f
      let bound := decBound s f.ctx.toNat
      if ran < bound then s
      else startReset { code := 0x301, unit := unitCode 6 n, ctx := ctxCode f.ctx, body := watchdogBody f.seq ran bound }
        [.decode n f.ctx f.seq] s)

/-! ## Where a prepared input lies (R145) -/

/-- The Granary address of a byte of a stream's prepared-input memory. -/
def inputDpa (ad : AdmitParams) (off : Nat) : Nat := granaryBase + ad.units.getD (off / 4096) 0 * 4096 + off % 4096

/-- The slots of each input a stream is charged, in order: the tensors first, the geometry records after them. -/
def slotCount (s : State) (ad : AdmitParams) (e : InputDesc × Bool) : Nat := (if e.2 then 4 else 2) * mRate s ad.frameRate

/-- Offsets of the tensor and the geometry record of slot `k` of input `d`. -/
def slotOffsets (s : State) (c : Nat) (d : InputDesc) (k : Nat) : Nat × Nat :=
  let ad := (streamAt s c).ad
  let all := chargedInputs s c ad.networks
  let before := all.takeWhile fun e => e.1 != d
  let sum (f : InputDesc × Bool → Nat) (l : List (InputDesc × Bool)) : Nat := (l.map f).foldl (· + ·) 0
  let bytes (e : InputDesc × Bool) : Nat := slotCount s ad e * inputBytes e.1
  (sum bytes before + k * inputBytes d, sum bytes all + 32 * (sum (slotCount s ad) before + k))

/-- The lowest slot of an input that no frame of the stream holds. -/
def freeSlot (s : State) (c i : Nat) : Nat :=
  let frames := s.frames ++ s.bell.frameList ++ (s.sheaves.flatMap fun e => e.2.pending) ++ s.bell.fused.flatMap (·.2)
  let used := (frames.filter fun f => f.ctx.toNat = c).flatMap fun f =>
    (f.inputs.zip f.islots).filterMap fun x => if x.1 = i then some x.2 else none
  ((List.range (used.length + 1)).find? fun k => !used.contains k).getD 0

/-! ## Preparation arithmetic (R141 to R144) -/

/-- One axis of the scaling: out per source pixel as num/den, letterbox offset and content length, rectangle origin, and
the part of the picture the rectangle covers. -/
structure Axis where
  num : Nat
  den : Nat
  off : Nat
  len : Nat
  org : Nat
  lo : Nat
  hi : Nat
  deriving DecidableEq, Repr

/-- The axes of an input for a picture of `pw` by `ph` luma pixels, reduced by `f`: the rectangle is divided by f, rounded
down, and clipped to the picture (R141). -/
def axesOf (d : InputDesc) (f pw ph : Nat) : Axis × Axis :=
  let x := if d.cropMode = 0 then 0 else d.x / f
  let y := if d.cropMode = 0 then 0 else d.y / f
  let w := max 1 ((if d.cropMode = 0 then pw else d.w) / f)
  let h := max 1 ((if d.cropMode = 0 then ph else d.h) / f)
  let lw := ceilDiv pw f
  let lh := ceilDiv ph f
  let one (num den out org len lim : Nat) : Axis :=
    let n := if d.fit = 1 then min out (len * num / den) else out
    { num, den, off := (out - n) / 2, len := n, org, lo := min org lim, hi := min (org + len) lim }
  if d.fit = 1 then
    if d.outW * h ≤ d.outH * w then (one d.outW w d.outW x w lw, one d.outW w d.outH y h lh)
    else (one d.outH h d.outW x w lw, one d.outH h d.outH y h lh)
  else (one d.outW w d.outW x w lw, one d.outH h d.outH y h lh)

/-- PicSource indices with weights that output position `o` takes on an axis; none where it takes PAD. -/
def axisTaps (filter : Nat) (a : Axis) (o : Nat) : List (Nat × Nat) :=
  if o < a.off ∨ a.off + a.len ≤ o then []
  else
    let p := o - a.off
    let c := a.org + (2 * p + 1) * a.den / (2 * a.num)
    if c < a.lo ∨ a.hi ≤ c then []
    else if filter = 1 then
      let first := p * a.den / a.num
      let last := (p + 1) * a.den / a.num + 1
      let l := ((List.range (last + 1 - first)).map (first + ·)).filter fun i =>
        2 * p * a.den ≤ (2 * i + 1) * a.num ∧ (2 * i + 1) * a.num < 2 * (p + 1) * a.den
          ∧ a.lo ≤ a.org + i ∧ a.org + i < a.hi
      if l.isEmpty then [(c, 1)] else l.map fun i => (a.org + i, 1)
    else
      let q : Int := divRne (((2 * p + 1) * a.den * 256 : Nat) - (256 * a.num : Nat) : Int) (2 * a.num)
      let i := q.fdiv 256
      let w := (q.fmod 256).toNat
      let hold (j : Int) : Nat := (max (a.lo : Int) (min ((a.hi : Int) - 1) ((a.org : Int) + j))).toNat
      [(hold i, 256 - w), (hold (i + 1), w)]

/-- The planes of the picture that preparation reads. -/
structure Planes where
  luma : List (List (Nat × Bool))
  chroma : List (List (Nat × Bool))
  jpeg : Bool
  scale : Nat
  deriving DecidableEq, Repr

/-- Weights in quarters of the two chroma samples about luma position `v`: sited midway, or on the even position. -/
def chromaTaps (midway : Bool) (v : Nat) : List (Nat × Nat) :=
  if midway then (if v % 2 = 0 then [(v / 2 - 1, 1), (v / 2, 3)] else [(v / 2, 3), (v / 2 + 1, 1)])
  else if v % 2 = 0 then [(v / 2, 4)] else [(v / 2, 2), (v / 2 + 1, 2)]

/-- Component `k` at a luma position in the 10-bit domain: 0 luma, 1 Cb, 2 Cr (R142, R143). -/
def componentAt (p : Planes) (k x y : Nat) : Int × Bool :=
  if k = 0 then let v := sampleAt p.luma x y; ((v.1 * p.scale : Nat), v.2)
  else
    let cw := (p.chroma.headD []).length / 2
    let taps := (chromaTaps true y).flatMap fun ty => (chromaTaps p.jpeg x).map fun tx =>
      let v := sampleAt p.chroma (2 * min tx.1 (cw - 1) + (k - 1)) ty.1
      (v.1 * p.scale * tx.2 * ty.2, v.2)
    (divRne (((taps.map (·.1)).foldl (· + ·) 0 : Nat) : Int) 16, taps.any (·.2))

/-- Component `k` of an output pixel whose taps are known, rounded half to even. -/
def scaled (p : Planes) (xs ys : List (Nat × Nat)) (k : Nat) : Int × Bool :=
  let l := ys.flatMap fun ty => xs.filterMap fun tx =>
    if tx.2 * ty.2 = 0 then none
    else let v := componentAt p k tx.1 ty.1; some (v.1 * (tx.2 * ty.2 : Nat), v.2)
  let w := (ys.map (·.2)).foldl (· + ·) 0 * (xs.map (·.2)).foldl (· + ·) 0
  (divRne ((l.map (·.1)).foldl (· + ·) 0) w, l.any (·.2))

/-- Kr and Kb of R143 in 1/10,000: 1 BT.601, 2 BT.709, 3 BT.2020. -/
def matrixK (m : Nat) : Nat × Nat := match m with | 1 => (2990, 1140) | 3 => (2627, 593) | _ => (2126, 722)

/-- The matrix and range in force for a picture (R143). -/
def matrixFor (d : InputDesc) (jpeg : Bool) (signalled h : Nat) : Nat :=
  if d.matrix ≠ 0 then d.matrix
  else if jpeg then 1
  else match signalled with
    | 5 | 6 => 1
    | 1 => 2
    | 9 => 3
    | _ => if 720 ≤ h then 2 else 1

def fullFor (d : InputDesc) (jpeg flag : Bool) : Bool := d.range == 2 || (d.range == 0 && (jpeg || flag))

/-- A coefficient n/m with 14 fractional bits. -/
def coef (n m : Nat) : Int := divRne ((16384 * n : Nat) : Int) m

/-- R, G and B of R143, clipped to 0 to 1,023. -/
def toRgb (m : Nat) (full : Bool) (y cb cr : Int) : List Int :=
  let k := matrixK m
  let kg := 10000 - k.1 - k.2
  let yn := if full then 1023 else 876
  let cn := if full then 1023 else 896
  let y' := (y - (if full then 0 else 64)) * coef 1023 yn
  let b := cb - 512
  let r := cr - 512
  let out (v : Int) : Int := max 0 (min 1023 (divRne v 16384))
  [ out (y' + r * coef (2 * (10000 - k.1) * 1023) (10000 * cn)),
    out (y' - b * coef (2 * k.2 * (10000 - k.2) * 1023) (10000 * kg * cn) - r * coef (2 * k.1 * (10000 - k.1) * 1023) (10000 * kg * cn)),
    out (y' + b * coef (2 * (10000 - k.2) * 1023) (10000 * cn)) ]

/-- Channel values of a pixel before normalisation. -/
def channels (d : InputDesc) (m : Nat) (full : Bool) (y cb cr : Int) : List Int :=
  match d.colour with
  | 0 => toRgb m full y cb cr
  | 1 => (toRgb m full y cb cr).reverse
  | 2 => [y, cb, cr]
  | _ => [y]

/-- One channel value normalised to its bytes, and whether it saturated (R144). -/
def normalise (d : InputDesc) (c : Nat) (v : Int) : List Byte × Bool :=
  let x := v - (d.offset.getD c 0 : Nat)
  let sh := d.shift.getD c 0
  if d.format = 3 then
    (leBytes 2 (encodeFloat 6 (roundFp 6 (.fin (decide (x < 0)) x.natAbs sh)).1), false)
  else
    let y := if 0 ≤ sh then x * 2 ^ sh.toNat else divRne x (2 ^ (-sh).toNat)
    let r : Int × Int := match d.format with | 0 => (0, 255) | 1 => (-128, 127) | _ => (-32768, 32767)
    let z := max r.1 (min r.2 y)
    (leBytes (if d.format = 2 then 2 else 1) (wrapInt 16 z), decide (z ≠ y))

/-- One pixel's bytes in its layout: 32 bytes with FOLD 1, 4 or 8 bytes with FOLD 8 (R145). -/
def pixelBytes (d : InputDesc) (vals : List Int) (poison : Bool) : List (Byte × Bool) × Bool :=
  let l := ((List.range vals.length).zip vals).map fun e => normalise d e.1 e.2
  let bytes := l.flatMap (·.1)
  let size := if d.fold = 1 then 32 else if d.format < 2 then 4 else 8
  ((padTo size bytes).map fun b => (b, poison), l.any (·.2))

/-- What preparing reads of a picture: its planes, its size in luma pixels, signalled matrix and range. -/
structure PicSource where
  planes : Planes
  w : Nat
  h : Nat
  matrix : Nat
  full : Bool
  deriving DecidableEq, Repr

/-- One row of the prepared input, with whether a value saturated. -/
def inputRow (d : InputDesc) (src : PicSource) (ax : Axis × Axis) (y : Nat) : List (Byte × Bool) × Bool :=
  let ys := axisTaps d.filter ax.2 y
  let m := matrixFor d src.planes.jpeg src.matrix src.h
  let full := fullFor d src.planes.jpeg src.full
  let count := if d.colour = 3 then 1 else 3
  let px := (List.range d.outW).map fun x =>
    let xs := axisTaps d.filter ax.1 x
    if xs.isEmpty || ys.isEmpty then pixelBytes d ((List.range count).map fun c => ((d.pad.getD c 0 : Nat) : Int)) false
    else
      let yv := scaled src.planes xs ys 0
      let cb := scaled src.planes xs ys 1
      let cr := scaled src.planes xs ys 2
      pixelBytes d (channels d m full yv.1 cb.1 cr.1) (yv.2 || (d.colour != 3 && (cb.2 || cr.2)))
  (px.flatMap (·.1), px.any (·.2))

/-- Words of a row padded with zeros to ROW_BYTES. -/
def rowWords (d : InputDesc) (l : List (Byte × Bool)) : List (Word × Bool) :=
  (List.range (inputRowBytes d / 4)).map fun i =>
    let part := (l.drop (4 * i)).take 4
    (BitVec.ofNat 32 (leNat (part.map (·.1))), part.any (·.2))

/-- The geometry record (R183). -/
def geometryRecord (d : InputDesc) (f : Nat) (ax : Axis × Axis) : List Byte :=
  leBytes 2 ax.1.org ++ leBytes 2 ax.2.org ++ [BitVec.ofNat 8 f, 0, 0, 0]
    ++ leBytes 4 (ax.1.num * 65536 / max 1 ax.1.den) ++ leBytes 4 (ax.2.num * 65536 / max 1 ax.2.den)
    ++ leBytes 2 ax.1.off ++ leBytes 2 ax.2.off ++ leBytes 2 d.outW ++ leBytes 2 d.outH ++ List.replicate 8 0

/-- Words written to the Granary memory of a stream's prepared inputs. -/
def writeInput (ad : AdmitParams) (off : Nat) : List (Word × Bool) → State → State
  | [], s => s
  | w :: r, s => writeInput ad (off + 4) r (dpaWrites (inputDpa ad off) [w] s)

/-- Reads the picture, or its reduced copy, that a frame is prepared from. -/
def readSource (f : FrameRec) (s : State) : PicSource × State :=
  let st := streamAt s f.ctx.toNat
  let ad := st.ad
  let b := sampleBytes ad
  let k := max 1 ad.reduction
  let w := ceilDiv f.pic.w k
  let h := ceilDiv f.pic.h k
  let mw := if k = 1 then ad.maxW else copyW ad
  let mh := if k = 1 then ad.maxH else copyH ad
  let base := if k = 1 then frameOffset ad f.buffer else copyOffset ad (f.seq % 2)
  let luma := readPlane ad base (lumaPitch mw b) b w h s
  let chroma := readPlane ad (base + lumaBytes mw mh b) (chromaPitch mw b) b (2 * ceilDiv w 2) (ceilDiv h 2) luma.2
  ({ planes := { luma := luma.1, chroma := chroma.1, jpeg := st.op.codec == 3, scale := if f.pic.depth = 8 then 4 else 1 },
     w := f.pic.w, h := f.pic.h, matrix := f.pic.matrix, full := f.pic.full }, chroma.2)

/-- Writes one prepared input and its geometry record into slot `k`; the flag tells whether a value saturated. -/
def prepare (f : FrameRec) (d : InputDesc) (k : Nat) (s : State) : Bool × State :=
  let ad := (streamAt s f.ctx.toNat).ad
  let r := readSource f s
  let src := r.1
  let fr := max 1 ad.reduction
  let ax := axesOf d fr src.w src.h
  let o := slotOffsets s f.ctx.toNat d k
  let t := (List.range d.outH).foldl (fun (t : Bool × State) y =>
    let row := inputRow d src ax y
    (t.1 || row.2, writeInput ad (o.1 + y * inputRowBytes d) (rowWords d row.1) t.2)) (false, r.2)
  (t.1, writeInput ad o.2 ((byteWords (geometryRecord d fr ax)).map fun w => (w, false)) t.2)

/-- An input of a frame is prepared: the frame's lists, the engine's counters, and the end of the picture. -/
def inputDone (j : Nat) (f : FrameRec) (late : Bool) (i k cycles : Nat) (sat : Bool) (s : State) : State :=
  let g := { f with inputs := f.inputs ++ [i], islots := f.islots ++ [k] }
  let last := (inputsLeft s late g).isEmpty
  let g := if last then { g with stage := .prepared } else g
  let s := if late then { s with bell := { s.bell with frameList := swapFrame g s.bell.frameList } }
    else { s with frames := swapFrame g s.frames }
  let v := prepAt s j
  let total := v.cycles + cycles
  let s := if last then hwPeak (0x70008 + 0x100 * j) total s else s
  let s := setPrep j { v with
    ctx := f.ctx
    count0 := satAdd v.count0 1
    saturated := satAddW v.saturated (b2n sat)
    cycles := (if last then 0 else total)
    idleFrom := (if last then s.now else v.idleFrom)
    maxCycles := (if last then BitVec.ofNat 32 (max v.maxCycles.toNat (min total 0xFFFFFFFF)) else v.maxCycles) } s
  if last then endReplay (.prep j f.ctx f.seq) s else s

/-- PREPARE_INPUT: engine `j` ends the preparation of input `input` of the picture it holds. -/
def execPrepareInput (engine : BitVec 4) (ctx : BitVec 12) (seq : Word) (input cycles : Nat) (s : State) : Res :=
  let j := engine.toNat
  .next (match prepHead s j with
    | none => s
    | some (f, late) =>
      if f.ctx ≠ ctx ∨ f.seq ≠ seq.toNat ∨ !(inputsLeft s late f).contains input then s
      else match (inputsOf s ctx.toNat)[input]? with
        | none => s
        | some d =>
          let k := freeSlot s ctx.toNat input
          let r := prepare f d k s
          inputDone j f late input k cycles r.1 r.2)

/-- PREP_WATCHDOG: a picture has been in preparation for p + 4 µs (R146). -/
def execPrepWatchdog (engine : BitVec 4) (s : State) : Res :=
  let j := engine.toNat
  .next (match prepHead s j with
    | none => s
    | some (f, _) =>
      let ran := s.now - prepBegan s j f
      let bound := prepBound s f.ctx.toNat
      if ran < bound then s
      else startReset { code := 0x302, unit := unitCode 7 j, ctx := ctxCode f.ctx, body := watchdogBody f.seq ran bound }
        [.prep j f.ctx f.seq] s)

end Sys2Proof.Machine
end

