-- ==== Sys2Proof/Machine/Clips.lean ====
section
/-! DEFINITION. Machine/Clips.lean: evidence clips: requests (R254 to R258), decoding (R257 to R259), rate control and the
refresh wave (R260 to R263), regions of interest (R264), output (R265), and the encode watchdog (R306). -/

namespace Sys2Proof.Machine

/-! ## The lists of a request (R254, R258, R264) -/

/-- CFLAGS. -/
def clipPriority (k : Clip) : Nat := k.cflags.toNat % 8
def clipPrivacy (k : Clip) : Bool := k.cflags.getLsbD 3
def clipRtp (k : Clip) : Bool := k.cflags.getLsbD 4
def clipHost (k : Clip) : Bool := k.cflags.getLsbD 5
def clipSourced (k : Clip) : Bool := k.cflags.getLsbD 6

/-- ROI entry `i` of a list. -/
def roiEntry (l : List Byte) (i : Nat) : RoiEntry :=
  let o := 16 * i
  { seq := numAt l o 4, region := numAt l (o + 4) 1, qp := numAt l (o + 5) 1
    box := (List.range 4).map fun j => numAt l (o + 8 + 2 * j) 2 }

/-- Entries of a list in ascending FRAME_SEQ, each with its fields in range. -/
def roiOk (l : List RoiEntry) : Bool :=
  l.all (fun e => decide (e.region < 32) && (decide (e.qp ≤ 51) || e.qp == 0xFF))
    && ((l.zip (l.drop 1)).all fun x => decide (x.1.seq ≤ x.2.seq))

/-- Source-list entry `i`: address, length, timestamp. -/
def sourceEntry (l : List Byte) (i : Nat) : BitVec 64 × Nat × Word :=
  (BitVec.ofNat 64 (numAt l (16 * i) 8), numAt l (16 * i + 8) 4, BitVec.ofNat 32 (numAt l (16 * i + 12) 4))

/-- The clip that a request and its lists describe; its fields of the descriptor are not checked yet. -/
def clipOf (f : Fetched) (num : BitVec 16) (l : ClipLists) : Clip :=
  let d := l.desc
  let flags := BitVec.ofNat 8 (param f.p 17 1)
  let rois := if numAt d 16 8 = 0 then 0 else numAt d 24 2
  { num, ctx := f.ctx, ring := f.ring, tag := f.tag, startSeq := param f.p 8 4, endSeq := param f.p 12 4
    format := param f.p 16 1, cflags := flags, baseQp := param f.p 18 1, maxQp := param f.p 19 1
    refreshPics := param f.p 20 1, capBytes := param f.p 24 4, keyCapBytes := param f.p 28 4
    outAddr := BitVec.ofNat 64 (numAt d 0 8), outBytes := numAt d 8 4
    roi := (List.range rois).map (roiEntry l.roi), port := numAt d 32 1, ipv6 := (numAt d 33 1).testBit 0
    dstIp := BitVec.ofNat 128 (numAt d 40 16), dstPort := BitVec.ofNat 16 (numAt d 34 2)
    srcPort := BitVec.ofNat 16 (numAt d 36 2), ssrc := BitVec.ofNat 32 (numAt d 28 4)
    pt := BitVec.ofNat 8 (numAt d 38 1), dscp := BitVec.ofNat 6 (numAt d 39 1)
    seqNum := BitVec.ofNat 16 (numAt d 56 2), pace := numAt d 58 2
    source := if flags.getLsbD 6 then (List.range (numAt d 72 4)).map (sourceEntry l.source) else []
    decodeSeq := 0 }

/-- Every descriptor and list field that the request uses lies in its range. Reserved bytes are ignored (R8). -/
def clipListsOk (k : Clip) (l : ClipLists) : Bool :=
  let d := l.desc
  (!clipHost k || (numAt d 0 8 % 256 == 0 && numAt d 8 4 % 256 == 0))
    && numAt d 16 8 % 256 == 0 && decide (numAt d 24 2 ≤ 4096) && roiOk k.roi
    && (!clipRtp k || (decide (k.port < 2) && decide (96 ≤ k.pt.toNat) && decide (k.pt.toNat ≤ 127)
      && decide (1 ≤ k.pace) && decide (k.pace ≤ 10000) && (k.ipv6 || numAt d 44 12 == 0)))
    && (!clipSourced k || (numAt d 64 8 % 256 == 0 && decide (1 ≤ numAt d 72 4) && decide (numAt d 72 4 ≤ 4096)
      && k.source.all fun e => decide (1 ≤ e.2.1) && decide (e.2.1 ≤ 16777216)))

/-! ## Blocks, rows and caps (R255, R260, R262) -/

/-- B of R260, blocks per row, rows, and the bound of a row coded at the floor. -/
def blockSide (format : Nat) : Nat := if format = 0 then 32 else 16
def blockCols (format w : Nat) : Nat := ceilDiv w (blockSide format)
def blockRows (format h : Nat) : Nat := ceilDiv h (blockSide format)
def floorBits (format w : Nat) (key : Bool) : Nat := (if key then 8 else 2) * blockCols format w + 64

/-- The least CAP_BYTES or KEY_CAP_BYTES. -/
def capMin (format w h : Nat) (key : Bool) : Nat :=
  (if key then 1024 else 512) + ceilDiv (blockRows format h * floorBits format w key) 8

/-- The largest picture of a clip: the stream's, or 8192 x 4320 with SOURCE_HOST. -/
def clipMax (ad : AdmitParams) (sourced : Bool) : Nat × Nat := if sourced then (8192, 4320) else (ad.maxW, ad.maxH)

/-! ## CLIP_REQUEST (R254 to R257) -/

/-- Clips accepted and not yet reported. -/
def clipsOpen (s : State) : List Clip := s.clips.filter fun k => !k.ended

/-- The number of the next clip: the first from `nextClip` that no clip has. -/
def clipNumber (s : State) : BitVec 16 :=
  (((List.range 65).map fun i => s.nextClip + BitVec.ofNat 16 i).find? fun n => !s.clips.any fun k => k.num == n).getD s.nextClip

/-- The first picture decoded for a clip that starts at START_SEQ (R257). -/
def firstDecode (st : Stream) (start : Nat) : Option Nat :=
  ((st.ring.entries.filter fun e => e.refFree && decide (e.seq ≤ start)).map (·.seq)).foldl
    (fun m q => match m with | some b => some (max b q) | none => some q) none

/-- Where a clip's pictures come from: its first decode picture, or none for ST_CLIP_UNAVAILABLE. -/
def clipFirst (st : Stream) (k : Clip) : Option Nat :=
  if clipSourced k then some 0
  else if 20 * st.ad.frameRate < (k.endSeq - (st.cnt.frameSeq - 1)) * 1000 then none
  else firstDecode st k.startSeq

def clipRequestBody (lists : HostRead ClipLists) (f : Fetched) (s : State) : State :=
  let c := fCtx f
  let st := streamAt s c
  let flags := BitVec.ofNat 8 (param f.p 17 1)
  let size := clipMax st.ad (flags.getLsbD 6)
  let low (key : Bool) : Nat := capMin (param f.p 16 1) size.1 size.2 key
  match deviceRefuses true true s with
  | some r => answer f r s
  | none =>
    if !(holds st.state || (flags.getLsbD 6 && st.state == .opened)) then answer f (stState s c) s
    else if param f.p 24 4 < low false then answer f (failWith 0x100 24) s
    else if param f.p 28 4 < low true then answer f (failWith 0x100 28) s
    else match lists with
      | .fault x => answer f (failWith 0x104 x.toNat) s
      | .data l =>
        let n := clipNumber s
        let k := clipOf f n l
        if !clipListsOk k l then answer f (failWith 0x100 32) s
        else if clipSourced k ∧ k.source.length ≤ k.endSeq then answer f (failWith 0x100 12) s
        else match clipFirst st k with
          | none => answer f (failWith 0x306 0) s
          | some q =>
            if 64 ≤ (clipsOpen s).length then answer f (failWith 0x302 0) s
            else answer f (okWith n.toNat) { s with clips := s.clips ++ [{ k with decodeSeq := q }], nextClip := n + 1 }

/-- CLIP_REQUEST; `lists` is what host engine 6 reads of the descriptor and its lists. -/
def execClipRequest (ring : BitVec 6) (p : Packet) (lists : HostRead ClipLists) (s : State) : Res :=
  packetStep (ofOp 0x14) ring p (clipRequestBody lists) s

/-! ## CLIP_CANCEL (R256) -/

def clipCancelBody (f : Fetched) (s : State) : State :=
  match (clipsOpen s).find? fun k => k.num.toNat = param f.p 8 2 with
  | none => answer f (failWith 0x100 8) s
  | some k =>
    let s := wait_ f (.clipEnd k.num.toNat) s
    if clipIdle s k then endClip k.num 1 0 s else setClip { k with cancel := true } s

def execClipCancel (ring : BitVec 6) (p : Packet) (s : State) : Res := packetStep (ofOp 0x15) ring p clipCancelBody s

/-! ## CLIP_START (R260) -/

/-- Clips in the order of R77. -/
def clipOrder (l : List Clip) : List Clip := sortBy (fun a b => decide (clipPriority a ≤ clipPriority b)) l

/-- Working buffers in 2 MiB units: ten frame buffers, and one unit for the decoder state. -/
def clipUnits (st : Stream) (k : Clip) : Nat :=
  let m := clipMax st.ad (clipSourced k)
  let b := if clipSourced k then 2 else sampleBytes st.ad
  10 * (bufferBytes m.1 m.2 b / 0x200000) + 1

/-- The source transfer of the next picture by host engine 6 into host-ingest blocks, once the pool has them (R258). -/
def startSource (num : BitVec 16) (s : State) : State :=
  match (clipsOpen s).find? fun k => k.num == num with
  | none => s
  | some k =>
    let busy := (getAt [] 6 s.mem.host).any (fun t => ofClip num.toNat t && t.desc.toNat % 256 == 2)
      || s.mem.parks.any fun e => e.2.cls == 5 && e.2.owner.toNat == num.toNat && e.2.desc.toNat % 256 == 2
    if !clipSourced k || busy || decide (k.endSeq < k.decodeSeq) then s
    else match k.source[k.decodeSeq]? with
      | none => s
      | some (addr, n, _) => match poolAlloc 3 (0x2000 + num.toNat) (ceilDiv n 4096) s with
        | (none, s) => s
        | (some bs, s) =>
          let d := mkDesc 2 0 0 n addr.toNat 0 1 0 0
          let t : Transfer := { desc := d, total := granulesOf d, cls := 5, owner := num.setWidth 32, blocks := bs }
          { s with mem := { s.mem with host := putAt 6 (getAt [] 6 s.mem.host ++ [t]) s.mem.host } }

/-- CLIP_START: the first waiting clip takes the lowest-numbered free encode engine; with OUT_RTP Bailiff asks for its next
hop (R265). -/
def execClipStart (s : State) : Res :=
  let free := (List.range 8).find? fun e =>
    let v := encAt s e
    !v.retired && !v.retiring && v.clip.isNone
  .next (if s.flt.reset.isSome || s.pwr.recess || s.pwr.transition != 0 || decide (2 ≤ maxStage s) then s
    else match free, (clipOrder ((clipsOpen s).filter fun k => k.engine.isNone)).head? with
      | some e, some k =>
        let u := clipUnits (streamAt s k.ctx.toNat) k
        if 0x1000 < s.clipAreaUsed + u then s
        else
          let v := encAt s e
          let s := wakeDomain (160 + e) (setEnc e { v with clip := some k.num, lastClip := k.num, since := s.now } s)
          let hop := nextHop s k.port k.ipv6 k.dstIp
          let s := if clipRtp k && hop != 0 then sendControl k.port (.resolve hop) s else s
          startSource k.num (setClip { k with engine := some e, units := u } { s with clipAreaUsed := s.clipAreaUsed + u })
      | _, _ => s)

/-! ## CLIP_DECODE_PICTURE (R257 to R259) -/

/-- The access unit that a clip decodes next, where it is there: length, flags, timestamp, capture, blocks it lies in. -/
def clipAu (s : State) (k : Clip) : Option (Nat × BitVec 4 × Word × BitVec 64 × List Nat) :=
  if clipSourced k then
    match (getAt [] 6 s.mem.host).find? fun t => ofClip k.num.toNat t && t.desc.toNat % 256 == 2 && decide (t.total ≤ t.done),
        k.source[k.decodeSeq]? with
    | some t, some (_, n, ts) => some (n, 0, ts, 0, t.blocks)
    | _, _ => none
  else
    ((streamAt s k.ctx.toNat).ring.entries.find? fun e => e.seq = k.decodeSeq).map fun e =>
      (e.length, e.flags, e.ts, e.capture, [])

/-- The access unit's data is no longer whole in the replay ring (R111). -/
def clipLost (s : State) (k : Clip) : Bool :=
  let st := streamAt s k.ctx.toNat
  !clipSourced k && decide (k.decodeSeq < st.cnt.frameSeq) && !st.ring.entries.any fun e => e.seq = k.decodeSeq

/-- The limits that a clip's pictures are held to, with MAX_AU_BYTES replaced by the access unit's own length (R259). -/
def clipAd (st : Stream) (k : Clip) (len : Nat) : AdmitParams :=
  if clipSourced k then
    { st.ad with
      maxW := 8192, maxH := 4320, maxAu := len,
      bitDepth := if st.op.codec = 1 ∨ st.op.codec = 2 then 10 else 8,
      profile := BitVec.ofNat 8 ([0x13, 0x22, 0x31, 0x41].getD st.op.codec 0) }
  else { st.ad with maxAu := len }

/-- Decode engines that can hold a clip's picture now (R80, R259): those that no admitted stream is bound to, and bound ones
whose lane list of the round is done. -/
def clipEngines (s : State) : List Nat :=
  (List.range 32).filter fun n => !(decAt s n).retired && !(decAt s n).retiring
    && ((boundTo s .decode n).isEmpty || (videoRuns s && (decList s n).isEmpty))

/-- On a bound engine a picture starts only where d + 4 µs ends before fc 125,000 of the next round. `ran` is how long a
picture that ends now was in the engine, at most d. -/
def clipFits (s : State) (ad : AdmitParams) (ran : Option Nat) : Bool :=
  let d := fcOfTime (decodeTime ad)
  decide (s.now + d + 5000 ≤ s.bell.roundStart + roundLen s + 125000 + ran.getD d)

/-- The engine that a picture takes of those free: an unbound one first. -/
def clipEngine (s : State) (ad : AdmitParams) (ran : Option Nat) (free : List Nat) : Option Nat :=
  match free.find? fun n => (boundTo s .decode n).isEmpty with
  | some n => some n
  | none => if clipFits s ad ran then free.head? else none

/-- A clip's next picture waits for a decode engine, or is in one. -/
def clipReady (s : State) (k : Clip) : Bool :=
  !k.ended && k.engine.isSome && k.pics.isEmpty && decide (k.decodeSeq ≤ k.endSeq) && (clipAu s k).isSome

/-- Each clip in its turn takes an engine (R77). -/
def clipTakes (s : State) (ran : Option Nat) : List Clip → List Nat → List (Nat × Clip)
  | [], _ => []
  | k :: r, free =>
    match clipAu s k with
    | none => clipTakes s ran r free
    | some a => match clipEngine s (clipAd (streamAt s k.ctx.toNat) k a.1) ran free with
      | some e => (e, k) :: clipTakes s ran r (free.filter (· != e))
      | none => clipTakes s ran r free

/-- The clips whose pictures are being decoded, each with its decode engine. -/
def clipDecoding (s : State) (ran : Option Nat) : List (Nat × Clip) :=
  if s.flt.reset.isSome || decide (2 ≤ maxStage s) || hotIdle s then []
  else clipTakes s ran (clipOrder (s.clips.filter (clipReady s))) (clipEngines s)

/-- The decode engine that a clip's picture, `cycles` engine cycles long, leaves now. -/
def clipLeaves (s : State) (clip : BitVec 16) (cycles : Nat) : Option Nat :=
  ((clipDecoding s (some (ceilDiv (5 * cycles) 4))).find? fun x => x.2.num == clip).map (·.1)

/-- The read of an access unit is over: its transfer and blocks are gone. -/
def dropSource (num : BitVec 16) (blocks : List Nat) (s : State) : State :=
  let l := (getAt [] 6 s.mem.host).filter fun t =>
    !(ofClip num.toNat t && t.desc.toNat % 256 == 2 && decide (t.total ≤ t.done))
  poolFree 3 blocks { s with mem := { s.mem with host := putAt 6 l s.mem.host } }

/-- The map QP of every 16 x 16 area of a picture (R264). -/
def mapQp (k : Clip) (seq w h : Nat) : List Nat :=
  let active := (List.range 32).filterMap fun r =>
    match (k.roi.filter fun e => e.region = r ∧ e.seq ≤ seq).getLast? with
    | some e => if e.qp = 0xFF then none else some e
    | none => none
  let covers (e : RoiEntry) (x y : Nat) : Bool :=
    decide (e.box.getD 0 0 < 4 * (16 * x + 16)) && decide (4 * (16 * x) < e.box.getD 2 0)
      && decide (e.box.getD 1 0 < 4 * (16 * y + 16)) && decide (4 * (16 * y) < e.box.getD 3 0)
  (List.range (ceilDiv h 16)).flatMap fun y => (List.range (ceilDiv w 16)).map fun x =>
    match (active.filter fun e => covers e x y).map (·.qp) with
    | [] => if clipPrivacy k then 51 else k.baseQp
    | q :: r => r.foldl min q

/-- Columns per wave position (R261). -/
def waveWidth (k : Clip) (w : Nat) : Nat := ceilDiv (blockCols k.format w) (max 1 k.refreshPics)

/-- A picture enters the clip's encode engine: key or P, the columns coded intra, recovery_frame_cnt of the recovery point
SEI message that the first picture of a cycle carries (R261), and the map's QPs. -/
def giveEncoder (k : Clip) (p : ClipPic) (s : State) : State :=
  match k.engine with
  | none => s
  | some e =>
    let key := k.pictures == 0
    let cw := waveWidth k p.width
    let first := if key then 0 else k.wave * cw
    let cols := if key then 0 else min cw (blockCols k.format p.width - first)
    let recovery := if !key && k.newCycle then some (k.refreshPics - 1) else none
    send (.encode k.num p.seq key first cols recovery (mapQp k p.seq p.width p.height))
      (setEnc e { encAt s e with busy := true, since := s.now } s)

/-- The decode of a clip's picture has ended on decode engine `e`: its counters, references, outcome, and the picture's way
to the encode engine. -/
def clipDecoded (e : Nat) (k : Clip) (p : PicFacts) (len : Nat) (flags : BitVec 4) (ts : Word) (cap : BitVec 64) (s : State) : State :=
  let st := streamAt s k.ctx.toNat
  let ad := clipAd st k len
  let sets := storeSets k.params p.stored
  let cut := flags.getLsbD 2
  let refs := if cut then [] else k.refs
  let own := decide (k.startSeq ≤ k.decodeSeq)
  let k := { k with params := sets, refs := refs, decodeSeq := k.decodeSeq + 1 }
  let seq := k.decodeSeq - 1
  let lost : Clip := { k with dropped := k.dropped + b2n own }
  let count (o : Nat) (s : State) : State := countDecode e o p.cycles k.ctx s
  if !p.coded then setDec e { decAt s e with ctx := k.ctx, idleFrom := s.now } (setClip k s)
  else match refusalOf st.op.codec ad sets p with
    | .error o => setClip lost (count o s)
    | .ok a =>
      let short := flags.getLsbD 0 || flags.getLsbD 1
      let p := { p with outPos := outPosOf st.op.codec ts p }
      let hidden := ((List.range p.hidden.length).zip p.hidden).foldl (fun refs e =>
        let h := e.2
        let d := decodeBlocks refs (8 * len) short cut { p with intraOnly := false } [] (blocksOfPic a short h.blocks)
        refsAfter refs h.kept (keepsRef h.isRef d)
          { seq := seq + 2 ^ 32 * (e.1 + 1), outPos := h.outPos, buffer := seq % 10, taint := d.taint }) refs
      let d := decodeBlocks hidden (8 * len) short cut p p.poison (blocksOfPic a short p.blocks)
      let me : RefPic := { seq := seq, outPos := p.outPos, buffer := seq % 10, taint := d.taint }
      let after := refsAfter hidden p.kept (keepsRef p.isRef d) me
      let s := count d.report.outcome.toNat s
      if 2 ≤ d.report.outcome.toNat then setClip { lost with refs := after } s
      else if !own then setClip { k with refs := after } s
      else
        let pic : ClipPic := { seq := seq, ts := ts, capture := cap, outcome := d.report.outcome,
                               width := a.width, height := a.height }
        let k := { k with refs := after, pics := [pic] }
        giveEncoder k pic (setClip k s)

/-- CLIP_DECODE_PICTURE: a decode engine ends the next picture of a clip. Before the first picture decodable without
references, entries of a source list ahead of START_SEQ are passed over (R258). A picture that ingest has overwritten
ends the clip. -/
def execClipDecodePicture (clip : BitVec 16) (f : PicFacts) (s : State) : Res :=
  .next (match (clipsOpen s).find? fun k => k.num == clip && k.engine.isSome with
    | none => s
    | some k =>
      if s.flt.reset.isSome || decide (2 ≤ maxStage s) || !k.pics.isEmpty || decide (k.endSeq < k.decodeSeq) then s
      else if clipLost s k then endClip clip 2 0 s
      else match clipAu s k with
        | none => startSource clip s
        | some (n, flags, ts, cap, blocks) =>
          match clipLeaves s clip f.cycles with
          | none => s
          | some e =>
            let s := wakeDomain (128 + e) s
            let s := dropSource clip blocks s
            let s := if clipSourced k ∧ k.refs.isEmpty ∧ !f.intraOnly ∧ k.decodeSeq < k.startSeq then
                setClip { k with decodeSeq := k.decodeSeq + 1, params := storeSets k.params f.stored } s
              else clipDecoded e k f n flags ts cap s
            startSource clip (clipComplete clip.toNat s))

/-! ## Rate control (R262) -/

/-- Mode of R262. -/
inductive RateMode where
  | normal | capped | floor
  deriving DecidableEq, Repr

/-- Codes the rows that remain; each row's bits at the map's QPs, at MAX_QP and at the floor. -/
def codeRows (cap floor : Nat) : List (Nat × Nat × Nat) → Nat → RateMode → Nat × RateMode
  | [], used, mode => (used, mode)
  | (a, b, c) :: r, used, mode =>
    let left := r.length * floor
    let last := codeRows cap floor r (used + min c floor) .floor
    let second := if used + b + left ≤ cap then codeRows cap floor r (used + b) .capped else last
    match mode with
    | .normal => if used + a + left ≤ cap then codeRows cap floor r (used + a) .normal else second
    | .capped => second
    | .floor => last

/-! ## Output (R265) -/

/-- NAL units of an Annex B byte stream. -/
def splitNal : List Byte → List Byte → List (List Byte)
  | [], cur => [cur.reverse]
  | 0 :: 0 :: 1 :: r, cur => (cur.dropWhile (· == 0)).reverse :: splitNal r []
  | b :: r, cur => splitNal r (b :: cur)

/-- RTP payloads of one NAL unit: a single NAL unit packet, or fragmentation units of RFC 7798 (HEVC) or FU-A of RFC 6184
(H.264). -/
def nalPayloads (format room : Nat) (nal : List Byte) : List (List Byte) :=
  if nal.length ≤ room then [nal]
  else
    let h := if format = 0 then 2 else 1
    let parts := pieces (room - h - 1) (nal.drop h)
    let b0 := (nal.getD 0 0).toNat
    ((List.range parts.length).zip parts).map fun e =>
      let se := (if e.1 = 0 then 0x80 else 0) + (if e.1 + 1 = parts.length then 0x40 else 0)
      if format = 0 then
        [BitVec.ofNat 8 ((b0 &&& 0x81) + 98), nal.getD 1 0, BitVec.ofNat 8 (se + b0 / 2 % 64)] ++ e.2
      else [BitVec.ofNat 8 ((b0 &&& 0xE0) + 28), BitVec.ofNat 8 (se + b0 % 32)] ++ e.2

/-- Payload bytes that fit the port's MTU beside the IP, UDP and RTP headers. -/
def rtpRoom (s : State) (k : Clip) : Nat := (portAt s k.port).mtu - (if k.ipv6 then 40 else 20) - 20

/-- The packets of a coded picture; the last one carries the picture's blocks. -/
def rtpPackets (s : State) (k : Clip) (ts : Word) (stream : List Byte) (blocks : List Nat) : List ClipPacket :=
  let ps := ((splitNal stream []).filter fun n => !n.isEmpty).flatMap (nalPayloads k.format (rtpRoom s k))
  let ps := if ps.isEmpty then [[]] else ps
  ((List.range ps.length).zip ps).map fun e =>
    let last := decide (e.1 + 1 = ps.length)
    { ts := ts, marker := last, payload := e.2, blocks := if last then blocks else [] }

/-- The unit header. -/
def unitHeader (k : Clip) (p : ClipPic) (flags bytes : Nat) : List Byte :=
  leBytes 2 0x4356 ++ leBytes 2 flags ++ leBytes 4 p.seq ++ leBytes 4 p.ts.toNat ++ leBytes 4 bytes
    ++ leBytes 8 p.capture.toNat ++ leBytes 4 k.pictures ++ [0, 0, 0, 0]

/-- Stores bytes in clip segment blocks. -/
def stageBytes (blocks : List Nat) (l : List Byte) (s : State) : State :=
  ((List.range blocks.length).zip blocks).foldl (fun s e =>
    dpaStore (poolBase 2 + poolBlock 2 * e.2) ((l.drop (0x10000 * e.1)).take 0x10000) s) s

/-- A coded picture leaves by the routes the clip asks for. -/
def emitPicture (k : Clip) (p : ClipPic) (unit stream : List Byte) (hostBlocks rtpBlocks : List Nat) (s : State) : Clip × State :=
  let s := stageBytes hostBlocks unit (stageBytes rtpBlocks stream s)
  let k := { k with segBlocks := k.segBlocks ++ hostBlocks ++ rtpBlocks }
  let k := if clipRtp k then { k with packets := k.packets ++ rtpPackets s k p.ts stream rtpBlocks } else k
  if clipHost k then
    let d := mkDesc 0 2 0 unit.length 0 (k.outAddr.toNat + k.outUsed) 1 0 0
    let t : Transfer := { desc := d, total := granulesOf d, cls := 5, owner := k.num.setWidth 32, blocks := hostBlocks }
    ({ k with outUsed := k.outUsed + unit.length },
     { s with mem := { s.mem with host := putAt 6 (getAt [] 6 s.mem.host ++ [t]) s.mem.host } })
  else (k, s)

/-! ## CLIP_ENCODE_PICTURE (R261 to R263, R265, R266) -/

/-- UFLAGS of a picture: KEY, CAPPED, FLOOR, HOLD, CONCEALED, CLEAN. -/
def unitFlags (key : Bool) (mode : RateMode) (concealed clean : Bool) : Nat :=
  b2n key + 2 * b2n (mode == .capped) + 4 * b2n (mode == .floor) + 8 * b2n (!key && mode != .normal)
    + 16 * b2n concealed + 32 * b2n clean

/-- The wave after a picture, and whether the picture is CLEAN. -/
def waveAfter (k : Clip) (w : Nat) (key : Bool) (mode : RateMode) : Nat × Bool :=
  if key then (0, false)
  else if mode ≠ .normal then (k.wave, false)
  else if blockCols k.format w ≤ (k.wave + 1) * waveWidth k w then (0, true)
  else (k.wave + 1, false)

/-- The causes that reach the picture boundary after a coded picture, in the order of R266. -/
def clipBoundary (k : Clip) (full : Bool) (s : State) : State :=
  match k.hostFault with
  | some c => endClip k.num 5 c.toNat s
  | none =>
    if full then endClip k.num 4 0 s
    else if k.cancel then endClip k.num 1 0 s
    else clipComplete k.num.toNat s

/-- The picture is coded in `mode`; `stream` its Annex B bytes. -/
def encodeStep (k : Clip) (e : Nat) (p : ClipPic) (mode : RateMode) (stream : List Byte) (s : State) : State :=
  let key := k.pictures == 0
  let wave := waveAfter k p.width key mode
  let unit := unitHeader k p (unitFlags key mode (p.outcome == 1) wave.2) stream.length ++ stream
  let unit := padTo (ceilDiv unit.length 32 * 32) unit
  let full := clipHost k && decide (k.outBytes < k.outUsed + unit.length)
  let nh := if clipHost k then ceilDiv unit.length 0x10000 else 0
  let nr := if clipRtp k then ceilDiv stream.length 0x10000 else 0
  let v := encAt s e
  let s := endReplay (.clip k.num) (setEnc e { v with
    busy := false, idleFrom := s.now,
    pictures := satAdd v.pictures (b2n (!full)), capped := satAdd v.capped (b2n (!full && mode == .capped)),
    floor := satAdd v.floor (b2n (!full && mode == .floor)) } s)
  if full then clipBoundary { k with pics := [] } true (setClip { k with pics := [] } s)
  else match poolAlloc 2 (0x2000 + k.num.toNat) (nh + nr) s with
    | (none, s) => s
    | (some bs, s) =>
      let r := emitPicture k p unit stream (bs.take nh) (bs.drop nh) s
      let k : Clip := { r.1 with
        pics := [], wave := wave.1, newCycle := key || wave.2, pictures := k.pictures + 1, bytes := k.bytes + stream.length,
        firstSeq := (if k.pictures = 0 then p.seq else k.firstSeq), lastSeq := p.seq,
        capped := k.capped + b2n (mode == .capped), floored := k.floored + b2n (mode == .floor),
        concealed := k.concealed + b2n (p.outcome == 1) }
      clipBoundary k false (setClip k r.2)

/-- Clip segment blocks are free for a picture of `n` bytes by every route (R119, R265). -/
def segmentRoom (s : State) (k : Clip) (n : Nat) : Bool :=
  let need := (if clipHost k then ceilDiv (n + 63) 0x10000 else 0) + (if clipRtp k then ceilDiv n 0x10000 else 0)
  decide ((poolAt s 2).used.length + need ≤ poolTotal 2)

/-- The clip waits until a block frees; the allocation that found none counts once in POOL_DROP (R119). -/
def segmentWait (k : Clip) (s : State) : State :=
  if k.starved then s
  else
    let p := poolAt s 2
    setClip { k with starved := true } { s with pools := putAt 2 { p with drop := satAdd p.drop 1 } s.pools }

/-- CLIP_ENCODE_PICTURE: the encode engine of a clip ends the picture it holds. `header` is the bits of parameter sets, SEI
and slice header, `rowBits` what each row takes at the map's QPs, at MAX_QP and at the floor, `stream` the coded
bytes. -/
def execClipEncodePicture (clip : BitVec 16) (header : Nat) (rowBits : List (Nat × Nat × Nat)) (stream : List Byte)
    (s : State) : Res :=
  .next (match (clipsOpen s).find? fun k => k.num == clip with
    | none => s
    | some k => match k.engine, k.pics with
      | some e, p :: _ =>
        if s.flt.reset.isSome then s
        else
          let key := k.pictures == 0
          let rows := (List.range (blockRows k.format p.height)).map fun i => rowBits.getD i (0, 0, 0)
          let cap := 8 * (if key then k.keyCapBytes else k.capBytes)
          let r := codeRows cap (floorBits k.format p.width key) rows header .normal
          let n := ceilDiv r.1 8
          if segmentRoom s k n then encodeStep { k with starved := false } e p r.2 (padTo n stream) s
          else segmentWait k s
      | _, _ => s)

/-! ## CLIP_PACKET_SEND (R265) -/

/-- A metadata datagram of port `n` that is due goes first. -/
def datagramWaits (s : State) (n : Nat) : Bool :=
  s.dests.any fun e => e.2.enable && e.2.resolved && e.2.port.toNat == n
    && (match e.2.queue with | q :: _ => egressDue s q && windowPassed s q.made | [] => false)

/-- CLIP_PACKET_SEND: the next RTP packet of a clip, at no more than PACE. The port takes it once its next hop is resolved: no
row of the table says when that is for a clip, so the event stands for it (notes/assumptions/89.md). -/
def execClipPacketSend (clip : BitVec 16) (s : State) : Res :=
  .next (match s.clips.find? fun k => k.num == clip with
    | none => s
    | some k => match k.packets with
      | [] => s
      | p :: rest =>
        let port := portAt s k.port
        let noRoute := nextHop s k.port k.ipv6 k.dstIp == 0
        if !port.linkUp || noRoute || txPaused s k.port || decide (s.now < k.sentAt) || datagramWaits s k.port then s
        else
          let head : List Byte := [0x80, BitVec.ofNat 8 (128 * b2n p.marker + k.pt.toNat)] ++ beBytes 2 k.seqNum.toNat
            ++ beBytes 4 p.ts.toNat ++ beBytes 4 k.ssrc.toNat
          let bits := 8 * (head.length + p.payload.length + 8 + if k.ipv6 then 40 else 20)
          let s := send (.rtp (txHeader s k.port k.ipv6 k.dstIp) k.dstIp k.dstPort k.srcPort k.dscp (head ++ p.payload)) s
          let s := setClip { k with
            packets := rest, seqNum := k.seqNum + 1, sentAt := s.now + ceilDiv (bits * 1250) k.pace,
            segBlocks := k.segBlocks.filter fun b => !p.blocks.contains b } s
          clipSweep clip.toNat (poolFree 2 p.blocks s))

/-! ## ENC_WATCHDOG (R306) -/

/-- ENC_WATCHDOG: a picture has been in an encode engine for 2 x (width x height) / 1.0 Gpix/s + 50 µs. -/
def execEncWatchdog (engine : BitVec 3) (s : State) : Res :=
  let e := engine.toNat
  let v := encAt s e
  .next (if !v.busy || s.flt.reset.isSome then s
    else match (clipsOpen s).find? fun k => v.clip == some k.num with
      | none => s
      | some k => match k.pics with
        | [] => s
        | p :: _ =>
          let ran := s.now - v.since
          let bound := ceilDiv ((2 * p.width * p.height + 50000) * 5) 4
          if ran < bound then s
          else startReset { code := 0x303, unit := unitCode 8 e, ctx := ctxCode k.ctx,
                            body := watchdogBody k.num.toNat ran bound } [.clip k.num] s)

end Sys2Proof.Machine
end

