-- ==== Sys2Proof/Machine/Fw.lean ====
section
/-! DEFINITION. Machine/Fw.lean: firmware images and their update (R364 to R382), restarts of Bailiff (R365, R380), and
the SPDM responder in the DOE mailbox (R360, R361, R383). -/

namespace Sys2Proof.Machine

/-! ## Images (R368) -/

/-- Header fields of an image file that its checks read. -/
structure FwHead where
  kind : Nat
  imageBytes : Nat
  entry : Nat
  iv : BitVec 64
  image : FwImage
  deriving DecidableEq, Repr

def fwHeadOf (l : List Byte) : FwHead :=
  { kind := numAt l 6 1
    imageBytes := numAt l 16 4
    entry := numAt l 24 4
    iv := BitVec.ofNat 64 (numAt l 36 8)
    image := {
      build := BitVec.ofNat 32 (numAt l 12 4)
      svn := BitVec.ofNat 16 (numAt l 8 2)
      key := BitVec.ofNat 2 (numAt l 7 1)
      revoke := BitVec.ofNat 4 (numAt l 10 1)
      blocks := numAt l 20 2
      bootBlocks := numAt l 22 2
      outFmt := BitVec.ofNat 16 (numAt l 28 2)
      inMin := BitVec.ofNat 16 (numAt l 30 2)
      inMax := BitVec.ofNat 16 (numAt l 32 2)
      digest := Config.sha384 l } }

/-- Check 2 of R370: MAGIC, FORMAT, KIND and the range of every header field; reserved fields are ignored (R8). -/
def fwHeadOk (kind : Nat) (l : List Byte) : Bool :=
  let h := fwHeadOf l
  let most := if kind = 0 then 256 else 4
  l.take 4 == [0x4B, 0x56, 0x46, 0x57] && numAt l 4 2 == 1 && h.kind == kind && decide (numAt l 7 1 < 4)
    && decide (numAt l 8 2 ≤ if kind = 0 then 64 else 32)
    && decide (1 ≤ h.image.blocks) && decide (h.image.blocks ≤ most)
    && decide (1 ≤ h.imageBytes) && decide (h.imageBytes ≤ h.image.blocks * 65536)
    && decide (1 ≤ h.image.bootBlocks) && decide (h.image.bootBlocks ≤ min 48 h.image.blocks)
    && decide (h.entry < h.image.blocks * 65536)

/-- The stored bytes of block `i`, and its entry of the check table. -/
def fwBlock (l : List Byte) (i : Nat) : List Byte := padTo 65536 (l.drop (0x3000 + i * 65536))
def fwEntry (l : List Byte) (i : Nat) : List Byte := padTo 32 (l.drop (0x100 + 32 * i))

/-- The plaintext of block `i`, where its tag verifies (R369). -/
def fwOpen (l : List Byte) (i : Nat) : Option (List Byte) :=
  Config.gcmOpen (fwHeadOf l).iv (padTo 256 l) i (fwBlock l i) ((fwEntry l i).drop 16)

/-- First block from `i` whose tag fails, or the plaintexts. -/
def fwPlain (l : List Byte) : Nat → Nat → Except Nat (List (List Byte))
  | _, 0 => .ok []
  | i, n + 1 => match fwOpen l i with
    | none => .error i
    | some p => match fwPlain l (i + 1) n with
      | .error e => .error e
      | .ok r => .ok (p :: r)

/-- The signed digest's input (R369): header, CRC values, padded plaintext. -/
def fwSigned (l : List Byte) (plain : List (List Byte)) : List Byte :=
  padTo 256 l ++ (List.range plain.length).flatMap (fun i => (fwEntry l i).take 4) ++ plain.flatten

/-- Checks 1 to 7 of R370 on a file of `bytes` bytes: the number of the first that fails, its status and DETAIL. -/
def fwVerdict (s : State) (kind bytes : Nat) (l : List Byte) : Option (Nat × Nat × Nat) :=
  let h := fwHeadOf l
  let n := h.image.blocks
  if bytes ≠ 0x3000 + n * 65536 then some (1, 0x100, 16)
  else if !fwHeadOk kind l then some (2, 0x400, 0)
  else if h.image.svn.toNat < (if kind = 0 then s.fw.bailiffCtr.toNat else s.fw.patchCtr.toNat) then some (3, 0x401, 0)
  else if s.fw.revoked.getLsbD h.image.key.toNat then some (4, 0x400, 0)
  else match fwPlain l 0 n with
    | .error i => some (5, 0x400, i % 256)
    | .ok plain =>
      match (List.range n).find? fun i => crc32c (plain.getD i []) != BitVec.ofNat 32 (numAt (fwEntry l i) 0 4) with
      | some i => some (6, 0x400, i % 256)
      | none =>
        if Config.mldsaVerify h.image.key (fwSigned l plain) ((l.drop 0x2100).take 3309) then none else some (7, 0x400, 0)

/-! ## FW_STAGE (R370, R373) -/

/-- ST_FW_SEQUENCE with the present state. -/
def fwSequence (s : State) : Reply := failWith 0x402 s.fw.upd.toNat

/-- FWM_EVENT changed: the GLB FW cause rises (R385). -/
def fwEvent (bit : Nat) (w : Fw) (s : State) : State :=
  updateWire (hwSet 0x10 11 (hwSet 0x270004 bit { s with fw := w, glb := { s.glb with fwCause := true } }))

/-- The patch slot not in use. -/
def sparePatch (s : State) : Nat := match s.fw.patchRun with | some 0 => 1 | _ => 0

/-- The target of a staging is invalid: the bank not running, or the patch slot not in use. -/
def spoilTarget (kind : Nat) (s : State) : State :=
  if kind = 0 then { s with fw := invalidate (otherBank s.fw) { s.fw with upd := 0 } }
  else { s with fw := { s.fw with
    patchValid := s.fw.patchValid &&& ~~~ (1#2 <<< sparePatch s), patchStaged := none, patchPending := false } }

/-- The image is in its target, checked. -/
def storeImage (kind : Nat) (m : FwImage) (s : State) : State :=
  if kind = 0 then
    let n := otherBank s.fw
    fwEvent 0 { s.fw with
      upd := 2, banks := putAt n m s.fw.banks, bankValid := s.fw.bankValid ||| (1#2 <<< n), evStaged := true } s
  else
    let n := sparePatch s
    fwEvent 0 { s.fw with
      patchSlots := putAt n m s.fw.patchSlots, patchStaged := some n, patchPending := false, evStaged := true } s

/-- FW_STAGE; `image` is what host engine 7 reads, `programmed` the outcome of check 8. -/
def fwStageBody (kind : Nat) (image : HostRead (List Byte)) (programmed : Bool) (f : Fetched) (s : State) : State :=
  if kind = 0 ∧ 2 < s.fw.upd.toNat then answer f (fwSequence s) s
  else
    let s := spoilTarget kind s
    match image with
    | .fault c => answer f (failWith 0x104 c.toNat) s
    | .data raw =>
      let l := padTo (param f.p 16 4) raw
      let s := if l.length ≤ 0x1100000 then psramStore 0x0C00000 l s else s
      match fwVerdict s kind (param f.p 16 4) l with
      | some (n, st, d) => answer f { failWith st d with result := BitVec.ofNat 96 n } s
      | none =>
        if !programmed then answer f { failWith 0x500 (s.flt.lastSeq.toNat % 256) with result := 8 } s
        else answer f {} (storeImage kind (fwHeadOf l).image s)

def execFwStageBailiff (ring : BitVec 6) (p : Packet) (image : HostRead (List Byte)) (programmed : Bool) (s : State) : Res :=
  packetStep (ofKind 0x20 20 4 1 0 1) ring p (fwStageBody 0 image programmed) s

def execFwStagePatch (ring : BitVec 6) (p : Packet) (image : HostRead (List Byte)) (programmed : Bool) (s : State) : Res :=
  packetStep (ofKind 0x20 20 4 1 1 1) ring p (fwStageBody 1 image programmed) s

/-! ## FW_ARM (R373, R374) -/

/-- The image in the bank not running. -/
def stagedImage (s : State) : FwImage := getAt {} (otherBank s.fw) s.fw.banks

/-- Kind 0: the armed copy is made; incompatible handover formats are a transition that the table does not list. -/
def fwArmBailiffBody (f : Fetched) (s : State) : State :=
  let m := stagedImage s
  let o := (runningImage s).outFmt
  let flags := param f.p 8 1
  if s.fw.upd ≠ 2 ∨ o < m.inMin ∨ m.inMax < o then answer f (fwSequence s) s
  else
    let h := param f.p 10 2
    answer f {} { s with fw := { s.fw with
      upd := 3, syncEn := flags.testBit 1, hostConfirm := flags.testBit 2, healthS := if h = 0 then 120 else h } }

/-- Kind 1: the staged patch runs from the next power-on. -/
def fwArmPatchBody (f : Fetched) (s : State) : State :=
  match s.fw.patchStaged with
  | none => answer f (fwSequence s) s
  | some n =>
    if s.fw.patchPending then answer f (fwSequence s) s
    else answer f {} { s with fw := { s.fw with patchPending := true, patchValid := s.fw.patchValid ||| (1#2 <<< n) } }

def execFwArmBailiff (ring : BitVec 6) (p : Packet) (s : State) : Res :=
  packetStep (ofKind 0x21 8 1 1 0 1) ring p fwArmBailiffBody s

def execFwArmPatch (ring : BitVec 6) (p : Packet) (s : State) : Res :=
  packetStep (ofKind 0x21 8 1 1 1 1) ring p fwArmPatchBody s

/-! ## The switch (R373, R375 to R377) -/

/-- A trigger is taken: SWITCHING, and the running image is asked to quiesce. -/
def beginSwitch (cmd : Option (BitVec 6 × BitVec 16)) (s : State) : State :=
  { s with fw := { s.fw with
    upd := 4, step := 1, trigger := cmd, joined := [], triggerAt := s.now, quiesced := true, handover := true } }

/-- FW_ACTIVATE MODE 0: starts a switch, or joins the pending one (R375). -/
def fwActivateBody (f : Fetched) (s : State) : State :=
  match deviceRefuses true false s with
  | some r => answer f r s
  | none =>
    if s.fw.upd = 3 then wait_ f .switching (beginSwitch (some (f.ring, f.tag)) s)
    else if s.fw.upd = 4 then
      wait_ f .switching { s with fw := { s.fw with joined := s.fw.joined ++ [(f.ring, f.tag)] } }
    else answer f (fwSequence s) s

/-- FW_ACTIVATE MODE 1: the armed image is disarmed. -/
def fwDisarmBody (f : Fetched) (s : State) : State :=
  match deviceRefuses true false s with
  | some r => answer f r s
  | none => if s.fw.upd = 3 then answer f {} { s with fw := { s.fw with upd := 2 } } else answer f (fwSequence s) s

def execFwActivate (ring : BitVec 6) (p : Packet) (s : State) : Res :=
  packetStep (ofKind 0x22 8 1 0xFF 0 1) ring p fwActivateBody s

def execFwDisarm (ring : BitVec 6) (p : Packet) (s : State) : Res :=
  packetStep (ofKind 0x22 8 1 0xFF 1 1) ring p fwDisarmBody s

/-- QUIESCE_TIMEOUT: 2 management steps after the trigger, an image that has not quiesced leaves no handover record. -/
def execQuiesceTimeout (s : State) : Res :=
  .next (if s.fw.step = 1 ∧ s.fw.triggerAt + 2000000 ≤ s.now ∧ 2000000 < Config.quiesceFc s.fw.triggerAt then
    { s with fw := { s.fw with handover := false } } else s)

/-- The commands that triggered and joined a switch. -/
def switchCmds (s : State) : List (BitVec 6 × BitVec 16) := s.fw.trigger.toList ++ s.fw.joined

/-- The previous image takes over (R379): record, the new bank invalid, IDLE, an unanswered FW_ACTIVATE answered. -/
def fwFallback (s : State) : State :=
  let cmds := switchCmds s
  let trial := s.fw.upd = 5
  let s := faultSimple 0x0505 0 s
  let bad := if trial then s.fw.bank.toNat else otherBank s.fw
  let w := { s.fw with
    upd := 0, step := 0, trigger := none, joined := [], quiesced := false, handover := false, clusterReset := false,
    bank := BitVec.ofNat 1 (1 - bad), trialEnd := 0, loadedBlocks := 0, aliveAt := s.now, evFallback := true }
  finishAll cmds (failWith 0x500 (s.flt.lastSeq.toNat % 256))
    (fwEvent 3 (invalidate bad w) { s with clusterSram := freshContents s.clusterSram })

/-- BOOT_LOAD_COMPLETE: the boot blocks are loaded and checked, the new image starts (steps 3 and 4 of R376). -/
def execBootLoadComplete (blocksOk : Bool) (s : State) : Res :=
  .next (if s.fw.step ≠ 2 then s
    else if !blocksOk then fwFallback s
    else
      let cmds := switchCmds s
      let m := stagedImage s
      let w := { s.fw with
        upd := 5, step := 0, trigger := none, joined := [], quiesced := false, clusterReset := false,
        bank := BitVec.ofNat 1 (otherBank s.fw), loadedBlocks := m.bootBlocks,
        trialEnd := s.now + s.fw.healthS * 1250000000, confirmSeen := false, restarted := false, aliveAt := s.now,
        evActivated := true }
      finishAll cmds { round := s.fw.switchRound } (fwEvent 1 w { s with clusterSram := freshContents s.clusterSram }))

/-- REMAINING_BLOCK_LOAD: one of the remaining blocks, in ascending order; a failed check in TRIAL is a fallback. -/
def execRemainingBlockLoad (block : Nat) (ok : Bool) (s : State) : Res :=
  let m := runningImage s
  .next (if s.fw.loadedBlocks = 0 ∨ block ≠ s.fw.loadedBlocks ∨ m.blocks ≤ block then s
    else if ok then { s with fw := { s.fw with loadedBlocks := block + 1 } }
    else if s.fw.upd = 5 then fwFallback s
    else s)

/-- SYNC_IN_EDGE (R335, R353, R377): a counted edge starts an armed switch; in Recess it is held. Every other edge sets
SYNC_IGNORED. An edge during a brown-out reset is lost (R332). -/
def execSyncInEdge (s : State) : Res :=
  .next (if s.pwr.aonReset then s
    else if s.fw.upd = 3 ∧ s.fw.syncEn then
      let s := pmeD3hot (leaveLow s)
      if s.pwr.recess then { s with pwr := { s.pwr with heldSync := true } } else beginSwitch none s
    else fwEvent 5 { s.fw with evSyncIgnored := true } (leaveLow s))

/-! ## Health (R378 to R381) -/

/-- CONFIRM_REQUEST: the new image asks for its confirmation. -/
def execConfirmRequest (s : State) : Res :=
  .next (if s.fw.upd ≠ 5 ∨ s.fw.restarted ∨ (s.fw.hostConfirm ∧ !s.fw.confirmSeen) then s
    else
      let m := runningImage s
      let own : BitVec 4 := 1#4 <<< m.key.toNat
      let patch := match s.fw.patchRun with
        | some n => max s.fw.patchCtr.toNat ((getAt ({} : FwImage) n s.fw.patchSlots).svn).toNat
        | none => s.fw.patchCtr.toNat
      fwEvent 2 { s.fw with
        upd := 0, trialEnd := 0
        bailiffCtr := BitVec.ofNat 7 (min 127 (max s.fw.bailiffCtr.toNat m.svn.toNat))
        patchCtr := BitVec.ofNat 6 (min 63 patch)
        revoked := s.fw.revoked ||| (m.revoke &&& ~~~ own)
        evConfirmed := true } s)

/-- TRIAL_TIMEOUT: the trial count runs out; a Proctor timer takes the regulator out of LOW (R331). -/
def execTrialTimeout (s : State) : Res :=
  .next (if s.fw.upd = 5 ∧ s.fw.trialEnd ≤ s.now then fwFallback (leaveLow s) else s)

/-- Proctor restarts Bailiff (R380); in SWITCHING and TRIAL it falls back (R379). -/
def bailiffRestart (reason : Nat) (s : State) : State :=
  if s.fw.clusterReset || !s.glb.ready then s
  else if s.fw.upd = 4 ∨ s.fw.upd = 5 then fwFallback s
  else
    let s := faultSimple 0x0504 0 s
    fwEvent 4 { s.fw with
      restarts := satAddW s.fw.restarts 1, reason := BitVec.ofNat 4 reason, evRestart := true, restarted := true
      aliveAt := s.now } { s with clusterSram := freshContents s.clusterSram }

/-- ALIVE_TIMEOUT: no report for 63 management steps. -/
def execAliveTimeout (s : State) : Res :=
  .next (if s.fw.aliveAt + 63000000 ≤ s.now then bailiffRestart 1 (leaveLow s) else s)

/-- FIREWALL_BLOCK: a denied read returns zero and a denied write is discarded, so nothing else changes (R365). -/
def execFirewallBlock (_write : Bool) (s : State) : Res := .next (bailiffRestart 2 s)

/-- MGMT_SRAM_ERROR: an uncorrectable error in management-cluster SRAM. -/
def execMgmtSramError (s : State) : Res := .next (bailiffRestart 3 s)

/-- A write of FWM_CTRL: CONFIRM in TRIAL is the host's confirmation, REJECT in SWITCHING and TRIAL falls back. -/
def fwCtrl (value : Word) (s : State) : State :=
  let s := if value.getLsbD 0 ∧ s.fw.upd = 5 then { s with fw := { s.fw with confirmSeen := true } } else s
  if value.getLsbD 1 ∧ (s.fw.upd = 4 ∨ s.fw.upd = 5) then fwFallback s else s

/-- FW_CONFIRM: a write of FWM_CTRL that carries CONFIRM. -/
def execFwConfirm (value : Word) (s : State) : Res :=
  if !value.getLsbD 0 then .fault .notThisCommand else .next (if hostAccess s then fwCtrl value s else s)

/-- FW_REJECT: a write of FWM_CTRL that carries REJECT. -/
def execFwReject (value : Word) (s : State) : Res :=
  if !value.getLsbD 1 then .fault .notThisCommand else .next (if hostAccess s then fwCtrl value s else s)

/-! ## SPDM (R360, R361, R383): message formats of SPDM 1.3, PRESUMED (notes/assumptions/22.md) -/

/-- The function's configuration space can be reached, and with it the DOE mailbox: D0 and D3hot. -/
def doeServes (s : State) : Bool := linkSpeaks s && !s.link.flr && !s.board.perst && !s.link.crs

/-- A response is ready in the mailbox. -/
def doeRespond (bytes : List Byte) (s : State) : State :=
  if doeServes s then send (.doe bytes) { s with fw := { s.fw with doeObject := bytes } } else s

/-- ERROR with a code and its data. -/
def spdmError (code data : Nat) : List Byte := [0x13, 0x7F, BitVec.ofNat 8 code, BitVec.ofNat 8 data]

/-- A response in negotiation step `need` or later; before it, ERROR UnexpectedRequest. -/
def spdmStep (need : Nat) (bytes : List Byte) (s : State) : State :=
  if s.fw.spdm < need then doeRespond (spdmError 4 0) s else doeRespond bytes s

/-- Sets the negotiation step, where the mailbox is served. -/
def setSpdm (n : Nat) (s : State) : State := if doeServes s then { s with fw := { s.fw with spdm := n } } else s

/-- GET_VERSION: versions 1.2 and 1.3; negotiation starts again. -/
def execGetVersion (s : State) : Res :=
  .next (doeRespond [0x10, 0x04, 0, 0, 0, 2, 0, 0x12, 0, 0x13] (setSpdm 1 s))

/-- GET_CAPABILITIES: CERT_CAP, CHAL_CAP, MEAS_CAP signed, MEAS_FRESH_CAP; CT exponent 16. -/
def execGetCapabilities (s : State) : Res :=
  .next (spdmStep 1 ([0x13, 0x61, 0, 0, 0, 16, 0, 0] ++ leBytes 4 0x36 ++ leBytes 4 0x4000 ++ leBytes 4 0x4000)
    (if 1 ≤ s.fw.spdm then setSpdm 2 s else s))

/-- NEGOTIATE_ALGORITHMS: ECDSA P-384, SHA-384, DMTF. -/
def execNegotiateAlgorithms (s : State) : Res :=
  .next (spdmStep 2 ([0x13, 0x63, 0, 0] ++ leBytes 2 36 ++ [1, 0] ++ leBytes 4 4 ++ leBytes 4 0x80 ++ leBytes 4 2
    ++ List.replicate 16 0) (if 2 ≤ s.fw.spdm then setSpdm 3 s else s))

/-- Certificate slots that hold a chain: slot 0 while its certificate matches the derived key. -/
def certSlots : List Nat := if Config.certGood then [0, 1] else [1]

/-- Bit map of the slots. -/
def slotMask : Nat := (certSlots.map fun n => 2 ^ n).foldl (· + ·) 0

/-- GET_DIGESTS: the digest of each chain. -/
def execGetDigests (s : State) : Res :=
  .next (spdmStep 3 ([0x13, 0x01, 0, BitVec.ofNat 8 slotMask]
    ++ certSlots.flatMap fun n => padTo 48 (Config.sha384 (Config.certChain n))) s)

/-- GET_CERTIFICATE: a portion of a chain. -/
def execGetCertificate (slot offset length : Nat) (s : State) : Res :=
  let chain := Config.certChain slot
  let part := (chain.drop offset).take length
  .next (spdmStep 3 (if !certSlots.contains slot || decide (chain.length ≤ offset) then spdmError 1 0
    else [0x13, 0x02, BitVec.ofNat 8 slot, 0] ++ leBytes 2 part.length
      ++ leBytes 2 (chain.length - offset - part.length) ++ part) s)

/-- A responder nonce: free bytes. -/
def spdmNonce (s : State) : List Byte × State :=
  let d := drawFree s
  ((List.range 32).map fun i => Config.freeByte (d.1 + 1) 2 i, d.2)

/-- CHALLENGE: CHALLENGE_AUTH, signed with the identity key. -/
def execChallenge (slot : Nat) (nonce : List Byte) (s : State) : Res :=
  .next (if !certSlots.contains slot then spdmStep 3 (spdmError 1 0) s
    else
      let r := spdmNonce s
      let body := [0x13, 0x03, BitVec.ofNat 8 slot, BitVec.ofNat 8 (2 ^ slot)]
        ++ padTo 48 (Config.sha384 (Config.certChain slot)) ++ r.1 ++ [0, 0]
      spdmStep 3 (body ++ Config.identitySign (padTo 32 nonce ++ body)) r.2)

/-- The digests of the five measurement blocks (R361). -/
def measurements (s : State) : List (List Byte) :=
  let patch := match s.fw.patchRun with
    | some n => (getAt ({} : FwImage) n s.fw.patchSlots).digest
    | none => []
  let retired := ((List.range 128).filter fun n => (coreAt s n).retired)
    ++ ((List.range 32).filter fun n => (decAt s n).retired).map (· + 128)
    ++ ((List.range 8).filter fun n => (encAt s n).retired).map (· + 160)
    ++ ((List.range 16).filter fun n => (prepAt s n).retired).map (· + 168)
  [Config.sha384 (Config.romRevision :: patch),
   Config.sha384 (Config.fuseImage
     ++ [BitVec.ofNat 8 s.fw.bailiffCtr.toNat, BitVec.ofNat 8 s.fw.patchCtr.toNat, BitVec.ofNat 8 s.fw.revoked.toNat]),
   (runningImage s).digest,
   (if s.fw.upd = 2 ∨ s.fw.upd = 3 ∨ s.fw.upd = 4 then (stagedImage s).digest else []),
   Config.sha384 ([Config.stepping, BitVec.ofNat 8 (capacityClass s)] ++ retired.map fun n => BitVec.ofNat 8 n)]

/-- GET_MEASUREMENTS: all five blocks, sampled together, signed. -/
def execGetMeasurements (nonce : List Byte) (s : State) : Res :=
  let r := spdmNonce s
  let m := measurements s
  let blocks := ((List.range m.length).zip m).flatMap fun e =>
    [BitVec.ofNat 8 (e.1 + 1), 1] ++ leBytes 2 51 ++ [1] ++ leBytes 2 48 ++ padTo 48 e.2
  let body := [0x13, 0x60, 0, 0, BitVec.ofNat 8 m.length] ++ leBytes 3 blocks.length ++ blocks ++ r.1 ++ [0, 0]
  .next (spdmStep 3 (body ++ Config.identitySign (padTo 32 nonce ++ body)) r.2)

/-- Any other SPDM request: ERROR UnsupportedRequest with the request's code. -/
def execSpdmUnsupportedRequest (code : Byte) (s : State) : Res := .next (doeRespond (spdmError 7 code.toNat) s)

/-- DOE_ABORT: the exchange ends; the mailbox holds nothing. -/
def execDoeAbort (s : State) : Res :=
  .next (if doeServes s then { s with fw := { s.fw with doeObject := [] } } else s)

end Sys2Proof.Machine
end

