-- ==== Sys2Proof/Machine/Power.lean ====
section
/-! DEFINITION. Machine/Power.lean: power domains and their handshake (R323 to R329), the always-on regulator (R330 to
R332), and Recess (R333 to R337). -/

namespace Sys2Proof.Machine

/-! ## Domains (R323) -/

/-- The video engine of a domain. -/
def engineDomain (d : Nat) : Option (VideoKind × Nat) :=
  if d < 128 then none
  else if d < 160 then some (.decode, d - 128)
  else if d < 168 then some (.encode, d - 160)
  else if d < 184 then some (.prep, d - 168)
  else none

/-- The domain of a video engine. -/
def domainOf (k : VideoKind) (i : Nat) : Nat :=
  match k with
  | .decode => 128 + i
  | .encode => 160 + i
  | .prep => 168 + i

/-- The unit of a domain is retired: its domain stays off. -/
def domainRetired (s : State) (d : Nat) : Bool :=
  if d < 128 then (coreAt s d).retired
  else match engineDomain d with
    | some (.decode, i) => (decAt s i).retired
    | some (.prep, i) => (prepAt s i).retired
    | some (.encode, i) => (encAt s i).retired
    | none => false

/-- The idle period of an engine starts again. -/
def idleAgain (d : Nat) (s : State) : State :=
  match engineDomain d with
  | some (.decode, i) => setDec i { decAt s i with idleFrom := s.now } s
  | some (.prep, i) => setPrep i { prepAt s i with idleFrom := s.now } s
  | some (.encode, i) => setEnc i { encAt s i with idleFrom := s.now } s
  | none => s

/-- A domain goes on; an engine that does is idle from now. -/
def powerUp (d : Nat) (s : State) : State :=
  if d < 128 then corePowerOn d s
  else if domainOn s d then wakeDomain d s
  else idleAgain d (wakeDomain d s)

/-- A Granary bank loses its contents: zero with valid check bits. -/
def clearBank (b : Nat) (s : State) : State :=
  let lo := granaryBase + b * 0x800000
  let out (a : Nat) : Bool := decide (a < lo) || decide (lo + 0x800000 ≤ a)
  { s with mem := { s.mem with dpa := { s.mem.dpa with
    cells := s.mem.dpa.cells.filter fun e => out e.1
    syn := s.mem.dpa.syn.filter fun e => out e.1 } } }

/-- A domain goes off, or to retention (mode 1), or to self-refresh (mode 2). The PCIe controller stays on. -/
def switchOff (d : Nat) (mode : BitVec 2) (s : State) : State :=
  if d < 128 then corePowerOff d s
  else if d = 266 then s
  else
    let s := { s with pwr := { s.pwr with
      on := s.pwr.on.filter (· ≠ d)
      retained := (if mode = 1 then insNat d s.pwr.retained else s.pwr.retained) } }
    if 184 ≤ d ∧ d < 248 ∧ mode = 0 then clearBank (d - 184) s else s

/-! ## Answers (R328) -/

/-- Pool blocks in use in a Granary bank. -/
def bankHolds (s : State) (b : Nat) : Bool :=
  (List.range 4).any fun n => (poolAt s n).used.any fun e =>
    (poolBase n + poolBlock n * e.1 - granaryBase) / 0x800000 == b

/-- A clip picture waits for a decode engine. -/
def clipWaits (s : State) : Bool :=
  s.clips.any fun k => clipReady s k && !(clipDecoding s none).any fun x => x.2.num == k.num

/-- A decode engine holds a clip's picture. -/
def clipIn (s : State) (i : Nat) : Bool := (clipDecoding s none).any fun x => x.1 == i

/-- A best-effort job has issued its first layer and has layers left. -/
def jobUnderWay (s : State) : Bool := s.jobs.any fun j => j.started && (jobLayer s j).isSome

/-- What a domain answers to OFF_REQ: none for ACK, else whether it refuses and its reason code. -/
def answerOf (s : State) (d : Nat) (h : Handshake) : Option (Bool × Nat) :=
  if h.accessed then some (true, 2)
  else if d < 128 then if (coreAt s d).busy then some (false, 1) else none
  else match engineDomain d with
    | some (.decode, i) =>
      if !(boundTo s .decode i).isEmpty then some (true, 3)
      else if clipWaits s then some (true, 4)
      else if (decHead s i).isSome || clipIn s i then some (false, 1)
      else none
    | some (.prep, i) =>
      if !(boundTo s .prep i).isEmpty then some (true, 3)
      else if (prepHead s i).isSome then some (false, 1)
      else none
    | some (.encode, i) =>
      if (encAt s i).clip.isSome then some (true, 4)
      else if (encAt s i).busy then some (false, 1)
      else none
    | none =>
      if d = 267 then
        if jobUnderWay s then some (true, 5)
        else if !s.bell.actions.isEmpty then some (false, 1)
        else none
      else if d = 269 then if s.trk.busy then some (false, 1) else none
      else if d = 264 ∨ d = 265 then
        let p := portAt s (d - 264)
        if p.mode ≠ 0 ∧ !p.linkUp then some (false, 9) else none
      else if d = 266 then if s.mem.parks.isEmpty then none else some (false, 6)
      else if 184 ≤ d ∧ d < 248 then
        if h.mode = 0 ∧ bankHolds s (d - 184) then some (false, 8) else none
      else if 248 ≤ d ∧ d < 264 then
        if s.mem.owed.any (fun e => e.1 / 8 == d - 248 && decide (0 < e.2)) then some (false, 7) else none
      else none

/-! ## Recess entry (R333, R334) -/

/-- Banks retained in every Recess. -/
def keptBanks : List Nat := [184 + 21, 184 + 22, 184 + 23] ++ (List.range 6).map (· + 242)

/-- The domains an entry asks, in order, each with its mode; the PCIe controller answers last. -/
def recessTodo (banks : Bool) (s : State) : List (Nat × BitVec 2) :=
  let off (l : List Nat) : List (Nat × BitVec 2) := (l.filter (domainOn s)).map fun d => (d, 0)
  let all := (List.range 64).map (· + 184)
  off (List.range 128 ++ [269] ++ (List.range 56).map (· + 128) ++ [267, 270, 264, 265])
    ++ (if banks then (all.filter fun d => !keptBanks.contains d).map (fun d => (d, 0)) else [])
    ++ (if banks then keptBanks else all).map (fun d => (d, 1))
    ++ (List.range 16).map (fun g => (248 + g, 2)) ++ [(266, 0)]

def recessEnterBody (f : Fetched) (s : State) : State :=
  match deviceRefuses true false s with
  | some r => answer f r s
  | none => match (holders s).head? with
    | some e => answer f (failWith 0x200 (stateCode e.2.state)) s
    | none =>
      let banks := decide (param f.p 8 1 = 1)
      wait_ f .recess { s with
        bell := { s.bell with running := false, roundSeq := nextRound s.bell.roundSeq }
        pwr := { s.pwr with
          transition := 1
          entry := some { todo := recessTodo banks s, done := [], start := s.now, banks := banks,
                          cmd := (f.ring, f.tag) } } }

/-- RECESS_ENTER: the sequencer issues nothing further, and the handshakes of R334 begin. -/
def execRecessEnter (ring : BitVec 6) (p : Packet) (s : State) : Res := packetStep (ofOp 0x1C) ring p recessEnterBody s

/-- Every domain has been switched: the link is narrowed, RECESS is set and the command answered. -/
def recessReached (e : RecessEntry) (s : State) : State :=
  finish e.cmd {} (enterLow { s with
    pwr := { s.pwr with entry := none, recess := true, transition := 0, banksOff := e.banks }
    link := { s.link with narrow := true } })

/-- The handshake of domain `d` has ended with its ACK. -/
def entryStep (d : Nat) (s : State) : State :=
  match s.pwr.entry with
  | none => s
  | some e =>
    if (e.todo.head?.map (·.1)) ≠ some d then s
    else
      let e := { e with todo := e.todo.tail, done := d :: e.done }
      let s := { s with pwr := { s.pwr with entry := some e } }
      if e.todo.isEmpty then recessReached e s else s

/-- Domain `d` is the one the entry waits for. -/
def entryWaits (s : State) (d : Nat) : Bool :=
  match s.pwr.entry with
  | some e => e.todo.head?.map (·.1) == some d
  | none => false

/-- A REFUSE, or a DELAY that expired (R329): PWR_REFUSE and the count. One that meets a Recess entry ends it: what was
switched wakes in reverse order, rounds resume, and the command is answered under R333. -/
def refuseBy (d reason : Nat) (s : State) : State :=
  let ends := entryWaits s d
  let s := { s with pwr := { s.pwr with
    hs := dropAt d s.pwr.hs, refDomain := BitVec.ofNat 9 d, refReason := BitVec.ofNat 8 reason, refEntry := ends,
    refusals := satAdd s.pwr.refusals 1 } }
  match s.pwr.entry with
  | some e =>
    if !ends then idleAgain d s
    else
      let s := e.done.foldl (fun s x => powerUp x s) s
      let s := newRound { s with pwr := { s.pwr with entry := none, transition := 0, refusal := true } }
      finish e.cmd { status := 0x200, result := BitVec.ofNat 96 (d + 65536 * reason) } (updateWire (hwSet 0x240000 6 s))
  | none => idleAgain d s

/-! ## Messages (R326 to R329) -/

/-- The power controller works: its domain is out of reset. -/
def pwrWorks (s : State) : Bool := !s.pwr.aonReset && s.flt.reset.isNone

/-- OFF_REQ goes out. -/
def askOff (d : Nat) (mode : BitVec 2) (s : State) : State :=
  send (.powerMsg d 0 mode.toNat) { s with pwr := { s.pwr with hs := putAt d { mode := mode } s.pwr.hs } }

/-- An engine that is not bound and has been idle for ENG_IDLE_STEPS (R326). -/
def idleDue (s : State) (k : VideoKind) (i : Nat) : Bool :=
  let from_ := match k with
    | .decode => (decAt s i).idleFrom
    | .prep => (prepAt s i).idleFrom
    | .encode => (encAt s i).idleFrom
  domainOn s (domainOf k i) && (boundTo s k i).isEmpty && !engineBusy s k i && s.pwr.engIdle != 0
    && (k != .encode || (encAt s i).clip.isNone) && (k != .decode || !clipIn s i)
    && decide (from_ + s.pwr.engIdle.toNat * 1000000 ≤ s.now)

/-- ENGINE_IDLE_OFF: an engine whose idle period has passed is asked to go off. -/
def execEngineIdleOff (kind : VideoKind) (index : BitVec 5) (s : State) : Res :=
  let d := domainOf kind index.toNat
  .next (if pwrWorks s && engineDomain d == some (kind, index.toNat) && (findAt d s.pwr.hs).isNone
      && idleDue s kind index.toNat then askOff d 0 s else s)

/-- An off trigger of R323 outside Recess and SLEEP. -/
def offTrigger (s : State) (d : Nat) : Bool :=
  domainRetired s d
    || (match engineDomain d with | some (k, i) => idleDue s k i | none => false)
    || ((d == 264 || d == 265) && (portAt s (d - 264)).mode == 0)
    || (d == 270 && (portAt s 0).mode == 0 && (portAt s 1).mode == 0)

/-- OFF_REQ: the next domain of a Recess entry, or one whose off trigger holds. -/
def execOffReq (domain : BitVec 9) (mode : BitVec 2) (s : State) : Res :=
  let d := domain.toNat
  let next := match s.pwr.entry with | some e => e.todo.head? == some (d, mode) | none => false
  .next (if pwrWorks s && (findAt d s.pwr.hs).isNone && domainOn s d && (next || (mode == 0 && offTrigger s d)) then
    askOff d mode s else s)

/-- ACK: the domain has quiesced, and its power changes. -/
def execAck (domain : BitVec 9) (s : State) : Res :=
  let d := domain.toNat
  .next (match findAt d s.pwr.hs with
    | none => s
    | some h =>
      if !pwrWorks s || (answerOf s d h).isSome then s
      else entryStep d (switchOff d h.mode { s with pwr := { s.pwr with hs := dropAt d s.pwr.hs } }))

/-- DELAY: an ACK will follow within `us` µs, at most 4 ms. -/
def execDelay (domain : BitVec 9) (reason : Byte) (us : Nat) (s : State) : Res :=
  let d := domain.toNat
  .next (match findAt d s.pwr.hs with
    | none => s
    | some h =>
      if !pwrWorks s || answerOf s d h != some (false, reason.toNat) || decide (4000 < us) || h.delayUntil.isSome then s
      else { s with pwr := { s.pwr with hs := putAt d { h with delayUntil := some (s.now + 1250 * us) } s.pwr.hs } })

/-- REFUSE: the domain does not change state. -/
def execRefuse (domain : BitVec 9) (reason : Byte) (s : State) : Res :=
  let d := domain.toNat
  .next (match findAt d s.pwr.hs with
    | none => s
    | some h => if pwrWorks s && answerOf s d h == some (true, reason.toNat) then refuseBy d reason.toNat s else s)

/-- The handshake phase of an entry is over after 6 management steps (R334). -/
def phaseOver (s : State) : Bool := match s.pwr.entry with | some e => decide (e.start + 6000000 ≤ s.now) | none => false

/-- DELAY_EXPIRED: a DELAY past its time, or open at the entry's limit. -/
def execDelayExpired (domain : BitVec 9) (s : State) : Res :=
  let d := domain.toNat
  .next (match findAt d s.pwr.hs with
    | some { delayUntil := some t, .. } =>
      if pwrWorks s && (decide (t ≤ s.now) || (entryWaits s d && phaseOver s)) then refuseBy d 0x0A s else s
    | _ => s)

/-- A request to wake a domain: held while the regulator is in LOW, in a queue of 16 without repeats (R331). -/
def requestWake (d : Nat) (s : State) : State :=
  if s.pwr.aonLow then
    if s.pwr.wakeQueue.contains d || decide (16 ≤ s.pwr.wakeQueue.length) then s
    else { s with pwr := { s.pwr with wakeQueue := s.pwr.wakeQueue ++ [d] } }
  else send (.powerMsg d 4 0) { s with pwr := { s.pwr with waking := insNat d s.pwr.waking } }

/-- WAKE_REQ: outside Recess, or during its exit, a domain that is off and not retired powers on. -/
def execWakeReq (domain : BitVec 9) (s : State) : Res :=
  let d := domain.toNat
  .next (if pwrWorks s && decide (d < 272) && !domainOn s d && !domainRetired s d
      && (!s.pwr.recess || s.pwr.exit_.isSome) then requestWake d s else s)

/-- READY: a domain that is waking is usable; in a Recess exit cores follow the HBM controller groups (R336). -/
def execReady (domain : BitVec 9) (s : State) : Res :=
  let d := domain.toNat
  let hbm := (List.range 16).all fun g => s.pwr.on.contains (248 + g)
  .next (if pwrWorks s && s.pwr.waking.contains d && (hbm || decide (128 ≤ d)) then
    powerUp d { s with pwr := { s.pwr with waking := s.pwr.waking.filter (· ≠ d) } } else s)

/-! ## Host accesses to domains that are off (R324) -/

/-- The domain that holds the register at a BAR0 offset (R400). -/
def regDomain (o : Nat) : Nat :=
  if o < 0x20000 then 266
  else if o < 0x40000 then if o = 0x22000 then 270 else if o < 0x21000 then 264 else 265
  else if o < 0x60000 then if o = 0x40F00 then 268 else 128 + (o - 0x40000) / 0x1000
  else if o < 0x70000 then if o < 0x60800 then 160 + (o - 0x60000) / 0x100 else 268
  else if o < 0x80000 then if o < 0x71000 then 168 + (o - 0x70000) / 0x100 else 266
  else if o < 0x100000 then 267
  else if o < 0x200000 then (o - 0x100000) / 0x2000
  else if o < 0x210000 then 269
  else if o < 0x230000 then 248
  else if o < 0x240000 then 268
  else if o < 0x250000 then 271
  else if o < 0x260000 then 268
  else if o < 0x270000 then 266
  else if o < 0x280000 then 268
  else 271

/-- Only the register shell of these domains comes up for an access: banks, HBM groups, ports, retired units. -/
def shellOnly (s : State) (d : Nat) : Bool := (decide (184 ≤ d) && decide (d < 266)) || domainRetired s d

/-- Registers of a domain can be accessed now. -/
def shellUp (s : State) (d : Nat) : Bool := domainOn s d || s.pwr.shells.any fun e => e.1 == d

/-- An access has reached a domain: one asked to go off refuses, and a Recess revert starts over. -/
def touchDomain (d : Nat) (s : State) : State :=
  { s with pwr := { s.pwr with
    shells := s.pwr.shells.map fun e => if e.1 = d then (d, s.now) else e
    hs := (match findAt d s.pwr.hs with
      | some h => putAt d { h with accessed := true } s.pwr.hs
      | none => s.pwr.hs) } }

/-- A domain comes up for a host access that stalled `stallUs` µs. In Recess its powering is noted, so that it reverts.
While the regulator is in LOW the wake is held (R331). -/
def hostWake (d : Nat) (stallUs : BitVec 16) (s : State) : State :=
  if shellUp s d || s.pwr.aonReset then s
  else if s.pwr.aonLow then requestWake d s
  else
    let s := { s with pwr := { s.pwr with
      stallMax := (if s.pwr.stallMax < stallUs then stallUs else s.pwr.stallMax)
      stallSince := (if s.pwr.stallSince < stallUs then stallUs else s.pwr.stallSince)
      stallStep := (if s.pwr.stallStep < stallUs then stallUs else s.pwr.stallStep)
      stallCount := satAddW s.pwr.stallCount 1 } }
    let s := hwPeak 0x24000C stallUs.toNat s
    let noted := shellOnly s d || s.pwr.recess
    let s := if shellOnly s d then s else powerUp d s
    if noted then { s with pwr := { s.pwr with shells := s.pwr.shells ++ [(d, s.now)] } } else s

/-- HOST_ACCESS_WAKE: the domain of a register comes up for a host access that stalled `stallUs` µs, at most 30. -/
def execHostAccessWake (offset : BitVec 24) (stallUs : BitVec 16) (s : State) : Res :=
  .next (if !hostAccess s || decide (30 < stallUs.toNat) then s else hostWake (regDomain offset.toNat) stallUs s)

/-- RECESS_DOMAIN_REVERT: a management step has passed without an access. -/
def execRecessDomainRevert (domain : BitVec 9) (s : State) : Res :=
  let d := domain.toNat
  .next (if !s.pwr.recess || s.pwr.exit_.isSome then s
    else match s.pwr.shells.find? fun e => e.1 == d && decide (e.2 + 1000000 ≤ s.now) with
      | none => s
      | some _ =>
        let s := { s with pwr := { s.pwr with shells := s.pwr.shells.filter fun e => e.1 ≠ d } }
        if shellOnly s d then s else switchOff d 0 s)

/-! ## Recess exit (R336, R337) -/

/-- Domains that an exit wakes. -/
def exitDomains (s : State) : List Nat :=
  (List.range 264 ++ [267, 269, 270]).filter (fun d => !domainRetired s d && !domainOn s d
      && (decide (128 ≤ d) || (classCores s).contains d))
    ++ [264, 265].filter fun d => (portAt s (d - 264)).mode != 0 && !domainOn s d

def recessExitBody (f : Fetched) (s : State) : State :=
  if !s.pwr.recess then answer f (failWith 0x200 0) s
  else
    let s := leaveLow s
    wait_ f .recess { s with pwr := { s.pwr with
      transition := 2, exit_ := some (s.now, (f.ring, f.tag)), waking := insNats (exitDomains s) s.pwr.waking,
      shells := s.pwr.shells.filter fun e => domainRetired s e.1 } }

/-- RECESS_EXIT: every domain is woken in the phases of R336. -/
def execRecessExit (ring : BitVec 6) (p : Packet) (s : State) : Res := packetStep (ofOp 0x1D) ring p recessExitBody s

/-- A core of the capacity class reloads from its image. -/
def exitCore (n : Nat) (s : State) : State :=
  let r := coreLoad n s
  setCore n { coreAt r.2 n with ready := r.1, readyAt := s.now, wakeAt := if r.1 then none else some s.now } r.2

/-- Contents and registers at their S values (R12, R321). -/
def recessReset (banksOff : Bool) (s : State) : State :=
  let empty (p : Pool) : Pool := { p with used := [], stage := 0 }
  let down (p : Port) : Port := { p with linkUp := false, linkChange := false }
  let active := areaAt s s.bell.active
  { s with
    ports := mapAt down s.ports
    pools := (if banksOff then mapAt empty s.pools else s.pools)
    decEng := mapAt (fun (v : VidEngine) => { v with ctx := 0, idleFrom := s.now }) s.decEng
    prepEng := mapAt (fun (v : VidEngine) => { v with cycles := 0, idleFrom := s.now }) s.prepEng
    encEng := mapAt (fun (v : EncEngine) => { v with idleFrom := s.now }) s.encEng
    trk := { joinRefused := s.trk.joinRefused, reuse := s.trk.reuse, created := s.trk.created }
    mem := { s.mem with parks := [], tlbWait := [] }
    bell := { s.bell with
      next := { s.bell.next with state := if s.bell.changes.isEmpty then 0 else 1 }
      standby := { s.bell.standby with state := 0 }
      areas := [(s.bell.active.toNat, active)]
      changes := s.bell.changes.map fun c => { c with included := false } }
    pwr := { s.pwr with recess := false, transition := 0, banksOff := false, exit_ := none, waking := [], shells := [] }
    link := { s.link with narrow := false } }

/-- The exit's end: domains on, S values, deferred PORT_CONFIGs, the first round, the reply, a held SYNC_IN edge (R335),
and the faults that waited (R320). -/
def finishExit (cmd : BitVec 6 × BitVec 16) (s : State) : State :=
  let todo := s.pwr.waking
  let s := todo.foldl (fun s d => powerUp d s) s
  let s := recessReset s.pwr.banksOff s
  let s := applyDeferred (((List.range 128).filter fun n => (coreAt s n).powered).foldl (fun s n => exitCore n s) s)
  let s := newRound s
  let s := finish cmd { round := s.bell.roundSeq } s
  let s := if s.pwr.heldSync then
      let s := { s with pwr := { s.pwr with heldSync := false } }
      if s.fw.upd = 3 ∧ s.fw.syncEn then beginSwitch none s else s
    else s
  let later := s.flt.later
  later.foldl (fun s x => startReset x.1 x.2 s) { s with flt := { s.flt with later := [] } }

/-- RECESS_EXIT_ROUND_START: every phase except Ethernet link-up has ended. After a function-level reset received in
Recess, READY rises now (R354). -/
def execRecessExitRoundStart (s : State) : Res :=
  .next (match s.pwr.exit_ with
    | some (_, cmd) =>
      if s.pwr.aonLow || !pwrWorks s then s
      else
        let s := finishExit cmd s
        if s.link.flrRecess then
          { s with glb := { s.glb with ready := true }, link := { s.link with flrRecess := false } }
        else s
    | none => s)

/-! ## The always-on domain (R331, R332) -/

/-- AON_FULL_REACHED: 50 µs after the event the regulator is in FULL, and the held requests are served in order. -/
def execAonFullReached (s : State) : Res :=
  .next (match s.pwr.fullAt with
    | some t =>
      if t ≤ s.now then
        let held := s.pwr.wakeQueue
        let s := { s with pwr := { s.pwr with aonLow := false, leaving := false, fullAt := none, wakeQueue := [] } }
        held.foldl (fun s d => requestWake d s) s
      else s
    | none => s)

/-- CLKREQ_LINK_EXIT: the link leaves L1 or a substate of it, and the regulator leaves LOW. -/
def execClkreqLinkExit (s : State) : Res :=
  .next (if s.link.state == .l1 || s.link.state == .l12 then
    hostReturned (restoreWire (leaveLow { s with link := { s.link with state := .l0 } }))
  else s)

/-- BROWNOUT: the always-on domain is reset and its configuration returns to power-on values; what its wake logic held is
gone; FC_AON_BROWNOUT takes the device OUT_OF_SERVICE. -/
def execBrownout (s : State) : Res :=
  let s := { s with pwr := { s.pwr with
    aonReset := true, aonLow := false, leaving := false, fullAt := none, wakeQueue := [], heldSync := false,
    engIdle := 125, aonLowEn := true, brownout := true, brownouts := satAddW s.pwr.brownouts 1,
    browns := satAddW s.pwr.browns 1 } }
  .next (enterOos 0x502 (faultSimple 0x0502 5 (hwSet 0x240000 5 s)))

/-- BROWNOUT_RECOVERY: the domain is out of reset; level-sensitive sources are read from their pins again, and the
regulator may enter LOW. -/
def execBrownoutRecovery (s : State) : Res :=
  .next (if s.pwr.aonReset then enterLow { s with pwr := { s.pwr with aonReset := false } } else s)

end Sys2Proof.Machine
end

