-- ==== Sys2Proof/Machine/Fallow.lean ====
section
/-! DEFINITION. Machine/Fallow.lean: the fallow slot's tests and what follows from their results (R317 to R319), and the
command FALLOW_SLOT. -/

namespace Sys2Proof.Machine

/-! ## Tests of the rotation (R317, R318) -/

/-- The core failed its test, by its result or by a hang. -/
def coreFailed (r : FallowResult) (n : Nat) : Bool := (r.coreFail ++ r.coreHang).any fun f => f.toNat = n

/-- The engine under test failed, by its result or by a hang. -/
def videoFailed (r : FallowResult) : Bool := r.videoFail || r.videoHang

/-- Units under test that hung have their domains powered off (R317). -/
def testHangs (r : FallowResult) (cores : List Nat) (s : State) : State :=
  (cores.filter fun n => r.coreHang.any fun f => f.toNat = n).foldl (fun s n => corePowerOff n s) s
def testHang (r : FallowResult) (k : VideoKind) (i : Nat) (s : State) : State :=
  if r.videoHang then switchOff (domainOf k i) 0 s else s

/-- A core of a tested group after its test: tile program and scale file kept, the rest undefined; one that was off wakes
for the test and is off again (R317). -/
def testedCore (n : Nat) (s : State) : State :=
  let c := coreAt s n
  if c.retired then s
  else if !c.powered then { s with pwr := { s.pwr with wakes := satAdd s.pwr.wakes 1 } }
  else
    let d := drawFree s
    let keep := c.syn.filter fun e => e.1 / 0x100000 = 5 ∨ e.1 / 0x100000 = 6
    setCore n { coreUndefined n (d.1 + 1) c with syn := keep } d.2

/-- Result of a rotation test for a core: a second consecutive failure decides its retirement. -/
def coreResult (fail : Bool) (n : Nat) (s : State) : State :=
  let c := coreAt s n
  if !fail then setCore n { c with failed := false } s
  else if c.failed then decideCore n (setCore n { c with failed := false } s)
  else
    let s := setCore n { c with failed := true } s
    recordFault { code := 0x506, scope := 0, unit := unitCode 0 n }
      { s with flt := { s.flt with priority := insNat (n / 8) s.flt.priority } }

/-- The rotation's test of one core group. -/
def testGroup (g : Nat) (r : FallowResult) (s : State) : State :=
  let cs := groupCores s g
  let s := cs.foldl (fun s n => testedCore n s) { s with flt := { s.flt with priority := s.flt.priority.filter (· != g) } }
  testHangs r cs (cs.foldl (fun s n => coreResult (coreFailed r n) n s) s)

/-- The core group whose turn it is (R317). -/
def groupInTurn (s : State) : Nat :=
  match s.flt.priority.find? fun g => decide (g < 16) with
  | some g => g
  | none => s.bell.roundSeq.toNat % 16

/-- The rotation's video test: the engine in turn, or one put off because it was busy or failed. -/
def testVideo (r : FallowResult) (s : State) : State :=
  let i := match s.flt.priority.find? fun g => decide (32 ≤ g) with
    | some g => g - 32
    | none => s.bell.roundSeq.toNat % 56
  let e := engineOf i
  let s := { s with flt := { s.flt with priority := s.flt.priority.filter fun g => g != 32 + i && g != 16 } }
  let again (s : State) : State := { s with flt := { s.flt with priority := insNat (32 + i) s.flt.priority } }
  if engineGone s e.1 e.2 then s
  else if engineBusy s e.1 e.2 || (e.1 == .decode && clipIn s e.2) then again s
  else if !videoFailed r then setFailed false e.1 e.2 s
  else
    let s := testHang r e.1 e.2 s
    if engineFailed s e.1 e.2 then decideEngine e.1 e.2 (setFailed false e.1 e.2 s)
    else again (recordFault { code := 0x506, scope := 0, unit := engineUnit e.1 e.2 } (setFailed true e.1 e.2 s))

/-- The controller group whose periodic training runs: one that failed first, else in turn. -/
def trainInTurn (s : State) : Nat := s.mem.trainFail.headD (s.bell.roundSeq.toNat % 16)

/-- TRAINED of the stack of group `g` (R299): cleared by a failure; set by a training that passes while no other group of
the stack waits to be trained again. -/
def noteTrained (g : Nat) (fail : Bool) (s : State) : State :=
  let bit : BitVec 4 := 1#4 <<< (g / 4)
  let others := s.mem.trainFail.any fun h => h != g && h / 4 == g / 4
  { s with mem := { s.mem with
    trained := if fail then s.mem.trained &&& ~~~ bit else if others then s.mem.trained else s.mem.trained ||| bit } }

/-- Periodic training (R283): a second consecutive failure loses the group's first pseudo-channel. -/
def trainGroup (g : Nat) (fail : Bool) (s : State) : State :=
  let s := noteTrained g fail s
  if !fail then { s with mem := { s.mem with trainFail := s.mem.trainFail.filter (· != g) } }
  else if s.mem.trainFail.contains g then losePc (8 * g) { s with mem := { s.mem with trainFail := s.mem.trainFail.filter (· != g) } }
  else { s with mem := { s.mem with trainFail := insNat g s.mem.trainFail } }

/-! ## Requested tests (R319) -/

/-- Cores that a segment of an array or core test exercises. -/
def testCores (s : State) (t : TestReq) : List Nat :=
  match t.test with
  | 0 => groupCores s t.target
  | 1 => [t.target]
  | 2 => groupCores s t.segment
  | _ => []

/-- Runs one segment; a failure retires the unit at once unless NO_RETIRE is set. -/
def runSegment (r : FallowResult) (t : TestReq) (s : State) : TestReq × State :=
  let next := { t with segment := t.segment + 1 }
  if testRetired s t then (next, s)
  else
    let cores := testCores s t
    let bad := cores.filter (coreFailed r)
    let fail := match t.test with
      | 6 => r.trainFail
      | 3 => videoFailed r
      | 4 => videoFailed r
      | 5 => videoFailed r
      | _ => !bad.isEmpty
    let s := testHangs r cores (cores.foldl (fun s n => testedCore n s) s)
    let s := match t.test with
      | 3 => testHang r .decode t.target s
      | 4 => testHang r .prep t.target s
      | 5 => testHang r .encode t.target s
      | _ => s
    if !fail then (next, if t.test = 6 then trainGroup t.target false s else s)
    else
      let next := { next with failedAny := true, firstFail := (if t.firstFail = 0 then t.segment + 1 else t.firstFail) }
      if t.noRetire ∨ t.test = 6 then (next, if t.test = 6 then trainGroup t.target true s else s)
      else
        let s := match t.test with
          | 3 => decideEngine .decode t.target s
          | 4 => decideEngine .prep t.target s
          | 5 => decideEngine .encode t.target s
          | _ => bad.foldl (fun s n => decideCore n s) s
        ({ next with retiredAny := true }, s)

/-- Runs every segment that is left, one after another. -/
def runSegments (r : FallowResult) : Nat → TestReq → State → TestReq × State
  | 0, t, s => (t, s)
  | k + 1, t, s => let x := runSegment r t s; runSegments r k x.1 x.2

/-- The requested test in progress: its next segment, or all of it while nothing is admitted. Answers what the rotation
leaves out: 1 array, 2 video, 3 training. A target retired before the test began answers OUTCOME 3. -/
def requestedTest (r : FallowResult) (s : State) : Nat × State :=
  match s.tests with
  | [] => (0, s)
  | t :: rest =>
    if t.since == s.bell.roundSeq || (t.whole && decide (0 < t.rounds)) || (t.rounds == 0 && hotIdle s) then (0, s)
    else if t.rounds = 0 ∧ t.test ≠ 2 ∧ testRetired s t then
      (0, finish (t.ring, t.tag) (okWith 3) { s with tests := rest })
    else
      let total := testSegments.getD t.test 1
      let kind := if t.test < 3 then 1 else if t.test < 6 then 2 else 3
      let whole := t.segment = 0 ∧ !anyHolds s ∧ s.jobs.isEmpty
      let x := if whole then runSegments r total t s else runSegment r t s
      let t' := { x.1 with rounds := t.rounds + 1, whole := whole }
      if whole then (kind, { x.2 with tests := t' :: rest })
      else if t'.segment < total then (kind, { x.2 with tests := t' :: rest })
      else
        let outcome := if t'.retiredAny then 1 else if t'.failedAny then 2 else 0
        (kind, finish (t.ring, t.tag) (okWith (outcome + 65536 * t'.rounds + 2 ^ 32 * t'.firstFail))
          { x.2 with tests := rest })

/-- Whether the fallow slot of the round has begun and not run. -/
def fallowDue (s : State) : Bool :=
  s.bell.running && !s.bell.fallowDone && s.flt.reset.isNone && decide (s.bell.roundStart + roundLen s - 62500 ≤ s.now) &&
    (match nextSlot s with | some (_, w) => decide (2 ≤ slotKind w) | none => true) && s.bell.actions.isEmpty

/-- FALLOW_SLOT: the activities of R317; `r` tells which tests failed. -/
def execFallowSlot (r : FallowResult) (s : State) : Res :=
  .next (if !fallowDue s then s
    else
      let s := if !s.bell.emitRan && !s.bell.frameList.isEmpty then emitAll s else s
      let s := { s with bell := { s.bell with fallowDone := true }, mem := { s.mem with owed := [] } }
      let s := scrub (injections s)
      let t := requestedTest r s
      let s := t.2
      let s := if t.1 = 1 then s else testGroup (groupInTurn s) r s
      let s := if t.1 = 2 then s else testVideo r s
      let s := if t.1 = 3 then s else trainGroup (trainInTurn s) r.trainFail s
      lastRecordSweep { s with pwr := { s.pwr with onDie := r.onDie } })

end Sys2Proof.Machine
end

