-- ==== Sys2Proof/Machine/Host.lean ====
section
/-! DEFINITION. Machine/Host.lean: the PCIe function and its link (R342 to R354), slot assist and surprise removal (R355
to R359), board power (R389 to R391) and thermal levels (R82, R397, R398). -/

namespace Sys2Proof.Machine

/-! ## Reset pins and holds -/

/-- The device is held in reset: PERST#, MAIN_PWRGD low, a rail fault, or a thermal trip. -/
def inReset (s : State) : Bool := s.board.perst || !s.board.pwrgd || s.board.railHold || s.board.thermTrip

/-- Main power is off or has been given up in order: D3cold. -/
def inD3cold (s : State) : Bool := s.link.d3coldOrderly || !s.board.pwrgd

/-- Configuration requests are answered, not retried (R354, R359). -/
def configReached (s : State) : Bool := linkSpeaks s && !s.link.flr && !s.link.crs && !inReset s

/-- A configuration request reaches the function: the link is in L0. -/
def configOn (s : State) : State := { s with link := { s.link with state := .l0, rxL0s := false } }

/-- A write of PMCSR: PME_En, and PME_Status cleared by 1. -/
def pmcsrWrite (w : BitVec 16) (l : Link) : Link :=
  { l with pmeEn := w.getLsbD 8, pmeStatus := l.pmeStatus && !w.getLsbD 15 }

/-! ## Surprise removal (R357, R358) -/

/-- SLOT_REMOVAL. -/
def removalCause (c : BitVec 3) (s : State) : State :=
  { s with slot := { s.slot with cause := c, count := satAddW s.slot.count 1 } }

/-- Neither an orderly entry to D3cold nor Recess retraining came before. -/
def isSurprise (s : State) : Bool := !s.link.d3coldOrderly && !s.link.narrow

/-- A surprise removal that the running device records at once. -/
def surprise (c : BitVec 3) (s : State) : State :=
  if isSurprise s then faultSimple 0x503 5 (removalCause c s) else s

/-- The link is gone: host transfers park, the wire is forgotten (R350, R357). -/
def linkGone (s : State) : State :=
  parkHostLink { s with
    glb := { s.glb with wire := false }
    link := { s.link with state := .detect, txL0s := false, rxL0s := false } }

/-- LINK_LOSS: the LTSSM reaches Detect from L0, L0s, L1 or Recovery. -/
def execLinkLoss (s : State) : Res :=
  .next (if s.link.state = .detect ∨ s.link.state = .l2 then s else surprise 1 (linkGone s))

/-- REFCLK_LOST: as link loss, with CAUSE 3; in L1.2 and with no link the clock may stop. -/
def execRefclkLost (s : State) : Res :=
  let s' := { s with link := { s.link with refclk := false } }
  .next (if s.link.refclk && linkSpeaks s then surprise 3 (linkGone s') else s')

/-- REFCLK_RETURN: retraining starts. -/
def execRefclkReturn (s : State) : Res := .next { s with link := { s.link with refclk := true } }

/-- LINK_RETURN_L0: the link has trained, or a direction leaves L0s; what waited goes on, and the wire asserts if a cause
is pending (R350, R357). -/
def execLinkReturnL0 (s : State) : Res :=
  .next (if s.link.state = .l0 then { s with link := { s.link with txL0s := false, rxL0s := false } }
    else if s.link.state = .detect ∧ s.link.refclk ∧ !inReset s then
      hostReturned (restoreWire { s with link := { s.link with state := .l0 } })
    else s)

/-! ## Link power states (R351) -/

/-- L0S_ENTRY: a direction that has been idle for 1 µs. -/
def execL0sEntry (transmit : Bool) (s : State) : Res :=
  .next (if s.link.state = .l0 then
    send (.linkL0s transmit) { s with link := { s.link with
      txL0s := s.link.txL0s || transmit, rxL0s := s.link.rxL0s || !transmit } }
  else s)

/-- A host transfer is under way. -/
def hostBusy (s : State) : Bool := s.mem.host.any fun e => (activeOf e.2).isSome

/-- L1_REQUEST: 32 µs with no TLP and no request pending; never while a stream holds a reservation. A substate lets the
always-on regulator enter LOW (R331). -/
def execL1Request (substate : Bool) (s : State) : Res :=
  .next (if s.link.state = .l0 ∧ !anyHolds s ∧ !hostBusy s then
    enterLow (send .linkL1 { s with link := { s.link with
      state := if substate then .l12 else .l1, txL0s := false, rxL0s := false } })
  else s)

/-! ## Device power states (R352, R353) -/

/-- D3HOT_ENTRY: bus mastering stops after the requests in flight; the data plane runs on. -/
def execD3hotEntry (pmcsr : BitVec 16) (s : State) : Res :=
  .next (if configReached s && !s.link.d3hot then
    let s := holdIssue (dropWire (configOn s))
    enterLow { s with link := { pmcsrWrite pmcsr s.link with d3hot := true } }
  else s)

/-- D0_RETURN: every setting is kept, and what waited for the host goes on. -/
def execD0Return (pmcsr : BitVec 16) (s : State) : Res :=
  .next (if configReached s && s.link.d3hot then
    let s := leaveLow (configOn s)
    hostReturned (restoreWire { s with link := { pmcsrWrite pmcsr s.link with d3hot := false } })
  else s)

/-- PME_TURN_OFF: PME_TO_Ack, then the link is in L2. -/
def execPmeTurnOff (s : State) : Res :=
  .next (if linkSpeaks s && !inReset s then
    let s := send .pmeToAck (dropWire s)
    { s with link := { s.link with state := .l2, d3coldOrderly := true, txL0s := false, rxL0s := false } }
  else s)

/-- A wake event of slot assist: a PME in D3hot, WAKE# in D3cold with PME_En set (R353). -/
def cardWake (s : State) : State :=
  if s.link.d3hot && !inReset s then pmeD3hot s
  else if inD3cold s && s.link.pmeEn then
    send (.wakeN true) { s with board := { s.board with wakeN := true }, link := { s.link with pmeStatus := true } }
  else s

/-! ## Function-level reset (R354) -/

/-- FLR: the wire is deasserted, requests stop, a DOE exchange is aborted. -/
def execFlr (s : State) : Res :=
  .next (if configReached s then
    let s := dropWire (configOn s)
    { s with link := { s.link with flr := true }, fw := { s.fw with doeObject := [] } }
  else s)

/-- FLR_COMPLETE: every setting is at its F value; READY rises, after a Recess only once the device has left it. -/
def execFlrComplete (s : State) : Res :=
  .next (if !s.link.flr then s
    else
      let inRecess := s.pwr.recess
      let s := functionReset s
      if inRecess then
        { s with
          pwr := { s.pwr with recess := true, exit_ := some (s.now, (0, 0)), waking := exitDomains s }
          link := { s.link with flrRecess := true } }
      else becomeReady s)

/-! ## Slot assist (R355) -/

/-- PRESENCE_LOST: PRSNT_N high for 1 ms. -/
def execPresenceLost (s : State) : Res :=
  .next (if !s.slot.present then s
    else
      let s := cardWake { s with slot := { s.slot with present := false } }
      if inReset s then s
      else surprise 4 (updateWire (holdIssue (hwSet 0x260000 1 { s with slot := { s.slot with presentChanged := true } }))))

/-- PRESENCE_RESTORED: PRSNT_N low for 100 ms. -/
def execPresenceRestored (s : State) : Res :=
  .next (if s.slot.present then s
    else
      let s := cardWake { s with slot := { s.slot with present := true } }
      if inReset s then s
      else hostReturned (updateWire (hwSet 0x260000 1 { s with slot := { s.slot with presentChanged := true } })))

/-- ATTN_BTN_PRESS: a press was counted; nothing else follows but wake (R331, R353, R355). -/
def execAttnBtnPress (s : State) : Res :=
  let s := leaveLow (cardWake { s with slot := { s.slot with btnDown := true } })
  .next (if inReset s then s else updateWire (hwSet 0x260000 2 { s with slot := { s.slot with btnPressed := true } }))

/-! ## PERST#, boot, and main power (R357 to R359, R389 to R391) -/

/-- Reset has ended: FC_SURPRISE_REMOVAL is the first record after it where one was owed. -/
def outOfReset (s : State) : State :=
  if inReset s then s
  else
    let s := { s with link := { s.link with d3coldOrderly := false } }
    if s.board.removalNext then faultSimple 0x503 5 { s with board := { s.board with removalNext := false } } else s

/-- PERST_ASSERT: reset as at power-on; WAKE# is released; a surprise removal unless the link is in L2. -/
def execPerstAssert (s : State) : Res :=
  .next (if s.board.perst then s
    else
      let s := if isSurprise s && s.link.state != .l2 then
          removalCause 2 { s with board := { s.board with removalNext := true } } else s
      let s := if s.board.wakeN then send (.wakeN false) { s with board := { s.board with wakeN := false } } else s
      powerOnReset { s with board := { s.board with perst := true } })

/-- PERST_DEASSERT: the power-on self-test gives `fails`; units that failed both runs are retired (R318). -/
def execPerstDeassert (fails : List PostFail) (s : State) : Res :=
  .next (if !s.board.perst then s
    else
      let s := outOfReset { s with board := { s.board with perst := false } }
      if inReset s then s else classCheck (fails.foldl (fun s f => postFail f s) s))

/-- BOOT_COMPLETE: Bailiff is verified and the self-test has ended. -/
def execBootComplete (s : State) : Res := .next (if s.link.crs && !inReset s then becomeReady s else s)

/-- MAIN_PWRGD_RISE: main power is good; a hold after a rail fault ends. -/
def execMainPwrgdRise (s : State) : Res :=
  .next (if s.board.pwrgd then s
    else outOfReset { s with board := { s.board with pwrgd := true, railHold := false } })

/-- MAIN_PWRGD_FALL: every domain but the always-on domain is reset; a surprise removal without an orderly entry to
D3cold; THERMTRIP_N is released (R398). -/
def execMainPwrgdFall (s : State) : Res :=
  .next (if !s.board.pwrgd then s
    else
      let s := if s.link.d3coldOrderly then s
        else removalCause 2 { s with board := { s.board with removalNext := true } }
      let s := if s.board.thermTrip then send (.thermTripN false) s else s
      powerOnReset { s with board := { s.board with pwrgd := false, thermTrip := false } })

/-- AON_POWER_UP: the 1.8 V always-on input powers up, with MAIN_PWRGD and PERST# low as the board holds them; what PERST#
keeps is cleared (R358, R399). -/
def execAonPowerUp (s : State) : Res :=
  let s := powerOnReset s
  .next { s with
    board := { pwrgd := false }
    link := { refclk := s.link.refclk }
    slot := { present := s.slot.present }
    tel := { temps := s.tel.temps } }

/-- Indices of the main rails (R388). -/
def mainRail (r : BitVec 4) : Bool := decide (r.toNat ≤ 8) || r == 10

/-- RAIL_FAULT: the lowest index is latched, FC_RAIL_FAULT is written, and reset is held. -/
def execRailFault (rails : List (BitVec 4)) (s : State) : Res :=
  .next (match (rails.filter mainRail).map (·.toNat) with
    | [] => s
    | r :: rs =>
      if !s.board.pwrgd then s
      else
        let s := { s with tel := { s.tel with
          rail := BitVec.ofNat 4 (rs.foldl min r), railFault := true, railCount := satAddW s.tel.railCount 1 } }
        let s := if inReset s then s else faultSimple 0x507 5 s
        powerOnReset { s with board := { s.board with railHold := true } })

/-! ## Thermal levels (R82, R397, R398) -/

/-- Sensors in the order of SOURCE, each with whether it is a stack's. -/
def sensors (t : Temps) : List (Int × Bool) :=
  [(t.compute, false), (t.base, false), (t.hbm0, true), (t.hbm1, true), (t.hbm2, true), (t.hbm3, true)]

/-- Thresholds in 0.1 °C of a level: 1 warning, 2 emergency, 3 trip. -/
def threshold (level : Nat) (stack : Bool) : Int :=
  match level, stack with
  | 1, false => 950
  | 1, true => 900
  | 2, false => 1000
  | 2, true => 950
  | _, false => 1150
  | _, true => 1050

/-- The first sensor that reaches a level. -/
def reachedBy (level : Nat) (t : Temps) : Option Nat := (sensors t).findIdx? fun e => decide (threshold level e.2 ≤ e.1)

/-- Some sensor is not yet 5 °C below a level. -/
def notLeft (level : Nat) (t : Temps) : Bool := (sensors t).any fun e => decide (threshold level e.2 - 50 < e.1)

/-- LEVEL after a sample. -/
def levelAfter (t : Temps) (before : Nat) : Nat :=
  if (reachedBy 2 t).isSome || (decide (2 ≤ before) && notLeft 2 t) then 2
  else if (reachedBy 1 t).isSome || (decide (1 ≤ before) && notLeft 1 t) then 1
  else 0

/-- One stream is due to be shed at the next boundary, in the order of R79, and counted in SHED (R82). -/
def thermalShed (s : State) : State :=
  match firstToShed ((holders s).filter fun e => !s.bell.shedDue.any fun d => d.1.toNat == e.1) with
  | none => s
  | some e => { s with
      bell := { s.bell with shedDue := s.bell.shedDue ++ [(BitVec.ofNat 12 e.1, 2)] }
      tel := { s.tel with shed := satAddW s.tel.shed 1, shedAt := some s.now } }

/-- The emergency level at a management step: shedding starts, or with no stream left the device goes out of service;
during a compute reset shedding waits for its end (R320). `entered` the record of this entry is written. -/
def emergency (entered : Bool) (s : State) : State :=
  if anyHolds s then
    if s.flt.reset.isSome || s.tel.shedAt.isSome then s else thermalShed s
  else
    let s := { s with tel := { s.tel with shedAt := none } }
    if s.flt.oos then s
    else enterOos 0x501 (if entered then s else faultSimple 0x501 5 s)

/-- THERMAL_SAMPLE: once per management step the sensors are compared with the thresholds. -/
def execThermalSample (t : Temps) (s : State) : Res :=
  .next (if inReset s then { s with tel := { s.tel with temps := t } }
    else
      let before := s.tel.level.toNat
      let level := levelAfter t before
      let warned := decide (before < 1) && decide (1 ≤ level)
      let entered := decide (before < 2) && decide (2 ≤ level)
      let source := match reachedBy level t with
        | some i => if warned || entered then BitVec.ofNat 4 i else s.tel.source
        | none => s.tel.source
      let s := { s with tel := { s.tel with
        temps := t
        level := BitVec.ofNat 2 level
        warnEvent := s.tel.warnEvent || warned
        emergEvent := s.tel.emergEvent || entered
        source := source
        shedAt := if level < 2 then none else s.tel.shedAt } }
      let s := if warned then hwSet 0x280010 2 s else s
      let s := if entered then faultSimple 0x501 5 (hwSet 0x280010 3 s) else s
      if level < 2 then s else emergency entered s)

/-- THERMAL_SHED_TIMER: 125 management steps after the last, one more stream is shed. -/
def execThermalShedTimer (s : State) : Res :=
  .next (match s.tel.shedAt with
    | some t =>
      if s.tel.level = 2 ∧ s.flt.reset = none ∧ anyHolds s ∧ t + 125 * 1000000 ≤ s.now then thermalShed s else s
    | none => s)

/-- THERMAL_TRIP: THERMTRIP_N is asserted and every domain but the always-on domain is held in reset. -/
def execThermalTrip (s : State) : Res :=
  .next (if s.board.thermTrip || !s.board.pwrgd || (reachedBy 3 s.tel.temps).isNone then s
    else powerOnReset (send (.thermTripN true) { s with board := { s.board with thermTrip := true } }))

/-! ## Configuration space (R343) -/

/-- The capabilities with their last offsets: those of configuration space and those beyond 0x100, in the order of the list. -/
def capabilities : List (Nat × Nat) := [(0x40, 0x01), (0x50, 0x10)]
def extCapabilities : List (Nat × Nat) :=
  [(0x100, 0x01), (0x148, 0x03), (0x158, 0x19), (0x184, 0x26), (0x1B4, 0x2A), (0x1E4, 0x27), (0x22C, 0x18), (0x234, 0x1E),
   (0x244, 0x25), (0x250, 0x2E)]

/-- The capability after one. -/
def nextCapability (l : List (Nat × Nat)) (o : Nat) : Nat := ((l.map (·.1)).find? fun a => decide (o < a)).getD 0

/-- A dword of a capability structure or of a base address register, beyond what this specification states of it. -/
def openDword (o : Nat) (mask : Word) : Word := Config.configOpen o &&& mask

/-- What R342, R351 and R352 state of dwords in the capability structures: offset, the bits stated, and their values. PME from
D0, D3hot and D3cold, no D1 or D2; payloads of 512 bytes, extended tags, function-level reset; 32.0 GT/s, x16, ASPM L0s and
L1 with their exit latencies; completion timeout ranges A to D without disable, no AtomicOps, LTR, 10-bit tags, no TPH, no
Function Readiness Status; ECRC generation and checking; L1.1 and L1.2 with their two times; no DOE interrupt. -/
def statedFields : List (Nat × Word × Word) :=
  [(0x40, 0xFE000000, 0xC8000000), (0x54, 0x10000027, 0x10000022), (0x5C, 0x3FFFF, 0x24D05),
   (0x74, 0x80033BDF, 0x3080F), (0x118, 0xA0, 0xA0), (0x238, 0xFBFF1F, 0x390A1F), (0x254, 1, 0)]

/-- A dword of configuration space as the header, the capability list and zero at every other offset give it. What the PCI
Express Base Specification puts into these structures and this one does not state is free. -/
def configBase (o : Nat) (s : State) : Word :=
  let l := s.link
  match o with
  | 0x00 => 0x40961F3C
  | 0x04 => BitVec.ofNat 32 (l.command.toNat + 2 ^ 19 * b2n (unmasked s != 0) + 2 ^ 20)
  | 0x08 => BitVec.ofNat 32 (0x12000000 + Config.stepping.toNat)
  | 0x10 => openDword o 0xFF000000 ||| 4
  | 0x14 => openDword o 0xFFFFFFFF
  | 0x18 => openDword o 0xE0000000 ||| 0xC
  | 0x1C => openDword o 0xFFFFFFFF
  | 0x20 => openDword o 0xFFFF0000 ||| 4
  | 0x24 => openDword o 0xFFFFFFFF
  | 0x2C => Config.subsystem
  | 0x34 => 0x40
  | 0x3C => 0x100
  | 0x44 => BitVec.ofNat 32 (3 * b2n l.d3hot + 8 + 2 ^ 8 * b2n l.pmeEn + 2 ^ 15 * b2n l.pmeStatus) ||| openDword o 0x6E00
  | 0x104 => openDword o 0xFFFF6FFF ||| BitVec.ofNat 32 (2 ^ 12 * b2n l.aerPoisoned + 2 ^ 15 * b2n l.aerAbort)
  | _ =>
    match findAt o capabilities, findAt o extCapabilities with
    | some c, _ => openDword o 0xFFFF0000 ||| BitVec.ofNat 32 (c + 2 ^ 8 * nextCapability capabilities o)
    | none, some c => openDword o 0x000F0000 ||| BitVec.ofNat 32 (c + 2 ^ 20 * nextCapability extCapabilities o)
    | none, none =>
      if (0x40 ≤ o ∧ o < 0x8C) ∨ (0x100 ≤ o ∧ o < 0x268) then openDword o 0xFFFFFFFF else 0

/-- A dword of configuration space (R343); where the stated fields lie in their structures is PRESUMED
(notes/assumptions/69.md). -/
def configDword (o : Nat) (s : State) : Word :=
  match findAt o statedFields with
  | some (mask, v) => (configBase o s &&& ~~~ mask) ||| v
  | none => configBase o s

/-! ## Requests received (R345) -/

/-- PCIE_REQUEST_UNSUPPORTED: requests that the function does not support, cannot decode, or takes in one size only; a read
of BAR4 returns zero (R25), and a read of configuration space the dword of R343. -/
def execPcieRequestUnsupported (r : BadRequest) (s : State) : Res :=
  .next (if !linkSpeaks s || inReset s then s
    else match r with
      | .io => send .unsupportedRequest s
      | .atomic => send .unsupportedRequest s
      | .noBar => send .unsupportedRequest s
      | .disabledRead => if hostAccess s then s else send .unsupportedRequest s
      | .disabledWrite => if hostAccess s then s else send .unsupportedRequest s
      | .oddRead _ => if hostAccess s then send .completerAbort s else send .unsupportedRequest s
      | .oddWrite _ =>
        if hostAccess s then { s with link := { s.link with aerAbort := true } } else send .unsupportedRequest s
      | .vendorType1 => s
      | .bar4Read _ => if hostAccess s then send (.completion 0) s else send .unsupportedRequest s
      | .configRead o =>
        if configReached s then send (.completion (configDword (o.toNat / 4 * 4) s)) (configOn s) else s)

/-- POISONED_WRITE: discarded, and logged. -/
def execPoisonedWrite (bar : Nat) (offset : BitVec 29) (s : State) : Res :=
  let _ := bar
  let _ := offset
  .next (if !linkSpeaks s || inReset s then s
    else if hostAccess s then { s with link := { s.link with aerPoisoned := true } } else send .unsupportedRequest s)

end Sys2Proof.Machine
end

