-- ==== Sys2Proof/Machine/Jobs.lean ====
section
/-! DEFINITION. Machine/Jobs.lean: JOB_SUBMIT and JOB_CANCEL (R73, R76 to R78, R214). -/

namespace Sys2Proof.Machine

/-- The microseconds of U for the present round settings (R57). -/
def usableUs (s : State) : Nat := usableFc s / 1250

/-- Why a job cannot be taken (R73, R77, R214), or its network's layers. -/
def jobVerdict (s : State) (p : Packet) : Option Reply :=
  let batch := param p 40 2
  match netAt s (param p 8 2) with
  | none => some (failWith 0x100 8)
  | some v =>
    let ls := layersOf s v
    if v.role ≠ 4 then some (failWith 0x100 8)
    else if ls.isEmpty then some (failWith 0x303 2)
    else if usableUs s < param p 12 4 then some (failWith 0x100 12)
    else if ls.any fun l => decide (l.batchLimit < batch) then some (failWith 0x100 40)
    else if ls.any fun l => decide (250000 < layerTime l batch) then some (failWith 0x303 6)
    else if 256 ≤ s.jobs.length then some (failWith 0x302 0)
    else none

/-- The job of an accepted JOB_SUBMIT. -/
def jobOf (f : Fetched) : Job :=
  { ring := f.ring, tag := f.tag, network := param f.p 8 2, priority := param f.p 10 1, slice := param f.p 12 4
    inAddr := BitVec.ofNat 64 (param f.p 16 8), inBytes := param f.p 24 4, outAddr := BitVec.ofNat 64 (param f.p 32 8)
    outBytes := param f.p 28 4, batch := param f.p 40 2, allowance := param f.p 12 4 * 1250 }

def jobSubmitBody (f : Fetched) (s : State) : State :=
  match deviceRefuses true true s with
  | some r => answer f r s
  | none => match jobVerdict s f.p with
    | some r => answer f r s
    | none =>
      let j := jobOf f
      startInputs (wait_ f .transfer { s with jobs := s.jobs ++ [j] })

/-- JOB_SUBMIT: a best-effort job; its reply comes when its output has been written. -/
def execJobSubmit (ring : BitVec 6) (p : Packet) (s : State) : Res := packetStep (ofOp 0x41) ring p jobSubmitBody s

/-- The job has a layer in the open gap. -/
def jobRuns (s : State) (j : Job) : Bool := match s.bell.gap with | some g => g.job == some (j.ring, j.tag) | none => false

/-- A job ends at its next layer boundary: at once while none of its layers runs (R78). -/
def jobCancelBody (f : Fetched) (s : State) : State :=
  let ring : BitVec 6 := BitVec.ofNat 6 (param f.p 10 1)
  let tag : BitVec 16 := BitVec.ofNat 16 (param f.p 8 2)
  match s.jobs.find? fun j => j.ring == ring && j.tag == tag with
  | none => answer f (failWith 0x100 8) s
  | some j =>
    let s := wait_ f (.jobEnd ring.toNat tag.toNat) s
    if jobRuns s j then
      { s with jobs := s.jobs.map fun k => if k.ring = ring ∧ k.tag = tag then { k with cancel := true } else k }
    else endJob ring tag (failWith 0x203 0x42) s

/-- JOB_CANCEL. -/
def execJobCancel (ring : BitVec 6) (p : Packet) (s : State) : Res := packetStep (ofOp 0x42) ring p jobCancelBody s

end Sys2Proof.Machine
end

