-- ==== Sys2Proof/Machine/Regs.lean ====
section
/-! DEFINITION. Machine/Regs.lean: the registers of BAR0 (R7, R10, R400 to R402): what each reads as, what its read
clears, and what a host write does to it. Reserved bits and undefined offsets read zero and ignore writes (R8, R345). -/

namespace Sys2Proof.Machine

/-! ## Fields of a written dword -/

/-- Bit `i` is written as 1 by an enabled byte. -/
def hit (v : Word) (be : BitVec 4) (i : Nat) : Bool := be.getLsbD (i / 8) && v.getLsbD i

/-- A W1C bit after a write (R10). -/
def w1c (old : Bool) (v : Word) (be : BitVec 4) (i : Nat) : Bool := old && !hit v be i

/-- The dword after a write of its enabled bytes (R7). -/
def mergeBytes (old v : Word) (be : BitVec 4) : Word :=
  let pick (i : Nat) : Byte := if be.getLsbD i then v.extractLsb' (8 * i) 8 else old.extractLsb' (8 * i) 8
  pick 3 ++ pick 2 ++ pick 1 ++ pick 0

/-- The largest value that the hardware has offered in this fc to the register at a BAR0 offset (R11). -/
def peakIn (o : Nat) (s : State) : Nat := ((s.cyc.peaks.filter fun e => e.1 == o).map (·.2)).foldl max 0

/-- The bits of the dword at a BAR0 offset that the hardware has set in this fc (R11). -/
def setIn (o : Nat) (s : State) : Word :=
  ((s.cyc.sets.filter fun e => e.1 == o).map fun e => 1#32 <<< e.2).foldl (· ||| ·) 0

/-- A dword of numbers placed at bit positions. -/
def word32 (n : Nat) : Word := BitVec.ofNat 32 n

/-! ## GLB (R362) -/

def glbValue (o : Nat) (s : State) : Word :=
  match o with
  | 0x00 => word32 (0x4096 + 2 ^ 16 * Config.stepping.toNat)
  | 0x04 => word32 (b2n s.glb.ready + 2 * b2n (hostQuiesced s))
  | 0x10 => (intCause s).setWidth 32
  | 0x14 => s.glb.mask.setWidth 32
  | 0x18 => word32 (s.glb.coalCount.toNat + 2 ^ 8 * s.glb.coalTime.toNat)
  | 0x20 => s.glb.cqCause.extractLsb' 0 32
  | 0x24 => s.glb.cqCause.extractLsb' 32 32
  | 0x28 => s.glb.mrCause.extractLsb' 0 32
  | 0x2C => s.glb.mrCause.extractLsb' 32 32
  | _ => 0

/-- Clears the written 1 bits of one half of a ring cause. -/
def clearHalf (old : BitVec 64) (v : Word) (be : BitVec 4) (high : Bool) : BitVec 64 :=
  let ones := (mergeBytes 0 v be).setWidth 64
  old &&& ~~~ (if high then ones <<< 32 else ones)

/-- A mask bit that is cleared makes its pending ring cause due at once (R349). -/
def maskWrite (m : BitVec 12) (g : Glb) (pending : BitVec 12) : Glb :=
  { g with mask := m, due := g.due || (g.mask &&& ~~~ m &&& pending &&& 3#12) != 0 }

def glbWrite (o : Nat) (v : Word) (be : BitVec 4) (s : State) : State :=
  let g := s.glb
  match o with
  | 0x10 => { s with glb := { g with
      streamCause := w1c g.streamCause v be 3, poolCause := w1c g.poolCause v be 4, fwCause := w1c g.fwCause v be 11 } }
  | 0x14 => { s with glb := maskWrite ((mergeBytes (g.mask.setWidth 32) v be).setWidth 12) g (intCause s) }
  | 0x18 =>
    let w := mergeBytes (glbValue 0x18 s) v be
    { s with glb := { g with coalCount := w.extractLsb' 0 8, coalTime := w.extractLsb' 8 16 } }
  | 0x20 => { s with glb := { g with cqCause := clearHalf g.cqCause v be false } }
  | 0x24 => { s with glb := { g with cqCause := clearHalf g.cqCause v be true } }
  | 0x28 => { s with glb := { g with mrCause := clearHalf g.mrCause v be false } }
  | 0x2C => { s with glb := { g with mrCause := clearHalf g.mrCause v be true } }
  | _ => s

/-! ## CMD (R29) -/

/-- A ring's CFG register. -/
def cfgValue (k : RingKind) (n : Nat) (s : State) : Word :=
  match k with
  | .submission => let q := sqAt s n; word32 (b2n q.enable + 2 ^ 4 * q.sizeLog2.toNat + 2 ^ 8 * q.cqSel.toNat)
  | .completion => let c := cqAt s n; word32 (b2n c.enable + 2 ^ 4 * c.sizeLog2.toNat + 2 ^ 14 * b2n c.intEn)
  | .metadata => let m := mrAt s n; word32 (b2n m.enable + 2 ^ 4 * m.sizeLog2.toNat + 2 ^ 14 * b2n m.intEn)

/-- A register of ring `n` at offset `o` of its instance. -/
def ringValue (k : RingKind) (n o : Nat) (s : State) : Word :=
  let base := match k with
    | .submission => (sqAt s n).base
    | .completion => (cqAt s n).base
    | .metadata => (mrAt s n).base
  match o, k with
  | 0x00, _ => base.extractLsb' 0 32
  | 0x04, _ => base.extractLsb' 32 32
  | 0x08, k => cfgValue k n s
  | 0x0C, .submission => word32 (sqAt s n).head
  | 0x0C, .completion => word32 ((cqAt s n).tail + 2 ^ 16 * b2n (cqAt s n).phase)
  | 0x0C, .metadata => word32 ((mrAt s n).tail + 2 ^ 16 * b2n (mrAt s n).phase)
  | 0x10, .completion => word32 (cqAt s n).credit
  | 0x10, .metadata => word32 (mrAt s n).credit
  | 0x14, .metadata => (mrAt s n).stall
  | _, _ => 0

/-- The ring kind and index at an offset from 0x1_1000, and the offset in its instance. -/
def ringOf (o : Nat) : Option (RingKind × Nat × Nat) :=
  let at_ (k : RingKind) (b : Nat) : Option (RingKind × Nat × Nat) := some (k, (o - b) / 0x20, (o - b) % 0x20)
  if 0x1000 ≤ o ∧ o < 0x1800 then at_ .submission 0x1000
  else if 0x2000 ≤ o ∧ o < 0x2800 then at_ .completion 0x2000
  else if 0x3000 ≤ o ∧ o < 0x3800 then at_ .metadata 0x3000
  else none

def cmdValue (o : Nat) (s : State) : Word :=
  match o with
  | 0x00 => word32 (b2n s.cmd.maintEn)
  | 0x08 => word32 (b2n s.cmd.cfgWhileEnabled + 2 * b2n s.cmd.badSize + 4 * b2n s.cmd.doorbellRefused
      + 8 * b2n s.cmd.disableBusy + 2 ^ 8 * s.cmd.errRing.toNat + 2 ^ 14 * s.cmd.errKind.toNat)
  | o => match ringOf o with
    | some (k, n, r) => ringValue k n r s
    | none => 0

def cmdClear (o : Nat) (s : State) : State :=
  match ringOf o with
  | some (.metadata, n, 0x14) =>
    setMr n { mrAt s n with stall := (mrAt s n).stall - (getAt ({} : MetaRing) n s.cyc.cmd.mr).stall } s
  | _ => s

/-- A ring's base; bits [11:0] are reserved. -/
def setBase (k : RingKind) (n : Nat) (b : BitVec 64) (s : State) : State :=
  let b := b &&& ~~~ 0xFFF#64
  match k with
  | .submission => setSq n { sqAt s n with base := b } s
  | .completion => setCq n { cqAt s n with base := b } s
  | .metadata => setMr n { mrAt s n with base := b } s

def ringEnabled (k : RingKind) (n : Nat) (s : State) : Bool := (cfgValue k n s).getLsbD 0

/-- A base register: a write that reaches an enabled ring is discarded and reported (R24). -/
def baseWrite (k : RingKind) (n : Nat) (lo hi : Word) (s : State) : State :=
  if ringEnabled k n s then errCfg k (BitVec.ofNat 6 n) s else setBase k n (hi ++ lo) s

def ringWrite (k : RingKind) (n o : Nat) (v : Word) (be : BitVec 4) (s : State) : State :=
  let w := mergeBytes (ringValue k n o s) v be
  match o with
  | 0x00 => baseWrite k n w (ringValue k n 4 s) s
  | 0x04 => baseWrite k n (ringValue k n 0 s) w s
  | 0x08 => cfgWrite k (BitVec.ofNat 6 n) w s
  | _ => s

def cmdWrite (o : Nat) (v : Word) (be : BitVec 4) (s : State) : State :=
  let c := s.cmd
  match o with
  | 0x00 => { s with cmd := { c with maintEn := (mergeBytes (word32 (b2n c.maintEn)) v be).getLsbD 0 } }
  | 0x08 => { s with cmd := { c with
      cfgWhileEnabled := w1c c.cfgWhileEnabled v be 0, badSize := w1c c.badSize v be 1
      doorbellRefused := w1c c.doorbellRefused v be 2, disableBusy := w1c c.disableBusy v be 3 } }
  | o => match ringOf o with
    | some (k, n, r) => ringWrite k n r v be s
    | none => s

/-! ## ING and POOL (R120) -/

def portValue (n o : Nat) (s : State) : Word :=
  let p := portAt s n
  let mac := (Config.mac n).toNat
  match o with
  | 0x00 => word32 (b2n p.linkUp + 2 ^ 4 * p.mode.toNat + 2 ^ 8 * b2n p.linkChange)
  | 0x08 => word32 mac
  | 0x0C => word32 (mac / 2 ^ 32)
  | 0x40 => p.rxFrames
  | 0x44 => p.dropMac
  | 0x48 => p.dropIp
  | 0x4C => p.dropUnmatched
  | 0x50 => p.dropControl
  | 0x54 => p.dropPool
  | _ => 0

def portClear (n o : Nat) (s : State) : State :=
  let p := portAt s n
  let b := getAt ({} : Port) n s.cyc.ports
  match o with
  | 0x40 => setPort n { p with rxFrames := p.rxFrames - b.rxFrames } s
  | 0x44 => setPort n { p with dropMac := p.dropMac - b.dropMac } s
  | 0x48 => setPort n { p with dropIp := p.dropIp - b.dropIp } s
  | 0x4C => setPort n { p with dropUnmatched := p.dropUnmatched - b.dropUnmatched } s
  | 0x50 => setPort n { p with dropControl := p.dropControl - b.dropControl } s
  | 0x54 => setPort n { p with dropPool := p.dropPool - b.dropPool } s
  | _ => s

/-- Keys in the ways and the stash. -/
def flowEntries (s : State) : Nat := s.flow.way0.length + s.flow.way1.length + s.flow.stash.length

def ingValue (o : Nat) (s : State) : Word :=
  if o < 0x2000 then portValue (o / 0x1000) (o % 0x1000) s
  else if o = 0x2000 then
    word32 (Config.salt.toNat + 2 ^ 12 * s.flow.stash.length + 2 ^ 19 * flowEntries s)
  else 0

def ingClear (o : Nat) (s : State) : State := if o < 0x2000 then portClear (o / 0x1000) (o % 0x1000) s else s

def ingWrite (o : Nat) (v : Word) (be : BitVec 4) (s : State) : State :=
  if o = 0 ∨ o = 0x1000 then
    let p := portAt s (o / 0x1000)
    setPort (o / 0x1000) { p with linkChange := w1c p.linkChange v be 8 } s
  else s

def poolValue (o : Nat) (s : State) : Word :=
  if o < 0x80 then
    let p := poolAt s (o / 0x20)
    match o % 0x20 with
    | 0x00 => word32 p.used.length
    | 0x04 => word32 (p.stage + 4 * p.highWater)
    | 0x08 => p.drop
    | _ => 0
  else 0

def poolClear (o : Nat) (s : State) : State :=
  if o < 0x80 then
    let n := o / 0x20
    let p := poolAt s n
    match o % 0x20 with
    | 0x04 => { s with pools := putAt n { p with highWater := peakIn (0x230000 + o) s } s.pools }
    | 0x08 => { s with pools := putAt n { p with drop := p.drop - (getAt ({} : Pool) n s.cyc.pools).drop } s.pools }
    | _ => s
  else s

/-! ## DEC, ENC, PREP (R147, R268) -/

/-- Stream of the picture a decode engine holds, or of the last it decoded. -/
def decCtx (s : State) (n : Nat) : BitVec 12 := match decHead s n with | some f => f.ctx | none => (decAt s n).ctx

def decValue (o : Nat) (s : State) : Word :=
  let n := o / 0x1000
  let v := decAt s n
  let clip := ((clipDecoding s none).find? fun x => x.1 = n).map (·.2.ctx)
  match o % 0x1000 with
  | 0x00 => word32 (b2n ((decHead s n).isSome || clip.isSome) + 2 * b2n v.retired
      + 2 ^ 4 * (clip.getD (decCtx s n)).toNat)
  | 0x04 => v.count0
  | 0x08 => v.count1
  | 0x0C => v.count2
  | 0x10 => v.maxCycles
  | 0xF00 => if n = 0 then word32 (s.refuseLimit.toNat + 2 ^ 8 * s.taintWeight.toNat) else 0
  | _ => 0

def decClear (o : Nat) (s : State) : State :=
  let n := o / 0x1000
  let v := decAt s n
  let b := getAt ({} : VidEngine) n s.cyc.decEng
  match o % 0x1000 with
  | 0x04 => setDec n { v with count0 := v.count0 - b.count0 } s
  | 0x08 => setDec n { v with count1 := v.count1 - b.count1 } s
  | 0x0C => setDec n { v with count2 := v.count2 - b.count2 } s
  | 0x10 => setDec n { v with maxCycles := word32 (min 0xFFFFFFFF (peakIn (0x40000 + o) s)) } s
  | _ => s

/-- DEC_POLICY: a REFUSE_LIMIT of 0 is stored as 1. -/
def decWrite (o : Nat) (v : Word) (be : BitVec 4) (s : State) : State :=
  if o = 0xF00 then
    let w := mergeBytes (decValue 0xF00 s) v be
    let limit : Byte := w.extractLsb' 0 8
    { s with refuseLimit := (if limit = 0 then 1 else limit), taintWeight := w.extractLsb' 8 8 }
  else s

/-- AREA_FREE: the clip working area has 0x1000 units of 2 MiB. -/
def encValue (o : Nat) (s : State) : Word :=
  if o < 0x800 then
    let v := encAt s (o / 0x100)
    match o % 0x100 with
    | 0x00 => word32 (b2n v.busy + 2 * b2n v.retired + 2 ^ 16 * (v.clip.getD v.lastClip).toNat)
    | 0x04 => v.pictures
    | 0x08 => v.capped
    | 0x0C => v.floor
    | _ => 0
  else if o = 0x1000 then
    let open_ := s.clips.filter fun k => !k.ended
    word32 (open_.length + 2 ^ 8 * (open_.filter fun k => k.engine.isSome).length
      + 2 ^ 16 * (0x1000 - s.clipAreaUsed))
  else 0

def encClear (o : Nat) (s : State) : State :=
  if o < 0x800 then
    let n := o / 0x100
    let v := encAt s n
    let b := getAt ({} : EncEngine) n s.cyc.encEng
    match o % 0x100 with
    | 0x04 => setEnc n { v with pictures := v.pictures - b.pictures } s
    | 0x08 => setEnc n { v with capped := v.capped - b.capped } s
    | 0x0C => setEnc n { v with floor := v.floor - b.floor } s
    | _ => s
  else s

def prepValue (o : Nat) (s : State) : Word :=
  if o < 0x1000 then
    let n := o / 0x100
    let v := prepAt s n
    match o % 0x100 with
    | 0x00 => word32 (b2n (prepHead s n).isSome + 2 * b2n v.retired + 2 ^ 16 * v.saturated.toNat)
    | 0x04 => v.count0
    | 0x08 => v.maxCycles
    | _ => 0
  else 0

def prepClear (o : Nat) (s : State) : State :=
  if o < 0x1000 then
    let n := o / 0x100
    let v := prepAt s n
    let b := getAt ({} : VidEngine) n s.cyc.prepEng
    match o % 0x100 with
    | 0x00 => setPrep n { v with saturated := v.saturated - b.saturated } s
    | 0x04 => setPrep n { v with count0 := v.count0 - b.count0 } s
    | 0x08 => setPrep n { v with maxCycles := word32 (min 0xFFFFFFFF (peakIn (0x70000 + o) s)) } s
    | _ => s
  else s

/-! ## BELL and work counters (R215, R232) -/

def wcValue (i o : Nat) (s : State) : Word :=
  let c := wcAt s i
  match o with
  | 0x0 => word32 (c.value.toNat + 2 ^ 16 * c.limit.toNat)
  | 0x4 => word32 (c.attempt.toNat + 2 ^ 8 * b2n c.done + 2 ^ 9 * b2n c.latched + 2 ^ 10 * b2n c.limitPoison
      + 2 ^ 16 * c.tagBase.toNat)
  | 0x8 => word32 c.epoch.toNat
  | _ => 0

def bellValue (o : Nat) (s : State) : Word :=
  let b := s.bell
  match o with
  | 0x00 => word32 (b.set.len.toNat + 4 * b2n b.set.reserve + 8 * b2n b.set.locked + 2 ^ 4 * b.set.jitter.toNat
      + 2 ^ 12 * b2n b.running)
  | 0x04 => b.roundSeq
  | 0x08 => word32 (b.active.toNat + 4 * b.next.state + 2 ^ 4 * b.standby.state + 2 ^ 6 * b2n b.checkFail
      + 2 ^ 8 * b.repeats.toNat + 2 ^ 16 * b.failSlot.toNat)
  | 0x0C => word32 (b.shift % 2 ^ 24)
  | 0x10 => word32 (b2n b.hang.valid + 2 * b.hang.kind.toNat + 2 ^ 4 * b.hang.index.toNat + 2 ^ 12 * b.hang.cores.toNat)
  | 0x14 => word32 (b.hang.slot.toNat + 2 ^ 16 * b.hang.roundLow.toNat)
  | 0x18 => b.wakeStall
  | 0x1C => b.lateIssue
  | 0x20 => b.beFc
  | o => if 0x1000 ≤ o ∧ o < 0x1400 then wcValue ((o - 0x1000) / 0x10) (o % 0x10) s else 0

def bellClear (o : Nat) (s : State) : State :=
  let b := s.cyc.bell
  match o with
  | 0x08 => { s with bell := { s.bell with repeats := s.bell.repeats - b.repeats } }
  | 0x18 => { s with bell := { s.bell with wakeStall := s.bell.wakeStall - b.wakeStall } }
  | 0x1C => { s with bell := { s.bell with lateIssue := s.bell.lateIssue - b.lateIssue } }
  | 0x20 => { s with bell := { s.bell with beFc := s.bell.beFc - b.beFc } }
  | _ => s

def bellWrite (o : Nat) (v : Word) (be : BitVec 4) (s : State) : State :=
  match o with
  | 0x08 => { s with bell := { s.bell with checkFail := w1c s.bell.checkFail v be 6 } }
  | 0x10 => { s with bell := { s.bell with hang := { s.bell.hang with valid := w1c s.bell.hang.valid v be 0 } } }
  | _ => s

/-! ## FURROW (R169, R232) -/

def furrowValue (o : Nat) (s : State) : Word :=
  let c := coreAt s (o / 0x2000)
  match o % 0x2000 with
  | 0x000 => word32 (b2n c.busy + 2 * b2n c.retired + 4 * b2n c.poisonSeen)
  | 0x010 => c.cnt.accSat
  | 0x014 => c.cnt.outSat
  | 0x018 => word32 (c.cnt.nan.toNat + 2 ^ 16 * c.cnt.inf.toNat)
  | 0x020 => c.cnt.feedStall
  | 0x024 => c.cnt.drainStall
  | 0x028 => c.cnt.wload
  | 0x02C => word32 c.cnt.maxDry.toNat
  | 0x100 => word32 (b2n c.insn.valid + 2 * c.insn.op.toNat + 2 ^ 8 * c.insn.res.toNat + 2 ^ 16 * c.insn.pc.toNat)
  | 0x104 => c.insn.amount
  | 0x108 => word32 c.insn.tn.toNat
  | 0x10C => c.cnt.claims
  | _ => 0

def furrowClear (o : Nat) (s : State) : State :=
  let n := o / 0x2000
  let c := coreAt s n
  let k := c.cnt
  let b := (getAt ({} : Core) n s.cyc.cores).cnt
  match o % 0x2000 with
  | 0x010 => setCore n { c with cnt := { k with accSat := k.accSat - b.accSat } } s
  | 0x014 => setCore n { c with cnt := { k with outSat := k.outSat - b.outSat } } s
  | 0x018 => setCore n { c with cnt := { k with nan := k.nan - b.nan, inf := k.inf - b.inf } } s
  | 0x020 => setCore n { c with cnt := { k with feedStall := k.feedStall - b.feedStall } } s
  | 0x024 => setCore n { c with cnt := { k with drainStall := k.drainStall - b.drainStall } } s
  | 0x028 => setCore n { c with cnt := { k with wload := k.wload - b.wload } } s
  | 0x02C => setCore n { c with cnt := { k with maxDry := BitVec.ofNat 16 (min 65535 (peakIn (0x100000 + o) s)) } } s
  | 0x10C => setCore n { c with cnt := { k with claims := k.claims - b.claims } } s
  | _ => s

def furrowWrite (o : Nat) (v : Word) (be : BitVec 4) (s : State) : State :=
  let n := o / 0x2000
  let c := coreAt s n
  match o % 0x2000 with
  | 0x000 => setCore n { c with poisonSeen := w1c c.poisonSeen v be 2 } s
  | 0x100 => setCore n { c with insn := { c.insn with valid := w1c c.insn.valid v be 0 } } s
  | _ => s

/-! ## TRK and MEM (R253, R299) -/

def trkValue (o : Nat) (s : State) : Word :=
  match o with
  | 0x00 => word32 (s.trk.tracks.length + 2 ^ 18 * b2n s.trk.busy)
  | 0x04 => word32 s.trk.headroom
  | 0x08 => s.trk.joinRefused
  | 0x0C => s.trk.reuse
  | 0x10 => s.trk.created
  | _ => 0

def trkClear (o : Nat) (s : State) : State :=
  match o with
  | 0x08 => { s with trk := { s.trk with joinRefused := s.trk.joinRefused - s.cyc.trk.joinRefused } }
  | 0x0C => { s with trk := { s.trk with reuse := s.trk.reuse - s.cyc.trk.reuse } }
  | _ => s

/-- Park records in one of two states. -/
def parksIn (s : State) (a b : Nat) : Nat := (s.mem.parks.filter fun e => e.2.state == a || e.2.state == b).length

/-- MEM_PC_SKEW: the most loaded pseudo-channel of the admitted set of R275, and its granules divided by the mean in 1/256,
rounded down; zero while the set moves nothing. -/
def skewValue (s : State) : Word :=
  let sum := (setPatterns s (loadsBut s 0x1000)).foldl addCounts noCounts
  let t := sum.foldl (· + ·) 0
  let pc := mostLoaded sum
  if t = 0 then 0 else word32 (pc + 2 ^ 8 * min 65535 (sum.getD pc 0 * 128 * 256 / t))

def memValue (o : Nat) (s : State) : Word :=
  let m := s.mem
  match o with
  | 0x00 => word32 (m.trained.toNat + 2 ^ 4 * b2n m.substActive + 2 ^ 5 * m.substPc.toNat + 2 ^ 12 * b2n m.pcLostEvent)
  | 0x08 => skewValue s
  | 0x0C => word32 (m.forced.toNat + 2 ^ 16 * m.maxOwed.toNat)
  | 0x10 => m.panics
  | 0x20 => m.ce
  | 0x24 => m.ue
  | 0x28 => word32 m.lastAddr.toNat
  | 0x2C => word32 (m.lastAddr.toNat / 2 ^ 32 + 2 ^ 8 * m.lastMemory.toNat + 2 ^ 16 * b2n m.lastUnc)
  | 0x30 => word32 (m.lastSyn.toNat + 2 ^ 8 * m.lastBit.toNat)
  | 0x34 => m.marker
  | 0x40 => word32 (2 ^ 16 * b2n (tlbDone s))
  | 0x50 => word32 (parksIn s 1 3 + 2 ^ 11 * parksIn s 2 2)
  | _ => 0

def memClear (o : Nat) (s : State) : State :=
  let m := s.mem
  let b := s.cyc.mem
  match o with
  | 0x0C => { s with mem := { m with forced := m.forced - b.forced, maxOwed := BitVec.ofNat 4 (peakIn 0x21000C s) } }
  | 0x10 => { s with mem := { m with panics := m.panics - b.panics } }
  | 0x20 => { s with mem := { m with ce := m.ce - b.ce } }
  | 0x24 => { s with mem := { m with ue := m.ue - b.ue } }
  | 0x34 => { s with mem := { m with marker := m.marker - b.marker } }
  | _ => s

/-- MEM_TLB_INV is write-only: bytes that are not enabled count as zero, and a write of neither field starts nothing. -/
def memRegWrite (o : Nat) (v : Word) (be : BitVec 4) (s : State) : State :=
  match o with
  | 0x00 => { s with mem := { s.mem with pcLostEvent := w1c s.mem.pcLostEvent v be 12 } }
  | 0x40 => if be &&& 3 = 0 then s else invalidate_ (mergeBytes 0 v be) s
  | _ => s

/-! ## PWR and TEL (R341, R399) -/

def pwrValue (o : Nat) (s : State) : Word :=
  let p := s.pwr
  match o with
  | 0x00 => word32 (b2n (p.recess && !s.link.flrRecess) + 2 * p.transition.toNat + 8 * b2n p.aonLow
      + 2 ^ 4 * b2n p.banksOff + 2 ^ 5 * b2n p.brownout + 2 ^ 6 * b2n p.refusal + 2 ^ 8 * p.brownouts.toNat)
  | 0x04 => word32 (p.refDomain.toNat + 2 ^ 16 * p.refReason.toNat + 2 ^ 24 * b2n p.refEntry)
  | 0x08 => word32 (p.engIdle.toNat + 2 ^ 8 * b2n p.aonLowEn)
  | 0x0C => word32 (p.stallMax.toNat + 2 ^ 16 * p.stallCount.toNat)
  | o => if 0x10 ≤ o ∧ o < 0x34 ∧ o % 4 = 0 then word32 (domainWord (domainsOn s) ((o - 0x10) / 4)) else 0

def pwrClear (o : Nat) (s : State) : State :=
  let p := s.pwr
  match o with
  | 0x00 => { s with pwr := { p with brownouts := p.brownouts - s.cyc.pwr.brownouts } }
  | 0x0C => { s with pwr := { p with
      stallMax := BitVec.ofNat 16 (peakIn 0x24000C s), stallCount := p.stallCount - s.cyc.pwr.stallCount } }
  | _ => s

/-- AON_LOW_EN set in Recess lets the regulator enter LOW (R331). -/
def pwrWrite (o : Nat) (v : Word) (be : BitVec 4) (s : State) : State :=
  match o with
  | 0x00 => { s with pwr := { s.pwr with
      brownout := w1c s.pwr.brownout v be 5, refusal := w1c s.pwr.refusal v be 6 } }
  | 0x08 =>
    let w := mergeBytes (pwrValue 0x08 s) v be
    enterLow { s with pwr := { s.pwr with engIdle := w.extractLsb' 0 8, aonLowEn := w.getLsbD 8 } }
  | _ => s

/-- Two temperatures in one dword. -/
def tempWord (lo hi : Int) : Word := word32 (wrapInt 16 lo + 2 ^ 16 * wrapInt 16 hi)

def telValue (o : Nat) (s : State) : Word :=
  let t := s.tel
  match o with
  | 0x00 => tempWord t.temps.compute t.temps.base
  | 0x04 => tempWord t.temps.hbm0 t.temps.hbm1
  | 0x08 => tempWord t.temps.hbm2 t.temps.hbm3
  | 0x10 => word32 (t.level.toNat + 4 * b2n t.warnEvent + 8 * b2n t.emergEvent + 2 ^ 4 * t.source.toNat
      + 2 ^ 8 * t.shed.toNat)
  | 0x14 => word32 (t.rail.toNat + 2 ^ 4 * b2n t.railFault + 2 ^ 8 * t.railCount.toNat)
  | _ => 0

def telClear (o : Nat) (s : State) : State :=
  if o = 0x10 then { s with tel := { s.tel with shed := s.tel.shed - s.cyc.tel.shed } } else s

def telWrite (o : Nat) (v : Word) (be : BitVec 4) (s : State) : State :=
  if o = 0x10 then
    { s with tel := { s.tel with warnEvent := w1c s.tel.warnEvent v be 2, emergEvent := w1c s.tel.emergEvent v be 3 } }
  else s

/-! ## FLT (R322) -/

/-- The newest held record whose SEQ is `i` modulo 16, among the 16 newest. -/
def recentRecord (s : State) (i : Nat) : Option FaultRec :=
  ((faultsHeld s).reverse.take 16).find? fun r => r.seq.toNat % 16 == i

def fltValue (o : Nat) (s : State) : Word :=
  let f := s.flt
  match o with
  | 0x00 => word32 (b2n f.new_ + 2 * b2n f.resetEvent + 4 * b2n f.oos + 2 ^ 4 * f.oosCause.toNat
      + 2 ^ 16 * min 6 (resetsInWindow s).length)
  | 0x04 => f.lastSeq
  | 0x08 => match faultsHeld s with | r :: _ => r.seq | [] => 0
  | 0x0C => f.resets
  | 0x10 => f.dropped
  | o => if 0x1000 ≤ o ∧ o < 0x2000 then
      match recentRecord s ((o - 0x1000) / 0x100) with
      | some r => word32 (numAt (faultBytes r) (o % 0x100) 4)
      | none => 0
    else 0

def fltClear (o : Nat) (s : State) : State :=
  match o with
  | 0x0C => { s with flt := { s.flt with resets := s.flt.resets - s.cyc.flt.resets } }
  | 0x10 => { s with flt := { s.flt with dropped := s.flt.dropped - s.cyc.flt.dropped } }
  | _ => s

def fltWrite (o : Nat) (v : Word) (be : BitVec 4) (s : State) : State :=
  if o = 0 then
    { s with flt := { s.flt with new_ := w1c s.flt.new_ v be 0, resetEvent := w1c s.flt.resetEvent v be 1 } }
  else s

/-! ## SLOT (R355, R363) -/

/-- BTN_DOWN once a press has been counted: the button may have been released since, which no command tells, so it is a
free value (notes/assumptions/23.md). -/
def buttonDown (s : State) : Bool := s.slot.btnDown && (Config.freeWord s.free).getLsbD 0

def slotValue (o : Nat) (s : State) : Word :=
  let t := s.slot
  match o with
  | 0x00 => word32 (b2n t.present + 2 * b2n t.presentChanged + 4 * b2n t.btnPressed + 8 * b2n (buttonDown s))
  | 0x04 => word32 (b2n t.pwrEn + 2 * t.attnInd.toNat + 8 * t.pwrInd.toNat)
  | 0x08 => word32 (t.cause.toNat + 2 ^ 8 * t.count.toNat)
  | _ => 0

def slotClear (o : Nat) (s : State) : State := if o = 0 ∧ s.slot.btnDown then (drawFree s).2 else s

/-- SLOT_CTRL drives PWRCTL_EN and the lamps. -/
def slotWrite (o : Nat) (v : Word) (be : BitVec 4) (s : State) : State :=
  match o with
  | 0x00 => { s with slot := { s.slot with
      presentChanged := w1c s.slot.presentChanged v be 1, btnPressed := w1c s.slot.btnPressed v be 2 } }
  | 0x04 =>
    let w := mergeBytes (slotValue 0x04 s) v be
    let t := { s.slot with
      pwrEn := w.getLsbD 0, attnInd := w.extractLsb' 1 2, pwrInd := w.extractLsb' 3 2, configured := true }
    send (.leds t.attnInd t.pwrInd) (send (.pwrctlEn t.pwrEn) { s with slot := t })
  | _ => s

/-! ## FWM (R385) -/

/-- Seconds left in TRIAL, rounded up. -/
def trialLeft (s : State) : Nat := if s.fw.upd = 5 then min 0xFFFF (ceilDiv (s.fw.trialEnd - s.now) 1250000000) else 0

def fwmValue (o : Nat) (s : State) : Word :=
  let f := s.fw
  match o with
  | 0x00 => word32 (f.upd.toNat + 8 * f.bank.toNat + 2 ^ 4 * f.bankValid.toNat + 2 ^ 6 * b2n f.patchPending
      + 2 ^ 7 * b2n (!Config.certGood) + 2 ^ 8 * trialLeft s)
  | 0x04 => word32 (b2n f.evStaged + 2 * b2n f.evActivated + 4 * b2n f.evConfirmed + 8 * b2n f.evFallback
      + 16 * b2n f.evRestart + 32 * b2n f.evSyncIgnored)
  | 0x08 => (runningImage s).build
  | 0x0C => word32 (f.bailiffCtr.toNat + 2 ^ 8 * f.patchCtr.toNat + 2 ^ 16 * ((runningImage s).svn.toNat % 128))
  | 0x14 => word32 (f.restarts.toNat + 2 ^ 16 * f.reason.toNat)
  | _ => 0

def fwmClear (o : Nat) (s : State) : State :=
  if o = 0x14 then { s with fw := { s.fw with restarts := s.fw.restarts - s.cyc.fw.restarts } } else s

def fwmWrite (o : Nat) (v : Word) (be : BitVec 4) (s : State) : State :=
  let f := s.fw
  match o with
  | 0x04 => { s with fw := { f with
      evStaged := w1c f.evStaged v be 0, evActivated := w1c f.evActivated v be 1
      evConfirmed := w1c f.evConfirmed v be 2, evFallback := w1c f.evFallback v be 3
      evRestart := w1c f.evRestart v be 4, evSyncIgnored := w1c f.evSyncIgnored v be 5 } }
  | 0x10 => fwCtrl (mergeBytes 0 v be) s
  | _ => s

/-! ## BAR0 (R400) -/

/-- The blocks of BAR0. -/
inductive Block where
  | glb | cmd | ing | dec | enc | prep | bell | furrow | trk | mem | pool | pwr | flt | slot | fwm | tel
  deriving DecidableEq, Repr

/-- Each block with its base and end. -/
def blocks : List (Block × Nat × Nat) :=
  [(.glb, 0x0, 0xFFFF), (.cmd, 0x10000, 0x1FFFF), (.ing, 0x20000, 0x3FFFF), (.dec, 0x40000, 0x5FFFF),
   (.enc, 0x60000, 0x6FFFF), (.prep, 0x70000, 0x7FFFF), (.bell, 0x80000, 0xFFFFF), (.furrow, 0x100000, 0x1FFFFF),
   (.trk, 0x200000, 0x20FFFF), (.mem, 0x210000, 0x22FFFF), (.pool, 0x230000, 0x23FFFF), (.pwr, 0x240000, 0x24FFFF),
   (.flt, 0x250000, 0x25FFFF), (.slot, 0x260000, 0x26FFFF), (.fwm, 0x270000, 0x27FFFF), (.tel, 0x280000, 0x28FFFF)]

/-- Block and offset within it; none beyond 0x28_FFFF. -/
def blockOf (o : Nat) : Option (Block × Nat) :=
  (blocks.find? fun b => decide (b.2.1 ≤ o) && decide (o ≤ b.2.2)).map fun b => (b.1, o - b.2.1)

/-- What a dword of BAR0 reads as. -/
def regValue (o : Nat) (s : State) : Word :=
  match blockOf o with
  | some (.glb, r) => glbValue r s
  | some (.cmd, r) => cmdValue r s
  | some (.ing, r) => ingValue r s
  | some (.dec, r) => decValue r s
  | some (.enc, r) => encValue r s
  | some (.prep, r) => prepValue r s
  | some (.bell, r) => bellValue r s
  | some (.furrow, r) => furrowValue r s
  | some (.trk, r) => trkValue r s
  | some (.mem, r) => memValue r s
  | some (.pool, r) => poolValue r s
  | some (.pwr, r) => pwrValue r s
  | some (.flt, r) => fltValue r s
  | some (.slot, r) => slotValue r s
  | some (.fwm, r) => fwmValue r s
  | some (.tel, r) => telValue r s
  | none => 0

/-- What a read clears: every RC field of the dword (R7). An RC field keeps what this fc has brought (R11). -/
def regClear (o : Nat) (s : State) : State :=
  match blockOf o with
  | some (.glb, _) => s
  | some (.cmd, r) => cmdClear r s
  | some (.ing, r) => ingClear r s
  | some (.dec, r) => decClear r s
  | some (.enc, r) => encClear r s
  | some (.prep, r) => prepClear r s
  | some (.bell, r) => bellClear r s
  | some (.furrow, r) => furrowClear r s
  | some (.trk, r) => trkClear r s
  | some (.mem, r) => memClear r s
  | some (.pool, r) => poolClear r s
  | some (.pwr, r) => pwrClear r s
  | some (.flt, r) => fltClear r s
  | some (.slot, r) => slotClear r s
  | some (.fwm, r) => fwmClear r s
  | some (.tel, r) => telClear r s
  | none => s

/-- The RC fields of a dword. -/
def rcPart (o : Nat) (s : State) : Word := regValue o s ^^^ regValue o (regClear o { s with cyc := startOf s })

/-- What a host read of a dword returns: RC fields as they stood before the events of this fc (R11). -/
def readValue (o : Nat) (s : State) : Word := (regValue o s ^^^ rcPart o s) ||| rcPart o (back s)

/-- What a host read of a dword leaves: RC fields hold what this fc has brought, and what was there before is gone. -/
def readDone (o : Nat) (s : State) : State :=
  let b := startOf (regClear o (back s))
  let s := regClear o s
  { s with cyc := { b with sets := s.cyc.sets, peaks := s.cyc.peaks } }

/-- What a write of the enabled bytes does; a W1C bit that the hardware has set in this fc stays set (R11). -/
def regWrite (o : Nat) (v : Word) (be : BitVec 4) (s : State) : State :=
  let v := v &&& ~~~ setIn o s
  match blockOf o with
  | some (.glb, r) => glbWrite r v be s
  | some (.cmd, r) => cmdWrite r v be s
  | some (.ing, r) => ingWrite r v be s
  | some (.dec, r) => decWrite r v be s
  | some (.enc, _) => s
  | some (.prep, _) => s
  | some (.bell, r) => bellWrite r v be s
  | some (.furrow, r) => furrowWrite r v be s
  | some (.trk, _) => s
  | some (.mem, r) => memRegWrite r v be s
  | some (.pool, _) => s
  | some (.pwr, r) => pwrWrite r v be s
  | some (.flt, r) => fltWrite r v be s
  | some (.slot, r) => slotWrite r v be s
  | some (.fwm, r) => fwmWrite r v be s
  | some (.tel, r) => telWrite r v be s
  | none => s

/-- The domain of a register is brought up for an access that found it off; the stall, at most 30 µs, is a free value
(notes/assumptions/23.md). -/
def wakeFor (d : Nat) (s : State) : State :=
  if shellUp s d then s
  else
    let f := drawFree s
    hostWake d (BitVec.ofNat 16 ((Config.freeWord f.1).toNat % 31)) f.2

/-- A host access to the dword that holds an offset. A domain that is off comes up first (R324); while the always-on
regulator cannot power it the access waits. It is Unsupported Request where the function decodes no memory request
(R345). -/
def regAccess (offset : BitVec 24) (work : Nat → State → State) (s : State) : State :=
  let o := offset.toNat / 4 * 4
  if !linkSpeaks s || inReset s then s
  else if !hostAccess s then send .unsupportedRequest s
  else
    let d := regDomain o
    let s := wakeFor d s
    if shellUp s d then work o (touchDomain d s) else s

/-- Writes the enabled bytes of one dword. -/
def writeDword (offset : BitVec 24) (value : Word) (be : BitVec 4) (s : State) : State :=
  regAccess offset (fun o s => updateWire (regWrite o value be s)) s

/-- REGISTER_WRITE: the enabled bytes of a dword, and of a pair of dwords the lower, then the upper (R7). -/
def execRegisterWrite (offset : BitVec 24) (value : BitVec 64) (be : BitVec 8) (s : State) : Res :=
  let t := writeDword offset (value.extractLsb' 0 32) (be.extractLsb' 0 4) s
  let high : BitVec 4 := be.extractLsb' 4 4
  .next (if high != 0 && hostAccess s then writeDword (offset + 4) (value.extractLsb' 32 32) high t else t)

/-- REGISTER_READ_CLEAR: the dword, or the pair of dwords, is returned, and its RC fields are cleared (R7). -/
def execRegisterReadClear (r : RegRead) (s : State) : Res :=
  .next (regAccess r.offset (fun o s =>
    let lo := readValue o s
    let s := readDone o s
    if r.both then
      let hi := readValue (o + 4) s
      updateWire (send (.completionBytes (leBytes 4 lo.toNat ++ leBytes 4 hi.toNat)) (readDone (o + 4) s))
    else updateWire (send (.completion lo) s)) s)

end Sys2Proof.Machine
end

