-- ==== Sys2Proof/Machine/Dispatch.lean ====
section
/-! DEFINITION. Machine/Dispatch.lean: the meaning of every command, one arm per row of the opcode table. -/

namespace Sys2Proof.Machine

open Sys2Proof

def exec (i : Instr) (s : State) : Host.Outcome State Fault Refusal :=
  match i with
  | .identify ring p => Sys2Proof.Machine.execIdentify ring p s
  | .telemetryRead ring p m => Sys2Proof.Machine.execTelemetryRead ring p m s
  | .faultLogRead ring p => Sys2Proof.Machine.execFaultLogRead ring p s
  | .portConfigPort ring p => Sys2Proof.Machine.execPortConfigPort ring p s
  | .portConfigDatagram ring p => Sys2Proof.Machine.execPortConfigDatagram ring p s
  | .streamOpen ring p => Sys2Proof.Machine.execStreamOpen ring p s
  | .streamAdmit ring p pages units => Sys2Proof.Machine.execStreamAdmit ring p pages units s
  | .streamClose ring p => Sys2Proof.Machine.execStreamClose ring p s
  | .streamQuery ring p => Sys2Proof.Machine.execStreamQuery ring p s
  | .keyLoad ring p blob => Sys2Proof.Machine.execKeyLoad ring p blob s
  | .sheafDefine ring p => Sys2Proof.Machine.execSheafDefine ring p s
  | .sheafDissolve ring p => Sys2Proof.Machine.execSheafDissolve ring p s
  | .shedRankSet ring p => Sys2Proof.Machine.execShedRankSet ring p s
  | .networkLoad ring p image pages => Sys2Proof.Machine.execNetworkLoad ring p image pages s
  | .networkUnload ring p => Sys2Proof.Machine.execNetworkUnload ring p s
  | .roundConfig ring p => Sys2Proof.Machine.execRoundConfig ring p s
  | .clipRequest ring p lists => Sys2Proof.Machine.execClipRequest ring p lists s
  | .clipCancel ring p => Sys2Proof.Machine.execClipCancel ring p s
  | .selftestRequest ring p => Sys2Proof.Machine.execSelftestRequest ring p s
  | .serviceRestore ring p => Sys2Proof.Machine.execServiceRestore ring p s
  | .recessEnter ring p => Sys2Proof.Machine.execRecessEnter ring p s
  | .recessExit ring p => Sys2Proof.Machine.execRecessExit ring p s
  | .recessExitRoundStart => Sys2Proof.Machine.execRecessExitRoundStart s
  | .fwStageBailiff ring p image programmed => Sys2Proof.Machine.execFwStageBailiff ring p image programmed s
  | .fwStagePatch ring p image programmed => Sys2Proof.Machine.execFwStagePatch ring p image programmed s
  | .fwArmBailiff ring p => Sys2Proof.Machine.execFwArmBailiff ring p s
  | .fwArmPatch ring p => Sys2Proof.Machine.execFwArmPatch ring p s
  | .fwActivate ring p => Sys2Proof.Machine.execFwActivate ring p s
  | .fwDisarm ring p => Sys2Proof.Machine.execFwDisarm ring p s
  | .quiesceTimeout => Sys2Proof.Machine.execQuiesceTimeout s
  | .bootLoadComplete blocksOk => Sys2Proof.Machine.execBootLoadComplete blocksOk s
  | .auPush ring p => Sys2Proof.Machine.execAuPush ring p s
  | .auPushComplete ring tag refFree => Sys2Proof.Machine.execAuPushComplete ring tag refFree s
  | .jobSubmit ring p => Sys2Proof.Machine.execJobSubmit ring p s
  | .jobCancel ring p => Sys2Proof.Machine.execJobCancel ring p s
  | .ringCredit ring p => Sys2Proof.Machine.execRingCredit ring p s
  | .maintEcho ring p => Sys2Proof.Machine.execMaintEcho ring p s
  | .maintPeek ring p => Sys2Proof.Machine.execMaintPeek ring p s
  | .maintErrInject ring p => Sys2Proof.Machine.execMaintErrInject ring p s
  | .maintCountersClear ring p => Sys2Proof.Machine.execMaintCountersClear ring p s
  | .replyDeadline ring tag => Sys2Proof.Machine.execReplyDeadline ring tag s
  | .doorbellWrite offset value => Sys2Proof.Machine.execDoorbellWrite offset value s
  | .ringEnable kind ring cfg => Sys2Proof.Machine.execRingEnable kind ring cfg s
  | .ringDisable kind ring cfg => Sys2Proof.Machine.execRingDisable kind ring cfg s
  | .registerWrite offset value be => Sys2Proof.Machine.execRegisterWrite offset value be s
  | .registerReadClear offset => Sys2Proof.Machine.execRegisterReadClear offset s
  | .hostAccessWake offset stallUs => Sys2Proof.Machine.execHostAccessWake offset stallUs s
  | .recessDomainRevert domain => Sys2Proof.Machine.execRecessDomainRevert domain s
  | .tlbInvalidate value => Sys2Proof.Machine.execTlbInvalidate value s
  | .fwConfirm value => Sys2Proof.Machine.execFwConfirm value s
  | .fwReject value => Sys2Proof.Machine.execFwReject value s
  | .bar2Read offset dwords => Sys2Proof.Machine.execBar2Read offset dwords s
  | .bar2Write offset bytes => Sys2Proof.Machine.execBar2Write offset bytes s
  | .pcieRequestUnsupported r => Sys2Proof.Machine.execPcieRequestUnsupported r s
  | .poisonedWrite bar offset => Sys2Proof.Machine.execPoisonedWrite bar offset s
  | .hostReadCompletion engine granule c => Sys2Proof.Machine.execHostReadCompletion engine granule c s
  | .completionTimeout engine granule => Sys2Proof.Machine.execCompletionTimeout engine granule s
  | .parkRecordAction index => Sys2Proof.Machine.execParkRecordAction index s
  | .dmaGranuleLand engine granule => Sys2Proof.Machine.execDmaGranuleLand engine granule s
  | .intCoalTimer => Sys2Proof.Machine.execIntCoalTimer s
  | .interruptDisableWrite command => Sys2Proof.Machine.execInterruptDisableWrite command s
  | .flr => Sys2Proof.Machine.execFlr s
  | .flrComplete => Sys2Proof.Machine.execFlrComplete s
  | .d3hotEntry pmcsr => Sys2Proof.Machine.execD3hotEntry pmcsr s
  | .d0Return pmcsr => Sys2Proof.Machine.execD0Return pmcsr s
  | .pmeTurnOff => Sys2Proof.Machine.execPmeTurnOff s
  | .l0sEntry transmit => Sys2Proof.Machine.execL0sEntry transmit s
  | .l1Request substate => Sys2Proof.Machine.execL1Request substate s
  | .linkLoss => Sys2Proof.Machine.execLinkLoss s
  | .linkReturnL0 => Sys2Proof.Machine.execLinkReturnL0 s
  | .refclkLost => Sys2Proof.Machine.execRefclkLost s
  | .perstAssert => Sys2Proof.Machine.execPerstAssert s
  | .perstDeassert fails => Sys2Proof.Machine.execPerstDeassert fails s
  | .bootComplete => Sys2Proof.Machine.execBootComplete s
  | .presenceLost => Sys2Proof.Machine.execPresenceLost s
  | .presenceRestored => Sys2Proof.Machine.execPresenceRestored s
  | .attnBtnPress => Sys2Proof.Machine.execAttnBtnPress s
  | .mainPwrgdRise => Sys2Proof.Machine.execMainPwrgdRise s
  | .mainPwrgdFall => Sys2Proof.Machine.execMainPwrgdFall s
  | .aonPowerUp => Sys2Proof.Machine.execAonPowerUp s
  | .railFault rails => Sys2Proof.Machine.execRailFault rails s
  | .brownout => Sys2Proof.Machine.execBrownout s
  | .aonFullReached => Sys2Proof.Machine.execAonFullReached s
  | .syncInEdge => Sys2Proof.Machine.execSyncInEdge s
  | .thermalSample t => Sys2Proof.Machine.execThermalSample t s
  | .thermalShedTimer => Sys2Proof.Machine.execThermalShedTimer s
  | .thermalTrip => Sys2Proof.Machine.execThermalTrip s
  | .frameReceive port f => Sys2Proof.Machine.execFrameReceive port f s
  | .pauseFrame port quanta => Sys2Proof.Machine.execPauseFrame port quanta s
  | .controlPacket port k => Sys2Proof.Machine.execControlPacket port k s
  | .reorderWaitExpiry ctx => Sys2Proof.Machine.execReorderWaitExpiry ctx s
  | .portLinkChange port up => Sys2Proof.Machine.execPortLinkChange port up s
  | .truantTimeout ctx => Sys2Proof.Machine.execTruantTimeout ctx s
  | .slipRollCall ctx => Sys2Proof.Machine.execSlipRollCall ctx s
  | .relockRollCall ctx => Sys2Proof.Machine.execRelockRollCall ctx s
  | .stashMove => Sys2Proof.Machine.execStashMove s
  | .poolStage3Shed => Sys2Proof.Machine.execPoolStage3Shed s
  | .decodePicture engine f => Sys2Proof.Machine.execDecodePicture engine f s
  | .decodeWatchdog engine => Sys2Proof.Machine.execDecodeWatchdog engine s
  | .prepareInput engine ctx seq input cycles => Sys2Proof.Machine.execPrepareInput engine ctx seq input cycles s
  | .prepWatchdog engine => Sys2Proof.Machine.execPrepWatchdog engine s
  | .slotIssue => Sys2Proof.Machine.execSlotIssue s
  | .coreReady core => Sys2Proof.Machine.execCoreReady core s
  | .unitFinish u poisonRows => Sys2Proof.Machine.execUnitFinish u poisonRows s
  | .actionHang u => Sys2Proof.Machine.execActionHang u s
  | .wakeTimeout core => Sys2Proof.Machine.execWakeTimeout core s
  | .roundBoundary => Sys2Proof.Machine.execRoundBoundary s
  | .fallowSlot r => Sys2Proof.Machine.execFallowSlot r s
  | .hbmRefresh pc ports => Sys2Proof.Machine.execHbmRefresh pc ports s
  | .patrolScrub addr => Sys2Proof.Machine.execPatrolScrub addr s
  | .substituteCopy granules => Sys2Proof.Machine.execSubstituteCopy granules s
  | .timetableMarkComplete standby area c => Sys2Proof.Machine.execTimetableMarkComplete standby area c s
  | .timetableCheckComplete standby => Sys2Proof.Machine.execTimetableCheckComplete standby s
  | .standbyRebuild => Sys2Proof.Machine.execStandbyRebuild s
  | .engineRebind kind index => Sys2Proof.Machine.execEngineRebind kind index s
  | .rows lists => Sys2Proof.Machine.execRows lists s
  | .apply lists predicted => Sys2Proof.Machine.execApply lists predicted s
  | .emit lists => Sys2Proof.Machine.execEmit lists s
  | .recordEgress mr => Sys2Proof.Machine.execRecordEgress mr s
  | .datagramSend mr => Sys2Proof.Machine.execDatagramSend mr s
  | .nextHopResolved mr => Sys2Proof.Machine.execNextHopResolved mr s
  | .wloadWeights core w => Sys2Proof.Machine.execWloadWeights core w s
  | .wloadScales core w => Sys2Proof.Machine.execWloadScales core w s
  | .matmul core w => Sys2Proof.Machine.execMatmul core w s
  | .conv core w => Sys2Proof.Machine.execConv core w s
  | .pool core w => Sys2Proof.Machine.execPool core w s
  | .crop core w => Sys2Proof.Machine.execCrop core w s
  | .vecRequantise core w => Sys2Proof.Machine.execVecRequantise core w s
  | .vecAdd core w => Sys2Proof.Machine.execVecAdd core w s
  | .vecSubtract core w => Sys2Proof.Machine.execVecSubtract core w s
  | .vecMultiply core w => Sys2Proof.Machine.execVecMultiply core w s
  | .vecFusedMultiplyAdd core w => Sys2Proof.Machine.execVecFusedMultiplyAdd core w s
  | .vecMinimum core w => Sys2Proof.Machine.execVecMinimum core w s
  | .vecMaximum core w => Sys2Proof.Machine.execVecMaximum core w s
  | .vecCompare core w => Sys2Proof.Machine.execVecCompare core w s
  | .vecSelect core w => Sys2Proof.Machine.execVecSelect core w s
  | .vecRelu core w => Sys2Proof.Machine.execVecRelu core w s
  | .vecClip core w => Sys2Proof.Machine.execVecClip core w s
  | .vecLeakyRelu core w => Sys2Proof.Machine.execVecLeakyRelu core w s
  | .vecShift core w => Sys2Proof.Machine.execVecShift core w s
  | .vecConversion core w => Sys2Proof.Machine.execVecConversion core w s
  | .vecDivide core w => Sys2Proof.Machine.execVecDivide core w s
  | .vecReciprocal core w => Sys2Proof.Machine.execVecReciprocal core w s
  | .vecSquareRoot core w => Sys2Proof.Machine.execVecSquareRoot core w s
  | .vecReciprocalSquareRoot core w => Sys2Proof.Machine.execVecReciprocalSquareRoot core w s
  | .vecExp core w => Sys2Proof.Machine.execVecExp core w s
  | .vecExp2 core w => Sys2Proof.Machine.execVecExp2 core w s
  | .vecLog core w => Sys2Proof.Machine.execVecLog core w s
  | .vecLog2 core w => Sys2Proof.Machine.execVecLog2 core w s
  | .vecSigmoid core w => Sys2Proof.Machine.execVecSigmoid core w s
  | .vecTanh core w => Sys2Proof.Machine.execVecTanh core w s
  | .vecSoftplus core w => Sys2Proof.Machine.execVecSoftplus core w s
  | .vecSilu core w => Sys2Proof.Machine.execVecSilu core w s
  | .vecGelu core w => Sys2Proof.Machine.execVecGelu core w s
  | .vecSoftmax core w => Sys2Proof.Machine.execVecSoftmax core w s
  | .vecLayerNormalisation core w => Sys2Proof.Machine.execVecLayerNormalisation core w s
  | .vecSum core w => Sys2Proof.Machine.execVecSum core w s
  | .vecAxisMaximum core w => Sys2Proof.Machine.execVecAxisMaximum core w s
  | .vecAxisMinimum core w => Sys2Proof.Machine.execVecAxisMinimum core w s
  | .vecArgmax core w => Sys2Proof.Machine.execVecArgmax core w s
  | .vecTopK core w => Sys2Proof.Machine.execVecTopK core w s
  | .vecDepthwiseConvolution core w => Sys2Proof.Machine.execVecDepthwiseConvolution core w s
  | .vecResampling core w => Sys2Proof.Machine.execVecResampling core w s
  | .vecRepacking core w => Sys2Proof.Machine.execVecRepacking core w s
  | .vecTranspose core w => Sys2Proof.Machine.execVecTranspose core w s
  | .vecConcatenation core w => Sys2Proof.Machine.execVecConcatenation core w s
  | .vecSplit core w => Sys2Proof.Machine.execVecSplit core w s
  | .vecBoxDecoding core w => Sys2Proof.Machine.execVecBoxDecoding core w s
  | .vecNonMaximumSuppression core w => Sys2Proof.Machine.execVecNonMaximumSuppression core w s
  | .syncEnd core w => Sys2Proof.Machine.execSyncEnd core w s
  | .syncSteps core w => Sys2Proof.Machine.execSyncSteps core w s
  | .syncQuiet core w => Sys2Proof.Machine.execSyncQuiet core w s
  | .syncMarks core w => Sys2Proof.Machine.execSyncMarks core w s
  | .syncParam core w => Sys2Proof.Machine.execSyncParam core w s
  | .claim core w => Sys2Proof.Machine.execClaim core w s
  | .dmaIn core w => Sys2Proof.Machine.execDmaIn core w s
  | .dmaOut core w => Sys2Proof.Machine.execDmaOut core w s
  | .fabricError index => Sys2Proof.Machine.execFabricError index s
  | .computeResetComplete => Sys2Proof.Machine.execComputeResetComplete s
  | .resetTimeout => Sys2Proof.Machine.execResetTimeout s
  | .faultLogCopy => Sys2Proof.Machine.execFaultLogCopy s
  | .engineIdleOff kind index => Sys2Proof.Machine.execEngineIdleOff kind index s
  | .offReq domain mode => Sys2Proof.Machine.execOffReq domain mode s
  | .wakeReq domain => Sys2Proof.Machine.execWakeReq domain s
  | .ack domain => Sys2Proof.Machine.execAck domain s
  | .delay domain reason us => Sys2Proof.Machine.execDelay domain reason us s
  | .refuse domain reason => Sys2Proof.Machine.execRefuse domain reason s
  | .ready domain => Sys2Proof.Machine.execReady domain s
  | .delayExpired domain => Sys2Proof.Machine.execDelayExpired domain s
  | .clipStart => Sys2Proof.Machine.execClipStart s
  | .clipDecodePicture clip f => Sys2Proof.Machine.execClipDecodePicture clip f s
  | .clipEncodePicture clip header rowBits stream => Sys2Proof.Machine.execClipEncodePicture clip header rowBits stream s
  | .clipPacketSend clip => Sys2Proof.Machine.execClipPacketSend clip s
  | .encWatchdog engine => Sys2Proof.Machine.execEncWatchdog engine s
  | .aliveTimeout => Sys2Proof.Machine.execAliveTimeout s
  | .firewallBlock write => Sys2Proof.Machine.execFirewallBlock write s
  | .mgmtSramError => Sys2Proof.Machine.execMgmtSramError s
  | .confirmRequest => Sys2Proof.Machine.execConfirmRequest s
  | .trialTimeout => Sys2Proof.Machine.execTrialTimeout s
  | .getVersion => Sys2Proof.Machine.execGetVersion s
  | .getCapabilities => Sys2Proof.Machine.execGetCapabilities s
  | .negotiateAlgorithms => Sys2Proof.Machine.execNegotiateAlgorithms s
  | .getDigests => Sys2Proof.Machine.execGetDigests s
  | .getCertificate slot offset length => Sys2Proof.Machine.execGetCertificate slot offset length s
  | .challenge slot nonce => Sys2Proof.Machine.execChallenge slot nonce s
  | .getMeasurements nonce => Sys2Proof.Machine.execGetMeasurements nonce s
  | .spdmUnsupportedRequest code => Sys2Proof.Machine.execSpdmUnsupportedRequest code s
  | .doeAbort => Sys2Proof.Machine.execDoeAbort s
  | .clkreqLinkExit => Sys2Proof.Machine.execClkreqLinkExit s
  | .refclkReturn => Sys2Proof.Machine.execRefclkReturn s
  | .brownoutRecovery => Sys2Proof.Machine.execBrownoutRecovery s
  | .remainingBlockLoad block ok => Sys2Proof.Machine.execRemainingBlockLoad block ok s

end Sys2Proof.Machine
end

