-- ==== Sys2Proof/Machine/Tick.lean ====
section
/-! DEFINITION. Machine/Tick.lean: what one fast cycle does while no command waits (notes/assumptions/5.md): counts of fc
(R199, R215), samples at management steps (R45, R340), and what a PAUSE held (R86). -/

namespace Sys2Proof.Machine

/-- BE_FC and WAKE_STALL count this fc (R199, R215). -/
def countFc (s : State) : State :=
  { s with bell := { s.bell with
    beFc := satAdd s.bell.beFc (b2n (s.bell.actions.any fun a => a.job.isSome))
    wakeStall := satAdd s.bell.wakeStall (b2n (wakeWaits s)) } }

/-- At a management step boundary the counts of every stream and the telemetry block are sampled (R45, R340). -/
def sampleStep (s : State) : State :=
  if s.now % 1000000 = 0 then
    { s with
      streams := mapAt (fun (st : Stream) => { st with sampled := st.cnt }) s.streams
      tel := { s.tel with sample := telSample s }
      pwr := { s.pwr with stallStep := 0 } }
  else s

/-- One fc passes; a PAUSE that ends releases what waited for it (R86). -/
def tick (s : State) : State :=
  let s := countFc s
  let s := releaseTx 1 (releaseTx 0 (sampleStep { s with now := s.now + 1 }))
  { s with cyc := startOf s }

end Sys2Proof.Machine
end

