-- ==== Sys2Proof/Safety.lean ====
section
/-! DEFINITION. Safety.lean: what claims mean by a safe run: the invariants of the machine that the specification gives,
and the predicates that statements about commands share. -/

namespace Sys2Proof.Machine

/-! ## Invariants -/

/-- The SEQ that the next fault record takes runs from 1 to 0x7FFF_FFFF (R300). -/
def seqOk (n : Word) : Bool := decide (1 ≤ n.toNat) && decide (n.toNat ≤ 0x7FFFFFFF)

/-- The interrupt wire is asserted only in D0, with Interrupt Disable 0, with the link in L0, L0s or L1, and outside a
function-level reset (R348, R350). -/
def wireOk (wire : Bool) (l : Link) : Bool :=
  !wire || (!l.d3hot && !l.command.getLsbD 10 && !l.flr && (l.state == .l0 || l.state == .l1 || l.state == .l12))

/-- What every step keeps: HBM and Granary in canonical form, REFUSE_LIMIT at least 1 (R147), SEQ in range, and the
wire's conditions. -/
def Inv (s : State) : Prop :=
  s.mem.dpa.wf = true ∧ s.refuseLimit ≠ 0 ∧ seqOk s.flt.nextSeq = true ∧ wireOk s.glb.wire s.link = true

/-- The invariants, with the queue as given. -/
def Good (q : List Instr) (s : State) : Prop := Inv s ∧ s.pending = q

/-! ## When a command has its effect -/

/-- The packet of a command is fetched, passes every check of R32, and executes at once: no earlier management command
of its ring, and none that names the same stream or changes configuration with it, still executes (R51). -/
def Ready (s : State) (ring : BitVec 6) (p : Packet) : Prop :=
  queuedAs s ring p = none ∧ fetchable s ring p = true ∧ packetCheck s ring p = none
    ∧ mustQueue s (fetchedOf s ring p) = false

/-- The ring and the packet of a command that a submission ring carries (R31). -/
def packetOf : Instr → Option (BitVec 6 × Packet)
  | .identify ring p => some (ring, p)
  | .telemetryRead ring p _ => some (ring, p)
  | .faultLogRead ring p => some (ring, p)
  | .portConfigPort ring p => some (ring, p)
  | .portConfigDatagram ring p => some (ring, p)
  | .streamOpen ring p => some (ring, p)
  | .streamAdmit ring p _ _ => some (ring, p)
  | .streamClose ring p => some (ring, p)
  | .streamQuery ring p => some (ring, p)
  | .keyLoad ring p _ => some (ring, p)
  | .sheafDefine ring p => some (ring, p)
  | .sheafDissolve ring p => some (ring, p)
  | .shedRankSet ring p => some (ring, p)
  | .networkLoad ring p _ _ => some (ring, p)
  | .networkUnload ring p => some (ring, p)
  | .roundConfig ring p => some (ring, p)
  | .clipRequest ring p _ => some (ring, p)
  | .clipCancel ring p => some (ring, p)
  | .selftestRequest ring p => some (ring, p)
  | .serviceRestore ring p => some (ring, p)
  | .recessEnter ring p => some (ring, p)
  | .recessExit ring p => some (ring, p)
  | .fwStageBailiff ring p _ _ => some (ring, p)
  | .fwStagePatch ring p _ _ => some (ring, p)
  | .fwArmBailiff ring p => some (ring, p)
  | .fwArmPatch ring p => some (ring, p)
  | .fwActivate ring p => some (ring, p)
  | .fwDisarm ring p => some (ring, p)
  | .auPush ring p => some (ring, p)
  | .jobSubmit ring p => some (ring, p)
  | .jobCancel ring p => some (ring, p)
  | .ringCredit ring p => some (ring, p)
  | .maintEcho ring p => some (ring, p)
  | .maintPeek ring p => some (ring, p)
  | .maintErrInject ring p => some (ring, p)
  | .maintCountersClear ring p => some (ring, p)
  | _ => none

/-- Two states differ at most in the rings and their replies, the interrupt wire, what has been sent, the link's
power state, and what R11 notes of this fc: what answering a command may change. -/
def SameButReplies (s t : State) : Prop := 
  t = { s with cmd := t.cmd, glb := t.glb, out := t.out, link := t.link, cyc := t.cyc }

/-- A command with this ring and tag waits for a cause, and no reply to it has been written (R36). -/
def Waits (t : State) (ring : BitVec 6) (tag : BitVec 16) (cause : WaitCause) : Prop :=
  ∃ o ∈ t.cmd.outstanding, o.ring = ring ∧ o.tag = tag ∧ o.cause = cause

/-- One fault record more stands in the staging ring: its code and its scope, under the SEQ that was next (R300, R302). -/
def Records (s t : State) (code : BitVec 16) (scope : Byte) : Prop :=
  ∃ r, t.flt.staging = s.flt.staging ++ [r] ∧ r.code = code ∧ r.scope = scope ∧ r.seq = s.flt.nextSeq
    ∧ t.flt.lastSeq = s.flt.nextSeq ∧ t.flt.nextSeq = nextSeqAfter s.flt.nextSeq

/-- A compute reset starts (R305, R307): a record of SCOPE 4 with its capture set, and every core, timed channel and
action stops. -/
def ResetStarts (s t : State) (code : BitVec 16) : Prop :=
  Records s t code 4 ∧ (∃ x, t.flt.reset = some x ∧ x.at_ = s.now) ∧ t.flt.captures.length = s.flt.captures.length + 1
    ∧ t.bell.actions = [] ∧ t.mem.timed = [] ∧ (∀ e ∈ t.cores, e.2.busy = false ∧ e.2.seq.stopped = true)

/-! ## Tile instructions -/

/-- The core and the word of a row that a core sequencer executes (R217, R220). -/
def tileCmd : Instr → Option (BitVec 7 × BitVec 128)
  | .wloadWeights core w => some (core, w)
  | .wloadScales core w => some (core, w)
  | .matmul core w => some (core, w)
  | .conv core w => some (core, w)
  | .pool core w => some (core, w)
  | .crop core w => some (core, w)
  | .vecRequantise core w => some (core, w)
  | .vecAdd core w => some (core, w)
  | .vecSubtract core w => some (core, w)
  | .vecMultiply core w => some (core, w)
  | .vecFusedMultiplyAdd core w => some (core, w)
  | .vecMinimum core w => some (core, w)
  | .vecMaximum core w => some (core, w)
  | .vecCompare core w => some (core, w)
  | .vecSelect core w => some (core, w)
  | .vecRelu core w => some (core, w)
  | .vecClip core w => some (core, w)
  | .vecLeakyRelu core w => some (core, w)
  | .vecShift core w => some (core, w)
  | .vecConversion core w => some (core, w)
  | .vecDivide core w => some (core, w)
  | .vecReciprocal core w => some (core, w)
  | .vecSquareRoot core w => some (core, w)
  | .vecReciprocalSquareRoot core w => some (core, w)
  | .vecExp core w => some (core, w)
  | .vecExp2 core w => some (core, w)
  | .vecLog core w => some (core, w)
  | .vecLog2 core w => some (core, w)
  | .vecSigmoid core w => some (core, w)
  | .vecTanh core w => some (core, w)
  | .vecSoftplus core w => some (core, w)
  | .vecSilu core w => some (core, w)
  | .vecGelu core w => some (core, w)
  | .vecSoftmax core w => some (core, w)
  | .vecLayerNormalisation core w => some (core, w)
  | .vecSum core w => some (core, w)
  | .vecAxisMaximum core w => some (core, w)
  | .vecAxisMinimum core w => some (core, w)
  | .vecArgmax core w => some (core, w)
  | .vecTopK core w => some (core, w)
  | .vecDepthwiseConvolution core w => some (core, w)
  | .vecResampling core w => some (core, w)
  | .vecRepacking core w => some (core, w)
  | .vecTranspose core w => some (core, w)
  | .vecConcatenation core w => some (core, w)
  | .vecSplit core w => some (core, w)
  | .vecBoxDecoding core w => some (core, w)
  | .vecNonMaximumSuppression core w => some (core, w)
  | .syncEnd core w => some (core, w)
  | .syncSteps core w => some (core, w)
  | .syncQuiet core w => some (core, w)
  | .syncMarks core w => some (core, w)
  | .syncParam core w => some (core, w)
  | .claim core w => some (core, w)
  | .dmaIn core w => some (core, w)
  | .dmaOut core w => some (core, w)
  | _ => none

/-- The issue checks that apply to a word after those of rule 1 (R223). -/
def checksOf (w : Nat) : List Check :=
  match insnOp w with
  | 1 => checkWload
  | 2 => checkMatmul
  | 3 => checkConv
  | 4 => checkPool
  | 5 => checkCrop
  | 6 => checkVec
  | 8 => checkClaim
  | 9 => checkDma
  | _ => []

/-- Whether an instruction that passed its checks need not wait: for a fill mark (R219), or for the units that SYNC END or
SYNC QUIET names (R218, R227). -/
def issues (s : State) (n w : Nat) : Bool :=
  match insnOp w with
  | 1 => wloadReady s n w
  | 2 => amarkOk s n (bitsOf w 77 75) (matmulEnd s n w)
  | 3 => amarkOk s n (bitsOf w 77 75) (convEnd s n w)
  | 4 => amarkOk s n (bitsOf w 60 58) (poolSrc s n w + poolBlocks w * (poolGeo s n w).bandH * (poolGeo s n w).row)
  | 6 => vecReady s n w
  | 7 => if bitsOf w 10 8 = 1 then endReady s n w else if bitsOf w 10 8 = 3 then quietReady s n w else true
  | _ => true

/-- Core `n` runs a tile program. -/
def Runs (s : State) (n : Nat) : Prop :=
  (coreAt s n).powered = true ∧ (coreAt s n).ready = true ∧ (coreAt s n).busy = true ∧ (coreAt s n).seq.stopped = false ∧
    s.flt.reset = none

/-- Core `n` runs, and its next word is `w`, without error. -/
def AtWord (s : State) (n w : Nat) : Prop :=
  Runs s n ∧ (coreAt s n).seq.pc ≤ 4095 ∧ w < 2 ^ 128 ∧
    getAt (0 : BitVec 128) (coreAt s n).seq.pc (coreAt s n).prog = BitVec.ofNat 128 w ∧
    ∀ j, j < 4 → coreSyn (coreAt s n) 6 (16 * (coreAt s n).seq.pc + 4 * j) = 0

/-- The word is valid, passes every issue check, and issues at once. -/
def Issues (s : State) (n w : Nat) : Prop :=
  AtWord s n w ∧ badField w = none ∧ firstBad s n w (checksOf w) = none ∧ issues s n w = true

/-- The instruction fault of R224: FURROW_INSN and BELL_HANG, and the compute reset that follows. -/
def FaultsWith (s t : State) (n op res amount : Nat) : Prop :=
  (coreAt t n).insn = { valid := true, op := BitVec.ofNat 4 op, res := BitVec.ofNat 4 res,
                        pc := BitVec.ofNat 12 (coreAt s n).seq.pc, amount := BitVec.ofNat 32 amount,
                        tn := BitVec.ofNat 16 (coreAt s n).seq.tn } ∧
    (coreAt t n).seq.stopped = true ∧ t.bell.hang.valid = true ∧ t.bell.hang.kind = 0 ∧
    t.bell.hang.index = BitVec.ofNat 8 (n / 8) ∧ t.bell.hang.cores = BitVec.ofNat 8 (2 ^ (n % 8)) ∧
    (s.pwr.exit_ = none → ResetStarts s t (BitVec.ofNat 16 (0x200 + res)))

/-- Where the sequencer goes after an instruction: the next word, or the CLAIM whose loop body ends (R229). -/
def nextPc (q : CoreSeq) : Nat :=
  match q.loop with
  | some l => if q.pc + 1 = l.pc + l.body + 1 then l.pc else q.pc + 1
  | none => q.pc + 1

/-- Nothing but core `n` has changed, and what R11 and R207 note of it: the fields that the hardware set in this fc, and
the units that met poison. -/
def OnlyCore (s t : State) (n : Nat) : Prop :=
  t = { s with cores := t.cores, cyc := t.cyc, bell := { s.bell with met := t.bell.met } } ∧
    ∀ m, m ≠ n → coreAt t m = coreAt s m

/-- No memory of the core holds an error, and its buffers are in canonical form. -/
def CoreClean (c : Core) : Prop :=
  c.syn = [] ∧ c.act.wf = true ∧ c.wgt.wf = true ∧ (∀ a, memSyn c.act a = 0) ∧ (∀ a, memSyn c.wgt a = 0)

/-- Element `j` of the block at byte address `b` of the activation buffer (R170). -/
def actElem (c : Core) (f : Fmt) (b j : Nat) : Nat :=
  bitsOf (memWord c.act (elemWord f b j)).toNat (j * fmtBits f % 32 + fmtBits f - 1) (j * fmtBits f % 32)

/-- An element that a feeder takes: from the activation buffer, or a padding code (R176). -/
def srcElem (c : Core) (f : Fmt) (b : BlockSrc) (j : Nat) : Nat :=
  match b with
  | .mem a => actElem c f a j
  | .pad v => v % 2 ^ fmtBits f

/-- Element `k` of the first source of a VEC with its format: of the activation buffer, or of the accumulator (R220). -/
def vecElem (s : State) (n w k : Nat) : Fmt × Nat :=
  let c := coreAt s n
  if vecAcc w then
    let r := accRow c (bitsOf w 72 71 * 256 + vecAccRow w + k / 64)
    (if r.fp then 7 else 8, ((accVals r).getD (k % 64) 0).toNat)
  else (fmtIn w, actElem c (fmtIn w) (vecA s n w) k)

/-- The bytes of the activation buffer that a VEC writes: start and end of each range. -/
def vecDests (s : State) (n w : Nat) : List (Nat × Nat) :=
  let d := vecDst s n w
  let f := vecFunc w
  if f = 0x41 then [(vecA s n w, vecA s n w + 32 + 32 * bufCap s n (vecA s n w))]
  else if f = 0x40 then [(d, d + 32 + 32 * bufCap s n d)]
  else if f = 0x2C then [(d, d + flatBytes (fmtOut w) (2 * reduceOuts w * (vecImm w + 1)))]
  else if f = 0x28 ∨ f = 0x29 ∨ f = 0x2A ∨ f = 0x2B then [(d, d + flatBytes (fmtOut w) (reduceOuts w))]
  else if f = 0x3B then [(d, d + dimsBytes (dimsOut s n w)), (vecB s n w, vecB s n w + dimsBytes (dimsSecond s n w))]
  else if isTensorFunc w then [(d, d + dimsBytes (dimsOut s n w))]
  else [(d, d + flatBytes (fmtOut w) (vecTotal w))]

end Sys2Proof.Machine
end

