-- ==== Sys2Proof/WellFormed.lean ====
section
/-! DEFINITION. WellFormed.lean: which commands are well formed: the packet, register value or tile word that a command
carries is one of its own row of spec/opcode_table.json (R38, R29, R380, R220). Every other operand may hold anything:
what a value outside its field's range does is the device's answer (R32, R223), and belongs to the meanings. -/

namespace Sys2Proof

/-- Byte `k` of a packet's parameters, counted from packet offset 8 (R31), under a mask. -/
def selector (p : Packet) (k mask : Nat) : Nat := p.params.toNat / 2 ^ (8 * k) % 256 &&& mask

/-- OP of a tile instruction (R220). -/
def tileOp (w : BitVec 128) : Nat := w.toNat % 16

/-- The field of `n` bits from bit `lo` of a tile instruction. -/
def tileField (w : BitVec 128) (lo n : Nat) : Nat := w.toNat / 2 ^ lo % 2 ^ n

/-- The operand belongs to the command's row. -/
def wellFormed : Instr → Bool
  | .identify _ p => p.opcode == 0x01
  | .telemetryRead _ p _ => p.opcode == 0x02
  | .faultLogRead _ p => p.opcode == 0x03
  | .portConfigPort _ p => p.opcode == 0x06 && selector p 0 0xFF == 0
  | .portConfigDatagram _ p => p.opcode == 0x06 && selector p 0 0xFF == 1
  | .streamOpen _ p => p.opcode == 0x08
  | .streamAdmit _ p _ _ => p.opcode == 0x09
  | .streamClose _ p => p.opcode == 0x0A
  | .streamQuery _ p => p.opcode == 0x0B
  | .keyLoad _ p _ => p.opcode == 0x0C
  | .sheafDefine _ p => p.opcode == 0x0D
  | .sheafDissolve _ p => p.opcode == 0x0E
  | .shedRankSet _ p => p.opcode == 0x0F
  | .networkLoad _ p _ _ => p.opcode == 0x10
  | .networkUnload _ p => p.opcode == 0x11
  | .roundConfig _ p => p.opcode == 0x12
  | .clipRequest _ p _ => p.opcode == 0x14
  | .clipCancel _ p => p.opcode == 0x15
  | .selftestRequest _ p => p.opcode == 0x18
  | .serviceRestore _ p => p.opcode == 0x19
  | .recessEnter _ p => p.opcode == 0x1C
  | .recessExit _ p => p.opcode == 0x1D
  | .recessExitRoundStart => true
  | .fwStageBailiff _ p _ _ => p.opcode == 0x20 && selector p 12 1 == 0
  | .fwStagePatch _ p _ _ => p.opcode == 0x20 && selector p 12 1 == 1
  | .fwArmBailiff _ p => p.opcode == 0x21 && selector p 0 1 == 0
  | .fwArmPatch _ p => p.opcode == 0x21 && selector p 0 1 == 1
  | .fwActivate _ p => p.opcode == 0x22 && selector p 0 0xFF == 0
  | .fwDisarm _ p => p.opcode == 0x22 && selector p 0 0xFF == 1
  | .quiesceTimeout => true
  | .bootLoadComplete _ => true
  | .auPush _ p => p.opcode == 0x40
  | .auPushComplete _ _ _ => true
  | .jobSubmit _ p => p.opcode == 0x41
  | .jobCancel _ p => p.opcode == 0x42
  | .ringCredit _ p => p.opcode == 0x48
  | .maintEcho _ p => p.opcode == 0x80
  | .maintPeek _ p => p.opcode == 0x81
  | .maintErrInject _ p => p.opcode == 0x82
  | .maintCountersClear _ p => p.opcode == 0x83
  | .replyDeadline _ _ => true
  | .doorbellWrite _ _ => true
  | .ringEnable _ _ cfg => cfg.getLsbD 0
  | .ringDisable _ _ cfg => !cfg.getLsbD 0
  | .registerWrite offset _ be => be.extractLsb' 4 4 == 0#4 || !offset.getLsbD 2
  | .registerReadClear r => !r.both || !r.offset.getLsbD 2
  | .hostAccessWake _ _ => true
  | .recessDomainRevert _ => true
  | .tlbInvalidate _ => true
  | .fwConfirm value => value.getLsbD 0
  | .fwReject value => value.getLsbD 1
  | .bar2Read _ _ => true
  | .bar2Write _ _ => true
  | .pcieRequestUnsupported _ => true
  | .poisonedWrite _ _ => true
  | .hostReadCompletion _ _ _ => true
  | .completionTimeout _ _ => true
  | .parkRecordAction _ => true
  | .dmaGranuleLand _ _ => true
  | .intCoalTimer => true
  | .interruptDisableWrite _ => true
  | .flr => true
  | .flrComplete => true
  | .d3hotEntry _ => true
  | .d0Return _ => true
  | .pmeTurnOff => true
  | .l0sEntry _ => true
  | .l1Request _ => true
  | .linkLoss => true
  | .linkReturnL0 => true
  | .refclkLost => true
  | .perstAssert => true
  | .perstDeassert _ => true
  | .bootComplete => true
  | .presenceLost => true
  | .presenceRestored => true
  | .attnBtnPress => true
  | .mainPwrgdRise => true
  | .mainPwrgdFall => true
  | .aonPowerUp => true
  | .railFault _ => true
  | .brownout => true
  | .aonFullReached => true
  | .syncInEdge => true
  | .thermalSample _ => true
  | .thermalShedTimer => true
  | .thermalTrip => true
  | .frameReceive _ _ => true
  | .pauseFrame _ _ => true
  | .controlPacket _ _ => true
  | .reorderWaitExpiry _ => true
  | .portLinkChange _ _ => true
  | .truantTimeout _ => true
  | .slipRollCall _ => true
  | .relockRollCall _ => true
  | .stashMove => true
  | .poolStage3Shed => true
  | .decodePicture _ _ => true
  | .decodeWatchdog _ => true
  | .prepareInput _ _ _ _ _ => true
  | .prepWatchdog _ => true
  | .slotIssue => true
  | .coreReady _ => true
  | .unitFinish _ _ => true
  | .actionHang _ => true
  | .wakeTimeout _ => true
  | .roundBoundary => true
  | .fallowSlot _ => true
  | .hbmRefresh _ p => p.levels.all fun e => decide (e.1 < 51)
  | .patrolScrub _ => true
  | .substituteCopy _ => true
  | .timetableMarkComplete _ _ _ => true
  | .timetableCheckComplete _ => true
  | .standbyRebuild => true
  | .engineRebind _ _ => true
  | .rows _ => true
  | .apply _ _ => true
  | .emit _ => true
  | .recordEgress _ => true
  | .datagramSend _ => true
  | .nextHopResolved _ => true
  | .wloadWeights _ w => tileOp w == 1 && tileField w 8 2 == 0
  | .wloadScales _ w => tileOp w == 1 && tileField w 8 2 == 1
  | .matmul _ w => tileOp w == 2
  | .conv _ w => tileOp w == 3
  | .pool _ w => tileOp w == 4
  | .crop _ w => tileOp w == 5
  | .vecRequantise _ w => tileOp w == 6 && tileField w 8 8 == 0x00
  | .vecAdd _ w => tileOp w == 6 && tileField w 8 8 == 0x01
  | .vecSubtract _ w => tileOp w == 6 && tileField w 8 8 == 0x02
  | .vecMultiply _ w => tileOp w == 6 && tileField w 8 8 == 0x03
  | .vecFusedMultiplyAdd _ w => tileOp w == 6 && tileField w 8 8 == 0x04
  | .vecMinimum _ w => tileOp w == 6 && tileField w 8 8 == 0x05
  | .vecMaximum _ w => tileOp w == 6 && tileField w 8 8 == 0x06
  | .vecCompare _ w => tileOp w == 6 && tileField w 8 8 == 0x08
  | .vecSelect _ w => tileOp w == 6 && tileField w 8 8 == 0x09
  | .vecRelu _ w => tileOp w == 6 && tileField w 8 8 == 0x0A
  | .vecClip _ w => tileOp w == 6 && tileField w 8 8 == 0x0B
  | .vecLeakyRelu _ w => tileOp w == 6 && tileField w 8 8 == 0x0C
  | .vecShift _ w => tileOp w == 6 && tileField w 8 8 == 0x0D
  | .vecConversion _ w => tileOp w == 6 && tileField w 8 8 == 0x10
  | .vecDivide _ w => tileOp w == 6 && tileField w 8 8 == 0x11
  | .vecReciprocal _ w => tileOp w == 6 && tileField w 8 8 == 0x12
  | .vecSquareRoot _ w => tileOp w == 6 && tileField w 8 8 == 0x13
  | .vecReciprocalSquareRoot _ w => tileOp w == 6 && tileField w 8 8 == 0x14
  | .vecExp _ w => tileOp w == 6 && tileField w 8 8 == 0x18
  | .vecExp2 _ w => tileOp w == 6 && tileField w 8 8 == 0x19
  | .vecLog _ w => tileOp w == 6 && tileField w 8 8 == 0x1A
  | .vecLog2 _ w => tileOp w == 6 && tileField w 8 8 == 0x1B
  | .vecSigmoid _ w => tileOp w == 6 && tileField w 8 8 == 0x1C
  | .vecTanh _ w => tileOp w == 6 && tileField w 8 8 == 0x1D
  | .vecSoftplus _ w => tileOp w == 6 && tileField w 8 8 == 0x1E
  | .vecSilu _ w => tileOp w == 6 && tileField w 8 8 == 0x1F
  | .vecGelu _ w => tileOp w == 6 && tileField w 8 8 == 0x20
  | .vecSoftmax _ w => tileOp w == 6 && tileField w 8 8 == 0x21
  | .vecLayerNormalisation _ w => tileOp w == 6 && tileField w 8 8 == 0x22
  | .vecSum _ w => tileOp w == 6 && tileField w 8 8 == 0x28
  | .vecAxisMaximum _ w => tileOp w == 6 && tileField w 8 8 == 0x29
  | .vecAxisMinimum _ w => tileOp w == 6 && tileField w 8 8 == 0x2A
  | .vecArgmax _ w => tileOp w == 6 && tileField w 8 8 == 0x2B
  | .vecTopK _ w => tileOp w == 6 && tileField w 8 8 == 0x2C
  | .vecDepthwiseConvolution _ w => tileOp w == 6 && tileField w 8 8 == 0x30
  | .vecResampling _ w => tileOp w == 6 && tileField w 8 8 == 0x31
  | .vecRepacking _ w => tileOp w == 6 && tileField w 8 8 == 0x38
  | .vecTranspose _ w => tileOp w == 6 && tileField w 8 8 == 0x39
  | .vecConcatenation _ w => tileOp w == 6 && tileField w 8 8 == 0x3A
  | .vecSplit _ w => tileOp w == 6 && tileField w 8 8 == 0x3B
  | .vecBoxDecoding _ w => tileOp w == 6 && tileField w 8 8 == 0x40
  | .vecNonMaximumSuppression _ w => tileOp w == 6 && tileField w 8 8 == 0x41
  | .syncEnd _ w => tileOp w == 7 && tileField w 8 3 == 1
  | .syncSteps _ w => tileOp w == 7 && tileField w 8 3 == 2
  | .syncQuiet _ w => tileOp w == 7 && tileField w 8 3 == 3
  | .syncMarks _ w => tileOp w == 7 && tileField w 8 3 == 4
  | .syncParam _ w => tileOp w == 7 && tileField w 8 3 == 5
  | .claim _ w => tileOp w == 8
  | .dmaIn _ w => tileOp w == 9 && !w.getLsbD 38
  | .dmaOut _ w => tileOp w == 9 && w.getLsbD 38
  | .fabricError _ => true
  | .computeResetComplete => true
  | .resetTimeout => true
  | .faultLogCopy => true
  | .engineIdleOff _ _ => true
  | .offReq _ _ => true
  | .wakeReq _ => true
  | .ack _ => true
  | .delay _ _ _ => true
  | .refuse _ _ => true
  | .ready _ => true
  | .delayExpired _ => true
  | .clipStart => true
  | .clipDecodePicture _ _ => true
  | .clipEncodePicture _ _ _ _ => true
  | .clipPacketSend _ => true
  | .encWatchdog _ => true
  | .aliveTimeout => true
  | .firewallBlock _ => true
  | .mgmtSramError => true
  | .confirmRequest => true
  | .trialTimeout => true
  | .getVersion => true
  | .getCapabilities => true
  | .negotiateAlgorithms => true
  | .getDigests => true
  | .getCertificate _ _ _ => true
  | .challenge _ _ => true
  | .getMeasurements _ => true
  | .spdmUnsupportedRequest _ => true
  | .doeAbort => true
  | .clkreqLinkExit => true
  | .refclkReturn => true
  | .brownoutRecovery => true
  | .remainingBlockLoad _ _ => true

end Sys2Proof
end

