-- ==== Sys2Proof/Certificates/Slice0/Obligations.lean ====
section
/-! DEFINITION. Certificates/Slice0/Obligations.lean: the statements about the machine that the provers settle. -/

open Sys2Proof Sys2Proof.Machine

/-! ## The queue and every command -/

/-- A step takes the command at the front of the queue and runs it with the queue's rest.
On an empty queue one fast cycle passes: time advances by one fc; BE_FC and WAKE_STALL count it; where the new instant is
a management step boundary the counts of every stream are sampled (R45, R340); a port whose PAUSE has ended sends
what waited (R86). Nothing else changes. That the empty queue passes a cycle is the model's choice:
notes/assumptions/5.md. -/
def Obligations.StepRunsTheFrontCommandOrPassesACycle : Prop :=
  (∀ (s : State) (c : Instr) (rest : List Instr),
      step { s with pending := c :: rest } = exec c { s with pending := rest }) ∧
  (∀ s : State, s.pending = [] → ∃ t, step s = .next t ∧ t.now = s.now + 1 ∧
      t = { s with now := t.now, bell := { s.bell with beFc := t.bell.beFc, wakeStall := t.bell.wakeStall },
                   streams := t.streams, tel := { s.tel with sample := t.tel.sample },
                   pwr := { s.pwr with stallStep := t.pwr.stallStep }, ports := t.ports, out := t.out, cyc := t.cyc } ∧
      t.bell.beFc = satAdd s.bell.beFc (b2n (s.bell.actions.any fun a => a.job.isSome)) ∧
      t.bell.wakeStall = satAdd s.bell.wakeStall (b2n (wakeWaits s)) ∧
      (t.now % 1000000 ≠ 0 → t.streams = s.streams ∧ t.tel = s.tel ∧ t.pwr = s.pwr) ∧
      (t.now % 1000000 = 0 → t.tel.sample.step = mgmtStep t ∧ t.pwr.stallStep = 0 ∧
        ∀ c, (findAt c s.streams).isSome → streamAt t c = { streamAt s c with sampled := (streamAt s c).cnt }) ∧
      (∀ n < 2, (portAt s n).held = [] ∨ t.now < (portAt s n).pauseUntil → portAt t n = portAt s n) ∧
      ((∀ n < 2, (portAt s n).held = [] ∨ t.now < (portAt s n).pauseUntil) → t.out = s.out))

/-- A command whose packet, register value or tile word is one of its own row always answers a next state.
A command never answers a refusal, and its only fault is the one of an operand that belongs to another row. -/
def Obligations.CommandsCompleteUnlessForeign : Prop :=
  (∀ (c : Instr) (s : State), wellFormed c = true → ∃ t, exec c s = .next t) ∧
  (∀ (c : Instr) (s : State), (∃ t, exec c s = .next t) ∨ (exec c s = .fault .notThisCommand ∧ wellFormed c = false))

/-! ## Packets -/

/-- R32: the status of the first check that fails, in the order of the rule; `none` when all six pass.
R32: a packet that fails a check is fetched and answered, and has no other effect: the rings and their replies, the
interrupt wire, what has been sent and the link's power state are all that can differ. -/
def Obligations.PacketChecksRunInOrderAndAlone : Prop :=
  (∀ (s : State) (ring : BitVec 6) (p : Packet),
      let want := getAt 0 p.opcode.toNat paramLength
      let badLength := if p.opcode = 0x80 then 56 < p.length.toNat else p.length.toNat ≠ want
      (tagBusy s ring p.tag = true → packetCheck s ring p = some (failWith 0x0102 0)) ∧
      (tagBusy s ring p.tag = false →
        (assignedOp p.opcode = false → packetCheck s ring p = some (failWith 0x0100 0)) ∧
        (assignedOp p.opcode = true →
          (maintOp p.opcode = true ∧ s.cmd.maintEn = false → packetCheck s ring p = some (failWith 0x0103 0)) ∧
          (maintOp p.opcode = false ∨ s.cmd.maintEn = true →
            (badLength → packetCheck s ring p = some (failWith 0x0101 want)) ∧
            (¬ badLength →
              let h1 := p.flags.toNat &&& 0xFC ≠ 0 ∨ (pktQuiet p = true ∧ mgmtOpcode p.opcode = true)
              let h4 := (namesStream p.opcode = false ∧ p.ctx ≠ 0) ∨ p.ctx.toNat &&& 0xF000 ≠ 0
              let h7 := p.rsv ≠ 0
              (h1 → packetCheck s ring p = some (failWith 0x0100 1)) ∧
              (¬ h1 → h4 → packetCheck s ring p = some (failWith 0x0100 4)) ∧
              (¬ h1 → ¬ h4 → h7 → packetCheck s ring p = some (failWith 0x0100 7)) ∧
              (¬ h1 → ¬ h4 → ¬ h7 →
                (∀ o, ((paramVerdicts p).find? (·.2)).map (·.1) = some o →
                  packetCheck s ring p = some (failWith 0x0100 o) ∧ ∀ e ∈ paramVerdicts p, e.2 = true → o ≤ e.1) ∧
                ((∀ e ∈ paramVerdicts p, e.2 = false) → packetCheck s ring p = none) ∧
                (∀ i, p.length.toNat ≤ i → i < 56 → param p (8 + i) 1 ≠ 0 → packetCheck s ring p ≠ none))))))) ∧
  (∀ (c : Instr) (ring : BitVec 6) (p : Packet) (s : State) (r : Reply),
      packetOf c = some (ring, p) → wellFormed c = true → queuedAs s ring p = none → fetchable s ring p = true →
      packetCheck s ring p = some r →
      exec c s = .next (answer (fetchedOf s ring p) r (fetch ring s)) ∧
        SameButReplies s (answer (fetchedOf s ring p) r (fetch ring s)))

/-- R25, R28, R33, R37: a packet that may not be fetched leaves the machine as it is: the ring is disabled or empty, 64
replies are held and it is no RING_CREDIT, an earlier packet of the ring has no final reply and FENCE is set, or 256
management commands are outstanding.
R51: a management packet that passes the checks of R32 while an earlier one of its ring still executes is fetched
and queued; it has no effect yet. -/
def Obligations.PacketsWaitUntilFetchedAndExecuted : Prop :=
  (∀ (c : Instr) (ring : BitVec 6) (p : Packet) (s : State),
      packetOf c = some (ring, p) → wellFormed c = true → queuedAs s ring p = none →
      let q := sqAt s ring.toNat
      (q.enable = false ∨ q.head = q.tail ∨ (64 ≤ (cqAt s q.cqSel.toNat).held.length ∧ p.opcode ≠ 0x48) ∨
        (pktFence p = true ∧ ringBusy s ring = true) ∨ (mgmtOpcode p.opcode = true ∧ 256 ≤ mgmtOutstanding s)) →
      exec c s = .next s) ∧
  (∀ (c : Instr) (ring : BitVec 6) (p : Packet) (s : State) (o : Outstanding),
      packetOf c = some (ring, p) → wellFormed c = true → queuedAs s ring p = none → fetchable s ring p = true →
      packetCheck s ring p = none → mgmtOpcode p.opcode = true → p.opcode ≠ 0x0A → p.opcode ≠ 0x22 →
      o ∈ s.cmd.outstanding → o.ring = ring → executing o = true →
      exec c s = .next (wait_ (fetchedOf s ring p) (.queued p) (fetch ring s)) ∧
        Waits (wait_ (fetchedOf s ring p) (.queued p) (fetch ring s)) ring p.tag (.queued p))

/-- R27, R35: with no command of the ring ahead of it and a credit held, a reply is written at once: 32 bytes at TAIL of
the bound completion ring, with the phase of this pass; one credit is used, TAIL advances, and the phase inverts where
TAIL wraps.
Answering a command changes the rings, the interrupt wire, what has been sent and the link's power state, and
nothing else: no stream, network, clip, job, memory, fault record, power domain or firmware state.
R36: at the deadline of a management or maintenance command without a final reply, exactly one interim reply is
written: INTERIM set, ST_PENDING_LATE, ROUND 0xFFFF_FFFF. Before the deadline, and for a command that has had its interim
reply, nothing happens.
Completes: replyDeadline. -/
def Obligations.RepliesTakeOneCreditAndChangeNothingElse : Prop :=
  (∀ (f : Fetched) (r : Reply) (s : State),
      let n := (sqAt s f.ring.toNat).cqSel.toNat
      let c := cqAt s n
      (∀ o ∈ s.cmd.outstanding, o.ring ≠ f.ring) → (f.quiet = true → mgmtOpcode f.opcode = true ∨ r.status ≠ 0) →
      c.held = [] → cqReady s n = true →
      let t := answer f r s
      let last := c.tail + 1 = 2 ^ c.sizeLog2.toNat
      (∃ b : List Byte, b.length = 32 ∧
          b.take 5 = leBytes 2 f.tag.toNat ++ leBytes 2 r.status.toNat ++ [f.opcode] ∧
          b.getD 5 0 = BitVec.ofNat 8 (f.ring.toNat + 64 * b2n r.interim + 128 * b2n c.phase) ∧
          .hostWrite (BitVec.ofNat 64 (c.base.toNat + 32 * c.tail)) b ∈ t.out) ∧
        (cqAt t n).credit + 1 = c.credit ∧
        (cqAt t n).tail = (if last then 0 else c.tail + 1) ∧
        (cqAt t n).phase = (if last then !c.phase else c.phase) ∧
        t.cmd.outstanding = s.cmd.outstanding) ∧
  (∀ (f : Fetched) (r : Reply) (s : State), SameButReplies s (answer f r s) ∧ (answer f r s).link.command = s.link.command
      ∧ (answer f r s).glb.mask = s.glb.mask ∧ (answer f r s).glb.ready = s.glb.ready) ∧
  (∀ (s : State) (ring : BitVec 6) (tag : BitVec 16),
      ((∀ o ∈ s.cmd.outstanding, o.ring = ring → o.tag = tag → mgmtOpcode o.opcode = true →
          o.interim = true ∨ s.now < o.deadline) →
        exec (.replyDeadline ring tag) s = .next s) ∧
      (∀ o, s.cmd.outstanding = [o] → o.ring = ring → o.tag = tag → mgmtOpcode o.opcode = true → o.interim = false →
        o.deadline ≤ s.now →
        let u : State := { s with cmd := { s.cmd with outstanding := [{ o with interim := true }] } }
        ∃ r : Reply, r.status = 1 ∧ r.interim = true ∧ r.round = 0xFFFFFFFF ∧ r.tag = tag ∧ r.ring = ring ∧ r.late = false ∧
          exec (.replyDeadline ring tag) s = .next (pushReply r u)))

/-! ## Rings and doorbells -/

/-- R26: a doorbell write publishes its packets; one to a disabled ring, with a tail not below the ring size, or that
publishes more than (size - 1) packets is ignored: packets already published are unaffected, DOORBELL_REFUSED and the
ring stand in CMD_ERR, and the CMD_ERR cause of GLB is raised.
Completes: doorbellWrite. -/
def Obligations.DoorbellPublishesOrIsRefused : Prop :=
  ∀ (s : State) (offset : BitVec 16) (value : Word), hostAccess s = true →
    let n : BitVec 6 := BitVec.ofNat 6 (offset.toNat / 0x400)
    let q := sqAt s n.toNat
    let size := 2 ^ q.sizeLog2.toNat
    let tail := value.toNat % 0x10000
    let fresh := (tail + size - q.tail) % size
    let before := (q.tail + size - q.head) % size
    (offset.toNat % 0x400 ≠ 0 → exec (.doorbellWrite offset value) s = .next s) ∧
    (offset.toNat % 0x400 = 0 →
      (q.enable = true ∧ tail < size ∧ before + fresh ≤ size - 1 →
        exec (.doorbellWrite offset value) s =
          .next (setSq n.toNat { q with tail, times := q.times ++ List.replicate fresh (s.now, fullTime s q.cqSel.toNat) } s)) ∧
      (q.enable = false ∨ size ≤ tail ∨ size - 1 < before + fresh →
        ∃ t, exec (.doorbellWrite offset value) s = .next t ∧ t.cmd.sq = s.cmd.sq ∧ t.cmd.doorbellRefused = true ∧
          t.cmd.errRing = n ∧ t.cmd.errKind = 0 ∧ (intCause t).getLsbD 2 = true ∧ SameButReplies s t))

/-- R24, R29: a CFG write that sets ENABLE takes SIZE_LOG2 and CQ_SEL from that write, resets the indices to 0 and the
phase to 1, and gives a completion or metadata ring as many credits as it has entries; a SIZE_LOG2 out of range leaves
ENABLE 0 and sets BAD_SIZE. Every other ring of the kind is unchanged.
R24: a CFG write that reaches an enabled ring with another SIZE_LOG2 or CQ_SEL discards that value and sets
CFG_WHILE_ENABLED; the ring keeps its size, its binding and its indices.
Completes: ringEnable. -/
def Obligations.RingConfigurationTakesEffectWhileDisabled : Prop :=
  (∀ (s : State) (n : BitVec 6) (w : Word), hostAccess s = true → w.getLsbD 0 = true →
      let size : BitVec 4 := w.extractLsb' 4 4
      ((sqAt s n.toNat).enable = false →
        ∃ t, exec (.ringEnable .submission n w) s = .next t ∧ SameButReplies s t ∧
          (sqAt t n.toNat).sizeLog2 = size ∧ (sqAt t n.toNat).cqSel = w.extractLsb' 8 6 ∧
          (6 ≤ size.toNat → (sqAt t n.toNat).enable = true ∧ (sqAt t n.toNat).head = 0 ∧ (sqAt t n.toNat).tail = 0) ∧
          (size.toNat < 6 → (sqAt t n.toNat).enable = false ∧ t.cmd.badSize = true) ∧
          (∀ m, m ≠ n.toNat → sqAt t m = sqAt s m)) ∧
      ((cqAt s n.toNat).enable = false → (cqAt s n.toNat).held = [] →
        ∃ t, exec (.ringEnable .completion n w) s = .next t ∧ SameButReplies s t ∧
          (cqAt t n.toNat).sizeLog2 = size ∧ (cqAt t n.toNat).intEn = w.getLsbD 14 ∧
          (5 ≤ size.toNat → (cqAt t n.toNat).enable = true ∧ (cqAt t n.toNat).tail = 0 ∧ (cqAt t n.toNat).phase = true ∧
            (cqAt t n.toNat).credit = 2 ^ size.toNat) ∧
          (size.toNat < 5 → (cqAt t n.toNat).enable = false ∧ t.cmd.badSize = true)) ∧
      ((mrAt s n.toNat).enable = false →
        ∃ t, exec (.ringEnable .metadata n w) s = .next t ∧ SameButReplies s t ∧
          (mrAt t n.toNat).sizeLog2 = size ∧ (mrAt t n.toNat).intEn = w.getLsbD 14 ∧
          (5 ≤ size.toNat → (mrAt t n.toNat).enable = true ∧ (mrAt t n.toNat).tail = 0 ∧ (mrAt t n.toNat).phase = true ∧
            (mrAt t n.toNat).credit = 2 ^ size.toNat) ∧
          (size.toNat < 5 → (mrAt t n.toNat).enable = false ∧ t.cmd.badSize = true))) ∧
  (∀ (s : State) (n : BitVec 6) (w : Word), hostAccess s = true → w.getLsbD 0 = true → (sqAt s n.toNat).enable = true →
      (w.extractLsb' 4 4 ≠ (sqAt s n.toNat).sizeLog2 ∨ w.extractLsb' 8 6 ≠ (sqAt s n.toNat).cqSel) →
      ∃ t, exec (.ringEnable .submission n w) s = .next t ∧ sqAt t n.toNat = sqAt s n.toNat ∧
        t.cmd.cfgWhileEnabled = true ∧ t.cmd.errRing = n ∧ t.cmd.errKind = 0 ∧ SameButReplies s t)

/-- R30: clearing ENABLE of a submission ring stops fetching; of a completion ring it is refused while an enabled
submission ring is bound to it or a reply of it is outstanding; of a metadata ring while a stream in OPEN, ADMITTED,
RUNNING, TRUANT or SHED names it. A refused disable leaves ENABLE at 1 and sets DISABLE_BUSY.
Completes: ringDisable. -/
def Obligations.RingDisableStopsOrIsRefused : Prop :=
  ∀ (s : State) (n : BitVec 6) (w : Word), hostAccess s = true → w.getLsbD 0 = false →
    ((sqAt s n.toNat).enable = true →
      ∃ t, exec (.ringDisable .submission n w) s = .next t ∧ (sqAt t n.toNat).enable = false ∧
        (∀ p, fetchable t n p = false) ∧ t.cmd.outstanding = s.cmd.outstanding ∧
        (∀ p, queuedAs t n p = queuedAs s n p) ∧ SameButReplies s t) ∧
    ((cqAt s n.toNat).enable = true →
      let busy := s.cmd.sq.any (fun e => e.2.enable && e.2.cqSel == n) || cqOutstanding s n.toNat
      ∃ t, exec (.ringDisable .completion n w) s = .next t ∧ (cqAt t n.toNat).enable = busy ∧
        (busy = true → t.cmd.disableBusy = true) ∧ SameButReplies s t) ∧
    ((mrAt s n.toNat).enable = true →
      let busy := s.streams.any fun e => e.2.op.mr == n && e.2.state != .closed && e.2.state != .faulted
      ∃ t, exec (.ringDisable .metadata n w) s = .next t ∧ (mrAt t n.toNat).enable = busy ∧
        (busy = true → t.cmd.disableBusy = true) ∧ SameButReplies s t)

/-- R43: RING_CREDIT adds its COUNT to the credits of the ring it names, writes no success reply, and is answered with
ST_CREDIT_OVERFLOW where credits would pass the ring size and with ST_BAD_FIELD, DETAIL 9, where the ring is disabled.
Completes: ringCredit. -/
def Obligations.RingCreditReturnsCredits : Prop :=
  ∀ (s : State) (ring : BitVec 6) (p : Packet), p.opcode = 0x48 → Ready s ring p →
    let f := fetchedOf s ring p
    let u := fetch ring s
    let n := param p 9 1 % 64
    let count := param p 12 4
    (param p 8 1 = 0 →
      ((cqAt s n).enable = false → exec (.ringCredit ring p) s = .next (answer f (failWith 0x0100 9) u)) ∧
      ((cqAt s n).enable = true → 2 ^ (cqAt s n).sizeLog2.toNat < (cqAt s n).credit + count →
        exec (.ringCredit ring p) s = .next (answer f (failWith 0x0305 0) u)) ∧
      ((cqAt s n).enable = true → (cqAt s n).credit + count ≤ 2 ^ (cqAt s n).sizeLog2.toNat → (cqAt s n).held = [] →
        ∃ t, exec (.ringCredit ring p) s = .next t ∧ (cqAt t n).credit = (cqAt s n).credit + count ∧
          t.out = s.out ∧ t.cmd.outstanding = s.cmd.outstanding ∧ SameButReplies s t)) ∧
    (param p 8 1 = 1 →
      ((mrAt s n).enable = false → exec (.ringCredit ring p) s = .next (answer f (failWith 0x0100 9) u)) ∧
      ((mrAt s n).enable = true → 2 ^ (mrAt s n).sizeLog2.toNat < (mrAt s n).credit + count →
        exec (.ringCredit ring p) s = .next (answer f (failWith 0x0305 0) u)) ∧
      ((mrAt s n).enable = true → (mrAt s n).credit + count ≤ 2 ^ (mrAt s n).sizeLog2.toNat →
        ∃ t, exec (.ringCredit ring p) s = .next t ∧ (mrAt t n).credit = (mrAt s n).credit + count ∧
          t.out = s.out ∧ t.cmd.outstanding = s.cmd.outstanding ∧ SameButReplies s t))

/-! ## Commands that report -/

/-- R44: IDENTIFY completes in every device state, Recess and OUT_OF_SERVICE included, and RESULT holds the fields of the
rule: DSTATE, CLASS, UPDATE, BAILIFF_BUILD, PATCH_SVN and NETWORKS; it changes nothing but its reply.
R38, R45, R303, R340: TELEMETRY_READ and STREAM_QUERY write their block and the 128-byte report at ADDR and answer
ST_OK; FAULT_LOG_READ answers the first SEQ copied, the number of records and the next SEQ, and copies from the record
whose SEQ
is ARG on, or all records held where ARG is older than each; each needs only that its packet executes. STREAM_QUERY with
ADDR and BYTES 0 writes nothing.
Completes: identify, telemetryRead, faultLogRead, streamQuery. -/
def Obligations.CommandsThatOnlyReport : Prop :=
  (∀ (s : State) (ring : BitVec 6) (p : Packet), p.opcode = 0x01 → Ready s ring p →
      ∃ r : Reply, exec (.identify ring p) s = .next (answer (fetchedOf s ring p) r (fetch ring s)) ∧
        r.status = 0 ∧ r.interim = false ∧
        r.result.extractLsb' 0 8 = Config.stepping ∧
        r.result.getLsbD 8 = s.pwr.recess ∧ r.result.getLsbD 9 = s.flt.oos ∧ r.result.getLsbD 10 = s.pwr.aonLow ∧
        r.result.getLsbD 11 = (s.pwr.transition != 0) ∧ r.result.extractLsb' 12 4 = 0 ∧
        r.result.extractLsb' 16 8 = BitVec.ofNat 8 (capacityClass s) ∧
        r.result.extractLsb' 24 3 = s.fw.upd ∧ r.result.extractLsb' 27 1 = s.fw.bank ∧
        r.result.extractLsb' 32 32 = (runningImage s).build ∧ r.result.extractLsb' 64 8 = Config.romRevision ∧
        r.result.extractLsb' 72 8 = BitVec.ofNat 8 (runningPatchSvn s) ∧
        r.result.extractLsb' 80 8 = BitVec.ofNat 8 s.nets.length ∧ r.result.extractLsb' 88 8 = 0) ∧
  (∀ (s : State) (ring : BitVec 6) (p : Packet), Ready s ring p →
      let f := fetchedOf s ring p
      let u := fetch ring s
      let addr := param p 8 8
      let bytes := param p 16 4
      let arg := param p 20 4
      (p.opcode = 0x02 → ∀ m, 256 ≤ bytes →
        exec (.telemetryRead ring p m) s =
          .next (answer f {} (hostWrites addr (telemetryBytes m u) (stallRead u)))) ∧
      (p.opcode = 0x0B →
        let c := (p.ctx.setWidth 12).toNat
        (addr = 0 ∧ bytes = 0 →
          exec (.streamQuery ring p) s = .next (answer f (okWith (queryResult u c)) u)) ∧
        (¬ (addr = 0 ∧ bytes = 0) →
          (reportBytes u c).length = 128 ∧
          exec (.streamQuery ring p) s =
            .next (answer f (okWith (queryResult u c)) (hostWrites addr (reportBytes u c) u)))) ∧
      (p.opcode = 0x03 → arg < 2 ^ 31 →
        let l := (recordsFrom s arg).take (bytes / 256)
        ∀ first last : FaultRec, l.head? = some first → l.getLast? = some last →
          exec (.faultLogRead ring p) s =
            .next (answer f (okWith (first.seq.toNat + 2 ^ 32 * l.length + 2 ^ 64 * (nextSeqAfter last.seq).toNat))
              (hostWrites addr (l.flatMap faultBytes) u))) ∧
      (∀ (l m : List FaultRec) (r : FaultRec), faultsHeld s = l ++ r :: m → (∀ x ∈ l, x.seq ≠ r.seq) →
        recordsFrom s r.seq.toNat = r :: m) ∧
      ((∀ r ∈ faultsHeld s, arg < r.seq.toNat ∧ r.seq.toNat ≤ s.flt.lastSeq.toNat) → recordsFrom s arg = faultsHeld s))

/-- R38, R46: MAINT_ECHO answers its first 12 parameter bytes; MAINT_COUNTERS_CLEAR clears the counters of the telemetry
block and nothing else; MAINT_PEEK of an unsealed unit of the powered banks 32 to 47 answers the 8 bytes stored
there when both words are free of error, of a bank that is off zeros, and of a sealed unit zeros, with the fault record of
R20; MAINT_ERR_INJECT waits for the fallow slot, and an address
outside the memory is answered with ST_BAD_FIELD, DETAIL 16.
R316, R319: SELFTEST_REQUEST joins the tests that wait for the fallow slots, is answered at once with outcome 3 where
its unit is retired already, and with ST_RECESS in Recess; SERVICE_RESTORE takes the device back into service unless the
cause is not one it clears, and is answered with ST_STATE where the device is in service.
Completes: selftestRequest, serviceRestore, maintEcho, maintPeek, maintErrInject, maintCountersClear. -/
def Obligations.MaintenanceSelftestAndRestore : Prop :=
  (∀ (s : State) (ring : BitVec 6) (p : Packet), Ready s ring p →
      let f := fetchedOf s ring p
      let u := fetch ring s
      (p.opcode = 0x80 → exec (.maintEcho ring p) s = .next (answer f (okWith (param p 8 12)) u)) ∧
      (p.opcode = 0x83 → exec (.maintCountersClear ring p) s =
        .next (answer f {} { u with pwr := { u.pwr with
          wakes := 0, refusals := 0, stallSince := 0, stallStep := 0, browns := 0, onDie := [0, 0, 0, 0] } })) ∧
      (p.opcode = 0x81 → ∀ o, o = param p 8 8 →
        (bankKept s o = false → sealedUnit s o = false → exec (.maintPeek ring p) s = .next (answer f (okWith 0) u)) ∧
        (sealedUnit s o = true → exec (.maintPeek ring p) s = .next (answer f (okWith 0)
          (recordFault { code := 0x414, scope := 2, unit := unitCode 10 (bankOf o), body := leBytes 4 o } u))) ∧
        (bankKept s o = true → sealedUnit s o = false → 32 ≤ o / 0x800000 → o / 0x800000 < 48 →
          memSyn s.mem.dpa (granaryBase + o) = 0 → memSyn s.mem.dpa (granaryBase + o + 4) = 0 →
          exec (.maintPeek ring p) s = .next (answer f (okWith
            ((memWord s.mem.dpa (granaryBase + o)).toNat + 2 ^ 32 * (memWord s.mem.dpa (granaryBase + o + 4)).toNat)) u))) ∧
      (p.opcode = 0x82 → s.pwr.recess = false →
        (injectOk s p = some 16 → exec (.maintErrInject ring p) s = .next (answer f (failWith 0x100 16) u)) ∧
        (injectOk s p ≠ some 16 → ∃ t, exec (.maintErrInject ring p) s = .next t ∧ Waits t ring p.tag .fallow ∧
          t.mem.inject = s.mem.inject ++ [(p.params, ring, p.tag)] ∧ t.mem.dpa = s.mem.dpa ∧ t.cores = s.cores))) ∧
  (∀ (s : State) (ring : BitVec 6) (p : Packet), Ready s ring p →
      let f := fetchedOf s ring p
      let u := fetch ring s
      (p.opcode = 0x18 →
        (s.pwr.recess = true → exec (.selftestRequest ring p) s = .next (answer f (failWith 0x0201 0) u)) ∧
        (s.pwr.recess = false → (param p 8 1 ≠ 2 ∧ testRetired s (testOf f u) = true) →
          exec (.selftestRequest ring p) s = .next (answer f (okWith 3) u)) ∧
        (s.pwr.recess = false → (param p 8 1 = 2 ∨ testRetired s (testOf f u) = false) →
          ∃ t x, exec (.selftestRequest ring p) s = .next t ∧ Waits t ring p.tag .selftest ∧ t.tests = s.tests ++ [x] ∧
            x.test = param p 8 1 ∧ x.target = param p 10 2 ∧ x.noRetire = decide (param p 9 1 % 2 = 1) ∧ x.ring = ring ∧
            x.tag = p.tag)) ∧
      (p.opcode = 0x19 →
        (s.flt.oos = true → s.flt.oosCause ≠ 0x108 → s.flt.oosCause ≠ 0x405 → s.flt.oosCause ≠ 0x105 →
          exec (.serviceRestore ring p) s =
            .next (answer f {} { u with flt := { u.flt with oos := false, oosPending := false, resetSteps := [] } })) ∧
        (s.flt.oos = false → exec (.serviceRestore ring p) s = .next (answer f (failWith 0x200 0) u))))

/-! ## Streams, sheaves and round settings -/

/-- R40, R47, R79: STREAM_OPEN is accepted only in CLOSED: it records source and addressing, makes no reservation and
changes no other stream and no flow-table entry; SHED_RANK_SET sets the rank of a stream that is not CLOSED or FAULTED;
every other state answers ST_STATE with the state.
R47, R49: STREAM_CLOSE of a stream that holds a reservation waits for a round boundary at which a timetable without
it takes effect, and the stream keeps its state until then; of a stream in CLOSED it is answered with ST_STATE.
Completes: streamOpen, streamClose, shedRankSet. -/
def Obligations.StreamsOpenRankAndClose : Prop :=
  (∀ (s : State) (ring : BitVec 6) (p : Packet), Ready s ring p →
      let f := fetchedOf s ring p
      let u := fetch ring s
      let c := (p.ctx.setWidth 12).toNat
      (p.opcode = 0x08 →
        ((streamAt s c).state = .closed →
          ∃ t, exec (.streamOpen ring p) s = .next t ∧ (streamAt t c).state = .opened ∧
            (streamAt t c).op.source = param p 8 1 ∧ (streamAt t c).op.codec = param p 9 1 ∧
            (streamAt t c).op.ipv6 = (param p 10 1).testBit 0 ∧ (streamAt t c).op.toRing = (param p 10 1).testBit 3 ∧
            (streamAt t c).op.asUdp = (param p 10 1).testBit 4 ∧ (streamAt t c).op.mr = BitVec.ofNat 6 (param p 11 1) ∧
            (streamAt t c).op.dstPort = BitVec.ofNat 16 (param p 12 2) ∧
            (streamAt t c).op.ssrc = BitVec.ofNat 32 (param p 16 4) ∧
            (streamAt t c).op.srcIp = BitVec.ofNat 128 (param p 20 16) ∧
            (streamAt t c).op.dstIp = BitVec.ofNat 128 (param p 36 16) ∧
            (∀ d, d ≠ c → streamAt t d = streamAt s d) ∧ t.flow = s.flow ∧ t.mem = s.mem ∧ t.bell = s.bell) ∧
        ((streamAt s c).state ≠ .closed →
          exec (.streamOpen ring p) s = .next (answer f (failWith 0x0200 (stateCode (streamAt s c).state)) u))) ∧
      (p.opcode = 0x0F →
        ((streamAt s c).state ≠ .closed → (streamAt s c).state ≠ .faulted →
          ∃ t, exec (.shedRankSet ring p) s = .next t ∧ (streamAt t c).shedRank = BitVec.ofNat 16 (param p 8 2) ∧
            (streamAt t c).state = (streamAt s c).state ∧ (∀ d, d ≠ c → streamAt t d = streamAt s d) ∧ t.bell = s.bell ∧
            t.mem = s.mem) ∧
        ((streamAt s c).state = .closed ∨ (streamAt s c).state = .faulted →
          exec (.shedRankSet ring p) s = .next (answer f (failWith 0x0200 (stateCode (streamAt s c).state)) u)))) ∧
  (∀ (s : State) (ring : BitVec 6) (p : Packet), Ready s ring p → p.opcode = 0x0A →
      let c := (p.ctx.setWidth 12).toNat
      ((streamAt s c).state = .closed → exec (.streamClose ring p) s =
        .next (answer (fetchedOf s ring p) (failWith 0x0200 0) (fetch ring s))) ∧
      (holds (streamAt s c).state = true → pendingAdmit s c = none →
        ∃ t, exec (.streamClose ring p) s = .next t ∧ (streamAt t c).state = (streamAt s c).state ∧
          streamAt t c = streamAt s c ∧ Waits t ring p.tag .boundary ∧ t.out = s.out ∧
          (∃ x ∈ t.bell.changes, x.kind = .close (BitVec.ofNat 12 c) ∧ x.cmd = some (ring, p.tag)) ∧
          t.flow = s.flow ∧ t.mem = s.mem ∧ (∀ d, d ≠ c → streamAt t d = streamAt s d)))

/-- R41, R69: STREAM_ADMIT of a stream in OPEN or SHED whose codec carries the profile: where Roll Call refuses, the
stream keeps its state and the reply is ST_ADMIT_REFUSED with DETAIL and RESULT; where it passes, the admission waits for
a round boundary, the stream's pages are taken and no reply is written yet. In Recess, OUT_OF_SERVICE and every other
state it is refused with the status of the rule.
Completes: streamAdmit. -/
def Obligations.StreamAdmitRunsRollCall : Prop :=
  ∀ (s : State) (ring : BitVec 6) (p : Packet) (pages units : List Nat), Ready s ring p → p.opcode = 0x09 →
    let f := fetchedOf s ring p
    let u := fetch ring s
    let c := (p.ctx.setWidth 12).toNat
    let ad := placed u c p pages units
    let verdict := rollCall u (loadsBut u c) { ctx := c, ad := ad, windows := none } (streamAt u c).op (networkEntries p)
    (s.pwr.recess = true → exec (.streamAdmit ring p pages units) s = .next (answer f (failWith 0x0201 0) u)) ∧
    (s.pwr.recess = false → s.flt.oos = true →
      exec (.streamAdmit ring p pages units) s = .next (answer f (failWith 0x0202 0) u)) ∧
    (s.pwr.recess = false → s.flt.oos = false →
      ((streamAt s c).state ≠ .opened → (streamAt s c).state ≠ .shed →
        exec (.streamAdmit ring p pages units) s =
          .next (answer f (failWith 0x0200 (stateCode (streamAt s c).state)) u)) ∧
      ((streamAt s c).state = .opened ∨ (streamAt s c).state = .shed → pendingAdmit s c = none →
        param p 20 1 / 16 = (streamAt s c).op.codec + 1 →
        (∀ d r, verdict = .refuse d r → exec (.streamAdmit ring p pages units) s =
          .next (answer f { status := 0x0300, detail := BitVec.ofNat 8 d, result := BitVec.ofNat 96 r } u)) ∧
        (∀ e, verdict = .pass e → ∃ t, exec (.streamAdmit ring p pages units) s = .next t ∧
          (streamAt t c).state = (streamAt s c).state ∧ (pendingAdmit t c).isSome = true ∧
          (streamAt t c).ad.engine = e ∧ Waits t ring p.tag .boundary ∧ t.out = s.out ∧
          (contextUsed s (streamAt s c).ad.xctx = false →
            t.mem.usedPages = insNats ad.pages (delNats (streamAt s c).ad.pages s.mem.usedPages)) ∧
          (contextUsed s (streamAt s c).ad.xctx = true → t.mem.usedPages = insNats ad.pages s.mem.usedPages) ∧ (∀ d, d ≠ c → streamAt t d = streamAt s d))))

/-- R56, R112, R115: ROUND_CONFIG is refused with ST_STATE while a stream is ADMITTED, RUNNING or TRUANT, and otherwise its
settings wait for the boundary while rounds run; SHEAF_DEFINE of a set it cannot form answers ST_SHEAF_INVALID, and of one
that fits waits for the boundary; SHEAF_DISSOLVE of a sheaf that does not exist answers ST_BAD_FIELD, DETAIL 8.
R68: a slip's Roll Call that passes makes the unlocked charge wait for a timetable, one that fails leaves the charge;
a re-lock's Roll Call that passes makes the new windows wait. The stream keeps its state throughout.
Completes: sheafDefine, sheafDissolve, roundConfig, slipRollCall, relockRollCall. -/
def Obligations.RoundSettingsSheavesSlipsAndRelocks : Prop :=
  (∀ (s : State) (ring : BitVec 6) (p : Packet), Ready s ring p →
      let f := fetchedOf s ring p
      let u := fetch ring s
      (p.opcode = 0x12 →
        (∀ c, firstAdmitted s = some c →
          exec (.roundConfig ring p) s = .next (answer f (failWith 0x0200 (stateCode (streamAt s c).state)) u)) ∧
        (firstAdmitted s = none → s.bell.running = true →
          ∃ t, exec (.roundConfig ring p) s = .next t ∧ Waits t ring p.tag .boundary ∧ t.bell.set = s.bell.set ∧
            let k := ChangeKind.round (param p 8 1) ((param p 9 1).testBit 0) ((param p 9 1).testBit 1) (param p 10 1)
            t.bell.changes = s.bell.changes ++ [{ kind := k, cmd := some (ring, p.tag) }])) ∧
      (p.opcode = 0x0D → s.pwr.recess = false → s.flt.oos = false →
        let ms := sheafMembers p
        let bad := ms.length < 2 ∨ ms.eraseDups.length ≠ ms.length ∨ (findAt (param p 8 2) s.sheaves).isSome = true ∨
          (ms.all fun m => memberOk s m.toNat) = false
        (bad → exec (.sheafDefine ring p) s = .next (answer f (failWith 0x0304 (badMember u p)) u)) ∧
        (∀ net, ¬ bad → commonFused s ms = [net] →
          computeTerm u (loadsBut u 0x1000) (putAt (param p 8 2) { members := ms, entries := sheafEntries p, network := net } s.sheaves) = none →
          ∃ t, exec (.sheafDefine ring p) s = .next t ∧ Waits t ring p.tag .boundary ∧
            findAt (param p 8 2) t.sheaves = some { members := ms, entries := sheafEntries p, network := net } ∧ t.streams = s.streams)) ∧
      (p.opcode = 0x0E →
        ((findAt (param p 8 2) s.sheaves).isNone = true →
          exec (.sheafDissolve ring p) s = .next (answer f (failWith 0x0100 8) u)) ∧
        ((findAt (param p 8 2) s.sheaves).isNone = false → s.bell.running = true →
          ∃ t, exec (.sheafDissolve ring p) s = .next t ∧ Waits t ring p.tag .boundary ∧ t.sheaves = s.sheaves ∧
            ∃ x ∈ t.bell.changes, x.kind = .sheafDissolve (param p 8 2) ∧ x.cmd = some (ring, p.tag)))) ∧
  (∀ (s : State) (ctx : BitVec 12),
      let c := ctx.toNat
      let st := streamAt s c
      holds st.state = true →
      (st.clk.slipCheck = true → ∃ t, exec (.slipRollCall ctx) s = .next t ∧ (streamAt t c).clk.slipCheck = false ∧
        (streamAt t c).clk.charged = st.clk.charged ∧ (streamAt t c).state = st.state ∧
        t.bell.changes = (if chargePasses s c none = true then s.bell.changes ++ [{ kind := .unlocked ctx }]
          else s.bell.changes) ∧
        (∀ d, d ≠ c → streamAt t d = streamAt s d) ∧ t.out = s.out) ∧
      (∀ w, st.clk.relockCheck = true → st.clk.locked = true → st.clk.fit = some w →
        ∃ t, exec (.relockRollCall ctx) s = .next t ∧ (streamAt t c).clk.relockCheck = false ∧
          (streamAt t c).state = st.state ∧
          t.bell.changes = (if chargePasses s c (some w) = true then s.bell.changes ++ [{ kind := .windows ctx w }]
            else s.bell.changes)))

/-! ## The timetable sequencer -/

/-- R195 to R199: a slot that R196 lets issue, issues: the position moves past it, LATE_ISSUE counts it where it is late,
D and the round's start stay, and no action of an earlier slot is lost. A slot that may not issue yet leaves the
machine as it is. No word that the issue reads holds an error (R305). The same holds of the slots of a placed
best-effort layer, whose START counts from its placement (R208).
Completes: slotIssue. -/
def Obligations.DueSlotIssues : Prop :=
  (∀ (s : State) (g : Gap) (w : BitVec 4096) (rest : List (BitVec 4096)), s.bell.running = true → s.flt.reset = none →
    retryInputs s = s → s.bell.gap = some g → g.slots = w :: rest →
    let fits := slotFits s (physOf s) (g.base + slotStart w) (slotBarrier w) w
    (fits = false → exec .slotIssue s = .next s) ∧
    (fits = true → (slotBarrier w = true → failedCounter s = none) →
      ∃ t, exec .slotIssue s = .next t ∧ t.bell.gap = some { g with slots := rest } ∧ t.bell.slot = s.bell.slot ∧
        t.bell.lastIssue = s.now ∧ t.now = s.now ∧
        t.bell.lateIssue = satAdd s.bell.lateIssue (b2n (decide (g.base + slotStart w < s.now))) ∧
        (∀ a ∈ s.bell.actions, a ∈ t.bell.actions))) ∧
  ∀ (s : State) (i : Nat) (w : BitVec 4096), s.bell.running = true → s.flt.reset = none → gapJob s = none →
    (∀ g, s.bell.gap = some g → g.slots = []) → s.jobs.all (·.inStarted) = true → nextSlot s = some (i, w) →
    (slotKind w = 3 ∨ canIssue s i w = false → exec .slotIssue s = .next s) ∧
    (slotKind w ≠ 3 → canIssue s i w = true → slotClean s i w = true → ((slotBarrier w || firstFallow s i) = true → failedCounter s = none) →
      ∃ t, exec .slotIssue s = .next t ∧ t.bell.slot = i + 1 ∧ t.bell.lastIssue = s.now ∧ t.now = s.now ∧
        t.bell.lateIssue = satAdd s.bell.lateIssue (b2n (decide (slotDue s w < s.now))) ∧
        t.bell.shift = s.bell.shift ∧ t.bell.roundStart = s.bell.roundStart ∧ t.bell.roundSeq = s.bell.roundSeq ∧
        (∀ a ∈ s.bell.actions, a ∈ t.bell.actions))

/-- R193, R195, R198: UNIT_FINISH of a unit that is done, before its deadline, ends that unit's action and no other; a core
under SLEEP goes off with it. Without such an action, or after the deadline, nothing happens.
R199, R200: a waking core that loads its image is ready in that fc; one whose image is bad stays not ready; a core
that is off or ready, or whose 37,500 fc have passed, is left as it is.
R198, R199, R305: an action not finished at its deadline, and a core not ready 37,500 fc after its WAKE, are hangs:
BELL_HANG names the unit and the slot, and a compute reset starts with FC_SLOT_HANG or FC_WAKE_TIMEOUT. Before the
deadline nothing happens.
Completes: coreReady, unitFinish, actionHang, wakeTimeout. -/
def Obligations.UnitsFinishWakeOrHang : Prop :=
  (∀ (s : State) (u : UnitId) (rows : List Nat),
      (s.bell.actions.find? (fun a => a.unit == u) = none ∨ unitDone s u = false ∨ s.flt.reset.isSome = true →
        exec (.unitFinish u rows) s = .next s) ∧
      (∀ a, s.bell.actions.find? (fun a => a.unit == u) = some a → unitDone s u = true → s.flt.reset = none →
        (a.finishBy < s.now → exec (.unitFinish u rows) s = .next s) ∧
        (s.now ≤ a.finishBy → ∃ t, exec (.unitFinish u rows) s = .next t ∧
          t.bell.actions = s.bell.actions.filter (fun b => b.unit != u) ∧
          (∀ n, u = .core n → (coreAt s n.toNat).sleepAfter = true → (coreAt t n.toNat).powered = false)))) ∧
  (∀ (s : State) (core : BitVec 7),
      let c := coreAt s core.toNat
      (c.powered = false ∨ c.ready = true ∨ wakeOpen c s.now = false → exec (.coreReady core) s = .next s) ∧
      (c.powered = true → c.ready = false → wakeOpen c s.now = true → s.flt.reset = none →
        ∃ t, exec (.coreReady core) s = .next t ∧ (coreAt t core.toNat).ready = (coreLoad core.toNat s).1 ∧
          (coreAt t core.toNat).powered = true ∧ t.bell = s.bell ∧
          ((coreLoad core.toNat s).1 = true → (coreAt t core.toNat).readyAt = s.now ∧ (coreAt t core.toNat).wakeAt = none))) ∧
  (∀ (s : State), s.flt.reset = none → s.pwr.exit_ = none →
      (∀ u, (s.bell.actions.find? (fun a => a.unit == u && decide (a.finishBy ≤ s.now)) = none → deadRun s u = none →
          exec (.actionHang u) s = .next s) ∧
        (∀ a, s.bell.actions.find? (fun a => a.unit == u && decide (a.finishBy ≤ s.now)) = some a →
          ∃ t, exec (.actionHang u) s = .next t ∧ ResetStarts s t 0x101 ∧ t.bell.hang.valid = true ∧
            t.bell.hang.kind = BitVec.ofNat 3 (hangUnit u).1 ∧ t.bell.hang.index = BitVec.ofNat 8 (hangUnit u).2.1 ∧
            t.bell.hang.slot = BitVec.ofNat 16 a.slot)) ∧
      (∀ core : BitVec 7,
        let c := coreAt s core.toNat
        (c.wakeAt = none ∨ c.ready = true → exec (.wakeTimeout core) s = .next s) ∧
        (∀ w, c.wakeAt = some w → c.ready = false →
          (s.now < w + 37500 → exec (.wakeTimeout core) s = .next s) ∧
          (w + 37500 ≤ s.now → ∃ t, exec (.wakeTimeout core) s = .next t ∧ ResetStarts s t 0x102 ∧
            t.bell.hang.valid = true ∧ t.bell.hang.kind = 4 ∧ t.bell.hang.index = BitVec.ofNat 8 (core.toNat / 8) ∧
            t.bell.hang.cores.getLsbD (core.toNat % 8) = true ∧ t.bell.hang.slot = BitVec.ofNat 16 c.wakeSlot ∧
            (coreAt t core.toNat).wakeAt = none))))

/-- R61, R63, R203: at a due boundary whose last claimed-tile check passes and whose END slot holds no error, the next
round starts: ROUND_SEQ moves on and
skips 0xFFFF_FFFF, D is 0, the position is the first slot, and no action is left. A ready NEXT area becomes ACTIVE;
one that is still being written or checked leaves ACTIVE in place and counts a repeat.
R317: the fallow slot runs once a round: owed refreshes issue, every waiting injection is done, and the on-die
counters are read; outside it the row does nothing.
Completes: roundBoundary, fallowSlot. -/
def Obligations.RoundsAndTheFallowSlot : Prop :=
  (∀ s : State,
      (boundaryDue s = false → exec .roundBoundary s = .next s) ∧
      (boundaryDue s = true → failedCounter s = none → (∀ i w, nextSlot s = some (i, w) → slotClean s i w = true) → ∃ t, exec .roundBoundary s = .next t ∧
        t.bell.roundSeq = (if s.bell.roundSeq = 0xFFFFFFFE then 0 else s.bell.roundSeq + 1) ∧ t.bell.running = true ∧
        t.bell.roundStart = s.now ∧ t.bell.shift = 0 ∧ t.bell.slot = 0 ∧ t.bell.actions = [] ∧ t.bell.fallowDone = false ∧
        (s.flt.oosPending = false → s.bell.shedDue = [] → s.bell.retireDecided = false →
          (s.bell.next.state = 3 → t.bell.active = s.bell.next.area) ∧
          (s.bell.next.state = 0 → t.bell.active = s.bell.active ∧ t.bell.repeats = s.bell.repeats) ∧
          (s.bell.next.state = 1 ∨ s.bell.next.state = 2 →
            t.bell.active = s.bell.active ∧ t.bell.repeats = satAddW s.bell.repeats 1)))) ∧
  (∀ (s : State) (r : FallowResult),
      (fallowDue s = false → exec (.fallowSlot r) s = .next s) ∧
      (fallowDue s = true → ∃ t, exec (.fallowSlot r) s = .next t ∧ t.bell.fallowDone = true ∧ t.mem.inject = [] ∧
        t.mem.owed = [] ∧ t.pwr.onDie = r.onDie ∧ fallowDue t = false))

/-- R202, R203: marking an area as NEXT or STANDBY puts its contents in place for the check, unless it is ACTIVE, is no area,
has the other role, or its role is under check; an area that passes all six rules becomes ready, and one that fails is
freed with CHECK_FAIL and FAIL_SLOT.
R191, R200, R201, R211, R225: an area that Bailiff assembles carries the right CHECK in every slot, ends with one
END slot
at R, names the network of each row map, and has no core image for a core outside the mapping.
R80, R202: while at least 64 cores remain in the next class down, a STANDBY area begins to be written with the shed list
of that class, and the lists of the classes below it, down to 64 cores, are kept; a STANDBY under check is left alone. The
bindings of a retiring engine's streams, their sheds and the engine's retirement wait for a timetable; a pending admission
bound to it takes another engine or is refused (R84).
Completes: timetableMarkComplete, timetableCheckComplete, standbyRebuild, engineRebind. -/
def Obligations.TimetableAreasAndCapacityFalls : Prop :=
  (∀ (s : State) (area : BitVec 2) (w : AreaWrite),
      (∀ b, area = s.bell.active ∨ area.toNat = 3 → exec (.timetableMarkComplete b area w) s = .next s) ∧
      (s.bell.next.state = 2 → exec (.timetableMarkComplete false area w) s = .next s) ∧
      (s.bell.standby.state = 2 → exec (.timetableMarkComplete true area w) s = .next s) ∧
      (area ≠ s.bell.active → area.toNat ≠ 3 →
        (s.bell.next.state ≠ 2 → (s.bell.standby.state = 0 ∨ s.bell.standby.area ≠ area) →
          ∃ t, exec (.timetableMarkComplete false area w) s = .next t ∧ t.bell.next = { state := 2, area := area } ∧
            areaAt t area = areaOf false w s ∧ t.bell.active = s.bell.active ∧ t.bell.standby = s.bell.standby ∧
            (∀ x ∈ t.bell.changes, x.included = true)) ∧
        (s.bell.standby.state ≠ 2 → (s.bell.next.state = 0 ∨ s.bell.next.area ≠ area) →
          ∃ t, exec (.timetableMarkComplete true area w) s = .next t ∧ t.bell.standby = { state := 2, area := area } ∧
            areaAt t area = areaOf true w s ∧ t.bell.active = s.bell.active ∧ t.bell.next = s.bell.next ∧
            t.bell.changes = s.bell.changes)) ∧
      (s.bell.next.state = 2 →
        (areaFault s (areaAt s s.bell.next.area) = none →
          ∃ t, exec (.timetableCheckComplete false) s = .next t ∧ t.bell.next = { s.bell.next with state := 3 } ∧
            t.bell.areas = s.bell.areas ∧ t.flt = s.flt) ∧
        (∀ rule slot, areaFault s (areaAt s s.bell.next.area) = some (rule, slot) →
          ∃ t, exec (.timetableCheckComplete false) s = .next t ∧ t.bell.next.state = 0 ∧ t.bell.checkFail = true ∧
            t.bell.failSlot = BitVec.ofNat 16 slot ∧ areaAt t s.bell.next.area = noArea ∧
            (∀ x ∈ t.bell.changes, x.included = false))) ∧
      (s.bell.standby.state = 2 →
        (areaFault s (areaAt s s.bell.standby.area) = none →
          ∃ t, exec (.timetableCheckComplete true) s = .next t ∧ t.bell.standby = { s.bell.standby with state := 3 } ∧
            t.bell.areas = s.bell.areas ∧ t.flt = s.flt) ∧
        (∀ rule slot, areaFault s (areaAt s s.bell.standby.area) = some (rule, slot) →
          ∃ t, exec (.timetableCheckComplete true) s = .next t ∧ t.bell.standby.state = 0 ∧ t.bell.checkFail = true ∧
            t.bell.failSlot = BitVec.ofNat 16 slot ∧ t.bell.changes = s.bell.changes))) ∧
  (∀ (standby : Bool) (p : AreaPlan) (s : State),
      (∀ w ∈ (assemble standby p s).slots, slotCrcBad w = false) ∧
      (assemble standby p s).slots.getLast? = some (sealSlot (bareSlot 3 (roundLen (servedState standby s)))) ∧
      (assemble standby p s).rowNets.length = (assemble standby p s).rowMaps.length ∧
      (∀ n, n < 128 → n ∉ classCores (servedState standby s) → (assemble standby p s).images.getD n 0 = 0)) ∧
  (∀ s : State,
      (64 ≤ coresLeft (nextClassDown s) → s.bell.standby.state ≠ 2 → ∃ t, exec .standbyRebuild s = .next t ∧
        t.bell.standbyShed = (shedList (nextClassDown s)).map (BitVec.ofNat 12) ∧
        t.bell.shedLists = classLists 7 (nextClassDown s) ∧ t.bell.standby.state = 1 ∧
        (s.bell.standby.state = 0 → t.bell.standby.area ≠ s.bell.active) ∧ t.streams = s.streams ∧ t.bell.next = s.bell.next) ∧
      (coresLeft (nextClassDown s) < 64 ∨ s.bell.standby.state = 2 → exec .standbyRebuild s = .next s) ∧
      (∀ (k : VideoKind) (i : BitVec 5),
        (isRetiring s k i.toNat = false → exec (.engineRebind k i) s = .next s) ∧
        (isRetiring s k i.toNat = true → (s.bell.changes.any fun c => c.kind == ChangeKind.retire k i.toNat) = false →
          let mine (t : State) (p : Nat × Option (BitVec 6 × BitVec 16)) : Bool := servedBy k i.toNat (streamAt t p.1).ad.engine
          ((∀ p ∈ pendingAdmits s, mine s p = false) →
            ∃ t l, exec (.engineRebind k i) s = .next t ∧ t.streams = s.streams ∧ t.bell.next.state ≠ 0 ∧
              t.bell.changes = s.bell.changes ++ l ++ [{ kind := .retire k i.toNat }] ∧
              ∀ c ∈ l, (∃ x e, c.kind = .rebind x e) ∨ ∃ x, c.kind = .shed x) ∧
          (∀ p, pendingAdmits s = [p] → mine s p = true → ∃ t, exec (.engineRebind k i) s = .next t ∧
            t.bell.next.state ≠ 0 ∧ (∃ c ∈ t.bell.changes, c.kind = .retire k i.toNat) ∧
            (pendingAdmits t = [p] ∧ mine t p = false ∨ pendingAdmits t = [])))))

/-! ## Memory upkeep -/

/-- R276, R277: a refresh interval that a port in panic keeps from a pseudo-channel owes one refresh more, at most 8; at 8 it
issues and FORCED counts it; without panic every owed refresh issues. A port whose buffer passes its threshold is in panic
until it passes the other, and MEM_PANIC counts the raising. The other pseudo-channels, and all memory contents, are
unchanged.
R280, R282: patrol scrub of an HBM granule without uncorrectable words corrects every word with a correctable error,
check bits included, and leaves every other word of memory as it is.
R284: while mirror reads serve the lost pseudo-channel, copying granules ends them exactly when every weight granule
of the loaded images on it has been copied.
Completes: hbmRefresh, patrolScrub, substituteCopy. -/
def Obligations.MemoryUpkeep : Prop :=
  (∀ (s : State) (pc : BitVec 7) (ports : RefreshPorts), ∃ t, exec (.hbmRefresh pc ports) s = .next t ∧
      let panic := ports.waiting && inPanic t
      t = { s with mem := t.mem, cyc := t.cyc } ∧ t.mem.dpa = s.mem.dpa ∧
      (ports.levels = [] → t.mem.rtPorts = s.mem.rtPorts ∧ t.mem.panics = s.mem.panics) ∧
      (∀ p v, ports.levels = [(p, v)] →
        let o := getAt ({} : RtPort) p s.mem.rtPorts
        let n := getAt ({} : RtPort) p t.mem.rtPorts
        n.level = v ∧ n.panic = (if o.panic then !clearsPanic p v else raisesPanic p v) ∧
          t.mem.panics = satAdd s.mem.panics (b2n (n.panic && !o.panic)) ∧
          ∀ q, q ≠ p → getAt {} q t.mem.rtPorts = getAt {} q s.mem.rtPorts) ∧
      (panic = false → getAt 0 pc.toNat t.mem.owed = 0 ∧ t.mem.forced = s.mem.forced) ∧
      (panic = true → getAt 0 pc.toNat s.mem.owed < 8 →
        getAt 0 pc.toNat t.mem.owed = getAt 0 pc.toNat s.mem.owed + 1 ∧ t.mem.forced = s.mem.forced) ∧
      (panic = true → 8 ≤ getAt 0 pc.toNat s.mem.owed →
        t.mem.owed = s.mem.owed ∧ t.mem.forced = satAddW s.mem.forced 1) ∧
      (∀ k, k ≠ pc.toNat → getAt 0 k t.mem.owed = getAt 0 k s.mem.owed)) ∧
  (∀ (s : State) (addr : BitVec 40),
      let a := addr.toNat / 256 * 256
      dpaRegion a = .hbm → s.mem.substActive = false → s.mem.dpa.wf = true →
      (∀ i, i < 64 → eccKind (memSyn s.mem.dpa (a + 4 * i)) ≠ .uncorrectable) →
      ∃ t, exec (.patrolScrub addr) s = .next t ∧ t.mem.patrol = BitVec.ofNat 40 (a + 256) ∧
        (∀ i b, i < 64 → eccKind (memSyn s.mem.dpa (a + 4 * i)) = .corrected b →
          memSyn t.mem.dpa (a + 4 * i) = 0 ∧
          memWord t.mem.dpa (a + 4 * i) = eccFix (memWord s.mem.dpa (a + 4 * i)) (.corrected b)) ∧
        (∀ x, (x < a ∨ a + 256 ≤ x) → memByte t.mem.dpa x = memByte s.mem.dpa x ∧ memSyn t.mem.dpa x = memSyn s.mem.dpa x) ∧
        t.streams = s.streams ∧ t.bell = s.bell ∧ t.cores = s.cores) ∧
  (∀ (s : State) (granules : List Nat),
      ((s.mem.substActive && s.mem.mirrorReads) = false → exec (.substituteCopy granules) s = .next s) ∧
      (s.mem.substActive = true → s.mem.mirrorReads = true → ∃ t, exec (.substituteCopy granules) s = .next t ∧
        t.mem.mirrorReads = !(lostWeights s).all granules.contains ∧ t.mem.substActive = true ∧ t.mem.substPc = s.mem.substPc ∧
        t.streams = s.streams ∧ t.bell = s.bell))

/-! ## DMA engines, park records, BAR2 -/

/-- R291: GRANULE_DONE is the number of leading granules that have landed, in whatever order they land: it never falls,
every granule below it has landed, and the granule at it has not. -/
def Obligations.GranuleDoneCountsLeadingGranules : Prop :=
  ∀ (t : Transfer) (k : Nat), t.done ∉ t.landed →
    let u := landed t k
    t.done ≤ u.done ∧ u.total = t.total ∧ u.desc = t.desc ∧ k ∉ u.flight ∧
      (∀ j, t.done ≤ j → j < u.done → j = k ∨ j ∈ t.landed) ∧ u.done ∉ t.landed ∧ (k = t.done → k < u.done) ∧
      (k ≠ t.done → u.done = t.done) ∧ (∀ j, u.done ≤ j → (j ∈ u.landed ↔ j = k ∨ j ∈ t.landed))

/-- R291, R346: a piece of a granule's data is kept until the granule is complete; the last piece writes it at its
destination, and it has landed. A row for a granule not in flight, or while completions are not taken, does nothing.
R292, R297, R346: an Unsupported Request, a Completer Abort, poisoned data or a timeout for the last granule in flight
of a host read parks the transfer: its record holds the cause, GRANULE_DONE and the address of the lowest granule that
failed, FC_DMA_PARK is recorded, and the engine is free of it. For a submission fetch, the ring is parked.
R219, R230, R291, R307: a granule whose source can be read and whose destination can be written lands: on a bulk or
host engine in any order among those in flight, on a timed channel in ascending order only. During a compute reset no
granule lands.
Completes: hostReadCompletion, completionTimeout, dmaGranuleLand. -/
def Obligations.GranulesLandOrPark : Prop :=
  (∀ (s : State) (e : BitVec 3) (k : Nat) (bytes : List Byte) (old : Transfer),
      let n := e.toNat
      let u := boundaryFlush (.host e) s
      let t := refillIn s old
      (takesCompletions s = false → exec (.hostReadCompletion e k (.piece bytes)) s = .next s) ∧
      (takesCompletions s = true → activeOf (getAt [] n s.mem.host) = some old →
        (t.flight.contains k = false → exec (.hostReadCompletion e k (.piece bytes)) s = .next u) ∧
        (descSrcSpace t.desc = 2 → t.flight.contains k = true →
          let got := getAt [] k t.buf ++ bytes
          (got.length < granuleLen t.desc k → exec (.hostReadCompletion e k (.piece bytes)) s =
            .next (putTransfer false n old [{ t with buf := putAt k got t.buf }] u)) ∧
          (granuleLen t.desc k ≤ got.length → descDstSpace t.desc = 0 → t.blocks ≠ [] →
            exec (.hostReadCompletion e k (.piece bytes)) s =
              .next (stepTransfer false n old (landed t k)
                (dpaWriteBytes (blockAddr t k) ((got.take (granuleLen t.desc k)).map fun b => (b, false)) u)))))) ∧
  (∀ (s : State) (e : BitVec 3) (k i : Nat), takesCompletions s = true → s.slot.present = true → freePark s = some i →
      let n := e.toNat
      let fails : List (Instr × Byte) := [(.hostReadCompletion e k .unsupported, 1), (.hostReadCompletion e k .abort, 2),
        (.hostReadCompletion e k .poisoned, 4), (.completionTimeout e k, 3)]
      (∀ old, activeOf (getAt [] n s.mem.host) = some old → descSrcSpace old.desc = 2 →
        (refillIn s old).flight = [k] → old.failed = none →
        ∀ x ∈ fails, ∃ t pr, exec x.1 s = .next t ∧ findAt i t.mem.parks = some pr ∧ pr.cause = x.2 ∧ pr.state = 1 ∧
          pr.done = old.done ∧ pr.total = old.total ∧ pr.desc = old.desc ∧ pr.owner = old.owner ∧
          pr.faultAddr = BitVec.ofNat 64 (granuleSrc old.desc k) ∧ Records s t 0x410 1 ∧
          getAt [] n t.mem.host = swapTransfer (failGranule (refillIn s old) k x.2) []
            (swapTransfer old [failGranule (refillIn s old) k x.2] (getAt [] n s.mem.host))) ∧
      (e = 0 → k < 64 → activeOf (getAt [] 0 s.mem.host) = none → (sqAt s k).enable = true → (sqAt s k).parked = false →
        (sqAt s k).head ≠ (sqAt s k).tail →
        ∀ x ∈ fails, ∃ t pr, exec x.1 s = .next t ∧ (sqAt t k).parked = true ∧ (sqAt t k).head = (sqAt s k).head ∧
          findAt i t.mem.parks = some pr ∧ pr.cause = x.2 ∧ pr.cls = 0 ∧ Records s t 0x410 1)) ∧
  (∀ (s : State) (k : Nat),
      (∀ e, s.flt.reset.isSome = true → exec (.dmaGranuleLand e k) s = .next s) ∧
      (s.flt.reset = none →
        (∀ (n : BitVec 2) old l s1 s2, activeOf (getAt [] n.toNat s.mem.bulk) = some old →
          let e := DmaEngine.bulk n
          let u := boundaryFlush e s
          let t := refillIn s old
          descSrcSpace old.desc ≠ 2 → t.flight.contains k = true → readGranule e false t k u = (.bytes l, s1) →
          writeGranule e false t k l s1 = (0, true, s2) →
          exec (.dmaGranuleLand e k) s = .next (stepTransfer true n.toNat old (landed t k) s2)) ∧
        (∀ (n : BitVec 3) old l s1 s2, activeOf (getAt [] n.toNat s.mem.host) = some old →
          let e := DmaEngine.host n
          let u := boundaryFlush e s
          let t := refillIn s old
          descSrcSpace old.desc ≠ 2 → t.flight.contains k = true → readGranule e false t k u = (.bytes l, s1) →
          writeGranule e false t k l s1 = (0, true, s2) →
          exec (.dmaGranuleLand e k) s = .next (stepTransfer false n.toNat old (landed t k) s2)) ∧
        (∀ (c : BitVec 4) t l s1 s2, activeOf (getAt [] c.toNat s.mem.timed) = some t →
          let e := DmaEngine.timed c
          let u := boundaryFlush e s
          (t.done ≠ k → exec (.dmaGranuleLand e k) s = .next u) ∧
          (t.done = k → overtaken s t = false → readGranule e true t k u = (.bytes l, s1) →
            writeGranule e true t k l s1 = (0, true, s2) → descDstSpace t.desc ≠ 2 →
            let t' := { t with done := k + 1 }
            let unit : UnitId := if t.core = 0 then .channel c else .core (BitVec.ofNat 7 (t.core - 1))
            let v := raiseMark t k (putTimed c.toNat t t' (meetPoison unit (l.any (·.2)) s2))
            exec (.dmaGranuleLand e k) s = .next (if t'.total ≤ t'.done then commitTag t v else v)))))

/-- R293, R295: Bailiff's action on a park record: a ring transfer resumes, or is tried again, once per management step,
when the host can be reached, and every other class is killed, its owner alone answered with the cause; captured and
frozen records are left alone.
R287: invalidating a context, or all, drops its translations from every idle engine at once and leaves those of other
contexts; DONE is 1 when no busy engine is still to pass a granule boundary.
R20, R272: a BAR2 read answers one dword for each asked: zero for a sealed unit, with FC_BAR2_SEALED recorded,
for a bank that neither is on nor keeps its contents zero without a record, 0xFFFF_FFFF for a word that reads as
poisoned, and the data otherwise; the device is otherwise unchanged by an error-free
read. A BAR2 write takes effect only with MAINT_EN and only in unsealed units of banks 32 to 47; any other is discarded
and recorded with FC_BAR2_WRITE.
Completes: tlbInvalidate, bar2Read, bar2Write, parkRecordAction. -/
def Obligations.ParkActionsInvalidationAndBar2 : Prop :=
  (∀ (s : State) (i : BitVec 10),
      (findAt i.toNat s.mem.parks = none → exec (.parkRecordAction i) s = .next s) ∧
      (∀ p, findAt i.toNat s.mem.parks = some p →
        let u : State := { s with mem := { s.mem with parks := dropAt i.toNat s.mem.parks } }
        let ring := p.owner.toNat % 64
        (p.state ≠ 1 ∨ p.cause = 0x31 → exec (.parkRecordAction i) s = .next s) ∧
        (p.cls ≤ 2 → p.tried = some (mgmtStep s) → exec (.parkRecordAction i) s = .next s) ∧
        (p.state = 1 → p.cause ≠ 0x31 → (p.cls ≤ 2 → p.tried ≠ some (mgmtStep s)) →
          (p.cls = 0 → hostUp s = true → exec (.parkRecordAction i) s =
            .next (setSq ring { sqAt s ring with parked := false } u)) ∧
          (p.cls = 0 → hostUp s = false → ∃ q, exec (.parkRecordAction i) s =
            .next { s with mem := { s.mem with parks := putAt i.toNat q s.mem.parks } } ∧ q.retries = p.retries + 1 ∧
            q.state = 1 ∧ q.cause = p.cause ∧ q.tried = some (mgmtStep s)) ∧
          (p.cls = 1 → hostUp s = true → ∃ t, exec (.parkRecordAction i) s = .next t ∧ (cqAt t ring).parked = false ∧
            findAt i.toNat t.mem.parks = none) ∧
          (p.cls = 3 ∨ p.cls = 6 → exec (.parkRecordAction i) s =
            .next (finish (ownerRing p.owner, ownerTag p.owner) (failWith 0x104 p.cause.toNat)
              (poolFree 3 (ingestOf p.desc p.blocks) u)))))) ∧
  (∀ (s : State) (v : Word),
      (hostAccess s = false → exec (.tlbInvalidate v) s = .next s) ∧
      (hostAccess s = true → ∃ t, exec (.tlbInvalidate v) s = .next t ∧ t = { s with mem := t.mem } ∧
        t.mem.dpa = s.mem.dpa ∧ t.mem.ptes = s.mem.ptes ∧
        (∀ x ∈ t.mem.tlb, x ∈ s.mem.tlb ∧ ((activeOf (engineList s x.1)).isNone = true → x.1 ∈ allEngines →
          v.getLsbD 8 = false ∧ x.2.1 ≠ (v.extractLsb' 0 8).toNat)) ∧
        (tlbDone t = true ↔ ∀ x ∈ t.mem.tlbWait, (activeOf (engineList t x.1)).isNone = true) ∧
        ((∀ e ∈ allEngines, (activeOf (engineList s e)).isNone = true) → tlbDone t = true))) ∧
  (∀ (s : State) (o : BitVec 29), hostAccess s = true → o.toNat % 4 = 0 →
      (sealedUnit s o.toNat = true → ∃ t u, exec (.bar2Read o 1) s = .next t ∧
        t = send (.completionBytes [0, 0, 0, 0]) u ∧ Records s u 0x414 2 ∧ u.mem = s.mem) ∧
      (bankKept s o.toNat = false → sealedUnit s o.toNat = false →
        exec (.bar2Read o 1) s = .next (send (.completionBytes [0, 0, 0, 0]) s)) ∧
      (bankKept s o.toNat = true →
        (sealedUnit s o.toNat = false →
          (memSyn s.mem.dpa (granaryBase + o.toNat) = 0 → 32 ≤ bankOf o.toNat → bankOf o.toNat < 48 →
            exec (.bar2Read o 1) s = .next (send (.completionBytes
              (leBytes 4 (memWord s.mem.dpa (granaryBase + o.toNat)).toNat)) s)) ∧
          (memSyn s.mem.dpa (granaryBase + o.toNat) = 0x7F → ∃ t u, exec (.bar2Read o 1) s = .next t ∧
            t = send (.completionBytes [0xFF, 0xFF, 0xFF, 0xFF]) u ∧ u.mem.dpa = s.mem.dpa ∧ u.flt = s.flt))) ∧
      (∀ bytes, bytes ≠ [] →
        (bar2Writable s o.toNat bytes.length = true → exec (.bar2Write o bytes) s =
          .next (dpaWriteBytes (granaryBase + o.toNat) (bytes.map fun b => (b, false)) s)) ∧
        (bar2Writable s o.toNat bytes.length = false → ∃ t, exec (.bar2Write o bytes) s = .next t ∧ t.mem = s.mem ∧
          Records s t 0x413 2) ∧
        (s.cmd.maintEn = false → bar2Writable s o.toNat bytes.length = false)))

/-! ## Networks, jobs, clips -/

/-- R209, R214, R315, R335: NETWORK_LOAD of an image that is refused answers the status of the rule and loads nothing; one
that passes every check is loaded under the lowest free handle of 1 to 64, with its weights and their mirror pinned,
and no other network, stream or timetable changes.
R38, R209: NETWORK_UNLOAD of a handle that is not loaded is a bad field, of a network that a stream, a job or another
image uses ST_STATE; otherwise the handle, the pages and the mapping are free.
Completes: networkLoad, networkUnload. -/
def Obligations.NetworksLoadAndUnload : Prop :=
  (∀ (s : State) (ring : BitVec 6) (p : Packet) (image : HostRead (List Byte)) (pages : List Nat),
      p.opcode = 0x10 → Ready s ring p →
      let f := fetchedOf s ring p
      let u := fetch ring s
      (s.pwr.recess = true → exec (.networkLoad ring p image pages) s = .next (answer f (failWith 0x201 0) u)) ∧
      (s.pwr.recess = false → s.flt.oos = true →
        exec (.networkLoad ring p image pages) s = .next (answer f (failWith 0x202 0) u)) ∧
      (s.pwr.recess = false → s.flt.oos = false →
        (∀ c, image = .fault c → exec (.networkLoad ring p image pages) s = .next (answer f (failWith 0x104 c.toNat) u)) ∧
        (∀ raw r, image = .data raw → loadVerdict u p raw = .error r →
          exec (.networkLoad ring p image pages) s = .next (answer f r u)) ∧
        (∀ raw h body secs w m units n, image = .data raw → loadVerdict u p raw = .ok (h, body, secs) →
          weightPages u (ceilDiv (weightsOf body secs).length 0x200000) pages = some (w, m) →
          allotment u (networkOf h body secs (param p 20 2)).fixed = some units → freeHandle u = some n →
          (h.role = 1 → upstreamOk u h (param p 20 2) = true) →
          let v := networkOf h body secs (param p 20 2)
          let k := ceilDiv (weightsOf body secs).length 0x200000
          let r := okWith (n + 65536 * h.layers + 2 ^ 32 * (2 * k) + 2 ^ 64 * h.mask)
          ∃ t nw, exec (.networkLoad ring p image pages) s = .next t ∧
            t = answer f r (loadImage n v w m units (weightsOf body secs) u) ∧ netAt t n = some nw ∧ nw.role = h.role ∧
            nw.pages = w ∧ nw.mirror = m ∧ nw.units = units ∧ 1 ≤ n ∧ n ≤ 64 ∧ netAt s n = none ∧
            (∀ k, 1 ≤ k → k < n → (netAt s k).isSome = true) ∧ (∀ k, k ≠ n → netAt t k = netAt s k) ∧
            t.streams = s.streams ∧ t.bell = s.bell))) ∧
  (∀ (s : State) (ring : BitVec 6) (p : Packet), p.opcode = 0x11 → Ready s ring p →
      let f := fetchedOf s ring p
      let u := fetch ring s
      let n := param p 8 2
      (netAt s n = none → exec (.networkUnload ring p) s = .next (answer f (failWith 0x100 8) u)) ∧
      (∀ v, netAt s n = some v →
        (∀ c, networkUser s n = some c →
          exec (.networkUnload ring p) s = .next (answer f (failWith 0x200 (stateCode (streamAt s c).state)) u)) ∧
        (networkUser s n = none → (∃ e ∈ s.nets, e.2.upstream = n) ∨ (∃ j ∈ s.jobs, j.network = n) →
          exec (.networkUnload ring p) s = .next (answer f (failWith 0x200 0) u)) ∧
        (networkUser s n = none → (∀ e ∈ s.nets, e.2.upstream ≠ n) → (∀ j ∈ s.jobs, j.network ≠ n) →
          ∃ t, exec (.networkUnload ring p) s = .next t ∧ t = answer f {} (unloadImage n v u) ∧ netAt t n = none ∧ (∀ k, k ≠ n → netAt t k = netAt s k) ∧
            (contextUsed s v.xctx = false → t.mem.usedPages = delNats (v.pages ++ v.mirror) s.mem.usedPages) ∧
            (contextUsed s v.xctx = true → t.mem.usedPages = s.mem.usedPages ∧ t.mem.ptes = s.mem.ptes) ∧
            t.mem.dpa = s.mem.dpa ∧
            t.streams = s.streams ∧ t.jobs = s.jobs)))

/-- R284: every mirror page of an image lies on other pseudo-channels than its original: the constant part of its hash
differs, for each page in turn. -/
def Obligations.MirrorPagesDifferInTheHash : Prop :=
  ∀ (s : State) (n : Nat) (proposed w m : List Nat), weightPages s n proposed = some (w, m) →
    w.length = m.length ∧ ∀ e ∈ w.zip m, pageHash e.1 ≠ pageHash e.2

/-- R73, R76 to R78: JOB_SUBMIT of a job that can be taken holds it with its network, priority and batch at its first
layer, and is answered only when its output is written; one that cannot is refused. JOB_CANCEL ends a job at its next
layer boundary: at once, the submission answered ST_ABORTED, while none of its layers runs.
Completes: jobSubmit, jobCancel. -/
def Obligations.JobsAreHeldAndCancelled : Prop :=
  ∀ (s : State) (ring : BitVec 6) (p : Packet), Ready s ring p →
    let f := fetchedOf s ring p
    let u := fetch ring s
    (p.opcode = 0x41 → s.pwr.recess = false → s.flt.oos = false →
      (∀ r, jobVerdict u p = some r → exec (.jobSubmit ring p) s = .next (answer f r u)) ∧
      (jobVerdict u p = none → ∃ t j, exec (.jobSubmit ring p) s = .next t ∧ Waits t ring p.tag .transfer ∧ j ∈ t.jobs ∧
        t.jobs.length = s.jobs.length + 1 ∧ j.ring = ring ∧ j.tag = p.tag ∧ j.network = param p 8 2 ∧
        j.priority = param p 10 1 ∧ j.slice = param p 12 4 ∧ j.batch = param p 40 2 ∧ j.layer = 0 ∧ j.cancel = false)) ∧
    (p.opcode = 0x42 →
      let ring' : BitVec 6 := BitVec.ofNat 6 (param p 10 1)
      let tag' : BitVec 16 := BitVec.ofNat 16 (param p 8 2)
      let job := s.jobs.find? fun j => j.ring == ring' && j.tag == tag'
      (job = none → exec (.jobCancel ring p) s = .next (answer f (failWith 0x100 8) u)) ∧
      (∀ j, job = some j → jobRuns s j = false →
        let w := wait_ f (.jobEnd ring'.toNat tag'.toNat) u
        exec (.jobCancel ring p) s = .next (endJob ring' tag' (failWith 0x203 0x42) w) ∧
          ∀ k ∈ (endJob ring' tag' (failWith 0x203 0x42) w).jobs, ¬ (k.ring = ring' ∧ k.tag = tag')) ∧
      (∀ j, job = some j → jobRuns s j = true → ∃ t, exec (.jobCancel ring p) s = .next t ∧
        Waits t ring p.tag (.jobEnd ring'.toNat tag'.toNat) ∧ t.out = s.out ∧
        (∀ k ∈ t.jobs, k.ring = ring' → k.tag = tag' → k.cancel = true) ∧ t.bell = s.bell))

/-- R254 to R256: a CLIP_REQUEST in a state that allows it, with caps and lists in range and its first picture in the
replay ring, is accepted under the next clip number; the wrong state, a cap below its minimum, a fault on a list, a
list out of range, a picture that is gone, and a 65th clip are refused with the status of the rule. CLIP_CANCEL of a
clip at a picture boundary ends it CANCELLED; of no clip it is a bad field.
R260, R77: while no pool stands at stage 2, the first waiting clip by priority takes the lowest-numbered free encode
engine if its buffers fit the working area; with no free engine or no waiting clip nothing happens.
R257 to R259, R263, R265, R266, R306: the picture rows of a clip. A picture that ingest has overwritten ends the clip;
the first ready clip decodes its next picture, unless the device is hot and idle (`hotIdle`); a coded picture takes
segment blocks and moves the refresh wave unless
it was held; a picture that finds no segment blocks waits, counted once (R119); a packet is sent when port and PACE
allow; and the encode watchdog starts a compute reset.
Completes: clipRequest, clipCancel, clipStart, clipDecodePicture, clipEncodePicture, clipPacketSend, encWatchdog. -/
def Obligations.ClipsAreTakenStartedAndSent : Prop :=
  (∀ (s : State) (ring : BitVec 6) (p : Packet) (lists : HostRead ClipLists), Ready s ring p →
      let f := fetchedOf s ring p
      let u := fetch ring s
      let c := (p.ctx.setWidth 12).toNat
      let st := streamAt s c
      let sourced := (BitVec.ofNat 8 (param p 17 1)).getLsbD 6
      let size := clipMax st.ad sourced
      (p.opcode = 0x14 → s.pwr.recess = false → s.flt.oos = false →
        let run := exec (.clipRequest ring p lists) s
        let states := holds st.state = true ∨ (sourced = true ∧ st.state = .opened)
        let caps := capMin (param p 16 1) size.1 size.2 false ≤ param p 24 4 ∧
          capMin (param p 16 1) size.1 size.2 true ≤ param p 28 4
        (¬ states → run = .next (answer f (failWith 0x200 (stateCode st.state)) u)) ∧
        (states → param p 24 4 < capMin (param p 16 1) size.1 size.2 false →
          run = .next (answer f (failWith 0x100 24) u)) ∧
        (states → caps → (∀ x, lists = .fault x → run = .next (answer f (failWith 0x104 x.toNat) u)) ∧
          (∀ l, lists = .data l →
            let k := clipOf f (clipNumber s) l
            (clipListsOk k l = false → run = .next (answer f (failWith 0x100 32) u)) ∧
            (clipListsOk k l = true → (clipSourced k = true → k.endSeq < k.source.length) →
              (clipFirst st k = none → run = .next (answer f (failWith 0x306 0) u)) ∧
              (∀ q, clipFirst st k = some q →
                (64 ≤ (clipsOpen s).length → run = .next (answer f (failWith 0x302 0) u)) ∧
                ((clipsOpen s).length < 64 → run = .next (answer f (okWith (clipNumber s).toNat)
                  { u with clips := u.clips ++ [{ k with decodeSeq := q }], nextClip := clipNumber s + 1 }))))))) ∧
      (p.opcode = 0x15 →
        let clip := (clipsOpen s).find? fun k => k.num.toNat = param p 8 2
        (clip = none → exec (.clipCancel ring p) s = .next (answer f (failWith 0x100 8) u)) ∧
        (∀ k, clip = some k →
          let w := wait_ f (.clipEnd k.num.toNat) u
          (clipIdle s k = true → exec (.clipCancel ring p) s = .next (endClip k.num 1 0 w)) ∧
          (clipIdle s k = false → exec (.clipCancel ring p) s = .next (setClip { k with cancel := true } w))))) ∧
  (∀ (s : State), s.flt.reset = none → s.pwr.recess = false → s.pwr.transition = 0 → maxStage s < 2 →
      let free (e : Nat) : Bool := !(encAt s e).retired && !(encAt s e).retiring && (encAt s e).clip.isNone
      let waiting := clipOrder ((clipsOpen s).filter fun k => k.engine.isNone)
      ((∀ e, e < 8 → free e = false) ∨ waiting = [] → exec .clipStart s = .next s) ∧
      (∀ e k rest, e < 8 → free e = true → (∀ d, d < e → free d = false) → waiting = k :: rest →
        let n := clipUnits (streamAt s k.ctx.toNat) k
        (0x1000 < s.clipAreaUsed + n → exec .clipStart s = .next s) ∧
        (s.clipAreaUsed + n ≤ 0x1000 → ∃ t, exec .clipStart s = .next t ∧ (encAt t e).clip = some k.num ∧
          t.clipAreaUsed = s.clipAreaUsed + n ∧ (∀ d, d ≠ e → encAt t d = encAt s d) ∧
          (∀ j ∈ t.clips, j.num = k.num → j.engine = some e ∧ j.units = n)))) ∧
  (∀ (s : State) (num : BitVec 16),
      (∀ k facts, s.flt.reset = none → maxStage s < 2 → k.pics = [] → k.decodeSeq ≤ k.endSeq →
        ((clipsOpen s).find? fun k => k.num == num && k.engine.isSome) = some k →
        (clipLost s k = true → exec (.clipDecodePicture num facts) s = .next (endClip num 2 0 s)) ∧
        (∀ n flags ts cap blocks, clipLost s k = false → clipAu s k = some (n, flags, ts, cap, blocks) →
          (hotIdle s = true → exec (.clipDecodePicture num facts) s = .next s) ∧
          (clipLeaves s num facts.cycles = none → exec (.clipDecodePicture num facts) s = .next s) ∧
          (∀ e, clipSourced k = false → clipLeaves s num facts.cycles = some e →
          exec (.clipDecodePicture num facts) s = .next (startSource num (clipComplete num.toNat
            (clipDecoded e k facts n flags ts cap (dropSource num blocks (wakeDomain (128 + e) s)))))))) ∧
      (∀ k e p rest header rowBits stream, s.flt.reset = none → ((clipsOpen s).find? fun k => k.num == num) = some k →
        k.engine = some e → k.pics = p :: rest →
        let key := k.pictures == 0
        let rows := (List.range (blockRows k.format p.height)).map fun i => rowBits.getD i (0, 0, 0)
        let r := codeRows (8 * (if key then k.keyCapBytes else k.capBytes)) (floorBits k.format p.width key) rows header .normal
        let n := ceilDiv r.1 8
        (segmentRoom s k n = false → exec (.clipEncodePicture num header rowBits stream) s = .next (segmentWait k s)) ∧
        (segmentRoom s k n = true → exec (.clipEncodePicture num header rowBits stream) s =
          .next (encodeStep { k with starved := false } e p r.2 (padTo n stream) s)) ∧
        (r.2 ≠ .normal → key = false → waveAfter k p.width key r.2 = (k.wave, false))) ∧
      (∀ k, (s.clips.find? fun k => k.num == num) = some k →
        let port := portAt s k.port
        let held := port.linkUp = false ∨ nextHop s k.port k.ipv6 k.dstIp = 0 ∨ s.now < port.pauseUntil ∨ s.now < k.sentAt ∨ datagramWaits s k.port = true
        (k.packets = [] ∨ held → exec (.clipPacketSend num) s = .next s) ∧
        (∀ x rest, k.packets = x :: rest → ¬ held → ∃ t, exec (.clipPacketSend num) s = .next t ∧
          ∃ head : List Byte, head.length = 12 ∧
            .rtp (txHeader s k.port k.ipv6 k.dstIp) k.dstIp k.dstPort k.srcPort k.dscp (head ++ x.payload) ∈ t.out)) ∧
      (∀ (e : BitVec 3) (k : Clip) (x : ClipPic) (rest : List ClipPic), s.flt.reset = none → s.pwr.exit_ = none →
        (encAt s e.toNat).busy = true → ((clipsOpen s).find? fun k => (encAt s e.toNat).clip == some k.num) = some k →
        k.pics = x :: rest →
        let bound := ceilDiv ((2 * x.width * x.height + 50000) * 5) 4
        (s.now - (encAt s e.toNat).since < bound → exec (.encWatchdog e) s = .next s) ∧
        (bound ≤ s.now - (encAt s e.toNat).since → ∃ t, exec (.encWatchdog e) s = .next t ∧ ResetStarts s t 0x303)))

/-- R262: a picture never exceeds its cap: where the header and every row at the floor's bound fit the cap, so does what
the procedure codes, whatever the rows take. -/
def Obligations.PicturesStayWithinTheirCap : Prop :=
  ∀ (cap floor used : Nat) (rows : List (Nat × Nat × Nat)) (mode : RateMode), used + rows.length * floor ≤ cap →
    (codeRows cap floor rows used mode).1 ≤ cap

/-! ## Firmware, update and attestation -/

/-- R370, R373: FW_STAGE spoils its target first, then applies checks 1 to 7 in order and answers the number of the first
that fails; an image that passes and is programmed is staged: a Bailiff image in the bank not running, with the state
STAGED, a patch in the spare slot with the state unchanged. A Bailiff image in ARMED, SWITCHING or TRIAL is refused.
R373 to R375, R382: FW_ARM kind 0 takes a staged image whose handover formats fit to ARMED with its options, kind 1
marks the staged patch for the next power-on; FW_ACTIVATE MODE 0 starts a switch from ARMED and joins one in SWITCHING,
MODE 1 goes back to STAGED. In every other state each is answered ST_FW_SEQUENCE with the state, and the two
FW_ACTIVATE rows in Recess with ST_RECESS.
Completes: fwStageBailiff, fwStagePatch, fwArmBailiff, fwArmPatch, fwActivate, fwDisarm. -/
def Obligations.StagingAndArming : Prop :=
  (∀ (s : State) (ring : BitVec 6) (p : Packet) (image : HostRead (List Byte)) (programmed : Bool), Ready s ring p →
      let f := fetchedOf s ring p
      let u := fetch ring s
      let bytes := param p 16 4
      let kept (l : List Byte) (v : State) : State := if l.length ≤ 0x1100000 then psramStore 0x0C00000 l v else v
      let stages (c : Instr) (kind : Nat) (staged : State → FwImage → Prop) : Prop :=
        let v := spoilTarget kind u
        (∀ x, image = .fault x → exec c s = .next (answer f (failWith 0x104 x.toNat) v)) ∧
        (∀ raw, image = .data raw →
          let l := padTo bytes raw
          (∀ n st d, fwVerdict v kind bytes l = some (n, st, d) →
            exec c s = .next (answer f { failWith st d with result := BitVec.ofNat 96 n } (kept l v))) ∧
          (fwVerdict v kind bytes l = none → programmed = true → ∃ t, exec c s = .next t ∧ t.fw.evStaged = true ∧
            t.fw.bank = s.fw.bank ∧ t.glb.fwCause = true ∧ t.streams = s.streams ∧ staged t (fwHeadOf l).image))
      (wellFormed (.fwStageBailiff ring p image programmed) = true →
        (2 < s.fw.upd.toNat →
          exec (.fwStageBailiff ring p image programmed) s = .next (answer f (failWith 0x402 s.fw.upd.toNat) u)) ∧
        (s.fw.upd.toNat ≤ 2 →
          (spoilTarget 0 u).fw.bankValid.getLsbD (otherBank s.fw) = false ∧ (spoilTarget 0 u).fw.upd = 0 ∧
          stages (.fwStageBailiff ring p image programmed) 0 fun t m => t.fw.upd = 2 ∧
            t.fw.bankValid.getLsbD (otherBank s.fw) = true ∧ getAt {} (otherBank s.fw) t.fw.banks = m)) ∧
      (wellFormed (.fwStagePatch ring p image programmed) = true →
        (spoilTarget 1 u).fw.patchValid.getLsbD (sparePatch s) = false ∧ (spoilTarget 1 u).fw.upd = s.fw.upd ∧
        stages (.fwStagePatch ring p image programmed) 1 fun t _ => t.fw.upd = s.fw.upd ∧
          t.fw.patchStaged = some (sparePatch s) ∧ t.fw.patchPending = false)) ∧
  (∀ (s : State) (ring : BitVec 6) (p : Packet), Ready s ring p →
      let f := fetchedOf s ring p
      let u := fetch ring s
      let wrong := Host.Outcome.next (ρ := Refusal) (φ := Fault) (answer f (failWith 0x402 s.fw.upd.toNat) u)
      (wellFormed (.fwArmBailiff ring p) = true →
        let m := stagedImage s
        let fits := m.inMin ≤ (runningImage s).outFmt ∧ (runningImage s).outFmt ≤ m.inMax
        (s.fw.upd ≠ 2 ∨ ¬ fits → exec (.fwArmBailiff ring p) s = wrong) ∧
        (s.fw.upd = 2 → fits → ∃ t, exec (.fwArmBailiff ring p) s = .next t ∧ t = answer f {} { u with fw := t.fw } ∧ t.fw.upd = 3 ∧
          t.fw.syncEn = (param p 8 1).testBit 1 ∧ t.fw.hostConfirm = (param p 8 1).testBit 2 ∧
          t.fw.healthS = (if param p 10 2 = 0 then 120 else param p 10 2) ∧ t.fw.bank = s.fw.bank)) ∧
      (wellFormed (.fwArmPatch ring p) = true →
        (s.fw.patchStaged = none ∨ s.fw.patchPending = true → exec (.fwArmPatch ring p) s = wrong) ∧
        (∀ n, s.fw.patchStaged = some n → n < 2 → s.fw.patchPending = false → ∃ t, exec (.fwArmPatch ring p) s = .next t ∧
          t = answer f {} { u with fw := t.fw } ∧ t.fw.patchPending = true ∧ t.fw.patchValid.getLsbD n = true ∧ t.fw.upd = s.fw.upd)) ∧
      (wellFormed (.fwActivate ring p) = true →
        (s.pwr.recess = true → exec (.fwActivate ring p) s = .next (answer f (failWith 0x201 0) u)) ∧
        (s.pwr.recess = false → s.fw.upd = 3 → ∃ t, exec (.fwActivate ring p) s = .next t ∧ t.fw.upd = 4 ∧ t.fw.step = 1 ∧
          t.fw.trigger = some (ring, p.tag) ∧ t.fw.triggerAt = s.now ∧ Waits t ring p.tag .switching ∧ t.fw.bank = s.fw.bank) ∧
        (s.pwr.recess = false → s.fw.upd = 4 → ∃ t, exec (.fwActivate ring p) s = .next t ∧ t.fw.upd = 4 ∧
          t.fw.joined = s.fw.joined ++ [(ring, p.tag)] ∧ t.fw.trigger = s.fw.trigger ∧ Waits t ring p.tag .switching) ∧
        (s.pwr.recess = false → s.fw.upd ≠ 3 → s.fw.upd ≠ 4 → exec (.fwActivate ring p) s = wrong)) ∧
      (wellFormed (.fwDisarm ring p) = true →
        (s.pwr.recess = false → s.fw.upd = 3 → ∃ t, exec (.fwDisarm ring p) s = .next t ∧
          t = answer f {} { u with fw := t.fw } ∧ t.fw.upd = 2 ∧ t.fw.bank = s.fw.bank ∧ t.fw.bankValid = s.fw.bankValid) ∧
        (s.pwr.recess = false → s.fw.upd ≠ 3 → exec (.fwDisarm ring p) s = wrong)))

/-- R376: the load of the boot blocks in step 2 starts the new image: TRIAL, the other bank runs, ACTIVATED, the trial
count starts, and every command that triggered or joined the switch is answered. Past 2 management steps an image that
has not quiesced leaves no handover record. The remaining blocks load in ascending order.
R378 to R381: a confirmation that R378 grants ends TRIAL in IDLE, records the running bank, raises the rollback
counters to the image's SVN and revokes what the image names but its own key; one it does not grant changes nothing.
The end of the trial count, REJECT and a restart in SWITCHING or TRIAL fall back: the new bank is invalid, the previous
one runs, IDLE, FALLBACK; a restart at any other time counts, with its reason.
R335, R377: a SYNC_IN edge in ARMED with SYNC_EN starts the switch, or is held in Recess; every other edge sets
SYNC_IGNORED and starts nothing; one during a brown-out reset is lost.
Completes: quiesceTimeout, bootLoadComplete, fwConfirm, fwReject, syncInEdge, aliveTimeout, firewallBlock,
mgmtSramError, confirmRequest, trialTimeout, remainingBlockLoad. -/
def Obligations.SwitchTrialAndSyncIn : Prop :=
  (∀ (s : State),
      (s.fw.step ≠ 2 → ∀ ok, exec (.bootLoadComplete ok) s = .next s) ∧
      (s.fw.step = 2 → ∃ t, exec (.bootLoadComplete true) s = .next t ∧ t.fw.upd = 5 ∧ t.fw.step = 0 ∧
        t.fw.bank = BitVec.ofNat 1 (1 - s.fw.bank.toNat) ∧ t.fw.evActivated = true ∧ t.fw.clusterReset = false ∧
        t.fw.trialEnd = s.now + s.fw.healthS * 1250000000 ∧ t.fw.trigger = none ∧ t.fw.joined = [] ∧
        t.fw.loadedBlocks = (stagedImage s).bootBlocks ∧ t.fw.bankValid = s.fw.bankValid) ∧
      (∃ t, exec .quiesceTimeout s = .next t ∧ t = { s with fw := t.fw } ∧
        t.fw = { s.fw with handover := s.fw.handover && !(s.fw.step == 1 && decide (s.fw.triggerAt + 2000000 ≤ s.now)
          && decide (2000000 < Config.quiesceFc s.fw.triggerAt)) }) ∧
      (∀ block, s.fw.loadedBlocks ≠ 0 → block = s.fw.loadedBlocks → block < (runningImage s).blocks →
        exec (.remainingBlockLoad block true) s = .next { s with fw := { s.fw with loadedBlocks := block + 1 } })) ∧
  (∀ (s : State),
      (∃ t, exec .confirmRequest s = .next t ∧
        (s.fw.upd ≠ 5 ∨ s.fw.restarted = true ∨ (s.fw.hostConfirm = true ∧ s.fw.confirmSeen = false) → t = s) ∧
        (s.fw.upd = 5 → s.fw.restarted = false → (s.fw.hostConfirm = true → s.fw.confirmSeen = true) →
          t.fw.upd = 0 ∧ t.fw.bank = s.fw.bank ∧ t.fw.evConfirmed = true ∧ t.fw.trialEnd = 0 ∧
          t.fw.bailiffCtr.toNat = min 127 (max s.fw.bailiffCtr.toNat (runningImage s).svn.toNat) ∧
          (t.fw.revoked.getLsbD (runningImage s).key.toNat = s.fw.revoked.getLsbD (runningImage s).key.toNat))) ∧
      (s.fw.upd = 5 →
        let fallsBack (c : Instr) : Prop := ∃ t, exec c s = .next t ∧ t.fw.upd = 0 ∧
          t.fw.bank = BitVec.ofNat 1 (1 - s.fw.bank.toNat) ∧ t.fw.bankValid.getLsbD s.fw.bank.toNat = false ∧
          t.fw.evFallback = true ∧ t.fw.trialEnd = 0 ∧ t.fw.bailiffCtr = s.fw.bailiffCtr
        (s.fw.trialEnd ≤ s.now → fallsBack .trialTimeout) ∧
        (∀ w : Word, hostAccess s = true → w.getLsbD 1 = true → fallsBack (.fwReject w)) ∧
        (s.fw.clusterReset = false → s.glb.ready = true →
          (s.fw.aliveAt + 63000000 ≤ s.now → fallsBack .aliveTimeout) ∧ (∀ w, fallsBack (.firewallBlock w)) ∧
          fallsBack .mgmtSramError)) ∧
      (s.fw.upd ≠ 4 → s.fw.upd ≠ 5 → s.fw.clusterReset = false → s.glb.ready = true →
        let restarts (c : Instr) (reason : Nat) : Prop := ∃ t, exec c s = .next t ∧ t.fw.restarts = satAddW s.fw.restarts 1 ∧ t.fw.reason = BitVec.ofNat 4 reason ∧
          t.fw.evRestart = true ∧ t.fw.upd = s.fw.upd ∧ t.fw.bank = s.fw.bank ∧ t.streams = s.streams ∧ t.bell = s.bell
        (s.fw.aliveAt + 63000000 ≤ s.now → restarts .aliveTimeout 1) ∧ (∀ w, restarts (.firewallBlock w) 2) ∧
        restarts .mgmtSramError 3) ∧
      (∀ w : Word, w.getLsbD 0 = true → w.getLsbD 1 = false → hostAccess s = true →
        exec (.fwConfirm w) s = .next { s with fw := { s.fw with confirmSeen := s.fw.confirmSeen || s.fw.upd == 5 } })) ∧
  (∀ (s : State),
      (s.pwr.aonReset = true → exec .syncInEdge s = .next s) ∧
      (s.pwr.aonReset = false → s.fw.upd = 3 → s.fw.syncEn = true → ∃ t, exec .syncInEdge s = .next t ∧
        (s.pwr.recess = false → t.fw.upd = 4 ∧ t.fw.step = 1 ∧ t.fw.trigger = none ∧ t.fw.triggerAt = s.now) ∧
        (s.pwr.recess = true → t.fw.upd = 3 ∧ t.pwr.heldSync = true)) ∧
      (s.pwr.aonReset = false → ¬ (s.fw.upd = 3 ∧ s.fw.syncEn = true) → ∃ t, exec .syncInEdge s = .next t ∧
        t.fw.evSyncIgnored = true ∧ t.fw.upd = s.fw.upd ∧ t.fw.step = s.fw.step ∧ t.pwr.heldSync = s.pwr.heldSync))

/-- R360, R361: while the DOE mailbox is served, GET_VERSION starts the negotiation; GET_CAPABILITIES and
NEGOTIATE_ALGORITHMS take it on in order; a request before its step answers ERROR UnexpectedRequest, an unknown one
ERROR UnsupportedRequest with its code; after negotiation each answers its own response; DOE_ABORT ends the exchange.
The message formats are the model's (notes/assumptions/22.md).
Completes: getVersion, getCapabilities, negotiateAlgorithms, getDigests, getCertificate, challenge, getMeasurements,
spdmUnsupportedRequest, doeAbort. -/
def Obligations.AttestationAnswersInOrder : Prop :=
  ∀ (s : State), doeServes s = true →
    let answers (c : Instr) (code : Byte) : Prop :=
      ∃ t b, exec c s = .next t ∧ t.out = .doe b :: s.out ∧ t.fw.doeObject = b ∧ t.fw.spdm = s.fw.spdm ∧
        (s.fw.spdm < 3 → b = spdmError 4 0) ∧ (3 ≤ s.fw.spdm → b.take 2 = [0x13, code])
    (∃ t b, exec .getVersion s = .next t ∧ t.fw.spdm = 1 ∧ t.out = .doe b :: s.out ∧ t.fw.doeObject = b) ∧
    (∃ t b, exec .getCapabilities s = .next t ∧ t.out = .doe b :: s.out ∧ t.fw.doeObject = b ∧
      (s.fw.spdm = 0 → t.fw.spdm = 0 ∧ b = spdmError 4 0) ∧ (1 ≤ s.fw.spdm → t.fw.spdm = 2 ∧ b.take 2 = [0x13, 0x61])) ∧
    (∃ t b, exec .negotiateAlgorithms s = .next t ∧ t.out = .doe b :: s.out ∧ t.fw.doeObject = b ∧
      (s.fw.spdm < 2 → t.fw.spdm = s.fw.spdm ∧ b = spdmError 4 0) ∧
      (2 ≤ s.fw.spdm → t.fw.spdm = 3 ∧ b.take 2 = [0x13, 0x63])) ∧
    (answers .getDigests 0x01 ∧
      (∀ slot o n, certSlots.contains slot = true → o < (Config.certChain slot).length →
        answers (.getCertificate slot o n) 0x02) ∧
      (∀ slot nonce, certSlots.contains slot = true → answers (.challenge slot nonce) 0x03) ∧
      (∀ nonce, answers (.getMeasurements nonce) 0x60)) ∧
    (∀ code, ∃ t, exec (.spdmUnsupportedRequest code) s = .next t ∧
      t.out = .doe [0x13, 0x7F, 7, code] :: s.out ∧ t.fw.spdm = s.fw.spdm) ∧
    (∃ t, exec .doeAbort s = .next t ∧ t.fw.doeObject = [] ∧ t.out = s.out ∧ t.fw.spdm = s.fw.spdm)

/-! ## Power domains and Recess -/

/-- R326 to R329: OFF_REQ and ENGINE_IDLE_OFF ask a domain and change nothing else of it; ACK, which a domain sends only
when nothing holds it, switches it off or to retention; DELAY keeps the request open for its time; REFUSE and an expired
DELAY leave the domain as it is, stand in PWR_REFUSE, and end a Recess entry that waits for the domain; WAKE_REQ is held
while the regulator is in LOW; READY turns the domain on.
Completes: engineIdleOff, offReq, wakeReq, ack, delay, refuse, ready, delayExpired. -/
def Obligations.PowerHandshakeSwitchesDomains : Prop :=
  ∀ (s : State) (domain : BitVec 9), pwrWorks s = true →
    let d := domain.toNat
    let open_ := findAt d s.pwr.hs
    let asked (t : State) (mode : BitVec 2) : Prop := t.out = .powerMsg d 0 mode.toNat :: s.out ∧
      findAt d t.pwr.hs = some { mode := mode } ∧ t.pwr.on = s.pwr.on ∧ t.cores = s.cores ∧ t.pwr.entry = s.pwr.entry
    let refused (t : State) (reason : Byte) : Prop := findAt d t.pwr.hs = none ∧ t.pwr.refDomain = domain ∧
      t.pwr.refReason = reason ∧ t.pwr.refEntry = entryWaits s d ∧ t.pwr.refusals = satAdd s.pwr.refusals 1 ∧
      (entryWaits s d = false → t.pwr.on = s.pwr.on ∧ t.cores = s.cores ∧ t.pwr.entry = s.pwr.entry ∧ t.bell = s.bell) ∧
      (entryWaits s d = true → t.pwr.entry = none ∧ t.pwr.transition = 0 ∧ t.pwr.refusal = true ∧ t.bell.running = true ∧
        t.bell.roundStart = s.now)
    (∀ mode : BitVec 2, open_ = none → domainOn s d = true →
      ((∃ e, s.pwr.entry = some e ∧ e.todo.head? = some (d, mode)) ∨ (mode = 0 ∧ offTrigger s d = true)) →
      ∃ t, exec (.offReq domain mode) s = .next t ∧ asked t mode) ∧
    (∀ k i, engineDomain d = some (k, i) → open_ = none → idleDue s k i = true →
      ∃ t, exec (.engineIdleOff k (BitVec.ofNat 5 i)) s = .next t ∧ asked t 0) ∧
    (∀ h, open_ = some h →
      (∀ a, answerOf s d h = some a → exec (.ack domain) s = .next s) ∧
      (answerOf s d h = none → s.pwr.entry = none → ∃ t, exec (.ack domain) s = .next t ∧ findAt d t.pwr.hs = none ∧
        (d ≠ 266 → domainOn t d = false) ∧ (h.mode = 1 → 128 ≤ d → d ≠ 266 → d ∈ t.pwr.retained) ∧
        (∀ x, x ≠ d → domainOn t x = domainOn s x) ∧ t.bell = s.bell ∧ t.streams = s.streams) ∧
      (∀ (reason : Byte) us, answerOf s d h = some (false, reason.toNat) → us ≤ 4000 → h.delayUntil = none →
        ∃ t, exec (.delay domain reason us) s = .next t ∧ t = { s with pwr := t.pwr } ∧
          findAt d t.pwr.hs = some { h with delayUntil := some (s.now + 1250 * us) } ∧ t.pwr.on = s.pwr.on) ∧
      (∀ reason : Byte, answerOf s d h = some (true, reason.toNat) →
        ∃ t, exec (.refuse domain reason) s = .next t ∧ refused t reason) ∧
      (∀ limit, h.delayUntil = some limit →
        (limit ≤ s.now ∨ (entryWaits s d = true ∧ phaseOver s = true) →
          ∃ t, exec (.delayExpired domain) s = .next t ∧ refused t 0x0A) ∧
        (s.now < limit → entryWaits s d = false → exec (.delayExpired domain) s = .next s))) ∧
    (d < 272 → domainOn s d = false → domainRetired s d = false → s.pwr.recess = false ∨ s.pwr.exit_.isSome = true →
      ∃ t, exec (.wakeReq domain) s = .next t ∧ domainOn t d = false ∧
        (s.pwr.aonLow = false → t.out = .powerMsg d 4 0 :: s.out ∧ d ∈ t.pwr.waking) ∧
        (s.pwr.aonLow = true → t.out = s.out ∧ (s.pwr.wakeQueue.length < 16 → d ∈ t.pwr.wakeQueue))) ∧
    (d ∈ s.pwr.waking → 128 ≤ d ∨ (∀ g, g < 16 → 248 + g ∈ s.pwr.on) →
      ∃ t, exec (.ready domain) s = .next t ∧ domainOn t d = true ∧ d ∉ t.pwr.waking ∧ t.bell = s.bell)

/-- R324, R331 to R337: RECESS_ENTER stops the rounds and starts the handshakes, unless the device is in Recess or a stream
holds a reservation; RECESS_EXIT starts the wake, and its end starts rounds with no track and no park record; an access
powers the domain of its register, which reverts after a management step; LOW is left 50 µs after its event; a brown-out
returns the always-on settings to power-on values and takes the device OUT_OF_SERVICE until the host restores it.
Completes: recessEnter, recessExit, recessExitRoundStart, hostAccessWake, recessDomainRevert, brownout,
aonFullReached, clkreqLinkExit, brownoutRecovery. -/
def Obligations.RecessAndTheAlwaysOnDomain : Prop :=
  ∀ (s : State),
    (∀ ring p, Ready s ring p →
      let f := fetchedOf s ring p
      let u := fetch ring s
      (p.opcode = 0x1C →
        (s.pwr.recess = true → exec (.recessEnter ring p) s = .next (answer f (failWith 0x201 0) u)) ∧
        (s.pwr.recess = false → ∀ e, (holders s).head? = some e →
          exec (.recessEnter ring p) s = .next (answer f (failWith 0x200 (stateCode e.2.state)) u)) ∧
        (s.pwr.recess = false → holders s = [] → ∃ t e, exec (.recessEnter ring p) s = .next t ∧
          t.bell.running = false ∧ t.pwr.transition = 1 ∧ t.pwr.recess = false ∧ Waits t ring p.tag .recess ∧
          t.pwr.entry = some e ∧ e.done = [] ∧ e.start = s.now ∧ e.banks = decide (param p 8 1 = 1) ∧
          e.todo.getLast? = some (266, 0) ∧ t.mem = s.mem ∧ t.streams = s.streams)) ∧
      (p.opcode = 0x1D →
        (s.pwr.recess = false → exec (.recessExit ring p) s = .next (answer f (failWith 0x200 0) u)) ∧
        (s.pwr.recess = true → ∃ t, exec (.recessExit ring p) s = .next t ∧ t.pwr.transition = 2 ∧
          t.pwr.exit_ = some (s.now, (ring, p.tag)) ∧ Waits t ring p.tag .recess ∧ t.cores = s.cores ∧ t.bell = s.bell))) ∧
    (s.pwr.exit_ = none → exec .recessExitRoundStart s = .next s) ∧
    (∀ x, s.pwr.exit_ = some x → s.pwr.aonLow = false → pwrWorks s = true → s.flt.later = [] → s.pwr.heldSync = false →
      ∃ t, exec .recessExitRoundStart s = .next t ∧ t.pwr.recess = false ∧ t.pwr.transition = 0 ∧ t.pwr.exit_ = none ∧
        t.bell.running = true ∧ t.bell.roundStart = s.now ∧ t.trk.tracks = [] ∧ t.mem.parks = [] ∧
        t.glb.ready = (s.glb.ready || s.link.flrRecess)) ∧
    (∀ (offset : BitVec 24) (us : BitVec 16), hostAccess s = true → us.toNat ≤ 30 →
      let d := regDomain offset.toNat
      (shellUp s d = true → exec (.hostAccessWake offset us) s = .next s) ∧
      (shellUp s d = false → s.pwr.aonReset = false → s.pwr.aonLow = false →
        ∃ t, exec (.hostAccessWake offset us) s = .next t ∧ shellUp t d = true ∧
          t.pwr.stallCount = satAddW s.pwr.stallCount 1 ∧
          t.pwr.stallMax = (if s.pwr.stallMax < us then us else s.pwr.stallMax) ∧
          domainOn t d = !shellOnly s d ∧ t.bell = s.bell)) ∧
    (∀ domain : BitVec 9,
      let due := ∃ e ∈ s.pwr.shells, e.1 = domain.toNat ∧ e.2 + 1000000 ≤ s.now
      (s.pwr.recess = false ∨ s.pwr.exit_.isSome = true ∨ ¬ due → exec (.recessDomainRevert domain) s = .next s) ∧
      (s.pwr.recess = true → s.pwr.exit_ = none → due → ∃ t, exec (.recessDomainRevert domain) s = .next t ∧
        (∀ e ∈ t.pwr.shells, e.1 ≠ domain.toNat) ∧
        (domain.toNat ≠ 266 → shellOnly s domain.toNat = false → domainOn t domain.toNat = false))) ∧
    (s.pwr.fullAt = none → exec .aonFullReached s = .next s) ∧
    (∀ x, s.pwr.fullAt = some x →
      (s.now < x → exec .aonFullReached s = .next s) ∧
      (x ≤ s.now → ∃ t, exec .aonFullReached s = .next t ∧ t.pwr.aonLow = false ∧ t.pwr.fullAt = none ∧
        t.pwr.wakeQueue = [] ∧ ∀ d ∈ s.pwr.wakeQueue, d ∈ t.pwr.waking)) ∧
    (s.link.state = .l1 ∨ s.link.state = .l12 → ∃ t, exec .clkreqLinkExit s = .next t ∧ t.link.state = .l0 ∧
      (s.pwr.aonLow = true → s.pwr.leaving = false → t.pwr.fullAt = some (s.now + 62500))) ∧
    (∃ t, exec .brownout s = .next t ∧ Records s t 0x502 5 ∧ t.flt.oos = true ∧ t.pwr.aonReset = true ∧
      t.pwr.brownout = true ∧ t.pwr.brownouts = satAddW s.pwr.brownouts 1 ∧ t.pwr.engIdle = 125 ∧ t.pwr.aonLowEn = true ∧
      t.pwr.wakeQueue = [] ∧ t.pwr.heldSync = false) ∧
    (s.pwr.aonReset = false → exec .brownoutRecovery s = .next s) ∧
    (s.pwr.aonReset = true → ∃ t, exec .brownoutRecovery s = .next t ∧ t.pwr.aonReset = false ∧ t.flt = s.flt)

/-! ## The track store and records -/

/-- R237, R238, R241, R247: a track-store row acts only while its operation runs. ROWS gives rows to the tracks of the
streams
analysed in the round, no more than the row map reserves, with the history indices of each in ring order; APPLY, EMIT and
ROWS end their operation; APPLY writes TRACK and BFLAGS of the entries of lists that lie in the Granary and no other byte;
EMIT changes no track and gives its records once.
Completes: rows, apply, emit. -/
def Obligations.TrackStoreOperationsComplete : Prop :=
  ∀ (s : State) (lists : List RecList) (predicted : List Predicted),
    (trackRuns s 1 = none → exec (.rows lists) s = .next s) ∧
    (trackRuns s 2 = none → exec (.apply lists predicted) s = .next s) ∧
    (trackRuns s 3 = none → exec (.emit lists) s = .next s) ∧
    (∀ arg, trackRuns s 1 = some arg →
      let b := arg % 4096
      let rows := (trackRows s (netOfMap s b)).take (rowMapEntry s b).2.1
      ∃ t, exec (.rows lists) s = .next t ∧ t.trk.busy = false ∧ t.trk.tracks = s.trk.tracks ∧ t.trk.hist = s.trk.hist ∧
        t.trk.rowTracks = s.trk.rowTracks ++ rows ∧
        t.trk.rowHist = s.trk.rowHist ++ rows.map (fun r => (findAt r.1 s.trk.tracks).elim [] ringOrder) ∧ rows.length ≤ (rowMapEntry s b).2.1 ∧
        (∀ r ∈ rows, ∃ v, (r.1, v) ∈ s.trk.tracks ∧ r.2 ∈ analysedFrames s v.ctx.toNat) ∧
        t.streams = s.streams ∧ t.cmd = s.cmd) ∧
    (∀ arg, trackRuns s 2 = some arg →
      ∃ t, exec (.apply lists predicted) s = .next t ∧ t.trk.busy = false ∧ t.bell = s.bell ∧ t.cmd = s.cmd ∧
        t.frames = s.frames ∧ t.trk.rowTracks = s.trk.rowTracks ∧
        ((∀ l ∈ mergeLists s.trk.lists lists, l.base = none) → t.mem = s.mem) ∧
        (∀ x, (∀ l ∈ mergeLists s.trk.lists lists, ∀ b, l.base = some b →
            x < granaryBase + b + 56 ∨ granaryBase + b + 32 + 32 * l.entries.length ≤ x) →
          memByte t.mem.dpa x = memByte s.mem.dpa x) ∧
        ((∀ c, analysedFrames s c = []) → t.trk.tracks = s.trk.tracks ∧ t.trk.hist = s.trk.hist)) ∧
    (∀ arg, trackRuns s 3 = some arg →
      ∃ t, exec (.emit lists) s = .next t ∧ t.trk.busy = false ∧ t.bell.emitRan = true ∧ t.trk.tracks = s.trk.tracks ∧
        t.trk.hist = s.trk.hist ∧ (∀ c, (streamAt t c).state = (streamAt s c).state) ∧
        (s.bell.emitRan = true → (∀ o ∈ s.cmd.outstanding, ∀ r, o.cause ≠ .lastRecord r) → t.cmd = s.cmd ∧ t.streams = s.streams ∧ t.dests = s.dests ∧ t.pools = s.pools))

/-- R236, R242 to R244: the steps of APPLY on one track. A miss is counted once per frame, and a track that reaches MAX_MISS
leaves with its entries, its shared ones going to the headroom; a match updates the track once per frame and takes an
allotted entry or a shared entry, the newest of its ring, or its own oldest; a detection joins at the lowest free
identity while its stream has an
allotment left, and is otherwise refused and counted. -/
def Obligations.TracksJoinGrowAndLeave : Prop :=
  ∀ (s : State),
    (∀ (matched : Bool) maxMiss seq id (v : Track), findAt id s.trk.tracks = some v → seq < 2 ^ 32 →
      let counts := matched = false ∧ v.missSeq.toNat ≠ seq
      let w := if counts then { v with misses := satAddW v.misses 1, missSeq := BitVec.ofNat 32 seq } else v
      let t := missTrack matched maxMiss seq id s
      (w.misses.toNat < maxMiss → findAt id t.trk.tracks = some w ∧ t.trk.hist = s.trk.hist ∧ t.streams = s.streams) ∧
      (maxMiss ≤ w.misses.toNat → findAt id t.trk.tracks = none ∧
        t.trk.headroom = s.trk.headroom + (v.hist.filter (·.2)).length ∧
        (∀ h ∈ v.hist, ∀ e ∈ t.trk.hist, e.1 ≠ h.1) ∧
        (holds (streamAt s v.ctx.toNat).state = true →
          (streamAt t v.ctx.toNat).histFree =
            (streamAt s v.ctx.toNat).histFree + (trackParams s v.ctx.toNat).histMin)) ∧
      (∀ j, j ≠ id → findAt j t.trk.tracks = findAt j s.trk.tracks)) ∧
    (∀ (a : TrackParams) seq (p : Pair) (d : BoxEntry) (v : Track), findAt p.track s.trk.tracks = some v →
      let t := growTrack a seq p d s
      (v.lastSeq.toNat = seq → t = s) ∧
      (v.lastSeq.toNat ≠ seq → ∃ w, findAt p.track t.trk.tracks = some w ∧ w.box = [d.x0, d.y0, d.x1, d.y1] ∧
        w.cls = d.cls ∧ w.lastSeq = BitVec.ofNat 32 seq ∧ w.hits = satAddW v.hits 1 ∧ w.misses = 0 ∧
        w.created = v.created ∧ w.ctx = v.ctx ∧ t.streams = s.streams ∧
        (v.hist.length < a.histMin → w.hist.length = v.hist.length + 1 ∧ t.trk.headroom = s.trk.headroom ∧
          (w.hist.filter (·.2)).length = (v.hist.filter (·.2)).length) ∧
        (a.histMin ≤ v.hist.length → v.hist.length < a.histDepth → 0 < s.trk.headroom →
          w.hist.length = v.hist.length + 1 ∧ t.trk.headroom + 1 = s.trk.headroom ∧
          (w.hist.filter (·.2)).length = (v.hist.filter (·.2)).length + 1) ∧
        (v.hist.length < 16 → v.hpos = 0 ∨ v.hpos.toNat < v.hist.length → w.hist.length = v.hist.length + 1 →
          ∃ k, ringOrder w = ringOrder v ++ [k]) ∧
        (a.histMin ≤ v.hist.length → a.histDepth ≤ v.hist.length ∨ s.trk.headroom = 0 →
          w.hist = v.hist ∧ t.trk.headroom = s.trk.headroom ∧
          (0 < v.hist.length → v.hist.length ≤ 16 → w.hpos.toNat = (v.hpos.toNat + 1) % v.hist.length))) ∧
      (∀ j, j ≠ p.track → findAt j t.trk.tracks = findAt j s.trk.tracks)) ∧
    (∀ (a : TrackParams) (n i j : Nat) (f : FrameRec) (d : BoxEntry),
      let t := joinEntry a n i j f d s
      let free := (streamAt s f.ctx.toNat).histFree
      let ids := s.trk.tracks.map (·.1)
      (∀ id, id < 0x20000 → id ∉ ids → (∀ k, k < id → k ∈ ids) → a.histMin ≤ free →
        ∃ w, findAt id t.trk.tracks = some w ∧ w.ctx = f.ctx ∧ w.created = s.trk.created ∧ w.missSeq = 0xFFFFFFFF ∧
          w.hits = 1 ∧ w.misses = 0 ∧ w.hist.length = 1 ∧ t.trk.created = s.trk.created + 1 ∧
          (streamAt t f.ctx.toNat).histFree = free - a.histMin ∧ t.trk.joinRefused = s.trk.joinRefused ∧
          (∀ k, k ≠ id → findAt k t.trk.tracks = findAt k s.trk.tracks)) ∧
      (free < a.histMin ∨ (∀ k, k < 0x20000 → k ∈ ids) →
        t.trk.tracks = s.trk.tracks ∧ t.trk.hist = s.trk.hist ∧ t.streams = s.streams ∧
          t.trk.joinRefused = satAdd s.trk.joinRefused 1 ∧ t.trk.created = s.trk.created))

/-- R27, R52, R87, R88, R247, R252: a record is written when the ring has the credits it needs, one for each 64 bytes, oldest
first of those that no unanswered STREAM_ADMIT holds back, and counts once for its stream; a datagram takes the oldest
records that fit, in order, with the next sequence number, to the next hop; a next-hop resolution ends the wait of the
records that waited for it.
Completes: recordEgress, datagramSend, nextHopResolved. -/
def Obligations.RecordsLeaveByRingAndDatagram : Prop :=
  ∀ (s : State) (mr : BitVec 6),
    let n := mr.toNat
    (let s1 := refreshMr n s
     let m := mrAt s1 n
     (takeRecord s1 m.queue = none → exec (.recordEgress mr) s = .next s1 ∧ ∀ x ∈ m.queue, mayLeave s1 x = false) ∧
     (∀ q rest, takeRecord s1 m.queue = some (q, rest) →
       (∃ a b, m.queue = a ++ q :: b ∧ rest = a ++ b ∧ mayLeave s1 q = true ∧ ∀ x ∈ a, mayLeave s1 x = false) ∧
       let need := if q.ext.isSome = true then 2 else 1
       (mrUsable s1 n < need ∨ egressDue s1 q = false → exec (.recordEgress mr) s = .next s1) ∧
       (need ≤ mrUsable s1 n → egressDue s1 q = true → m.tail < ringSize m.sizeLog2 →
         ∃ t, exec (.recordEgress mr) s = .next t ∧ (mrAt t n).credit + need = m.credit ∧
           (mrAt t n).queue.map (·.bytes) = rest.map (·.bytes) ∧
           (mrAt t n).tail = (m.tail + need) % ringSize m.sizeLog2 ∧
           .hostWrite (BitVec.ofNat 64 (m.base.toNat + 64 * m.tail)) (finalRecord s1 q m.phase) ∈ t.out ∧
           (streamAt t q.ctx.toNat).cnt.records = (streamAt s q.ctx.toNat).cnt.records + 1 ∧
           (∀ k, k ≠ n → (mrAt t k) = (mrAt s k))))) ∧
    (let d := destAt s n
     let p := portAt s d.port.toNat
     let taken := takeDatagram s d.queue (datagramCap s d)
     (d.enable = false ∨ d.resolved = false ∨ p.linkUp = false ∨ s.now < p.pauseUntil ∨ taken.1 = [] →
       exec (.datagramSend mr) s = .next s) ∧
     (∀ q r, d.enable = true → d.resolved = true → p.linkUp = true → p.pauseUntil ≤ s.now → taken.1 = q :: r →
       (∀ x, (taken.1 ++ taken.2).count x = d.queue.count x) ∧
       ((∀ x ∈ d.queue, mayLeave s x = true) → taken.1 ++ taken.2 = d.queue) ∧
       (windowPassed s q.made = false → taken.2 = [] → exec (.datagramSend mr) s = .next s) ∧
       (windowPassed s q.made = true ∨ taken.2 ≠ [] → ∃ t payload, exec (.datagramSend mr) s = .next t ∧
         .datagram (txHeader s d.port.toNat d.ipv6 d.dstIp) d.dstIp d.dstPort d.srcPort d.dscp payload ∈ t.out ∧
         payload.take 3 = [0x4B, 0x56, 1] ∧ numAt payload 4 4 = d.seq.toNat ∧ (destAt t n).queue = taken.2 ∧
         (destAt t n).seq = d.seq + 1 ∧ (destAt t n).lost = 0 ∧ (∀ k, k ≠ n → destAt t k = destAt s k)))) ∧
    (let d := destAt s n
     let hop := nextHop s d.port.toNat d.ipv6 d.dstIp
     (d.enable = false ∨ d.resolved = true ∨ hop = 0 → exec (.nextHopResolved mr) s = .next s) ∧
     (d.enable = true → d.resolved = false → hop ≠ 0 → ∃ t, exec (.nextHopResolved mr) s = .next t ∧
       t = { s with dests := t.dests } ∧ (destAt t n).resolved = true ∧
       (destAt t n).queue.map (·.bytes) = d.queue.map (·.bytes) ∧ (∀ q ∈ (destAt t n).queue, q.waitFrom = none) ∧
       (∀ k, k ≠ n → destAt t k = destAt s k)))

/-! ## Compute resets and the fault log -/

/-- R302, R305, R308 to R310, R314, R320: an error of the bond or the fabric starts a compute reset, or joins the one that
runs; the reset's end restores the powered cores, adds its time to D, counts it, and leaves its new suspects in replay;
a reset not complete after 312,500 fc takes the device OUT_OF_SERVICE and stays; a copy of the staging ring moves every
record and capture set to the PSRAM store, oldest overwritten first.
Completes: fabricError, computeResetComplete, resetTimeout, faultLogCopy. -/
def Obligations.ComputeResetsRunAndEnd : Prop :=
  ∀ (s : State),
    (∀ index : BitVec 12, s.pwr.exit_ = none →
      (s.flt.reset = none → ∃ t, exec (.fabricError index) s = .next t ∧ ResetStarts s t 0x107 ∧ t.streams = s.streams) ∧
      (∀ x, s.flt.reset = some x → ∃ t y, exec (.fabricError index) s = .next t ∧ Records s t 0x107 4 ∧
        t.flt.reset = some y ∧ y.at_ = x.at_ ∧ t.flt.captures = s.flt.captures ∧ t.cores = s.cores)) ∧
    (s.flt.reset = none ∨ s.flt.stuck = true → exec .computeResetComplete s = .next s) ∧
    (∀ x, s.flt.reset = some x → s.flt.stuck = false →
      ∃ t, exec .computeResetComplete s = .next t ∧ t.flt.reset = none ∧ t.flt.resets = satAdd s.flt.resets 1 ∧
        t.flt.resetEvent = true ∧ t.bell.layerOpen = (s.bell.layerOpen && x.layerRan.isNone) ∧
        (x.layerRan = none → t.bell.shift = s.bell.shift + (s.now - x.at_)) ∧
        (x.layerRan ≠ none → s.bell.shift ≤ t.bell.shift) ∧
        (∀ y ∈ x.suspects, (∀ z ∈ s.flt.replaying, sameSuspect z y = false) → y ∈ t.flt.replaying) ∧
        (∀ n, (coreAt s n).powered = true → (coreAt t n).acc = [] ∧ (coreAt t n).seq = {} ∧
          (coreAt t n).act.cells = [] ∧ (coreAt t n).act.gen ≠ 0) ∧
        (∀ n, (∀ e ∈ s.cores, e.1 = n → e.2.powered = false) → coreAt t n = coreAt s n)) ∧
    (s.flt.reset = none ∨ s.flt.stuck = true → exec .resetTimeout s = .next s) ∧
    (∀ x, s.flt.reset = some x → s.flt.stuck = false →
      (s.now < x.at_ + 312500 → exec .resetTimeout s = .next s) ∧
      (x.at_ + 312500 ≤ s.now → ∃ t, exec .resetTimeout s = .next t ∧ Records s t 0x105 5 ∧ t.flt.stuck = true ∧
        t.flt.oos = true ∧ t.flt.reset = some x ∧
        (s.flt.oos = false → t.flt.oosCause.toNat = 0x105 ∧ t.flt.oosPending = true))) ∧
    (s.pwr.aonLow = true → exec .faultLogCopy s = .next s) ∧
    (s.pwr.aonLow = false → ∃ t, exec .faultLogCopy s = .next t ∧ t.flt.staging = [] ∧ t.flt.captures = [] ∧
      t.flt.psram.length ≤ 16384 ∧ t.flt.psram <:+ s.flt.psram ++ s.flt.staging ∧
      (s.flt.psram.length + s.flt.staging.length ≤ 16384 → t.flt.psram = s.flt.psram ++ s.flt.staging) ∧
      t.flt.copiedCaptures <:+ s.flt.copiedCaptures ++ s.flt.captures ∧ t.flt.lastSeq = s.flt.lastSeq ∧
      t.flt.reset = s.flt.reset ∧ t.streams = s.streams)

/-! ## Tile instructions -/

/-- R216 to R219, R223, R224: a row of a tile instruction does nothing where its core does not run or its next word is
another
one; a program counter beyond 4,095, a word that rule 1 refuses and an instruction that a later check refuses raise the
instruction fault; an instruction that must wait leaves the state as it is. -/
def Obligations.IssueChecksRaiseInstructionFaults : Prop :=
  ∀ (s : State) (i : Instr) (core : BitVec 7) (w : BitVec 128), tileCmd i = some (core, w) → wellFormed i = true →
    let n := core.toNat
    (¬ Runs s n → exec i s = .next s) ∧
    (Runs s n → 4095 < (coreAt s n).seq.pc →
      ∃ t, exec i s = .next t ∧ FaultsWith s t n 0 2 ((coreAt s n).seq.pc - 4095)) ∧
    (∀ x, AtWord s n x →
      (∀ b, badField x = some b → ∃ t, exec i s = .next t ∧ FaultsWith s t n (insnOp x) 1 b) ∧
      (badField x = none → x ≠ w.toNat → exec i s = .next s) ∧
      (badField x = none → x = w.toNat → ∀ res amount, firstBad s n x (checksOf x) = some (res, amount) →
        ∃ t, exec i s = .next t ∧ FaultsWith s t n (insnOp x) res amount) ∧
      (badField x = none → x = w.toNat → firstBad s n x (checksOf x) = none → issues s n x = false →
        exec i s = .next s))

/-- R217, R220, R227: what SYNC does: END reports finish, STEPS, MARKS and PARAM set their registers, QUIET only waits.
Nothing else of the core, and no other core, changes.
Completes: syncEnd, syncSteps, syncQuiet, syncMarks, syncParam. -/
def Obligations.SyncSetsSequencerRegisters : Prop :=
  ∀ (s : State) (core : BitVec 7) (w : BitVec 128), Issues s core.toNat w.toNat → insnOp w.toNat = 7 →
    let n := core.toNat
    let x := w.toNat
    let c := coreAt s n
    let q := c.seq
    (isSync 1 x = true → ∃ t, exec (.syncEnd core w) s = .next t ∧ OnlyCore s t n ∧
      coreAt t n = { c with busy := false, seq := { q with loop := none, pc := q.pc + 1 } }) ∧
    (isSync 2 x = true → ∃ t, exec (.syncSteps core w) s = .next t ∧ OnlyCore s t n ∧
      coreAt t n = { c with seq := { q with
        sa := bitsOf x 26 11, sw := bitsOf x 41 27, so := bitsOf x 57 42, sr := bitsOf x 81 58, pc := nextPc q } }) ∧
    (isSync 3 x = true → ∃ t, exec (.syncQuiet core w) s = .next t ∧ OnlyCore s t n ∧
      coreAt t n = { c with seq := { q with pc := nextPc q } }) ∧
    (isSync 4 x = true → ∃ t, exec (.syncMarks core w) s = .next t ∧ OnlyCore s t n ∧
      coreAt t n = { c with seq := { q with
        pc := nextPc q
        wmark := (if x.testBit 13 = true then q.wmark.set (bitsOf x 12 11) (bitsOf x 30 14) else q.wmark)
        amark := (if x.testBit 13 = true then q.amark else q.amark.set (bitsOf x 12 11) (bitsOf x 30 14)) } }) ∧
    (isSync 5 x = true → ∃ t, exec (.syncParam core w) s = .next t ∧ OnlyCore s t n ∧
      coreAt t n = { c with seq := { q with pb := bitsOf x 22 11, pc := nextPc q } })

/-- R219, R221, R228 to R230: a CLAIM leaves its loop at MAX_ITER or at the limit, and otherwise takes the next tile number
of its counter, which latched limit and TAG_BASE at its first claim; a body of no instructions leads straight back to the
CLAIM. WLOAD loads a tile or scale entries from the weight buffer, and a scale word of which it writes a part keeps an
uncorrectable error and its bytes (R280); a DMA instruction queues its transfer, with its mark, tag and generation, on the
timed channel of the group.
Completes: wloadWeights, wloadScales, claim, dmaIn, dmaOut. -/
def Obligations.ClaimsLoadsAndTransfers : Prop :=
  ∀ (s : State) (core : BitVec 7) (w : BitVec 128), Issues s core.toNat w.toNat →
    let n := core.toNat
    let x := w.toNat
    let c := coreAt s n
    let q := c.seq
    (insnOp x = 8 →
      let i := bitsOf x 13 8
      let body := bitsOf x 69 58
      let iter := (claimLoop s n).elim 0 (·.iter + 1)
      let s1 := latchClaim x s
      let k := wcAt s1 i
      let left := { c with seq := { q with loop := none, pc := q.pc + body + 1 } }
      (bitsOf x 85 70 ≤ iter → ∃ t, exec (.claim core w) s = .next t ∧ OnlyCore s t n ∧ coreAt t n = left) ∧
      (iter < bitsOf x 85 70 → ∃ t, exec (.claim core w) s = .next t ∧ (∀ m, m ≠ n → coreAt t m = coreAt s m) ∧
        (∀ m, m ≠ i → wcAt t m = wcAt s m) ∧
        (k.limit.toNat ≤ k.value.toNat → wcAt t i = k ∧ coreAt t n = left) ∧
        (k.value.toNat < k.limit.toNat → wcAt t i = { k with value := k.value + 1 } ∧
          coreAt t n = { c with
            seq := { q with
              tn := k.value.toNat, pc := (if body = 0 then q.pc else q.pc + 1)
              loop := some { pc := q.pc, body, iter, wc := i, epoch := k.epoch, attempt := k.attempt } }
            cnt := { c.cnt with claims := satAdd c.cnt.claims 1 } })) ∧
      ((wcAt s i).latched = true → s1 = s) ∧
      ((wcAt s i).latched = false → k.latched = true ∧ k.value = (wcAt s i).value ∧ k.tagBase.toNat = bitsOf x 99 86 ∧
        (x.testBit 30 = false → k.limit.toNat = bitsOf x 29 14 ∧ k.limitPoison = false) ∧
        (∀ v p, x.testBit 30 = true → (dpaReads 0 (granaryBase + 4 * bitsOf x 57 31) 1 s).1 = [(v, p)] →
          k.limit.toNat = (if p = true then bitsOf x 29 14 else min (bitsOf x 29 14) v.toNat) ∧ k.limitPoison = p))) ∧
    (insnOp x = 1 →
      let addr := wloadAddr s n x
      let r := coreBytes n true addr (wloadBytes x) s
      (bitsOf x 9 8 = 0 → ∃ t, exec (.wloadWeights core w) s = .next t ∧ (coreAt t n).tile = r.1 ∧
        (coreAt t n).tilePoison = r.2.1 ∧ (coreAt t n).cnt.wload = satAdd c.cnt.wload 1 ∧
        (coreAt t n).seq = { q with pc := nextPc q } ∧
        (CoreClean c → OnlyCore s t n ∧ (coreAt t n).tilePoison = false ∧
          (coreAt t n).tile = (List.range 8192).map fun k => memByte c.wgt (addr + k))) ∧
      (bitsOf x 9 8 = 1 → ∃ t, exec (.wloadScales core w) s = .next t ∧ (coreAt t n).tile = c.tile ∧
        (coreAt t n).seq = { q with pc := nextPc q } ∧
        (∀ k, k < bitsOf x 37 27 ∨ bitsOf x 37 27 + wloadBytes x ≤ k → c.syn = [] →
          getAt 0 k (coreAt t n).scale = getAt 0 k c.scale) ∧
        (CoreClean c → OnlyCore s t n ∧ ∀ k, k < wloadBytes x →
          getAt 0 (bitsOf x 37 27 + k) (coreAt t n).scale = memByte c.wgt (addr + k)) ∧
        (∀ k, 4 * (k / 4) < bitsOf x 37 27 ∨ bitsOf x 37 27 + wloadBytes x < 4 * (k / 4) + 4 →
          eccKind (coreSyn c 5 (4 * (k / 4))) = .marker → getAt 0 k (coreAt t n).scale = getAt 0 k c.scale))) ∧
    (insnOp x = 9 →
      let out := x.testBit 38
      let tag := dmaTag s n x
      let queues (i : Instr) : Prop := ∃ t y, exec i s = .next t ∧
        t = { s with cores := t.cores, mem := { s.mem with timed := t.mem.timed } } ∧
        (∀ m, m ≠ n → coreAt t m = coreAt s m) ∧ coreAt t n = { c with seq := { q with pc := nextPc q } } ∧
        (∀ g, g ≠ n / 8 → getAt [] g t.mem.timed = getAt [] g s.mem.timed) ∧
        getAt [] (n / 8) t.mem.timed = getAt [] (n / 8) s.mem.timed ++ [y] ∧
        y.desc = dmaExecuted s n x ∧ y.core = n + 1 ∧ y.wgt = x.testBit 37 ∧ y.done = 0 ∧
        y.mark = (if out = false ∧ x.testBit 39 = true then some (bitsOf x 41 40) else none) ∧
        (out = false ∨ x.testBit 42 = false → y.commit = none) ∧
        (∀ l, out = true → x.testBit 42 = true → q.loop = some l → y.commit = some (tag, l.epoch, l.attempt))
      (out = false → queues (.dmaIn core w)) ∧ (out = true → queues (.dmaOut core w)))

/-- R148 to R150, R158, R173, R176, R220: MATMUL and CONV run each vector of each taking part array against the stationary
tile: every entry of the accumulator rows from ACC_ROW is the column's sum over the vector, added to the old entry with
ACC_MODE 1, in the pairing's accumulation type. No other row, and nothing else of the core but counters, changes.
Completes: matmul, conv. -/
def Obligations.ArrayPassesFillAccumulatorRows : Prop :=
  ∀ (s : State) (core : BitVec 7) (w : BitVec 128),
    let n := core.toNat
    let x := w.toNat
    let c := coreAt s n
    Issues s n x → CoreClean c → insnOp x = 2 ∨ insnOp x = 3 →
      let f := actFmt x
      let src (j v b : Nat) : BlockSrc := if insnOp x = 2 then .mem (matmulAddr s n x j v b) else convBlock s n x j v b
      let acts (j v : Nat) : List Nat :=
        (List.range (64 * perCell x)).map fun e => srcElem c f (src j v (e / cpb f)) (e % cpb f)
      let passes (i : Instr) : Prop := ∃ t, exec i s = .next t ∧ OnlyCore s t n ∧
        coreAt t n = { c with
          acc := (coreAt t n).acc, cnt := (coreAt t n).cnt, poisonSeen := (coreAt t n).poisonSeen
          seq := { c.seq with pc := nextPc c.seq } } ∧
        (∀ j v k, j < 4 → v < vectorsOf x j → k < 64 →
          let i := j * 256 + accBase x + v
          let sum := (column x (tileOf c) (acts j v) k).1
          (accRow (coreAt t n) i).fp = pairFp x ∧ (accVals (accRow (coreAt t n) i)).getD k 0 =
            if accAdds x = true then (drainAdd x ((accVals (accRow c i)).getD k 0) sum).1 else sum) ∧
        (∀ i, (∀ j v, j < 4 → v < vectorsOf x j → i ≠ j * 256 + accBase x + v) →
          findAt i (coreAt t n).acc = findAt i c.acc)
      (insnOp x = 2 → passes (.matmul core w)) ∧ (insnOp x = 3 → passes (.conv core w))

/-- R149, R162, R165, R167: an integer column whose partial sums stay in the INT32 range is the exact dot product of the
vector and its weights.
R162, R164, R165, R167: a requantised integer output that nothing saturated lies within half an output step of
(acc + bias) × 2^−SH, a tie going to an even code; a sum outside INT32 and a code outside the format saturate and are
counted. -/
def Obligations.IntegerOutputsAreExactToHalfAStep : Prop :=
  (∀ (w : Nat) (tile : List Byte) (acts : List Nat) (n : Nat), pairFp w = false →
      let p := perCell w
      let a (c : Nat) : Int := if actFmt w = 2 then (acts.getD c 0 : Int) else signedOf (fmtBits (actFmt w)) (acts.getD c 0)
      let term (c : Nat) : Int := a c * signedOf (fmtBits (wgtFmt w)) (weightAt tile w (c / p) n (c % p))
      (∀ m, m ≤ 64 * p → -2147483648 ≤ ((List.range m).map term).sum ∧ ((List.range m).map term).sum ≤ 2147483647) →
      ((column w tile acts n).1).toInt = ((List.range (64 * p)).map term).sum ∧ (column w tile acts n).2 = noEv) ∧
  (∀ (acc bias sh : Int) (f : Fmt), f ≤ 3 → -16 ≤ sh → sh ≤ 31 →
      let r := requantInt acc bias sh f
      let y : Int := if f = 2 then (r.1 : Int) else signedOf (fmtBits f) r.1
      let x := acc + bias
      (intRange f).1 ≤ y ∧ y ≤ (intRange f).2 ∧
      (r.2.acc = 0 ↔ -2147483648 ≤ x ∧ x ≤ 2147483647) ∧
      (r.2.acc = 0 → r.2.out = 0 → 0 < sh → -(2 ^ sh.toNat : Int) ≤ 2 * (y * 2 ^ sh.toNat - x) ∧
        2 * (y * 2 ^ sh.toNat - x) ≤ 2 ^ sh.toNat ∧
        (2 * (y * 2 ^ sh.toNat - x) = 2 ^ sh.toNat ∨ 2 * (y * 2 ^ sh.toNat - x) = -(2 ^ sh.toNat : Int) → y % 2 = 0)) ∧
      (r.2.acc = 0 → r.2.out = 0 → sh ≤ 0 → y = x * 2 ^ (-sh).toNat) ∧
      (r.2.out ≠ 0 → y = (intRange f).1 ∨ y = (intRange f).2))

/-- R171, R180, R184, R185, R220: POOL writes the tile's windows, block by block and row by row, each the largest or the
average value of its taps, or zero past the channel count (`padsZero`), and nothing else of the activation buffer; CROP
writes the region of one entry to the activation
buffer or to the record's region tensors, and nothing where the entry yields no region.
Completes: pool, crop. -/
def Obligations.PoolAndCropWriteTheirTiles : Prop :=
  ∀ (s : State) (core : BitVec 7) (w : BitVec 128),
    let n := core.toNat
    let x := w.toNat
    let c := coreAt s n
    Issues s n x →
    (insnOp x = 4 → CoreClean c →
      let g := poolGeo s n x
      let f := poolFmt x
      let src := poolSrc s n x
      let dst := poolDst s n x
      let size := poolBlocks x * poolRows x g * tensorRow f (poolCols x g)
      ∃ t, exec (.pool core w) s = .next t ∧ OnlyCore s t n ∧
        coreAt t n = { c with
          act := (coreAt t n).act, cnt := (coreAt t n).cnt, seq := { c.seq with pc := nextPc c.seq } } ∧
        (∀ a, a < dst ∨ dst + size ≤ a → memByte (coreAt t n).act a = memByte c.act a) ∧
        (dst + size ≤ src ∨ src + poolBlocks x * g.bandH * g.row ≤ dst →
          ∀ b i j k, b < poolBlocks x → i < poolRows x g → j < poolCols x g → k < cpb f →
            let oy := if poolGlobal x = true then 0 else g.oy0 + i
            let ox := if poolGlobal x = true then 0 else g.ox0 + j
            let taps := poolTaps x g oy ox
            let win := taps.map fun p => srcElem c f (bandBlock g f src b p.1 p.2) k
            let d := poolDivisor x g taps.length
            win ≠ [] → d ≠ 0 →
            actElem (coreAt t n) f (dst + (b * poolRows x g + i) * tensorRow f (poolCols x g) + j * blockBytes f) k =
              (if padsZero x (b * cpb f + k) (windowCodes g taps (win.map fun v => (v, false))) = true then 0
              else if poolMode x = 0 ∨ poolMode x = 4 then (poolMax f win).1 else (poolAvg f d win).1) % 2 ^ fmtBits f)) ∧
    (insnOp x = 5 →
      let r := insnCrop s x
      let e := cropEntry s n x
      let got := regionOf (coreXctx s n) r (listCap s r) 0 e s
      ∃ t, exec (.crop core w) s = .next t ∧ (coreAt t n).seq = { c.seq with pc := nextPc c.seq } ∧
        (∀ m, m ≠ n → coreAt t m = coreAt s m) ∧
        (got.1 = none → coreAt t n = { c with seq := { c.seq with pc := nextPc c.seq } } ∧ t.mem.dpa = got.2.2.mem.dpa) ∧
        (∀ l, got.1 = some l →
          (x.testBit 52 = false → (coreAt t n).act = memWrites c.act (cropDst s n x) l ∧ t.mem.dpa = got.2.2.mem.dpa) ∧
          (x.testBit 52 = true → (coreAt t n).act = c.act ∧
            t.mem.dpa = (dpaWrites (granaryBase + r.regions + e * regionBytes r) l got.2.2).mem.dpa)))

/-- R162, R163, R168, R171, R186, R220: the element-wise VEC rows. Element k of DST is the row's operation on element k of
the sources, in the lane's format and rounded and saturated to FMT_OUT; the requantiser takes SH and the bias of the
element's column; an element past the channel count whose sources are zero is zero (`padsZero`). Nothing else of the core
but counters changes.
Completes: vecRequantise, vecAdd, vecSubtract, vecMultiply, vecFusedMultiplyAdd, vecMinimum, vecMaximum, vecCompare,
vecSelect, vecRelu, vecClip, vecLeakyRelu, vecShift, vecConversion, vecDivide, vecReciprocal, vecSquareRoot,
vecReciprocalSquareRoot, vecExp, vecExp2, vecLog, vecLog2, vecSigmoid, vecTanh, vecSoftplus, vecSilu, vecGelu. -/
def Obligations.ElementwiseVecWritesItsLanes : Prop :=
  let row (i : BitVec 7 → BitVec 128 → Instr) (value : State → Nat → Nat → Nat → Nat) : Prop :=
    ∀ (s : State) (core : BitVec 7) (w : BitVec 128),
      let n := core.toNat
      let x := w.toNat
      let c := coreAt s n
      Issues s n x → CoreClean c → wellFormed (i core w) = true →
        ∃ t, exec (i core w) s = .next t ∧ OnlyCore s t n ∧
          coreAt t n = { c with
            act := (coreAt t n).act, cnt := (coreAt t n).cnt, seq := { c.seq with pc := nextPc c.seq } } ∧
          (∀ p, p ∈ vecDests s n x → ∀ a, a < p.1 ∨ p.2 ≤ a → memByte (coreAt t n).act a = memByte c.act a) ∧
          ∀ k, k < vecTotal x →
            actElem (coreAt t n) (fmtOut x) (vecDst s n x) k = value s n x k % 2 ^ fmtBits (fmtOut x)
  let lane (op : LaneOp) (s : State) (n x k : Nat) : Nat :=
    let a := vecElem s n x k
    let b := if usesB x = true then actElem (coreAt s n) (fmtIn x) (vecB s n x) k else 0
    let d := if vecFunc x = 4 then actElem (coreAt s n) (fmtOut x) (vecDst s n x) k else 0
    if padsZero x k [a.2, b, d] = true then 0
    else (encodeLane (fmtOut x)
      (op a.1 (vecImm x) (decodeAny a.1 a.2) (decodeAny (fmtIn x) b) (decodeAny (fmtOut x) d))).1
  let requant (s : State) (n x k : Nat) : Nat :=
    let c := coreAt s n
    let a := vecElem s n x k
    let sh := signedOf 6 ((getAt 0 (vecSbase x + k % 64) c.scale).toNat % 64)
    let bias := if x.testBit 97 = true then memWord c.wgt (vecBias x + 4 * (k % 64)) else 0
    if padsZero x k [a.2] = true then 0 else (requantElem x a.1 a.2 sh bias).1
  row .vecRequantise requant ∧
  row .vecAdd (lane (exactly fun _ _ a b _ => addExact a b)) ∧
  row .vecSubtract (lane (exactly fun _ _ a b _ => addExact a (negFp b))) ∧
  row .vecMultiply (lane (exactly fun _ _ a b _ => mulExact a b)) ∧
  row .vecFusedMultiplyAdd (lane (exactly fun _ _ a b d => addExact (mulExact a b) d)) ∧
  row .vecMinimum (lane (exactly fun _ _ a b _ => minExact a b)) ∧
  row .vecMaximum (lane (exactly fun _ _ a b _ => maxExact a b)) ∧
  row .vecCompare (lane (exactly fun f _ a b _ => openCode f (Config.compareCode f (relation a b)))) ∧
  row .vecSelect (lane (exactly fun _ _ a b _ => if Config.selectFirst (argOf [a]) (argOf [b]) then a else b)) ∧
  row .vecRelu (lane (exactly fun _ _ a _ _ => maxExact a fpZero)) ∧
  row .vecClip (lane (exactly fun f k a b _ =>
    minExact (maxExact a (openCode f (Config.clipBound 0 (argOf [b]) k))) (openCode f (Config.clipBound 1 (argOf [b]) k)))) ∧
  row .vecLeakyRelu (lane (exactly fun f k a _ _ => leaky f k a)) ∧
  row .vecShift (lane (exactly fun _ k a _ _ => shiftLane k a)) ∧
  row .vecConversion (lane (exactly fun _ _ a _ _ => a)) ∧
  row .vecDivide (lane (inFp32 fdiv)) ∧
  row .vecReciprocal (lane (inFp32 fun a _ => frecip a)) ∧
  row .vecSquareRoot (lane (inFp32 fun a _ => fsqrt a)) ∧
  row .vecReciprocalSquareRoot (lane (inFp32 fun a _ => frsqrt a)) ∧
  row .vecExp (lane (inFp32 fun a _ => fexp a)) ∧
  row .vecExp2 (lane (inFp32 fun a _ => fexp2 a)) ∧
  row .vecLog (lane (inFp32 fun a _ => flog a)) ∧
  row .vecLog2 (lane (inFp32 fun a _ => flog2 a)) ∧
  row .vecSigmoid (lane (inFp32 fun a _ => fsigmoid a)) ∧
  row .vecTanh (lane (inFp32 fun a _ => ftanh a)) ∧
  row .vecSoftplus (lane (inFp32 fun a _ => fsoftplus a)) ∧
  row .vecSilu (lane (inFp32 fun a _ => silu a)) ∧
  row .vecGelu (lane (inFp32 fun a _ => gelu a))

/-- R178, R181, R186 to R188, R220: the VEC rows that work along an axis, on whole tensors and on box lists complete, write
only their destination ranges and counters, and give what the rule says: reductions one line per group, transpose,
concatenation and split the elements of their sources in their new places. Where the words of these rows leave the
parameters and the order of elements open, the choice is the model's (notes/assumptions/18.md, 19.md).
Completes: vecSoftmax, vecLayerNormalisation, vecSum, vecAxisMaximum, vecAxisMinimum, vecArgmax, vecTopK,
vecDepthwiseConvolution, vecResampling, vecRepacking, vecTranspose, vecConcatenation, vecSplit, vecBoxDecoding,
vecNonMaximumSuppression. -/
def Obligations.TensorVecWritesOnlyItsDestination : Prop :=
  let row (i : BitVec 7 → BitVec 128 → Instr) : Prop := ∀ (s : State) (core : BitVec 7) (w : BitVec 128),
    let n := core.toNat
    let x := w.toNat
    let c := coreAt s n
    wellFormed (i core w) = true → Issues s n x → CoreClean c →
    (vecFunc x = 0x40 → (∀ a, memSyn s.mem.dpa a = 0) ∧ 32 * (boxParams s n).geom + 32 ≤ 0x20000000) →
      let di := dimsIn s n x
      let dd := dimsOut s n x
      let at_ (c : Core) (base : Nat) (d : Dims) (ch y z : Nat) : Nat :=
        actElem c d.f (base + dimsOff d (ch / cpb d.f) y z) (ch % cpb d.f)
      let a := vecA s n x
      let b := vecB s n x
      let dst := vecDst s n x
      ∃ t, exec (i core w) s = .next t ∧ OnlyCore s t n ∧
        coreAt t n = { c with
          act := (coreAt t n).act, cnt := (coreAt t n).cnt, seq := { c.seq with pc := nextPc c.seq } } ∧
        (∀ z, (∀ p, p ∈ vecDests s n x → z < p.1 ∨ p.2 ≤ z) → memByte (coreAt t n).act z = memByte c.act z) ∧
        (vecFunc x = 0x39 → ∀ ch y z, ch < dd.c → y < dd.h → z < dd.w →
          at_ (coreAt t n) dst dd ch y z = at_ c a di ch z y) ∧
        (vecFunc x = 0x38 → fmtIn x = fmtOut x → ∀ ch y z, ch < dd.c → y < dd.h → z < dd.w →
          at_ (coreAt t n) dst dd ch y z = at_ c a di ch y z) ∧
        (vecFunc x = 0x3A → axisOf x = 0 → ∀ ch y z, ch < dd.c → y < dd.h → z < dd.w →
          at_ (coreAt t n) dst dd ch y z =
            if ch < di.c then at_ c a di ch y z else at_ c b (dimsSecond s n x) (ch - di.c) y z) ∧
        (vecFunc x = 0x3B → axisOf x = 0 → vparam s n 3 ≤ di.c → b + dimsBytes (dimsSecond s n x) ≤ dst ∨ dst + dimsBytes dd ≤ b →
          (∀ ch y z, ch < dd.c → y < dd.h → z < dd.w → at_ (coreAt t n) dst dd ch y z = at_ c a di ch y z) ∧
          (∀ ch y z, ch < di.c - vparam s n 3 → y < di.h → z < di.w →
            at_ (coreAt t n) b (dimsSecond s n x) ch y z = at_ c a di (ch + vparam s n 3) y z)) ∧
        (vecFunc x = 0x28 ∨ vecFunc x = 0x29 ∨ vecFunc x = 0x2A ∨ vecFunc x = 0x2B →
          let line := fun l => if vecFunc x = 0x28 then sumLine (fmtOut x) l
            else if vecFunc x = 0x2B then argmaxLine (fmtOut x) l
            else extremeLine (if vecFunc x = 0x29 then maxExact else minExact) (fmtOut x) l
          let outs := (groupsOf x (readA n x s).1).flatMap line
          ∀ k, k < outs.length →
            actElem (coreAt t n) (fmtOut x) dst k = (outs.getD k (0, noEv)).1 % 2 ^ fmtBits (fmtOut x))
  row .vecSoftmax ∧ row .vecLayerNormalisation ∧ row .vecSum ∧ row .vecAxisMaximum ∧ row .vecAxisMinimum ∧
  row .vecArgmax ∧ row .vecTopK ∧ row .vecDepthwiseConvolution ∧ row .vecResampling ∧ row .vecRepacking ∧
  row .vecTranspose ∧ row .vecConcatenation ∧ row .vecSplit ∧ row .vecBoxDecoding ∧ row .vecNonMaximumSuppression

/-- R188: non-maximum suppression keeps at most MAX_OUT entries, in order of visit, no two of which (of one class, where
classes are separate) overlap above the threshold; and every entry it visited and did not keep overlaps one it kept. -/
def Obligations.SuppressionKeepsSeparateBoxes : Prop :=
  ∀ (thr : Fp) (maxOut : Nat) (perClass : Bool) (order : List (List Byte)),
    let r := nmsLoop thr maxOut perClass order []
    let hits (k b : List Byte) : Bool := (!perClass || numAt k 20 2 == numAt b 20 2) && fpLt thr (boxIou k b)
    r.1.length ≤ maxOut ∧ r.1.Sublist order ∧ r.2 ≤ order.length ∧ r.1.Pairwise (fun k b => hits k b = false) ∧
      (0 < r.2 → r.1.length = maxOut) ∧
      (∀ b ∈ order.take (order.length - r.2), b ∈ r.1 ∨ ∃ k ∈ r.1, hits k b = true)

/-! ## Registers, requests, the interrupt wire, link and function states -/

/-- R7, R10, R11, R25, R343, R345: a host access to BAR0 while it cannot be decoded is an Unsupported Request; a read answers
the whole dword; an undefined offset reads zero and ignores writes; RW, W1C and RC fields behave as their type says: an RC
field answers what stood before this fc and keeps what this fc brought, a W1C bit set in this fc stays set; a 64-bit write
is the lower dword's, then the upper's. A read of BAR4 returns zero, one of configuration space its dword; requests the
function does not take are answered as the table of R345 says.
Completes: registerWrite, registerReadClear, pcieRequestUnsupported, poisonedWrite. -/
def Obligations.HostAccessesFollowTheirType : Prop :=
  ∀ (s : State), inReset s = false → linkSpeaks s = true →
    (∀ offset : BitVec 24,
      let o := offset.toNat / 4 * 4
      (hostAccess s = false →
        (∀ both, exec (.registerReadClear { offset, both }) s = .next (send .unsupportedRequest s)) ∧
        ∀ v be, exec (.registerWrite offset v be) s = .next (send .unsupportedRequest s)) ∧
      (hostAccess s = true → shellUp s (regDomain o) = true →
        let u := touchDomain (regDomain o) s
        (∃ t, exec (.registerReadClear { offset, both := false }) s = .next t ∧ .completion (readValue o u) ∈ t.out ∧
          t.mem.dpa = s.mem.dpa ∧ t.streams = s.streams ∧
          (o = 0x20040 →
            let before := (getAt ({} : Port) 0 s.cyc.ports).rxFrames
            readValue o u = before ∧ (portAt t 0).rxFrames = (portAt s 0).rxFrames - before ∧
            (portAt t 0).dropMac = (portAt s 0).dropMac)) ∧
        (∃ t, exec (.registerReadClear { offset, both := true }) s = .next t ∧ t.mem.dpa = s.mem.dpa ∧
          .completionBytes (leBytes 4 (readValue o u).toNat ++ leBytes 4 (readValue (o + 4) (readDone o u)).toNat) ∈ t.out) ∧
        (blockOf o = none → readValue o u = 0 ∧ ∀ v (be : BitVec 8), be.extractLsb' 4 4 = 0 →
          exec (.registerWrite offset v be) s = .next (updateWire u)) ∧
        (∀ (v : BitVec 64) (be : BitVec 8), be.extractLsb' 4 4 ≠ 0 → ∃ m, exec (.registerWrite offset v (be &&& 0x0F)) s = .next m ∧
          exec (.registerWrite offset v be) s = exec (.registerWrite (offset + 4) (v >>> 32) (be >>> 4)) m) ∧
        (∀ v : Word, ∃ t, exec (.registerWrite offset (v.setWidth 64) 0x0F) s = .next t ∧ t.mem.dpa = s.mem.dpa ∧
          t.nets = s.nets ∧
          (o = 0x10 → (setIn 0x10 s).getLsbD 3 = true → t.glb.streamCause = s.glb.streamCause) ∧
          (setIn o s = 0 →
          (o = 0x14 → t.glb.mask = v.setWidth 12 ∧ regValue 0x14 t = v &&& 0xFFF ∧ t.streams = s.streams) ∧
          (o = 0x10 → t.glb.streamCause = (s.glb.streamCause && !v.getLsbD 3) ∧
            t.glb.poolCause = (s.glb.poolCause && !v.getLsbD 4) ∧ t.glb.fwCause = (s.glb.fwCause && !v.getLsbD 11) ∧
            t.glb.mask = s.glb.mask) ∧
          (o = 0x40F00 → t.refuseLimit = (if v.extractLsb' 0 8 = 0 then 1 else v.extractLsb' 0 8) ∧
            t.taintWeight = v.extractLsb' 8 8 ∧ t.streams = s.streams) ∧
          (o = 0x260004 → t.slot.pwrEn = v.getLsbD 0 ∧ t.slot.attnInd = v.extractLsb' 1 2 ∧
            t.slot.pwrInd = v.extractLsb' 3 2 ∧ .pwrctlEn (v.getLsbD 0) ∈ t.out ∧ t.slot.cause = s.slot.cause))))) ∧
    (∀ offset, hostAccess s = true → exec (.pcieRequestUnsupported (.bar4Read offset)) s = .next (send (.completion 0) s)) ∧
    (∀ offset : BitVec 12, configReached s = true →
      exec (.pcieRequestUnsupported (.configRead offset)) s =
        .next (send (.completion (configDword (offset.toNat / 4 * 4) s)) (configOn s))) ∧
    configDword 0 s = 0x40961F3C ∧ configDword 0x08 s = BitVec.ofNat 32 (0x12000000 + Config.stepping.toNat) ∧
    configDword 0x34 s = 0x40 ∧ configDword 0x38 s = 0 ∧
    (∀ r : BadRequest,
      (r = .io ∨ r = .atomic ∨ r = .noBar → exec (.pcieRequestUnsupported r) s = .next (send .unsupportedRequest s)) ∧
      (r = .vendorType1 → exec (.pcieRequestUnsupported r) s = .next s) ∧
      (r = .disabledRead ∨ r = .disabledWrite → hostAccess s = false →
        exec (.pcieRequestUnsupported r) s = .next (send .unsupportedRequest s)) ∧
      (∀ bar, hostAccess s = true →
        (r = .oddRead bar → exec (.pcieRequestUnsupported r) s = .next (send .completerAbort s)) ∧
        (r = .oddWrite bar → exec (.pcieRequestUnsupported r) s =
          .next { s with link := { s.link with aerAbort := true } }))) ∧
    (∀ bar offset, hostAccess s = true →
      exec (.poisonedWrite bar offset) s = .next { s with link := { s.link with aerPoisoned := true } })

/-- R348 to R350: when the coalescing timer reaches TIME, ring causes are due and the wire asserts if its conditions hold;
setting Interrupt Disable deasserts it, and clearing that bit asserts it at once if an unmasked cause is pending.
Completes: intCoalTimer, interruptDisableWrite. -/
def Obligations.InterruptWireFollowsItsConditions : Prop :=
  ∀ (s : State),
    (s.glb.timerStart = none ∨ s.glb.coalTime = 0 → exec .intCoalTimer s = .next s) ∧
    (∀ x, s.glb.timerStart = some x → s.glb.coalTime ≠ 0 →
      (s.now < x + 1250 * s.glb.coalTime.toNat → exec .intCoalTimer s = .next s) ∧
      (x + 1250 * s.glb.coalTime.toNat ≤ s.now → ∃ t, exec .intCoalTimer s = .next t ∧ SameButReplies s t ∧
        t.cmd = s.cmd ∧ t.link = s.link ∧
        (s.glb.wire = false → wireAllowed s = true → unmasked s ≠ 0 →
          t.glb.wire = true ∧ t.out = .assertIntA :: s.out ∧ t.glb.entries = 0 ∧ t.glb.timerStart = none) ∧
        (wireAllowed s = false → s.glb.wire = false → t.glb.wire = false ∧ t.out = s.out))) ∧
    (∀ command : BitVec 16, s.link.flr = false → s.link.state ≠ .detect → s.link.state ≠ .l2 →
      ∃ t, exec (.interruptDisableWrite command) s = .next t ∧ t.link.command = command &&& 0x0546 ∧
        (command.getLsbD 10 = true → t.glb.wire = false) ∧
        (command.getLsbD 10 = true → s.glb.wire = true → linkSpeaks s = true → .deassertIntA ∈ t.out) ∧
        (command.getLsbD 10 = false → s.link.command.getLsbD 10 = true → s.glb.wire = false → s.link.d3hot = false →
          linkSpeaks s = true → unmasked s ≠ 0 → t.glb.wire = true ∧ .assertIntA ∈ t.out) ∧
        t.bell = s.bell ∧ t.mem.dpa = s.mem.dpa)

/-- R351 to R353, R357: L0s and L1 are entered from L0, L1 never while a stream holds a reservation; loss of the link or
of the reference clock stops the host side, deasserts the wire and is a surprise removal unless the device was given up
in order; on return the link is in L0; D3hot and D0 keep every setting; PME_Turn_Off ends in L2.
Completes: d3hotEntry, d0Return, pmeTurnOff, l0sEntry, l1Request, linkLoss, linkReturnL0, refclkLost, refclkReturn. -/
def Obligations.LinkAndDevicePowerStates : Prop :=
  ∀ (s : State),
    let lost (t : State) (cause : BitVec 3) : Prop := t.link.state = .detect ∧ t.glb.wire = false ∧
      t.bell.actions = s.bell.actions ∧ t.bell.roundStart = s.bell.roundStart ∧ (isSurprise s = true → t.slot.cause = cause ∧ t.slot.count = satAddW s.slot.count 1 ∧
        ∃ r ∈ t.flt.staging, r.code = 0x503 ∧ r.scope = 5) ∧ (isSurprise s = false → t.slot = s.slot)
    (s.link.state ≠ .l0 → (∀ b, exec (.l0sEntry b) s = .next s) ∧ ∀ b, exec (.l1Request b) s = .next s) ∧
    (s.link.state = .l0 →
      (∀ b, ∃ t, exec (.l0sEntry b) s = .next t ∧ t.out = .linkL0s b :: s.out ∧ t.link.txL0s = (s.link.txL0s || b) ∧
        t.link.rxL0s = (s.link.rxL0s || !b) ∧ t.link.state = .l0) ∧
      (∀ b, anyHolds s = true → exec (.l1Request b) s = .next s) ∧
      (∀ b, anyHolds s = false → hostBusy s = false → ∃ t, exec (.l1Request b) s = .next t ∧ t.out = .linkL1 :: s.out ∧
        t.link.state = (if b = true then .l12 else .l1) ∧ t.streams = s.streams)) ∧
    (s.link.state = .detect ∨ s.link.state = .l2 → exec .linkLoss s = .next s) ∧
    (s.link.state ≠ .detect → s.link.state ≠ .l2 → ∃ t, exec .linkLoss s = .next t ∧ lost t 1) ∧
    (s.link.refclk = true → linkSpeaks s = true → ∃ t, exec .refclkLost s = .next t ∧ t.link.refclk = false ∧ lost t 3) ∧
    (s.link.refclk = false ∨ linkSpeaks s = false → ∃ t, exec .refclkLost s = .next t ∧
      t = { s with link := { s.link with refclk := false } }) ∧
    exec .refclkReturn s = .next { s with link := { s.link with refclk := true } } ∧
    (s.link.state = .l0 → ∃ t, exec .linkReturnL0 s = .next t ∧ t.link.txL0s = false ∧ t.link.rxL0s = false ∧
      t.link.state = .l0 ∧ t.out = s.out) ∧
    (s.link.state = .detect → s.link.refclk = true → inReset s = false → ∃ t, exec .linkReturnL0 s = .next t ∧
      t.link.state = .l0 ∧ t.bell = s.bell ∧ t.nets = s.nets ∧
      (wireAllowed { s with link := { s.link with state := .l0 } } = true → s.glb.wire = false → unmasked s ≠ 0 →
        t.glb.wire = true)) ∧
    (∀ v : BitVec 16, configReached s = true →
      let pm (t : State) : Prop := t.link.pmeEn = v.getLsbD 8 ∧ t.link.pmeStatus = (s.link.pmeStatus && !v.getLsbD 15) ∧
        t.link.state = .l0 ∧ t.link.command = s.link.command ∧ t.bell = s.bell ∧ t.nets = s.nets ∧ t.glb.mask = s.glb.mask
      (s.link.d3hot = false → ∃ t, exec (.d3hotEntry v) s = .next t ∧ t.link.d3hot = true ∧ t.glb.wire = false ∧ pm t) ∧
      (s.link.d3hot = true → ∃ t, exec (.d0Return v) s = .next t ∧ t.link.d3hot = false ∧ pm t)) ∧
    (linkSpeaks s = true → inReset s = false → ∃ t, exec .pmeTurnOff s = .next t ∧ t.link.state = .l2 ∧
      t.link.d3coldOrderly = true ∧ t.glb.wire = false ∧ .pmeToAck ∈ t.out ∧ t.bell = s.bell)

/-- R321, R354, R358, R359, R389 to R391: PERST#, a fall of main power, a rail fault and a power-up of the always-on input
put every block at its power-on values but for what the rules keep; a function-level reset keeps the fault log, slot
assist, firmware and retired units and ends with READY, after Recess only once that is left; boot ends with READY and
rounds.
Completes: flr, flrComplete, perstAssert, perstDeassert, bootComplete, mainPwrgdRise, mainPwrgdFall, aonPowerUp,
railFault. -/
def Obligations.ResetsKeepWhatTheRulesSay : Prop :=
  ∀ (s : State),
    let fresh (t : State) : Prop := t.cmd = {} ∧ t.streams = [] ∧ t.nets = [] ∧ t.mem = {} ∧ t.flt = {} ∧ t.glb = {} ∧
      t.bell = {} ∧ t.cores = [] ∧ t.jobs = [] ∧ t.clips = [] ∧ t.now = 0 ∧ t.fw.bailiffCtr = s.fw.bailiffCtr ∧
      t.fw.banks = s.fw.banks
    (s.board.perst = true → exec .perstAssert s = .next s) ∧
    (s.board.perst = false → ∃ t, exec .perstAssert s = .next t ∧ fresh t ∧ t.board.perst = true ∧
      t.tel.rail = s.tel.rail ∧ t.tel.railCount = s.tel.railCount ∧
      (isSurprise s = true → s.link.state ≠ .l2 → t.slot.cause = 2 ∧ t.slot.count = satAddW s.slot.count 1 ∧
        t.board.removalNext = true) ∧
      (isSurprise s = false ∨ s.link.state = .l2 → t.slot.cause = s.slot.cause ∧ t.slot.count = s.slot.count) ∧
      (s.board.wakeN = true → t.board.wakeN = false ∧ .wakeN false ∈ t.out)) ∧
    (∀ fails, s.board.perst = true → s.board.pwrgd = true → s.board.railHold = false → s.board.thermTrip = false →
      ∃ t, exec (.perstDeassert fails) s = .next t ∧ t.board.perst = false ∧ t.board.removalNext = false ∧
        (s.board.removalNext = true → ∃ r ∈ t.flt.staging, r.code = 0x503 ∧ r.scope = 5) ∧
        (∀ f ∈ fails, f.kind = 0 → 2 ≤ f.runs → (coreAt t f.index).retired = true) ∧
        (coresLeft t < 64 → t.flt.oos = true) ∧ t.glb.ready = s.glb.ready) ∧
    (s.link.crs = true → inReset s = false → ∃ t, exec .bootComplete s = .next t ∧ t.glb.ready = true ∧
      t.link.crs = false ∧ t.bell.running = true ∧ t.bell.roundStart = s.now ∧ .roundMark ∈ t.out) ∧
    (s.board.pwrgd = true → ∃ t, exec .mainPwrgdFall s = .next t ∧ fresh t ∧ t.board.pwrgd = false ∧
      t.board.thermTrip = false ∧ t.tel.rail = s.tel.rail ∧
      (s.link.d3coldOrderly = true → t.slot.cause = s.slot.cause) ∧ (s.link.d3coldOrderly = false → t.slot.cause = 2)) ∧
    (s.board.pwrgd = false → ∃ t, exec .mainPwrgdRise s = .next t ∧ t.board.pwrgd = true ∧ t.board.railHold = false ∧
      t.streams = s.streams) ∧
    (∃ t, exec .aonPowerUp s = .next t ∧ fresh t ∧ t.slot.cause = 0 ∧ t.slot.count = 0 ∧ t.tel.rail = 0 ∧
      t.tel.railFault = false ∧ t.board.pwrgd = false) ∧
    (∀ rails : List (BitVec 4),
      ((∀ r ∈ rails, mainRail r = false) ∨ s.board.pwrgd = false → exec (.railFault rails) s = .next s) ∧
      (∀ r ∈ rails, mainRail r = true → s.board.pwrgd = true → ∃ t, exec (.railFault rails) s = .next t ∧ fresh t ∧
        t.board.railHold = true ∧ t.tel.railFault = true ∧ t.tel.railCount = satAddW s.tel.railCount 1 ∧
        mainRail t.tel.rail = true ∧ t.tel.rail ∈ rails ∧ t.tel.rail ≤ r)) ∧
    (configReached s = true → ∃ t, exec .flr s = .next t ∧ t.link.flr = true ∧ t.glb.wire = false ∧
      t.fw.doeObject = [] ∧ t.streams = s.streams) ∧
    (s.link.flr = false → exec .flrComplete s = .next s) ∧
    (s.link.flr = true → s.fw.record ≠ 5 → ∃ t, exec .flrComplete s = .next t ∧ t.link.flr = false ∧ t.link.command = 0 ∧
      t.cmd = {} ∧ t.streams = [] ∧ t.nets = [] ∧ t.glb.mask = 0xFFF ∧ t.slot = s.slot ∧ t.mem.dpa = s.mem.dpa ∧
      t.flt.staging = s.flt.staging ∧ t.flt.psram = s.flt.psram ∧ t.flt.lastSeq = s.flt.lastSeq ∧
      t.flt.oos = (s.flt.oos && s.flt.oosCause != 0x105) ∧ t.fw.bank = s.fw.bank ∧
      (∀ n, (coreAt t n).retired = (coreAt s n).retired) ∧
      (s.pwr.recess = false → t.glb.ready = true ∧ t.bell.running = true) ∧
      (s.pwr.recess = true → t.glb.ready = false ∧ t.link.flrRecess = true ∧ t.pwr.exit_.isSome = true))

/-- R82, R331, R353, R355, R397, R398: presence and button events set their bits, wake the host, and stop or resume host
requests; a thermal sample sets LEVEL by the thresholds, records the entry to the emergency level, and with no stream
left to shed takes the device OUT_OF_SERVICE; one stream more is shed 125 management steps after the last; a trip holds
the device in reset.
Completes: presenceLost, presenceRestored, attnBtnPress, thermalSample, thermalShedTimer, thermalTrip. -/
def Obligations.SlotAssistAndThermalLevels : Prop :=
  ∀ (s : State),
    (s.slot.present = false → exec .presenceLost s = .next s) ∧
    (s.slot.present = true → inReset s = false → ∃ t, exec .presenceLost s = .next t ∧ t.slot.present = false ∧
      t.slot.presentChanged = true ∧ t.bell = s.bell ∧
      (isSurprise s = true → t.slot.cause = 4 ∧ ∃ r ∈ t.flt.staging, r.code = 0x503 ∧ r.scope = 5)) ∧
    (s.slot.present = true → exec .presenceRestored s = .next s) ∧
    (s.slot.present = false → inReset s = false → ∃ t, exec .presenceRestored s = .next t ∧ t.slot.present = true ∧
      t.slot.presentChanged = true ∧ t.bell = s.bell) ∧
    (∃ t, exec .attnBtnPress s = .next t ∧ t.slot.btnDown = true ∧ t.bell = s.bell ∧ t.cmd = s.cmd ∧
      (inReset s = false → t.slot.btnPressed = true) ∧
      (inReset s = false → s.link.d3hot = true → linkSpeaks s = true → .pmPme ∈ t.out ∧ t.link.pmeStatus = true) ∧
      (s.board.pwrgd = false → s.link.pmeEn = true → .wakeN true ∈ t.out ∧ t.board.wakeN = true)) ∧
    (∀ x : Temps,
      let hbm := [x.hbm0, x.hbm1, x.hbm2, x.hbm3]
      let reach (die stack : Int) : Prop := die ≤ x.compute ∨ die ≤ x.base ∨ ∃ v ∈ hbm, stack ≤ v
      (inReset s = true → exec (.thermalSample x) s = .next { s with tel := { s.tel with temps := x } }) ∧
      (inReset s = false → ∃ t, exec (.thermalSample x) s = .next t ∧ t.tel.temps = x ∧
        (reach 1000 950 → t.tel.level = 2) ∧
        (reach 1000 950 → s.tel.level.toNat < 2 → t.tel.emergEvent = true ∧ ∃ r ∈ t.flt.staging, r.code = 0x501 ∧ r.scope = 5) ∧
        (reach 1000 950 → anyHolds s = false → t.flt.oos = true) ∧
        (¬ reach 1000 950 → reach 950 900 → s.tel.level.toNat < 2 → t.tel.level = 1 ∧
          (s.tel.level = 0 → t.tel.warnEvent = true) ∧ t.flt = s.flt ∧ t.bell = s.bell) ∧
        (s.tel.level = 2 → (951 ≤ x.compute ∨ 951 ≤ x.base ∨ ∃ v ∈ hbm, 901 ≤ v) → t.tel.level = 2) ∧
        (¬ reach 950 900 → s.tel.level = 0 → t.tel.level = 0 ∧ t = { s with tel := t.tel } ∧
          t.tel.warnEvent = s.tel.warnEvent))) ∧
    (s.tel.shedAt = none → exec .thermalShedTimer s = .next s) ∧
    (∀ last e, s.tel.shedAt = some last → s.tel.level = 2 → s.flt.reset = none → last + 125000000 ≤ s.now →
      anyHolds s = true → firstToShed ((holders s).filter fun e => !s.bell.shedDue.any fun d => d.1.toNat == e.1) = some e →
      ∃ t, exec .thermalShedTimer s = .next t ∧ t.bell.shedDue = s.bell.shedDue ++ [(BitVec.ofNat 12 e.1, 2)] ∧
        t.tel.shed = satAddW s.tel.shed 1 ∧ t.tel.shedAt = some s.now ∧ t.streams = s.streams) ∧
    (s.board.thermTrip = false → s.board.pwrgd = true →
      let x := s.tel.temps
      (1150 ≤ x.compute ∨ 1150 ≤ x.base ∨ 1050 ≤ x.hbm0 ∨ 1050 ≤ x.hbm1 ∨ 1050 ≤ x.hbm2 ∨ 1050 ≤ x.hbm3) →
      ∃ t, exec .thermalTrip s = .next t ∧ t.board.thermTrip = true ∧ .thermTripN true ∈ t.out ∧ t.cmd = {} ∧
        t.streams = [] ∧ t.flt = {})

/-! ## Ingest -/

/-- R86, R89, R92, R93, R96, R103, R105: a frame that the port does not accept counts in DROP_MAC; one that it accepts counts
in RX_FRAMES and is then checked by the rules of R89 in order, each with its counter; an RTP packet whose payload form R93
does not take, one that is late, and one that stands in the window already, is dropped and counted; when W has run out
the pending access unit completes, flagged
INCOMPLETE.
Completes: frameReceive, reorderWaitExpiry. -/
def Obligations.ReceivedFramesAreCheckedInOrder : Prop :=
  ∀ (s : State) (port : BitVec 1) (f : Frame),
    let n := port.toNat
    let p := portAt s n
    let run := exec (.frameReceive port f) s
    let accepted := f.fcsOk = true ∧ 64 ≤ f.length ∧ f.length ≤ p.mtu + 22 ∧ f.tags ≤ 1 ∧ macAccepted s n f.dstMac = true
    let counted : Port := { p with rxFrames := satAdd p.rxFrames 1 }
    let ip := f.etherType ≠ 0x0806 ∧ ipAccepted f = true
    (p.linkUp = false → run = .next s) ∧
    (p.linkUp = true →
      (¬ accepted → run = .next (setPort n { p with dropMac := satAdd p.dropMac 1 } s)) ∧
      (accepted →
        (f.etherType = 0x0806 → run = .next (setPort n counted s)) ∧
        (f.etherType ≠ 0x0806 → ipAccepted f = false →
          run = .next (setPort n { counted with dropIp := satAdd p.dropIp 1 } (setPort n counted s))) ∧
        (ip → controlProto f.proto = true → run = .next (setPort n counted s)) ∧
        (ip → controlProto f.proto = false → f.proto ≠ 17 ∨ udpAccepted f = false →
          run = .next (setPort n { counted with dropIp := satAdd p.dropIp 1 } (setPort n counted s))) ∧
        (ip → f.proto = 17 → udpAccepted f = true →
          (flowOf s n f = none →
            run = .next (setPort n { counted with dropUnmatched := satAdd p.dropUnmatched 1 } (setPort n counted s))) ∧
          (∀ c, flowOf s n f = some c → holds (streamAt s c).state = true →
            ∃ t, run = .next t ∧ (portAt t n).rxFrames = satAdd p.rxFrames 1 ∧
              let st := streamAt s c
              let cnt := (streamAt t c).cnt
              (isRtcp f = false → f.version ≠ 2 ∨ f.second.toNat % 128 ≠ st.op.pt.toNat →
                cnt.dropRtp = satNat st.cnt.dropRtp 1 ∧ (streamAt t c).ro = st.ro) ∧
              let l := (f.payload.drop f.payloadOffset).take f.payloadLength
              (isRtcp f = false → f.version = 2 → f.second.toNat % 128 = st.op.pt.toNat → st.op.srtp = false →
                f.formatOk = false ∨ formatTaken st.op.codec l = false →
                cnt.dropRtp = satNat st.cnt.dropRtp 1 ∧ (streamAt t c).ro = st.ro ∧ t.frames = s.frames) ∧
              (∀ base, isRtcp f = false → f.version = 2 → f.second.toNat % 128 = st.op.pt.toNat → st.op.srtp = false →
                f.formatOk = true → formatTaken st.op.codec l = true → st.ro.base = some base → st.ro.candidate = none →
                (65536 - 3072 ≤ seqPos base f.seq →
                  cnt.dropLate = satNat st.cnt.dropLate 1 ∧ (streamAt t c).ro.window = st.ro.window ∧ t.frames = s.frames) ∧
                (seqPos base f.seq < 1024 → st.ro.flushed ≠ some f.ts → (st.ro.window.any fun q => q.seq == f.seq && !q.lost) = true →
                  cnt.dropDuplicate = satNat st.cnt.dropDuplicate 1 ∧ (streamAt t c).ro.window = st.ro.window ∧
                    t.frames = s.frames)))))) ∧
    (∀ (ctx : BitVec 12) base a w, (streamAt s ctx.toNat).ro.base = some base →
      nextAu base (streamAt s ctx.toNat).ro = some a → waitStart (streamAt s ctx.toNat).ro a = some w →
      (s.now < w + jitterFc s → exec (.reorderWaitExpiry ctx) s = .next s) ∧
      (w + jitterFc s ≤ s.now → ∃ t g, exec (.reorderWaitExpiry ctx) s = .next t ∧ g ∈ t.frames ∧ g.ctx = ctx ∧
        g.seq = (streamAt s ctx.toNat).cnt.frameSeq ∧ g.ts = a.ts ∧ g.flags.getLsbD 0 = true ∧
        (streamAt s ctx.toNat).cnt.frameSeq < (streamAt t ctx.toNat).cnt.frameSeq))

/-- R47, R86, R87, R90, R99, R105, R118, R120: a PAUSE frame holds the transmit side, one of no quanta releases it; control
packets past 10,000 a second are dropped and counted, and Bailiff answers for the port's own addresses, under the port's
VLAN tag, at once or after the PAUSE; a link change sets LINK_UP and LINK_CHANGE; a
stream without a completion for TRUANT_FRAMES intervals is TRUANT; a removal's stash moves happen once; a pool at stage
3 sheds one stream a management step.
Completes: pauseFrame, controlPacket, portLinkChange, truantTimeout, stashMove, poolStage3Shed. -/
def Obligations.PortAndStreamEvents : Prop :=
  ∀ (s : State) (port : BitVec 1) (ctx : BitVec 12),
    let n := port.toNat
    let p := portAt s n
    let st := streamAt s ctx.toNat
    let seconds := s.now / 1250000000
    let count := if p.controlSecond = seconds then p.controlCount else 0
    (∀ quanta : BitVec 16, p.linkUp = true →
      (quanta ≠ 0 → exec (.pauseFrame port quanta) s = .next (setPort n { p with
        pauseUntil := s.now + ceilDiv (quanta.toNat * quantumFc10 p.mode) 10 } s)) ∧
      (quanta = 0 → ∃ t, exec (.pauseFrame port quanta) s = .next t ∧ (portAt t n).pauseUntil = s.now ∧
        (portAt t n).held = [] ∧ ∀ e ∈ p.held, .control e.1 e.2 ∈ t.out)) ∧
    (∀ k, p.linkUp = true →
      (10000 ≤ count → exec (.controlPacket port k) s = .next (setPort n { p with dropControl := satAdd p.dropControl 1 } s)) ∧
      (count < 10000 → ∃ t, exec (.controlPacket port k) s = .next t ∧ (portAt t n).controlCount = count + 1 ∧
        (portAt t n).dropControl = p.dropControl ∧ t.streams = s.streams ∧
        (∀ a, k = .arpRequest a ∨ k = .icmpEcho a →
          let h : TxHeader := { port := n, vlan := portVlan s n }
          let own := p.ipv4 ≠ 0 ∧ a = p.ipv4
          (own → s.now < p.pauseUntil → (portAt t n).held = p.held ++ [(h, .answer k)] ∧ t.out = s.out) ∧
          (own → p.pauseUntil ≤ s.now → t.out = .control h (.answer k) :: s.out) ∧ (¬ own → t.out = s.out)) ∧
        (∀ r, k = .routerAdvert r → (portAt t n).router6 = r))) ∧
    (∀ up, s.pwr.on.contains (264 + n) = true → p.mode ≠ 0 →
      (p.linkUp = up → exec (.portLinkChange port up) s = .next s) ∧
      (p.linkUp ≠ up → ∃ t, exec (.portLinkChange port up) s = .next t ∧ (portAt t n).linkUp = up ∧
        (portAt t n).linkChange = true ∧ (intCause t).getLsbD 5 = true ∧ (portAt t n).mode = p.mode)) ∧
    (st.state = .running ∨ st.state = .admitted →
      1250000000000 * st.ad.truantFrames ≤ (s.now - st.clk.lastDone) * st.ad.frameRate →
      ∃ t, exec (.truantTimeout ctx) s = .next t ∧ (streamAt t ctx.toNat).state = .truant ∧
        (streamAt t ctx.toNat).lastEvent = 2 ∧ (streamAt t ctx.toNat).lastRound = s.bell.roundSeq ∧
        (∀ d, d ≠ ctx.toNat → (streamAt t d).state = (streamAt s d).state)) ∧
    (holds st.state = false → exec (.truantTimeout ctx) s = .next s) ∧
    (s.flow.moveDue = false → exec .stashMove s = .next s) ∧
    (s.flow.moveDue = true → ∃ t, exec .stashMove s = .next t ∧ t = { s with flow := t.flow } ∧ t.flow.moveDue = false ∧
      t.flow.stash.length ≤ s.flow.stash.length ∧ (∀ e ∈ t.flow.stash, e ∈ s.flow.stash)) ∧
    (maxStage s < 3 ∨ s.bell.stageShed = some (mgmtStep s) → exec .poolStage3Shed s = .next s) ∧
    (∀ c, 3 ≤ maxStage s → s.bell.stageShed ≠ some (mgmtStep s) → stage3Stream s = some c →
      ∃ t, exec .poolStage3Shed s = .next t ∧ t = { s with bell := t.bell } ∧
        t.bell.shedDue = s.bell.shedDue ++ [(BitVec.ofNat 12 c, 3)] ∧ t.bell.stageShed = some (mgmtStep s))

/-- R42, R87, R88, R101, R102, R109, R335: PORT_CONFIG sets what its parameters say, and in Recess waits for the exit;
KEY_LOAD puts the unwrapped key into its slot or answers why not; AU_PUSH takes host-ingest blocks and starts its
transfer, and its completion is an access unit of the stream.
Completes: portConfigPort, portConfigDatagram, keyLoad, auPush, auPushComplete. -/
def Obligations.IngestCommands : Prop :=
  ∀ (s : State) (ring : BitVec 6), (∀ p : Packet, Ready s ring p →
    let f := fetchedOf s ring p
    let u := fetch ring s
    let c := (p.ctx.setWidth 12).toNat
    let st := streamAt s c
    (wellFormed (.portConfigPort ring p) = true →
      ∃ t, exec (.portConfigPort ring p) s = .next t ∧
        (s.pwr.recess = true → t.pwr.deferred = s.pwr.deferred ++ [p.params] ∧ t.ports = s.ports) ∧
        (s.pwr.recess = false →
          let q := portAt t (param p 9 1)
          q.mode = BitVec.ofNat 4 (param p 10 1) ∧ q.mtu = param p 12 2 ∧ q.vlan = BitVec.ofNat 16 (param p 14 2) ∧
            q.ipv4 = BitVec.ofNat 32 (param p 16 4) ∧ q.ipv6 = BitVec.ofNat 128 (param p 24 16) ∧ q.linkUp = false ∧
            ∀ e ∈ s.streams, (streamAt t e.1).op = (streamAt s e.1).op)) ∧
    (wellFormed (.portConfigDatagram ring p) = true → s.pwr.recess = false →
      ∃ t, exec (.portConfigDatagram ring p) s = .next t ∧
        let d := destAt t (param p 10 1 % 64)
        d.enable = (param p 11 1).testBit 1 ∧ d.port = BitVec.ofNat 1 (param p 9 1) ∧ d.resolved = false ∧
          d.dstPort = BitVec.ofNat 16 (param p 12 2) ∧ d.dstIp = BitVec.ofNat 128 (param p 16 16) ∧
          (d.enable = false → d.queue = []) ∧ (d.enable = true → ∀ q ∈ d.queue, q.waitFrom.isSome = true) ∧
          (d.enable = true → (destAt s (param p 10 1 % 64)).enable = false → d.seq = 0)) ∧
    (p.opcode = 0x0C → ∀ blob : HostRead (List Byte),
      let takes := st.op.srtp = true ∧ (st.state = .opened ∨ holds st.state = true)
      (¬ takes → exec (.keyLoad ring p blob) s = .next (answer f (stState u c) u)) ∧
      (takes → ∀ x, blob = .fault x → exec (.keyLoad ring p blob) s = .next (answer f (failWith 0x104 x.toNat) u)) ∧
      (takes → ∀ b, blob = .data b →
        (unwrapKey f b = none → exec (.keyLoad ring p blob) s = .next (answer f (failWith 0x400 0) u)) ∧
        (∀ m, unwrapKey f b = some m → ∃ t k, exec (.keyLoad ring p blob) s = .next t ∧
          findAt (param p 9 1) (streamAt t c).keys = some k ∧ k.material = m ∧ k.suite = param p 8 1 ∧
          k.fromIndex = param p 12 6 ∧ (streamAt t c).state = st.state ∧ ∀ d, d ≠ c → streamAt t d = streamAt s d))) ∧
    (p.opcode = 0x40 →
      let n := param p 16 4
      let e := pushEngine ring
      (st.state = .closed ∨ st.state = .faulted → exec (.auPush ring p) s = .next (answer f (stState u c) u)) ∧
      (st.state ≠ .closed → st.state ≠ .faulted → st.op.source ≠ 2 →
        exec (.auPush ring p) s = .next (answer f (failWith 0x204 0) u)) ∧
      (holds st.state = true → st.op.source = 2 → n ≤ st.ad.maxAu →
        (∀ v, poolAlloc 3 c (ceilDiv n 4096) u = (none, v) →
          exec (.auPush ring p) s = .next (answer f (failWith 0x301 3) v)) ∧
        (∀ bs v, poolAlloc 3 c (ceilDiv n 4096) u = (some bs, v) → ∃ t x, exec (.auPush ring p) s = .next t ∧
          Waits t ring p.tag .transfer ∧ getAt [] e t.mem.host = getAt [] e s.mem.host ++ [x] ∧ x.cls = 3 ∧ x.done = 0 ∧
          x.blocks = bs ∧ bs.length = ceilDiv n 4096 ∧ t.frames = s.frames)))) ∧
    (∀ (tag : BitVec 16) (refFree : Bool) x (o : Outstanding) (a : AuPush),
      (getAt [] (pushEngine ring) s.mem.host).find? (fun t => t.cls == 3 &&
        t.owner.toNat == tag.toNat + 65536 * ring.toNat && decide (t.total ≤ t.done)) = some x →
      s.cmd.outstanding.find? (fun o => o.ring == ring && o.tag == tag && o.cause == .transfer && o.au.isSome) = some o →
      o.au = some a → ∃ t g, exec (.auPushComplete ring tag refFree) s = .next t ∧ g ∈ t.frames ∧ g.ctx = o.ctx ∧
        g.seq = (streamAt s o.ctx.toNat).cnt.frameSeq ∧ g.ts = a.ts ∧ g.flags.getLsbD 3 = (a.capture == 0) ∧
        g.flags.getLsbD 2 = a.discontinuity)

/-! ## Decoding and preparation -/

/-- R131, R132, R134: the report of a decoded picture: a read of poisoned data gives outcome 7, else coverage 0 gives 6, else
a flag of bits [4:0] gives 1, else 0; coverage counts the blocks decoded from the picture's own data; every concealed block
is tainted unless an intra-only picture of coverage 255 clears the map; TAINTED stands while the map is not empty. -/
def Obligations.DecodeReportsFollowTheTable : Prop :=
  ∀ (refs : List RefPic) (e : Nat) (short disc : Bool) (p : PicFacts) (poison : List Nat) (blocks : List BlockFacts),
    let d := decodeBlocks refs e short disc p poison blocks
    let own := (((List.range blocks.length).zip blocks).filter fun x => ownBlock e x.2 && !poison.contains x.1).length
    let outcome := d.report.outcome.toNat
    own ≤ blocks.length ∧ d.kinds.length = blocks.length ∧ d.levels.length = blocks.length ∧
      d.report.coverage.toNat = own * 255 / blocks.length ∧
      (outcome = 7 ↔ poison ≠ []) ∧
      (outcome = 6 ↔ d.report.coverage = 0 ∧ poison = []) ∧
      (outcome = 0 → d.report.causes.extractLsb' 0 5 = 0 ∧ 0 < own) ∧
      (outcome = 1 → d.report.causes.extractLsb' 0 5 ≠ 0 ∧ d.report.coverage ≠ 0) ∧
      (d.report.causes.getLsbD 5 = true ↔ d.taint ≠ []) ∧ d.report.causes.getLsbD 6 = p.profileMismatch ∧
      d.report.causes.getLsbD 7 = disc ∧
      (p.intraOnly = true → d.report.coverage = 255 → d.taint = []) ∧
      (p.intraOnly = false → ∀ i, i ∈ d.concealed → i ∈ d.taint) ∧
      (∀ i, i < blocks.length → d.levels.getD i 0 ≤ 63 ∧ d.kinds.getD i 0 ≤ 3)

/-- R123, R129, R131, R132, R135, R146, R147: an engine ends the decode of the picture it holds: without a coded picture only
the parameter sets are kept; a picture refused at orders 4 to 6 leaves references and counts; any other clears the refusal
count and, where no read meets an error of memory and every frame is shown, gets the report of its blocks. A prepared
input counts and joins its frame. A picture that has run its bound
plus 4 µs starts a compute reset. An engine that holds no picture does nothing.
Completes: decodePicture, decodeWatchdog, prepareInput, prepWatchdog. -/
def Obligations.VideoEnginesEndTheirPictures : Prop :=
  ∀ (s : State),
    (∀ (e : BitVec 5) facts, decHead s e.toNat = none →
      exec (.decodePicture e facts) s = .next s ∧ exec (.decodeWatchdog e) s = .next s) ∧
    (∀ (e : BitVec 5) (facts : PicFacts) f, decHead s e.toNat = some f → f.stage = .waiting →
      let c := f.ctx.toNat
      let st := streamAt s c
      let cut := f.flags.getLsbD 2
      let sets := storeSets st.dec.params facts.stored
      let refs := if cut = true then [] else st.dec.refs
      let mine (t : State) (g : FrameRec) : Prop := g ∈ t.frames ∧ g.ctx = f.ctx ∧ g.seq = f.seq
      (facts.coded = false → ∃ t, exec (.decodePicture e facts) s = .next t ∧ (streamAt t c).dec.params = sets ∧
        (∀ g, ¬ mine t g) ∧ (streamAt t c).dec.refuseCount = st.dec.refuseCount) ∧
      (facts.coded = true → ∀ o, refusalOf st.op.codec st.ad sets facts = .error o → st.dec.refuseCount + 1 < s.refuseLimit.toNat →
        ∃ t g, exec (.decodePicture e facts) s = .next t ∧ mine t g ∧ g.stage = .decoded ∧
          g.report.outcome = BitVec.ofNat 4 o ∧ g.report.coverage = 0 ∧
          g.report.causes.getLsbD 0 = (f.flags.getLsbD 0 || f.flags.getLsbD 1) ∧ (streamAt t c).dec.params = sets ∧
          (streamAt t c).dec.refs = refs ∧
          (streamAt t c).dec.refuseCount = (if o = 2 then st.dec.refuseCount else st.dec.refuseCount + 1) ∧
          (decAt t e.toNat).count2 = satAdd (decAt s e.toNat).count2 1) ∧
      (facts.coded = true → ∀ a, refusalOf st.op.codec st.ad sets facts = .ok a →
        let short := f.flags.getLsbD 0 || f.flags.getLsbD 1
        let p := { facts with outPos := outPosOf st.op.codec f.ts facts }
        let d := decodeBlocks refs (8 * st.ad.maxAu) short cut p [] (blocksOfPic a short facts.blocks)
        let clean := (∀ x, memSyn s.mem.dpa x = 0) ∧ s.mem.substActive = false ∧ (readAu f s).1 = false ∧
          ∀ k ∈ st.ad.pages, k < 0xC000
        ∃ t g, exec (.decodePicture e facts) s = .next t ∧ mine t g ∧ g.pic.w = a.width ∧ g.pic.h = a.height ∧
          g.pic.depth = a.bitDepth ∧ (streamAt t c).dec.refuseCount = 0 ∧ (streamAt t c).dec.refs.length ≤ 8 ∧
          (streamAt t c).state = st.state ∧ (decAt t e.toNat).ctx = f.ctx ∧
          (clean → facts.hidden = [] → g.report = d.report ∧ (streamAt t c).dec.taint = d.taint ∧
            (streamAt t c).dec.levels = d.levels))) ∧
    (∀ (e : BitVec 5) f, decHead s e.toNat = some f → s.pwr.exit_ = none →
      let bound := decBound s f.ctx.toNat
      (s.now - decBegan s e.toNat f < bound → exec (.decodeWatchdog e) s = .next s) ∧
      (bound ≤ s.now - decBegan s e.toNat f → ∃ t, exec (.decodeWatchdog e) s = .next t ∧ ResetStarts s t 0x301 ∧
        t.frames = s.frames)) ∧
    (∀ (e : BitVec 4) ctx seq input cycles, prepHead s e.toNat = none →
      exec (.prepareInput e ctx seq input cycles) s = .next s ∧ exec (.prepWatchdog e) s = .next s) ∧
    (∀ (e : BitVec 4) f late (input cycles : Nat) d, prepHead s e.toNat = some (f, late) → f.seq < 2 ^ 32 →
      input ∈ inputsLeft s late f → (inputsOf s f.ctx.toNat)[input]? = some d →
      ∃ t g, exec (.prepareInput e f.ctx (BitVec.ofNat 32 f.seq) input cycles) s = .next t ∧
        g ∈ t.frames ++ t.bell.frameList ∧ g.ctx = f.ctx ∧ g.seq = f.seq ∧ input ∈ g.inputs ∧
        (prepAt t e.toNat).count0 = satAdd (prepAt s e.toNat).count0 1 ∧ (prepAt t e.toNat).ctx = f.ctx ∧
        (prepAt t e.toNat).saturated =
          satAddW (prepAt s e.toNat).saturated (b2n (prepare f d (freeSlot s f.ctx.toNat input) s).1)) ∧
    (∀ (e : BitVec 4) f late, prepHead s e.toNat = some (f, late) → s.pwr.exit_ = none →
      let bound := prepBound s f.ctx.toNat
      (s.now - prepBegan s e.toNat f < bound → exec (.prepWatchdog e) s = .next s) ∧
      (bound ≤ s.now - prepBegan s e.toNat f → ∃ t, exec (.prepWatchdog e) s = .next t ∧ ResetStarts s t 0x302 ∧
        t.frames = s.frames))

/-! ## What every step keeps -/

/-- The state after reset: the invariants hold, no command waits, and the values that the P column of the register tables
gives: RUNNING, RECESS, BAD_SIZE and the other error bits 0, no credit, no ring enabled, REFUSE_LIMIT and TAINT_WEIGHT at
their defaults, every stream CLOSED, HBM and Granary with nothing listed. -/
def Obligations.ResetStateMeetsTheInvariants : Prop :=
  Inv State.reset ∧ State.reset.pending = [] ∧ State.reset.mem.dpa.cells = [] ∧ State.reset.mem.dpa.syn = [] ∧
    State.reset.refuseLimit = 16 ∧ State.reset.taintWeight = 192 ∧ State.reset.flt.nextSeq = 1 ∧
    State.reset.flt.staging = [] ∧ State.reset.flt.psram = [] ∧ State.reset.glb.mask = 0xFFF ∧
    State.reset.glb.wire = false ∧ State.reset.pwr.recess = false ∧ State.reset.bell.running = false ∧
    cmdErrAny State.reset = false ∧
    (∀ c, (streamAt State.reset c).state = .closed) ∧
    (∀ n, (sqAt State.reset n).enable = false ∧ (cqAt State.reset n).enable = false ∧
      (mrAt State.reset n).enable = false ∧ (cqAt State.reset n).credit = 0) ∧
    (∀ n, (coreAt State.reset n).busy = false ∧ (coreAt State.reset n).retired = false ∧
      (wcAt State.reset n).done = true ∧ (coreAt State.reset n).seq.amark = [0x10000, 0x10000, 0x10000, 0x10000])

/-- R147, R300, R348, R350: the invariants hold after every step from a state in which they hold: HBM and Granary stay in
canonical form, REFUSE_LIMIT stays at least 1, SEQ stays in 1 to 0x7FFF_FFFF, and the wire stands asserted only where it
may. -/
def Obligations.EveryStepKeepsTheInvariants : Prop :=
  ∀ (s t : State), Inv s → step s = .next t → Inv t

/-- A command changes everything but the queue: a step takes exactly one command from its front. -/
def Obligations.StepsTakeExactlyOneCommand : Prop :=
  (∀ (c : Instr) (s t : State), exec c s = .next t → t.pending = s.pending) ∧
  (∀ (c : Instr) (rest : List Instr) (s t : State), s.pending = c :: rest → step s = .next t → t.pending = rest)

/-- R381: the rollback counters never fall and a revoked signing key stays revoked, whatever happens. -/
def Obligations.RollbackCountersOnlyRise : Prop :=
  ∀ (s t : State), step s = .next t →
    s.fw.bailiffCtr.toNat ≤ t.fw.bailiffCtr.toNat ∧ s.fw.patchCtr.toNat ≤ t.fw.patchCtr.toNat ∧
      (∀ k, s.fw.revoked.getLsbD k = true → t.fw.revoked.getLsbD k = true)

/-- The activation and weight buffers of every core stay in canonical form. -/
def Obligations.CoreBuffersStayCanonical : Prop :=
  ∀ (s t : State), (∀ e ∈ s.cores, e.2.act.wf = true ∧ e.2.wgt.wf = true) → step s = .next t →
    ∀ e ∈ t.cores, e.2.act.wf = true ∧ e.2.wgt.wf = true
end

