-- ==== Sys2Proof/Laws/Mem.lean ====
section
/-! SUPPORT. Laws/Mem.lean: what the operations on one memory do: reading after writing, and the canonical form that
every one of them keeps. -/

namespace Sys2Proof.Machine

/-! ## Lists with strictly rising keys -/

section Canon
variable {α : Type} [DecidableEq α] {blank : Nat → α}

theorem canonFrom_weaken {lo lo' : Nat} (h : lo' ≤ lo) :
    ∀ {l : List (Nat × α)}, canonFrom blank lo l = true → canonFrom blank lo' l = true
  | [], _ => rfl
  | (j, w) :: r, hc => by
    simp only [canonFrom, Bool.and_eq_true, decide_eq_true_eq] at hc ⊢
    exact ⟨⟨by omega, hc.1.2⟩, hc.2⟩

/-- Setting a key keeps the canonical form. -/
theorem canonFrom_putCanon (k : Nat) (v : α) :
    ∀ {lo : Nat} {l : List (Nat × α)}, lo ≤ k → canonFrom blank lo l = true →
      canonFrom blank lo (putCanon blank k v l) = true
  | lo, [], hk, _ => by
    simp only [putCanon]
    split
    · rfl
    · simp [canonFrom, *]
  | lo, (j, w) :: r, hk, hc => by
    simp only [canonFrom, Bool.and_eq_true, decide_eq_true_eq] at hc
    obtain ⟨⟨hj, hw⟩, hr⟩ := hc
    simp only [putCanon]
    by_cases h1 : k < j
    · rw [if_pos h1]
      by_cases hv : v = blank k
      · rw [if_pos hv]; simp [canonFrom, hj, hw, hr]
      · rw [if_neg hv]
        have := canonFrom_weaken (lo := j + 1) (lo' := j + 1) le_rfl hr
        simp [canonFrom, hk, hv, hw, this]
        omega
    · rw [if_neg h1]
      by_cases h2 : k = j
      · rw [if_pos h2]
        by_cases hv : v = blank k
        · rw [if_pos hv]; exact canonFrom_weaken (by omega) hr
        · rw [if_neg hv]; subst h2; simp [canonFrom, hk, hv, hr]
      · rw [if_neg h2]
        have := canonFrom_putCanon k v (lo := j + 1) (l := r) (by omega) hr
        simp [canonFrom, hj, hw, this]

/-- Dropping entries keeps the canonical form. -/
theorem canonFrom_filter (p : Nat × α → Bool) :
    ∀ {lo : Nat} {l : List (Nat × α)}, canonFrom blank lo l = true → canonFrom blank lo (l.filter p) = true
  | _, [], _ => rfl
  | lo, (j, w) :: r, hc => by
    simp only [canonFrom, Bool.and_eq_true, decide_eq_true_eq] at hc
    obtain ⟨⟨hj, hw⟩, hr⟩ := hc
    have := canonFrom_filter p (lo := j + 1) hr
    by_cases hp : p (j, w)
    · simp [List.filter_cons_of_pos hp, canonFrom, hj, hw, this]
    · rw [List.filter_cons_of_neg hp]; exact canonFrom_weaken (by omega) this

/-- A key below the first is not listed. -/
theorem findAt_below {lo k : Nat} (hk : k < lo) :
    ∀ {l : List (Nat × α)}, canonFrom blank lo l = true → findAt k l = none
  | [], _ => rfl
  | (j, w) :: r, hc => by
    simp only [canonFrom, Bool.and_eq_true, decide_eq_true_eq] at hc
    have : ¬ j = k := by omega
    simp [findAt, this, findAt_below (by omega : k < j + 1) hc.2]

/-- What a key reads as after a key was set. -/
theorem read_putCanon (k : Nat) (v : α) (a : Nat) :
    ∀ {lo : Nat} {l : List (Nat × α)}, canonFrom blank lo l = true →
      (findAt a (putCanon blank k v l)).getD (blank a) = if a = k then v else (findAt a l).getD (blank a)
  | lo, [], _ => by
    by_cases ha : a = k
    · subst ha
      by_cases hv : v = blank a <;> simp [putCanon, findAt, hv]
    · have hne : ¬ k = a := fun h => ha h.symm
      by_cases hv : v = blank k <;> simp [putCanon, findAt, hv, ha, hne]
  | lo, (j, w) :: r, hc => by
    simp only [canonFrom, Bool.and_eq_true, decide_eq_true_eq] at hc
    obtain ⟨⟨hj, hw⟩, hr⟩ := hc
    simp only [putCanon]
    by_cases h1 : k < j
    · rw [if_pos h1]
      by_cases hv : v = blank k
      · rw [if_pos hv]
        by_cases ha : a = k
        · have hne : ¬ j = k := by omega
          simp [findAt, hne, findAt_below (by omega : k < j + 1) hr, ha, hv]
        · simp [ha]
      · rw [if_neg hv]
        by_cases ha : a = k
        · simp [findAt, ha]
        · have : ¬ k = a := fun h => ha h.symm
          simp [findAt, ha, this]
    · rw [if_neg h1]
      by_cases h2 : k = j
      · subst h2
        rw [if_pos rfl]
        by_cases hv : v = blank k
        · rw [if_pos hv]
          by_cases ha : a = k
          · simp [ha, findAt_below (by omega : k < k + 1) hr, hv]
          · have : ¬ k = a := fun h => ha h.symm
            simp [findAt, ha, this]
        · rw [if_neg hv]
          by_cases ha : a = k
          · simp [findAt, ha]
          · have : ¬ k = a := fun h => ha h.symm
            simp [findAt, ha, this]
      · rw [if_neg h2]
        have ih := read_putCanon k v a hr
        by_cases ha : j = a
        · have : ¬ a = k := by omega
          simp [findAt, ha, this]
        · simpa [findAt, ha] using ih

end Canon

/-! ## One memory -/

theorem memByte_eq (m : Mem) (a : Nat) : memByte m a = (findAt a m.cells).getD (memBlank m a) := by
  unfold memByte; cases findAt a m.cells <;> rfl

theorem memSyn_eq (m : Mem) (w : Nat) : memSyn m w = (findAt w m.syn).getD (synBlank m w) := by
  unfold memSyn; cases findAt w m.syn <;> rfl

theorem Mem.wf_cells {m : Mem} (h : m.wf = true) : canonFrom (memBlank m) 0 m.cells = true := by
  simp only [Mem.wf, Bool.and_eq_true] at h; exact h.1

theorem Mem.wf_syn {m : Mem} (h : m.wf = true) : canonFrom (synBlank m) 0 m.syn = true := by
  simp only [Mem.wf, Bool.and_eq_true] at h; exact h.2

/-- Read after write: the byte written, and every other byte as before. -/
theorem memByte_memPut {m : Mem} (h : m.wf = true) (k : Nat) (b : Byte) (a : Nat) :
    memByte (memPut m k b) a = if a = k then b else memByte m a := by
  rw [memByte_eq, memByte_eq]
  exact read_putCanon k b a (Mem.wf_cells h)

/-- The syndrome after one was set. -/
theorem memSyn_memPutSyn {m : Mem} (h : m.wf = true) (k : Nat) (y : BitVec 7) (w : Nat) :
    memSyn (memPutSyn m k y) w = if w = k then y else memSyn m w := by
  rw [memSyn_eq, memSyn_eq]
  exact read_putCanon k y w (Mem.wf_syn h)

/-- Syndromes do not change with data, nor data with syndromes. -/
@[simp] theorem memSyn_memPut (m : Mem) (k : Nat) (b : Byte) (w : Nat) : memSyn (memPut m k b) w = memSyn m w := rfl
@[simp] theorem memByte_memPutSyn (m : Mem) (k : Nat) (y : BitVec 7) (a : Nat) :
    memByte (memPutSyn m k y) a = memByte m a := rfl

/-! ## The canonical form is kept -/

theorem memPut_wf {m : Mem} (h : m.wf = true) (a : Nat) (b : Byte) : (memPut m a b).wf = true := by
  have h1 := canonFrom_putCanon (blank := memBlank m) a b (Nat.zero_le a) (Mem.wf_cells h)
  have h2 := Mem.wf_syn h
  simp only [Mem.wf, Bool.and_eq_true]
  exact ⟨h1, h2⟩

theorem memPutSyn_wf {m : Mem} (h : m.wf = true) (w : Nat) (y : BitVec 7) : (memPutSyn m w y).wf = true := by
  have h1 := canonFrom_putCanon (blank := synBlank m) w y (Nat.zero_le w) (Mem.wf_syn h)
  have h2 := Mem.wf_cells h
  simp only [Mem.wf, Bool.and_eq_true]
  exact ⟨h2, h1⟩

theorem memPutWord_wf {m : Mem} (h : m.wf = true) (w : Nat) (d : Word) (y : BitVec 7) :
    (memPutWord m w d y).wf = true :=
  memPutSyn_wf (memPut_wf (memPut_wf (memPut_wf (memPut_wf h _ _) _ _) _ _) _ _) _ _

theorem memRead_wf {m : Mem} (h : m.wf = true) (w : Nat) : (memRead m w).2.2.1.wf = true := by
  unfold memRead
  dsimp only
  split
  · exact h
  · exact memPutWord_wf h _ _ _
  · exact h
  · exact memPutSyn_wf h _ _

theorem memWrite_wf {m : Mem} (h : m.wf = true) (w : Nat) (d : Word) (be : BitVec 4) : (memWrite m w d be).1.wf = true := by
  unfold memWrite
  dsimp only
  split
  · exact memPutWord_wf h _ _ _
  · split
    · exact h
    · split
      · exact memRead_wf h _
      · exact memPutWord_wf (memRead_wf h _) _ _ _

theorem memPoison_wf {m : Mem} (h : m.wf = true) (w : Nat) : (memPoison m w).wf = true := memPutSyn_wf h _ _

theorem memFlip_wf {m : Mem} (h : m.wf = true) (w bit : Nat) : (memFlip m w bit).wf = true := by
  unfold memFlip
  dsimp only
  split
  · exact memPutWord_wf h _ _ _
  · exact memPutSyn_wf h _ _

theorem memReads_wf (n : Nat) : ∀ {m : Mem}, m.wf = true → ∀ w : Nat, (memReads m w n).2.1.wf = true := by
  induction n with
  | zero => intro m h w; exact h
  | succ n ih => intro m h w; exact ih (memRead_wf h w) _

theorem memWrites_wf (l : List (Word × Bool)) : ∀ {m : Mem}, m.wf = true → ∀ w : Nat, (memWrites m w l).wf = true := by
  induction l with
  | nil => intro m h w; exact h
  | cons e r ih => intro m h w; exact ih (memPutWord_wf h _ _ _) _

/-- A memory that lists nothing is canonical. -/
theorem wf_empty (id gen bad badEnd : Nat) : ({ id, gen, bad, badEnd } : Mem).wf = true := rfl

end Sys2Proof.Machine
end

