-- ==== Sys2Proof/Laws/Packets.lean ====
section
/-! SUPPORT. Laws/Packets.lean: what fetching, answering and holding back a packet can do (R27, R28, R32 to R36, R51). -/

namespace Sys2Proof.Machine

/-! ## States that differ only in replies -/

theorem SameButReplies.refl (s : State) : SameButReplies s s := rfl

theorem SameButReplies.trans {s t u : State} (h : SameButReplies s t) (k : SameButReplies t u) : SameButReplies s u := by
  unfold SameButReplies at *
  rw [h] at k
  exact k

theorem SameButReplies.intro (s : State) (cmd : Cmd) (glb : Glb) (out : List Output) (link : Link) :
    SameButReplies s { s with cmd := cmd, glb := glb, out := out, link := link } := rfl

theorem sameButReplies_setCq (n : Nat) (c : ComRing) (s : State) : SameButReplies s (setCq n c s) := rfl
theorem sameButReplies_setSq (n : Nat) (c : SubRing) (s : State) : SameButReplies s (setSq n c s) := rfl
theorem sameButReplies_hostWrite (a : Nat) (b : List Byte) (s : State) : SameButReplies s (hostWrite a b s) := rfl

theorem sameButReplies_updateWire (s : State) : SameButReplies s (updateWire s) := by
  unfold updateWire
  repeat' split
  all_goals rfl

theorem sameButReplies_writeReply (n : Nat) (r : Reply) (s : State) : SameButReplies s (writeReply n r s) := by
  unfold writeReply
  dsimp only
  split
  · refine .trans (t := noteEntry _) ?_ (sameButReplies_updateWire _)
    rfl
  · rfl

theorem sameButReplies_drainReplies (n : Nat) (l : List Reply) (s : State) : SameButReplies s (drainReplies n l s) := by
  induction l generalizing s with
  | nil => rfl
  | cons r rs ih =>
    unfold drainReplies
    split
    · exact .trans (sameButReplies_writeReply n r s) (ih _)
    · rfl

theorem sameButReplies_pushReply (r : Reply) (s : State) : SameButReplies s (pushReply r s) :=
  sameButReplies_drainReplies _ _ s

theorem sameButReplies_releaseReplies (ring : BitVec 6) (l : List Outstanding) (b : Bool) (s : State) :
    SameButReplies s (releaseReplies ring l b s) := by
  induction l generalizing b s with
  | nil => rfl
  | cons o os ih =>
    unfold releaseReplies
    split
    · split
      · split
        · exact .trans (by rfl) (ih _ _)
        · split
          · exact ih _ _
          · exact .trans (sameButReplies_pushReply _ _) (ih _ _)
      · exact .trans (by rfl) (ih _ _)
    · exact .trans (by rfl) (ih _ _)

theorem sameButReplies_releaseRing (ring : BitVec 6) (s : State) : SameButReplies s (releaseRing ring s) :=
  .trans (by rfl) (sameButReplies_releaseReplies _ _ _ _)

theorem sameButReplies_finish (c : BitVec 6 × BitVec 16) (r : Reply) (s : State) : SameButReplies s (finish c r s) :=
  .trans (by rfl) (sameButReplies_releaseRing _ _)

theorem sameButReplies_wait (f : Fetched) (c : WaitCause) (s : State) : SameButReplies s (wait_ f c s) := rfl

theorem sameButReplies_fetch (ring : BitVec 6) (s : State) : SameButReplies s (fetch ring s) := rfl

/-- Answering a command changes only rings, the wire, what has been sent, and the link's power state. -/
theorem sameButReplies_answer (f : Fetched) (r : Reply) (s : State) : SameButReplies s (answer f r s) :=
  .trans (sameButReplies_wait _ _ _) (sameButReplies_releaseRing _ _)

/-! ## One packet -/

/-- What a packet does whose command executes at once. -/
theorem packetStep_ready {mine : Packet → Bool} {ring : BitVec 6} {p : Packet} {body : Fetched → State → State} {s : State}
    (hm : mine p = true) (h : Ready s ring p) :
    packetStep mine ring p body s = .next (body (fetchedOf s ring p) (fetch ring s)) := by
  obtain ⟨hq, hf, hc, hw⟩ := h
  have hw' : mustQueue (fetch ring s) (fetchedOf s ring p) = false := hw
  simp [packetStep, hm, hq, hf, hc, hw']

/-- A packet that cannot be fetched leaves the state as it is. -/
theorem packetStep_held {mine : Packet → Bool} {ring : BitVec 6} {p : Packet} {body : Fetched → State → State} {s : State}
    (hm : mine p = true) (hq : queuedAs s ring p = none) (hf : fetchable s ring p = false) :
    packetStep mine ring p body s = .next s := by
  simp [packetStep, hm, hq, hf]

/-- A packet that fails a check of R32 is fetched and answered, with no other effect. -/
theorem packetStep_checked {mine : Packet → Bool} {ring : BitVec 6} {p : Packet} {body : Fetched → State → State}
    {s : State} {r : Reply} (hm : mine p = true) (hq : queuedAs s ring p = none) (hf : fetchable s ring p = true)
    (hc : packetCheck s ring p = some r) :
    packetStep mine ring p body s = .next (answer (fetchedOf s ring p) r (fetch ring s)) := by
  simp [packetStep, hm, hq, hf, hc]

/-- A packet that waits for an earlier command is fetched and queued. -/
theorem packetStep_queued {mine : Packet → Bool} {ring : BitVec 6} {p : Packet} {body : Fetched → State → State}
    {s : State} (hm : mine p = true) (hq : queuedAs s ring p = none) (hf : fetchable s ring p = true)
    (hc : packetCheck s ring p = none) (hw : mustQueue s (fetchedOf s ring p) = true) :
    packetStep mine ring p body s = .next (wait_ (fetchedOf s ring p) (.queued p) (fetch ring s)) := by
  have hw' : mustQueue (fetch ring s) (fetchedOf s ring p) = true := hw
  simp [packetStep, hm, hq, hf, hc, hw']

end Sys2Proof.Machine
end

