-- ==== Sys2Proof/Laws/State.lean ====
section
/-! SUPPORT. Laws/State.lean: reading after writing: index maps, the contexts of the machine, the interrupt wire. -/

namespace Sys2Proof.Machine

/-! ## Index maps -/

@[simp] theorem getAt_putAt_self {α : Type} (d v : α) (k : Nat) (m : List (Nat × α)) : getAt d k (putAt k v m) = v := by
  induction m with
  | nil => simp [putAt, getAt]
  | cons e r ih =>
    obtain ⟨j, w⟩ := e
    unfold putAt
    split
    · simp [getAt]
    · split
      · simp [getAt]
      · have h : j ≠ k := by omega
        simp [getAt, h, ih]

theorem getAt_putAt_ne {α : Type} (d v : α) {k i : Nat} (h : i ≠ k) (m : List (Nat × α)) :
    getAt d i (putAt k v m) = getAt d i m := by
  induction m with
  | nil => simp [putAt, getAt, Ne.symm h]
  | cons e r ih =>
    obtain ⟨j, w⟩ := e
    unfold putAt
    split
    · simp [getAt, Ne.symm h]
    · split
      · subst k; simp [getAt, Ne.symm h]
      · simp only [getAt, ih]

@[simp] theorem findAt_putAt_self {α : Type} (v : α) (k : Nat) (m : List (Nat × α)) : findAt k (putAt k v m) = some v := by
  induction m with
  | nil => simp [putAt, findAt]
  | cons e r ih =>
    obtain ⟨j, w⟩ := e
    unfold putAt
    split
    · simp [findAt]
    · split
      · simp [findAt]
      · have h : j ≠ k := by omega
        simp [findAt, h, ih]

theorem findAt_putAt_ne {α : Type} (v : α) {k i : Nat} (h : i ≠ k) (m : List (Nat × α)) :
    findAt i (putAt k v m) = findAt i m := by
  induction m with
  | nil => simp [putAt, findAt, Ne.symm h]
  | cons e r ih =>
    obtain ⟨j, w⟩ := e
    unfold putAt
    split
    · simp [findAt, Ne.symm h]
    · split
      · subst k; simp [findAt, Ne.symm h]
      · simp only [findAt, ih]

/-! ## Contexts -/

theorem findAt_dropAt {α : Type} (k i : Nat) (m : List (Nat × α)) :
    findAt i (dropAt k m) = if i = k then none else findAt i m := by
  induction m with
  | nil => simp [dropAt, findAt]
  | cons e r ih =>
    obtain ⟨j, v⟩ := e
    by_cases hj : j = k
    · subst hj
      rw [dropAt, if_pos rfl, ih]
      by_cases hi : i = j
      · simp [hi]
      · have hj : ¬ j = i := fun h => hi h.symm
        simp [hi, findAt, hj]
    · rw [dropAt, if_neg hj, findAt, ih]
      by_cases hi : i = k
      · subst hi; simp [hj]
      · simp [hi, findAt]

@[simp] theorem findAt_dropAt_self {α : Type} (k : Nat) (m : List (Nat × α)) : findAt k (dropAt k m) = none := by
  simp [findAt_dropAt]

theorem findAt_dropAt_ne {α : Type} {k i : Nat} (h : i ≠ k) (m : List (Nat × α)) :
    findAt i (dropAt k m) = findAt i m := by
  simp [findAt_dropAt, h]

theorem getAt_eq {α : Type} (d : α) (k : Nat) (m : List (Nat × α)) : getAt d k m = (findAt k m).getD d := by
  induction m with
  | nil => rfl
  | cons e r ih => obtain ⟨j, v⟩ := e; by_cases hj : j = k <;> simp [getAt, findAt, hj, ih]

@[simp] theorem streamAt_setStream (c : Nat) (v : Stream) (s : State) : streamAt (setStream c v s) c = v := by
  simp [streamAt, setStream]
theorem streamAt_setStream_ne {c d : Nat} (h : d ≠ c) (v : Stream) (s : State) :
    streamAt (setStream c v s) d = streamAt s d := by simp [streamAt, setStream, getAt_putAt_ne _ _ h]
@[simp] theorem sqAt_setSq (n : Nat) (v : SubRing) (s : State) : sqAt (setSq n v s) n = v := by simp [sqAt, setSq]
theorem sqAt_setSq_ne {n m : Nat} (h : m ≠ n) (v : SubRing) (s : State) : sqAt (setSq n v s) m = sqAt s m := by
  simp [sqAt, setSq, getAt_putAt_ne _ _ h]
@[simp] theorem cqAt_setCq (n : Nat) (v : ComRing) (s : State) : cqAt (setCq n v s) n = v := by simp [cqAt, setCq]
theorem cqAt_setCq_ne {n m : Nat} (h : m ≠ n) (v : ComRing) (s : State) : cqAt (setCq n v s) m = cqAt s m := by
  simp [cqAt, setCq, getAt_putAt_ne _ _ h]
@[simp] theorem mrAt_setMr (n : Nat) (v : MetaRing) (s : State) : mrAt (setMr n v s) n = v := by simp [mrAt, setMr]
theorem mrAt_setMr_ne {n m : Nat} (h : m ≠ n) (v : MetaRing) (s : State) : mrAt (setMr n v s) m = mrAt s m := by
  simp [mrAt, setMr, getAt_putAt_ne _ _ h]
@[simp] theorem coreAt_setCore (n : Nat) (v : Core) (s : State) : coreAt (setCore n v s) n = v := by
  simp [coreAt, setCore]
theorem coreAt_setCore_ne {n m : Nat} (h : m ≠ n) (v : Core) (s : State) : coreAt (setCore n v s) m = coreAt s m := by
  simp [coreAt, setCore, getAt_putAt_ne _ _ h]
@[simp] theorem decAt_setDec (n : Nat) (v : VidEngine) (s : State) : decAt (setDec n v s) n = v := by
  simp [decAt, setDec]
@[simp] theorem prepAt_setPrep (n : Nat) (v : VidEngine) (s : State) : prepAt (setPrep n v s) n = v := by
  simp [prepAt, setPrep]
@[simp] theorem encAt_setEnc (n : Nat) (v : EncEngine) (s : State) : encAt (setEnc n v s) n = v := by
  simp [encAt, setEnc]
@[simp] theorem destAt_setDest (n : Nat) (v : DgDest) (s : State) : destAt (setDest n v s) n = v := by
  simp [destAt, setDest]
@[simp] theorem portAt_setPort (n : Nat) (v : Port) (s : State) : portAt (setPort n v s) n = v := by
  simp [portAt, setPort]
@[simp] theorem netAt_setNet (n : Nat) (v : Network) (s : State) : netAt (setNet n v s) n = some v := by
  simp [netAt, setNet]
@[simp] theorem wcAt_setWc (n : Nat) (v : WorkCounter) (s : State) : wcAt (setWc n v s) n = v := by simp [wcAt, setWc]

/-! ## Fields that a write of one context keeps -/

@[simp] theorem setStream_cmd (c : Nat) (v : Stream) (s : State) : (setStream c v s).cmd = s.cmd := rfl
@[simp] theorem setStream_glb (c : Nat) (v : Stream) (s : State) : (setStream c v s).glb = s.glb := rfl
@[simp] theorem setStream_mem (c : Nat) (v : Stream) (s : State) : (setStream c v s).mem = s.mem := rfl
@[simp] theorem setStream_flt (c : Nat) (v : Stream) (s : State) : (setStream c v s).flt = s.flt := rfl
@[simp] theorem setStream_bell (c : Nat) (v : Stream) (s : State) : (setStream c v s).bell = s.bell := rfl
@[simp] theorem setStream_out (c : Nat) (v : Stream) (s : State) : (setStream c v s).out = s.out := rfl
@[simp] theorem setStream_pending (c : Nat) (v : Stream) (s : State) : (setStream c v s).pending = s.pending := rfl
@[simp] theorem setSq_streams (n : Nat) (v : SubRing) (s : State) : (setSq n v s).streams = s.streams := rfl
@[simp] theorem setSq_outstanding (n : Nat) (v : SubRing) (s : State) :
    (setSq n v s).cmd.outstanding = s.cmd.outstanding := rfl
@[simp] theorem setSq_cq (n : Nat) (v : SubRing) (s : State) : (setSq n v s).cmd.cq = s.cmd.cq := rfl
@[simp] theorem setSq_mr (n : Nat) (v : SubRing) (s : State) : (setSq n v s).cmd.mr = s.cmd.mr := rfl
@[simp] theorem setSq_out (n : Nat) (v : SubRing) (s : State) : (setSq n v s).out = s.out := rfl
@[simp] theorem setCq_sq (n : Nat) (v : ComRing) (s : State) : (setCq n v s).cmd.sq = s.cmd.sq := rfl
@[simp] theorem setCq_outstanding (n : Nat) (v : ComRing) (s : State) :
    (setCq n v s).cmd.outstanding = s.cmd.outstanding := rfl
@[simp] theorem setCq_streams (n : Nat) (v : ComRing) (s : State) : (setCq n v s).streams = s.streams := rfl
@[simp] theorem setCq_out (n : Nat) (v : ComRing) (s : State) : (setCq n v s).out = s.out := rfl
@[simp] theorem setMr_sq (n : Nat) (v : MetaRing) (s : State) : (setMr n v s).cmd.sq = s.cmd.sq := rfl
@[simp] theorem setMr_outstanding (n : Nat) (v : MetaRing) (s : State) :
    (setMr n v s).cmd.outstanding = s.cmd.outstanding := rfl
@[simp] theorem setMr_streams (n : Nat) (v : MetaRing) (s : State) : (setMr n v s).streams = s.streams := rfl
@[simp] theorem setMr_out (n : Nat) (v : MetaRing) (s : State) : (setMr n v s).out = s.out := rfl
@[simp] theorem setCore_mem (n : Nat) (v : Core) (s : State) : (setCore n v s).mem = s.mem := rfl
@[simp] theorem setCore_bell (n : Nat) (v : Core) (s : State) : (setCore n v s).bell = s.bell := rfl
@[simp] theorem setCore_flt (n : Nat) (v : Core) (s : State) : (setCore n v s).flt = s.flt := rfl
@[simp] theorem setCore_pending (n : Nat) (v : Core) (s : State) : (setCore n v s).pending = s.pending := rfl

/-! ## What a write of one context keeps

One theorem for each write, a clause for each field of State that has no lemma above. -/

@[simp] theorem setStream_keeps (c : Nat) (v : Stream) (s : State) :
    (setStream c v s).now = s.now ∧ (setStream c v s).free = s.free ∧ (setStream c v s).frames = s.frames ∧
    (setStream c v s).dests = s.dests ∧ (setStream c v s).sheaves = s.sheaves ∧ (setStream c v s).ports = s.ports ∧
    (setStream c v s).flow = s.flow ∧ (setStream c v s).pools = s.pools ∧ (setStream c v s).decEng = s.decEng ∧
    (setStream c v s).prepEng = s.prepEng ∧ (setStream c v s).encEng = s.encEng ∧
    (setStream c v s).refuseLimit = s.refuseLimit ∧ (setStream c v s).taintWeight = s.taintWeight ∧
    (setStream c v s).cores = s.cores ∧ (setStream c v s).wcs = s.wcs ∧ (setStream c v s).tags = s.tags ∧
    (setStream c v s).trk = s.trk ∧ (setStream c v s).nets = s.nets ∧ (setStream c v s).jobs = s.jobs ∧
    (setStream c v s).clips = s.clips ∧ (setStream c v s).nextClip = s.nextClip ∧
    (setStream c v s).clipAreaUsed = s.clipAreaUsed ∧ (setStream c v s).tests = s.tests ∧
    (setStream c v s).pwr = s.pwr ∧ (setStream c v s).link = s.link ∧ (setStream c v s).slot = s.slot ∧
    (setStream c v s).board = s.board ∧ (setStream c v s).tel = s.tel ∧ (setStream c v s).fw = s.fw ∧
    (setStream c v s).cyc = s.cyc ∧ (setStream c v s).clusterSram = s.clusterSram ∧
    (setStream c v s).securitySram = s.securitySram ∧ (setStream c v s).psram = s.psram :=
  ⟨rfl, rfl, rfl, rfl, rfl, rfl, rfl, rfl, rfl, rfl, rfl, rfl, rfl, rfl, rfl, rfl, rfl, rfl, rfl, rfl, rfl, rfl, rfl,
    rfl, rfl, rfl, rfl, rfl, rfl, rfl, rfl, rfl, rfl⟩
@[simp] theorem setSq_keeps (n : Nat) (v : SubRing) (s : State) :
    (setSq n v s).now = s.now ∧ (setSq n v s).free = s.free ∧ (setSq n v s).glb = s.glb ∧
    (setSq n v s).frames = s.frames ∧ (setSq n v s).dests = s.dests ∧ (setSq n v s).sheaves = s.sheaves ∧
    (setSq n v s).ports = s.ports ∧ (setSq n v s).flow = s.flow ∧ (setSq n v s).pools = s.pools ∧
    (setSq n v s).decEng = s.decEng ∧ (setSq n v s).prepEng = s.prepEng ∧ (setSq n v s).encEng = s.encEng ∧
    (setSq n v s).refuseLimit = s.refuseLimit ∧ (setSq n v s).taintWeight = s.taintWeight ∧
    (setSq n v s).cores = s.cores ∧ (setSq n v s).wcs = s.wcs ∧ (setSq n v s).tags = s.tags ∧
    (setSq n v s).bell = s.bell ∧ (setSq n v s).trk = s.trk ∧ (setSq n v s).nets = s.nets ∧
    (setSq n v s).jobs = s.jobs ∧ (setSq n v s).clips = s.clips ∧ (setSq n v s).nextClip = s.nextClip ∧
    (setSq n v s).clipAreaUsed = s.clipAreaUsed ∧ (setSq n v s).tests = s.tests ∧ (setSq n v s).mem = s.mem ∧
    (setSq n v s).flt = s.flt ∧ (setSq n v s).pwr = s.pwr ∧ (setSq n v s).link = s.link ∧ (setSq n v s).slot = s.slot ∧
    (setSq n v s).board = s.board ∧ (setSq n v s).tel = s.tel ∧ (setSq n v s).fw = s.fw ∧ (setSq n v s).cyc = s.cyc ∧
    (setSq n v s).clusterSram = s.clusterSram ∧ (setSq n v s).securitySram = s.securitySram ∧
    (setSq n v s).psram = s.psram ∧ (setSq n v s).pending = s.pending :=
  ⟨rfl, rfl, rfl, rfl, rfl, rfl, rfl, rfl, rfl, rfl, rfl, rfl, rfl, rfl, rfl, rfl, rfl, rfl, rfl, rfl, rfl, rfl, rfl,
    rfl, rfl, rfl, rfl, rfl, rfl, rfl, rfl, rfl, rfl, rfl, rfl, rfl, rfl, rfl⟩
@[simp] theorem setCq_keeps (n : Nat) (v : ComRing) (s : State) :
    (setCq n v s).now = s.now ∧ (setCq n v s).free = s.free ∧ (setCq n v s).glb = s.glb ∧
    (setCq n v s).frames = s.frames ∧ (setCq n v s).dests = s.dests ∧ (setCq n v s).sheaves = s.sheaves ∧
    (setCq n v s).ports = s.ports ∧ (setCq n v s).flow = s.flow ∧ (setCq n v s).pools = s.pools ∧
    (setCq n v s).decEng = s.decEng ∧ (setCq n v s).prepEng = s.prepEng ∧ (setCq n v s).encEng = s.encEng ∧
    (setCq n v s).refuseLimit = s.refuseLimit ∧ (setCq n v s).taintWeight = s.taintWeight ∧
    (setCq n v s).cores = s.cores ∧ (setCq n v s).wcs = s.wcs ∧ (setCq n v s).tags = s.tags ∧
    (setCq n v s).bell = s.bell ∧ (setCq n v s).trk = s.trk ∧ (setCq n v s).nets = s.nets ∧
    (setCq n v s).jobs = s.jobs ∧ (setCq n v s).clips = s.clips ∧ (setCq n v s).nextClip = s.nextClip ∧
    (setCq n v s).clipAreaUsed = s.clipAreaUsed ∧ (setCq n v s).tests = s.tests ∧ (setCq n v s).mem = s.mem ∧
    (setCq n v s).flt = s.flt ∧ (setCq n v s).pwr = s.pwr ∧ (setCq n v s).link = s.link ∧ (setCq n v s).slot = s.slot ∧
    (setCq n v s).board = s.board ∧ (setCq n v s).tel = s.tel ∧ (setCq n v s).fw = s.fw ∧ (setCq n v s).cyc = s.cyc ∧
    (setCq n v s).clusterSram = s.clusterSram ∧ (setCq n v s).securitySram = s.securitySram ∧
    (setCq n v s).psram = s.psram ∧ (setCq n v s).pending = s.pending :=
  ⟨rfl, rfl, rfl, rfl, rfl, rfl, rfl, rfl, rfl, rfl, rfl, rfl, rfl, rfl, rfl, rfl, rfl, rfl, rfl, rfl, rfl, rfl, rfl,
    rfl, rfl, rfl, rfl, rfl, rfl, rfl, rfl, rfl, rfl, rfl, rfl, rfl, rfl, rfl⟩
@[simp] theorem setMr_keeps (n : Nat) (v : MetaRing) (s : State) :
    (setMr n v s).now = s.now ∧ (setMr n v s).free = s.free ∧ (setMr n v s).glb = s.glb ∧
    (setMr n v s).frames = s.frames ∧ (setMr n v s).dests = s.dests ∧ (setMr n v s).sheaves = s.sheaves ∧
    (setMr n v s).ports = s.ports ∧ (setMr n v s).flow = s.flow ∧ (setMr n v s).pools = s.pools ∧
    (setMr n v s).decEng = s.decEng ∧ (setMr n v s).prepEng = s.prepEng ∧ (setMr n v s).encEng = s.encEng ∧
    (setMr n v s).refuseLimit = s.refuseLimit ∧ (setMr n v s).taintWeight = s.taintWeight ∧
    (setMr n v s).cores = s.cores ∧ (setMr n v s).wcs = s.wcs ∧ (setMr n v s).tags = s.tags ∧
    (setMr n v s).bell = s.bell ∧ (setMr n v s).trk = s.trk ∧ (setMr n v s).nets = s.nets ∧
    (setMr n v s).jobs = s.jobs ∧ (setMr n v s).clips = s.clips ∧ (setMr n v s).nextClip = s.nextClip ∧
    (setMr n v s).clipAreaUsed = s.clipAreaUsed ∧ (setMr n v s).tests = s.tests ∧ (setMr n v s).mem = s.mem ∧
    (setMr n v s).flt = s.flt ∧ (setMr n v s).pwr = s.pwr ∧ (setMr n v s).link = s.link ∧ (setMr n v s).slot = s.slot ∧
    (setMr n v s).board = s.board ∧ (setMr n v s).tel = s.tel ∧ (setMr n v s).fw = s.fw ∧ (setMr n v s).cyc = s.cyc ∧
    (setMr n v s).clusterSram = s.clusterSram ∧ (setMr n v s).securitySram = s.securitySram ∧
    (setMr n v s).psram = s.psram ∧ (setMr n v s).pending = s.pending :=
  ⟨rfl, rfl, rfl, rfl, rfl, rfl, rfl, rfl, rfl, rfl, rfl, rfl, rfl, rfl, rfl, rfl, rfl, rfl, rfl, rfl, rfl, rfl, rfl,
    rfl, rfl, rfl, rfl, rfl, rfl, rfl, rfl, rfl, rfl, rfl, rfl, rfl, rfl, rfl⟩
@[simp] theorem setCore_keeps (n : Nat) (v : Core) (s : State) :
    (setCore n v s).now = s.now ∧ (setCore n v s).free = s.free ∧ (setCore n v s).glb = s.glb ∧
    (setCore n v s).cmd = s.cmd ∧ (setCore n v s).streams = s.streams ∧ (setCore n v s).frames = s.frames ∧
    (setCore n v s).dests = s.dests ∧ (setCore n v s).sheaves = s.sheaves ∧ (setCore n v s).ports = s.ports ∧
    (setCore n v s).flow = s.flow ∧ (setCore n v s).pools = s.pools ∧ (setCore n v s).decEng = s.decEng ∧
    (setCore n v s).prepEng = s.prepEng ∧ (setCore n v s).encEng = s.encEng ∧
    (setCore n v s).refuseLimit = s.refuseLimit ∧ (setCore n v s).taintWeight = s.taintWeight ∧
    (setCore n v s).wcs = s.wcs ∧ (setCore n v s).tags = s.tags ∧ (setCore n v s).trk = s.trk ∧
    (setCore n v s).nets = s.nets ∧ (setCore n v s).jobs = s.jobs ∧ (setCore n v s).clips = s.clips ∧
    (setCore n v s).nextClip = s.nextClip ∧ (setCore n v s).clipAreaUsed = s.clipAreaUsed ∧
    (setCore n v s).tests = s.tests ∧ (setCore n v s).pwr = s.pwr ∧ (setCore n v s).link = s.link ∧
    (setCore n v s).slot = s.slot ∧ (setCore n v s).board = s.board ∧ (setCore n v s).tel = s.tel ∧
    (setCore n v s).fw = s.fw ∧ (setCore n v s).cyc = s.cyc ∧ (setCore n v s).clusterSram = s.clusterSram ∧
    (setCore n v s).securitySram = s.securitySram ∧ (setCore n v s).psram = s.psram ∧ (setCore n v s).out = s.out :=
  ⟨rfl, rfl, rfl, rfl, rfl, rfl, rfl, rfl, rfl, rfl, rfl, rfl, rfl, rfl, rfl, rfl, rfl, rfl, rfl, rfl, rfl, rfl, rfl,
    rfl, rfl, rfl, rfl, rfl, rfl, rfl, rfl, rfl, rfl, rfl, rfl, rfl⟩
@[simp] theorem setDec_keeps (n : Nat) (v : VidEngine) (s : State) :
    (setDec n v s).now = s.now ∧ (setDec n v s).free = s.free ∧ (setDec n v s).glb = s.glb ∧
    (setDec n v s).cmd = s.cmd ∧ (setDec n v s).streams = s.streams ∧ (setDec n v s).frames = s.frames ∧
    (setDec n v s).dests = s.dests ∧ (setDec n v s).sheaves = s.sheaves ∧ (setDec n v s).ports = s.ports ∧
    (setDec n v s).flow = s.flow ∧ (setDec n v s).pools = s.pools ∧ (setDec n v s).prepEng = s.prepEng ∧
    (setDec n v s).encEng = s.encEng ∧ (setDec n v s).refuseLimit = s.refuseLimit ∧
    (setDec n v s).taintWeight = s.taintWeight ∧ (setDec n v s).cores = s.cores ∧ (setDec n v s).wcs = s.wcs ∧
    (setDec n v s).tags = s.tags ∧ (setDec n v s).bell = s.bell ∧ (setDec n v s).trk = s.trk ∧
    (setDec n v s).nets = s.nets ∧ (setDec n v s).jobs = s.jobs ∧ (setDec n v s).clips = s.clips ∧
    (setDec n v s).nextClip = s.nextClip ∧ (setDec n v s).clipAreaUsed = s.clipAreaUsed ∧
    (setDec n v s).tests = s.tests ∧ (setDec n v s).mem = s.mem ∧ (setDec n v s).flt = s.flt ∧
    (setDec n v s).pwr = s.pwr ∧ (setDec n v s).link = s.link ∧ (setDec n v s).slot = s.slot ∧
    (setDec n v s).board = s.board ∧ (setDec n v s).tel = s.tel ∧ (setDec n v s).fw = s.fw ∧
    (setDec n v s).cyc = s.cyc ∧ (setDec n v s).clusterSram = s.clusterSram ∧
    (setDec n v s).securitySram = s.securitySram ∧ (setDec n v s).psram = s.psram ∧ (setDec n v s).out = s.out ∧
    (setDec n v s).pending = s.pending :=
  ⟨rfl, rfl, rfl, rfl, rfl, rfl, rfl, rfl, rfl, rfl, rfl, rfl, rfl, rfl, rfl, rfl, rfl, rfl, rfl, rfl, rfl, rfl, rfl,
    rfl, rfl, rfl, rfl, rfl, rfl, rfl, rfl, rfl, rfl, rfl, rfl, rfl, rfl, rfl, rfl, rfl⟩
@[simp] theorem setPrep_keeps (n : Nat) (v : VidEngine) (s : State) :
    (setPrep n v s).now = s.now ∧ (setPrep n v s).free = s.free ∧ (setPrep n v s).glb = s.glb ∧
    (setPrep n v s).cmd = s.cmd ∧ (setPrep n v s).streams = s.streams ∧ (setPrep n v s).frames = s.frames ∧
    (setPrep n v s).dests = s.dests ∧ (setPrep n v s).sheaves = s.sheaves ∧ (setPrep n v s).ports = s.ports ∧
    (setPrep n v s).flow = s.flow ∧ (setPrep n v s).pools = s.pools ∧ (setPrep n v s).decEng = s.decEng ∧
    (setPrep n v s).encEng = s.encEng ∧ (setPrep n v s).refuseLimit = s.refuseLimit ∧
    (setPrep n v s).taintWeight = s.taintWeight ∧ (setPrep n v s).cores = s.cores ∧ (setPrep n v s).wcs = s.wcs ∧
    (setPrep n v s).tags = s.tags ∧ (setPrep n v s).bell = s.bell ∧ (setPrep n v s).trk = s.trk ∧
    (setPrep n v s).nets = s.nets ∧ (setPrep n v s).jobs = s.jobs ∧ (setPrep n v s).clips = s.clips ∧
    (setPrep n v s).nextClip = s.nextClip ∧ (setPrep n v s).clipAreaUsed = s.clipAreaUsed ∧
    (setPrep n v s).tests = s.tests ∧ (setPrep n v s).mem = s.mem ∧ (setPrep n v s).flt = s.flt ∧
    (setPrep n v s).pwr = s.pwr ∧ (setPrep n v s).link = s.link ∧ (setPrep n v s).slot = s.slot ∧
    (setPrep n v s).board = s.board ∧ (setPrep n v s).tel = s.tel ∧ (setPrep n v s).fw = s.fw ∧
    (setPrep n v s).cyc = s.cyc ∧ (setPrep n v s).clusterSram = s.clusterSram ∧
    (setPrep n v s).securitySram = s.securitySram ∧ (setPrep n v s).psram = s.psram ∧ (setPrep n v s).out = s.out ∧
    (setPrep n v s).pending = s.pending :=
  ⟨rfl, rfl, rfl, rfl, rfl, rfl, rfl, rfl, rfl, rfl, rfl, rfl, rfl, rfl, rfl, rfl, rfl, rfl, rfl, rfl, rfl, rfl, rfl,
    rfl, rfl, rfl, rfl, rfl, rfl, rfl, rfl, rfl, rfl, rfl, rfl, rfl, rfl, rfl, rfl, rfl⟩
@[simp] theorem setEnc_keeps (n : Nat) (v : EncEngine) (s : State) :
    (setEnc n v s).now = s.now ∧ (setEnc n v s).free = s.free ∧ (setEnc n v s).glb = s.glb ∧
    (setEnc n v s).cmd = s.cmd ∧ (setEnc n v s).streams = s.streams ∧ (setEnc n v s).frames = s.frames ∧
    (setEnc n v s).dests = s.dests ∧ (setEnc n v s).sheaves = s.sheaves ∧ (setEnc n v s).ports = s.ports ∧
    (setEnc n v s).flow = s.flow ∧ (setEnc n v s).pools = s.pools ∧ (setEnc n v s).decEng = s.decEng ∧
    (setEnc n v s).prepEng = s.prepEng ∧ (setEnc n v s).refuseLimit = s.refuseLimit ∧
    (setEnc n v s).taintWeight = s.taintWeight ∧ (setEnc n v s).cores = s.cores ∧ (setEnc n v s).wcs = s.wcs ∧
    (setEnc n v s).tags = s.tags ∧ (setEnc n v s).bell = s.bell ∧ (setEnc n v s).trk = s.trk ∧
    (setEnc n v s).nets = s.nets ∧ (setEnc n v s).jobs = s.jobs ∧ (setEnc n v s).clips = s.clips ∧
    (setEnc n v s).nextClip = s.nextClip ∧ (setEnc n v s).clipAreaUsed = s.clipAreaUsed ∧
    (setEnc n v s).tests = s.tests ∧ (setEnc n v s).mem = s.mem ∧ (setEnc n v s).flt = s.flt ∧
    (setEnc n v s).pwr = s.pwr ∧ (setEnc n v s).link = s.link ∧ (setEnc n v s).slot = s.slot ∧
    (setEnc n v s).board = s.board ∧ (setEnc n v s).tel = s.tel ∧ (setEnc n v s).fw = s.fw ∧
    (setEnc n v s).cyc = s.cyc ∧ (setEnc n v s).clusterSram = s.clusterSram ∧
    (setEnc n v s).securitySram = s.securitySram ∧ (setEnc n v s).psram = s.psram ∧ (setEnc n v s).out = s.out ∧
    (setEnc n v s).pending = s.pending :=
  ⟨rfl, rfl, rfl, rfl, rfl, rfl, rfl, rfl, rfl, rfl, rfl, rfl, rfl, rfl, rfl, rfl, rfl, rfl, rfl, rfl, rfl, rfl, rfl,
    rfl, rfl, rfl, rfl, rfl, rfl, rfl, rfl, rfl, rfl, rfl, rfl, rfl, rfl, rfl, rfl, rfl⟩
@[simp] theorem setDest_keeps (n : Nat) (v : DgDest) (s : State) :
    (setDest n v s).now = s.now ∧ (setDest n v s).free = s.free ∧ (setDest n v s).glb = s.glb ∧
    (setDest n v s).cmd = s.cmd ∧ (setDest n v s).streams = s.streams ∧ (setDest n v s).frames = s.frames ∧
    (setDest n v s).sheaves = s.sheaves ∧ (setDest n v s).ports = s.ports ∧ (setDest n v s).flow = s.flow ∧
    (setDest n v s).pools = s.pools ∧ (setDest n v s).decEng = s.decEng ∧ (setDest n v s).prepEng = s.prepEng ∧
    (setDest n v s).encEng = s.encEng ∧ (setDest n v s).refuseLimit = s.refuseLimit ∧
    (setDest n v s).taintWeight = s.taintWeight ∧ (setDest n v s).cores = s.cores ∧ (setDest n v s).wcs = s.wcs ∧
    (setDest n v s).tags = s.tags ∧ (setDest n v s).bell = s.bell ∧ (setDest n v s).trk = s.trk ∧
    (setDest n v s).nets = s.nets ∧ (setDest n v s).jobs = s.jobs ∧ (setDest n v s).clips = s.clips ∧
    (setDest n v s).nextClip = s.nextClip ∧ (setDest n v s).clipAreaUsed = s.clipAreaUsed ∧
    (setDest n v s).tests = s.tests ∧ (setDest n v s).mem = s.mem ∧ (setDest n v s).flt = s.flt ∧
    (setDest n v s).pwr = s.pwr ∧ (setDest n v s).link = s.link ∧ (setDest n v s).slot = s.slot ∧
    (setDest n v s).board = s.board ∧ (setDest n v s).tel = s.tel ∧ (setDest n v s).fw = s.fw ∧
    (setDest n v s).cyc = s.cyc ∧ (setDest n v s).clusterSram = s.clusterSram ∧
    (setDest n v s).securitySram = s.securitySram ∧ (setDest n v s).psram = s.psram ∧ (setDest n v s).out = s.out ∧
    (setDest n v s).pending = s.pending :=
  ⟨rfl, rfl, rfl, rfl, rfl, rfl, rfl, rfl, rfl, rfl, rfl, rfl, rfl, rfl, rfl, rfl, rfl, rfl, rfl, rfl, rfl, rfl, rfl,
    rfl, rfl, rfl, rfl, rfl, rfl, rfl, rfl, rfl, rfl, rfl, rfl, rfl, rfl, rfl, rfl, rfl⟩
@[simp] theorem setPort_keeps (n : Nat) (v : Port) (s : State) :
    (setPort n v s).now = s.now ∧ (setPort n v s).free = s.free ∧ (setPort n v s).glb = s.glb ∧
    (setPort n v s).cmd = s.cmd ∧ (setPort n v s).streams = s.streams ∧ (setPort n v s).frames = s.frames ∧
    (setPort n v s).dests = s.dests ∧ (setPort n v s).sheaves = s.sheaves ∧ (setPort n v s).flow = s.flow ∧
    (setPort n v s).pools = s.pools ∧ (setPort n v s).decEng = s.decEng ∧ (setPort n v s).prepEng = s.prepEng ∧
    (setPort n v s).encEng = s.encEng ∧ (setPort n v s).refuseLimit = s.refuseLimit ∧
    (setPort n v s).taintWeight = s.taintWeight ∧ (setPort n v s).cores = s.cores ∧ (setPort n v s).wcs = s.wcs ∧
    (setPort n v s).tags = s.tags ∧ (setPort n v s).bell = s.bell ∧ (setPort n v s).trk = s.trk ∧
    (setPort n v s).nets = s.nets ∧ (setPort n v s).jobs = s.jobs ∧ (setPort n v s).clips = s.clips ∧
    (setPort n v s).nextClip = s.nextClip ∧ (setPort n v s).clipAreaUsed = s.clipAreaUsed ∧
    (setPort n v s).tests = s.tests ∧ (setPort n v s).mem = s.mem ∧ (setPort n v s).flt = s.flt ∧
    (setPort n v s).pwr = s.pwr ∧ (setPort n v s).link = s.link ∧ (setPort n v s).slot = s.slot ∧
    (setPort n v s).board = s.board ∧ (setPort n v s).tel = s.tel ∧ (setPort n v s).fw = s.fw ∧
    (setPort n v s).cyc = s.cyc ∧ (setPort n v s).clusterSram = s.clusterSram ∧
    (setPort n v s).securitySram = s.securitySram ∧ (setPort n v s).psram = s.psram ∧ (setPort n v s).out = s.out ∧
    (setPort n v s).pending = s.pending :=
  ⟨rfl, rfl, rfl, rfl, rfl, rfl, rfl, rfl, rfl, rfl, rfl, rfl, rfl, rfl, rfl, rfl, rfl, rfl, rfl, rfl, rfl, rfl, rfl,
    rfl, rfl, rfl, rfl, rfl, rfl, rfl, rfl, rfl, rfl, rfl, rfl, rfl, rfl, rfl, rfl, rfl⟩
@[simp] theorem setNet_keeps (n : Nat) (v : Network) (s : State) :
    (setNet n v s).now = s.now ∧ (setNet n v s).free = s.free ∧ (setNet n v s).glb = s.glb ∧
    (setNet n v s).cmd = s.cmd ∧ (setNet n v s).streams = s.streams ∧ (setNet n v s).frames = s.frames ∧
    (setNet n v s).dests = s.dests ∧ (setNet n v s).sheaves = s.sheaves ∧ (setNet n v s).ports = s.ports ∧
    (setNet n v s).flow = s.flow ∧ (setNet n v s).pools = s.pools ∧ (setNet n v s).decEng = s.decEng ∧
    (setNet n v s).prepEng = s.prepEng ∧ (setNet n v s).encEng = s.encEng ∧ (setNet n v s).refuseLimit = s.refuseLimit ∧
    (setNet n v s).taintWeight = s.taintWeight ∧ (setNet n v s).cores = s.cores ∧ (setNet n v s).wcs = s.wcs ∧
    (setNet n v s).tags = s.tags ∧ (setNet n v s).bell = s.bell ∧ (setNet n v s).trk = s.trk ∧
    (setNet n v s).jobs = s.jobs ∧ (setNet n v s).clips = s.clips ∧ (setNet n v s).nextClip = s.nextClip ∧
    (setNet n v s).clipAreaUsed = s.clipAreaUsed ∧ (setNet n v s).tests = s.tests ∧ (setNet n v s).mem = s.mem ∧
    (setNet n v s).flt = s.flt ∧ (setNet n v s).pwr = s.pwr ∧ (setNet n v s).link = s.link ∧
    (setNet n v s).slot = s.slot ∧ (setNet n v s).board = s.board ∧ (setNet n v s).tel = s.tel ∧
    (setNet n v s).fw = s.fw ∧ (setNet n v s).cyc = s.cyc ∧ (setNet n v s).clusterSram = s.clusterSram ∧
    (setNet n v s).securitySram = s.securitySram ∧ (setNet n v s).psram = s.psram ∧ (setNet n v s).out = s.out ∧
    (setNet n v s).pending = s.pending :=
  ⟨rfl, rfl, rfl, rfl, rfl, rfl, rfl, rfl, rfl, rfl, rfl, rfl, rfl, rfl, rfl, rfl, rfl, rfl, rfl, rfl, rfl, rfl, rfl,
    rfl, rfl, rfl, rfl, rfl, rfl, rfl, rfl, rfl, rfl, rfl, rfl, rfl, rfl, rfl, rfl, rfl⟩
@[simp] theorem setWc_keeps (n : Nat) (v : WorkCounter) (s : State) :
    (setWc n v s).now = s.now ∧ (setWc n v s).free = s.free ∧ (setWc n v s).glb = s.glb ∧ (setWc n v s).cmd = s.cmd ∧
    (setWc n v s).streams = s.streams ∧ (setWc n v s).frames = s.frames ∧ (setWc n v s).dests = s.dests ∧
    (setWc n v s).sheaves = s.sheaves ∧ (setWc n v s).ports = s.ports ∧ (setWc n v s).flow = s.flow ∧
    (setWc n v s).pools = s.pools ∧ (setWc n v s).decEng = s.decEng ∧ (setWc n v s).prepEng = s.prepEng ∧
    (setWc n v s).encEng = s.encEng ∧ (setWc n v s).refuseLimit = s.refuseLimit ∧
    (setWc n v s).taintWeight = s.taintWeight ∧ (setWc n v s).cores = s.cores ∧ (setWc n v s).tags = s.tags ∧
    (setWc n v s).bell = s.bell ∧ (setWc n v s).trk = s.trk ∧ (setWc n v s).nets = s.nets ∧
    (setWc n v s).jobs = s.jobs ∧ (setWc n v s).clips = s.clips ∧ (setWc n v s).nextClip = s.nextClip ∧
    (setWc n v s).clipAreaUsed = s.clipAreaUsed ∧ (setWc n v s).tests = s.tests ∧ (setWc n v s).mem = s.mem ∧
    (setWc n v s).flt = s.flt ∧ (setWc n v s).pwr = s.pwr ∧ (setWc n v s).link = s.link ∧ (setWc n v s).slot = s.slot ∧
    (setWc n v s).board = s.board ∧ (setWc n v s).tel = s.tel ∧ (setWc n v s).fw = s.fw ∧ (setWc n v s).cyc = s.cyc ∧
    (setWc n v s).clusterSram = s.clusterSram ∧ (setWc n v s).securitySram = s.securitySram ∧
    (setWc n v s).psram = s.psram ∧ (setWc n v s).out = s.out ∧ (setWc n v s).pending = s.pending :=
  ⟨rfl, rfl, rfl, rfl, rfl, rfl, rfl, rfl, rfl, rfl, rfl, rfl, rfl, rfl, rfl, rfl, rfl, rfl, rfl, rfl, rfl, rfl, rfl,
    rfl, rfl, rfl, rfl, rfl, rfl, rfl, rfl, rfl, rfl, rfl, rfl, rfl, rfl, rfl, rfl, rfl⟩
@[simp] theorem psramStore_keeps (a : Nat) (l : List Byte) (s : State) :
    (psramStore a l s).now = s.now ∧ (psramStore a l s).free = s.free ∧ (psramStore a l s).glb = s.glb ∧
    (psramStore a l s).cmd = s.cmd ∧ (psramStore a l s).streams = s.streams ∧ (psramStore a l s).frames = s.frames ∧
    (psramStore a l s).dests = s.dests ∧ (psramStore a l s).sheaves = s.sheaves ∧ (psramStore a l s).ports = s.ports ∧
    (psramStore a l s).flow = s.flow ∧ (psramStore a l s).pools = s.pools ∧ (psramStore a l s).decEng = s.decEng ∧
    (psramStore a l s).prepEng = s.prepEng ∧ (psramStore a l s).encEng = s.encEng ∧
    (psramStore a l s).refuseLimit = s.refuseLimit ∧ (psramStore a l s).taintWeight = s.taintWeight ∧
    (psramStore a l s).cores = s.cores ∧ (psramStore a l s).wcs = s.wcs ∧ (psramStore a l s).tags = s.tags ∧
    (psramStore a l s).bell = s.bell ∧ (psramStore a l s).trk = s.trk ∧ (psramStore a l s).nets = s.nets ∧
    (psramStore a l s).jobs = s.jobs ∧ (psramStore a l s).clips = s.clips ∧ (psramStore a l s).nextClip = s.nextClip ∧
    (psramStore a l s).clipAreaUsed = s.clipAreaUsed ∧ (psramStore a l s).tests = s.tests ∧
    (psramStore a l s).mem = s.mem ∧ (psramStore a l s).flt = s.flt ∧ (psramStore a l s).pwr = s.pwr ∧
    (psramStore a l s).link = s.link ∧ (psramStore a l s).slot = s.slot ∧ (psramStore a l s).board = s.board ∧
    (psramStore a l s).tel = s.tel ∧ (psramStore a l s).fw = s.fw ∧ (psramStore a l s).cyc = s.cyc ∧
    (psramStore a l s).clusterSram = s.clusterSram ∧ (psramStore a l s).securitySram = s.securitySram ∧
    (psramStore a l s).out = s.out ∧ (psramStore a l s).pending = s.pending :=
  ⟨rfl, rfl, rfl, rfl, rfl, rfl, rfl, rfl, rfl, rfl, rfl, rfl, rfl, rfl, rfl, rfl, rfl, rfl, rfl, rfl, rfl, rfl, rfl,
    rfl, rfl, rfl, rfl, rfl, rfl, rfl, rfl, rfl, rfl, rfl, rfl, rfl, rfl, rfl, rfl, rfl⟩

/-! ## The interrupt wire -/

/-- The wire's operation changes only the wire, what it counted for coalescing, and what has been sent. -/
theorem updateWire_eq (s : State) : ∃ (w d : Bool) (n : Nat) (t : Option Nat) (o : List Output),
    updateWire s = { s with glb := { s.glb with wire := w, due := d, entries := n, timerStart := t }, out := o } := by
  unfold updateWire
  repeat' split
  · exact ⟨_, _, _, _, _, rfl⟩
  · exact ⟨s.glb.wire, s.glb.due, s.glb.entries, s.glb.timerStart, s.out, rfl⟩
  · exact ⟨_, _, _, _, _, rfl⟩
  · exact ⟨s.glb.wire, s.glb.due, s.glb.entries, s.glb.timerStart, s.out, rfl⟩

@[simp] theorem updateWire_cmd (s : State) : (updateWire s).cmd = s.cmd := by
  obtain ⟨_, _, _, _, _, h⟩ := updateWire_eq s; rw [h]
@[simp] theorem updateWire_streams (s : State) : (updateWire s).streams = s.streams := by
  obtain ⟨_, _, _, _, _, h⟩ := updateWire_eq s; rw [h]
@[simp] theorem updateWire_mem (s : State) : (updateWire s).mem = s.mem := by
  obtain ⟨_, _, _, _, _, h⟩ := updateWire_eq s; rw [h]
@[simp] theorem updateWire_flt (s : State) : (updateWire s).flt = s.flt := by
  obtain ⟨_, _, _, _, _, h⟩ := updateWire_eq s; rw [h]
@[simp] theorem updateWire_bell (s : State) : (updateWire s).bell = s.bell := by
  obtain ⟨_, _, _, _, _, h⟩ := updateWire_eq s; rw [h]
@[simp] theorem updateWire_link (s : State) : (updateWire s).link = s.link := by
  obtain ⟨_, _, _, _, _, h⟩ := updateWire_eq s; rw [h]
@[simp] theorem updateWire_slot (s : State) : (updateWire s).slot = s.slot := by
  obtain ⟨_, _, _, _, _, h⟩ := updateWire_eq s; rw [h]
@[simp] theorem updateWire_pwr (s : State) : (updateWire s).pwr = s.pwr := by
  obtain ⟨_, _, _, _, _, h⟩ := updateWire_eq s; rw [h]
@[simp] theorem updateWire_fw (s : State) : (updateWire s).fw = s.fw := by
  obtain ⟨_, _, _, _, _, h⟩ := updateWire_eq s; rw [h]
@[simp] theorem updateWire_tel (s : State) : (updateWire s).tel = s.tel := by
  obtain ⟨_, _, _, _, _, h⟩ := updateWire_eq s; rw [h]
@[simp] theorem updateWire_now (s : State) : (updateWire s).now = s.now := by
  obtain ⟨_, _, _, _, _, h⟩ := updateWire_eq s; rw [h]
@[simp] theorem updateWire_pending (s : State) : (updateWire s).pending = s.pending := by
  obtain ⟨_, _, _, _, _, h⟩ := updateWire_eq s; rw [h]
@[simp] theorem updateWire_mask (s : State) : (updateWire s).glb.mask = s.glb.mask := by
  obtain ⟨_, _, _, _, _, h⟩ := updateWire_eq s; rw [h]
@[simp] theorem updateWire_ready (s : State) : (updateWire s).glb.ready = s.glb.ready := by
  obtain ⟨_, _, _, _, _, h⟩ := updateWire_eq s; rw [h]

/-- The pending causes do not depend on the wire. -/
@[simp] theorem intCause_updateWire (s : State) : intCause (updateWire s) = intCause s := by
  obtain ⟨_, _, _, _, _, h⟩ := updateWire_eq s; rw [h]; rfl

end Sys2Proof.Machine
end

