-- ==== Sys2Proof/Tests/Slice0.lean ====
section
/-! SUPPORT. Tests/Slice0.lean: the model's own tests. Expected values come from the specification; each theorem named
witness_… shows states and operands that meet the hypotheses of the statement it names. -/

namespace Sys2Proof.Tests

open Sys2Proof.Machine

set_option Elab.async false

/-! ## Ill-formed commands, one for each check of WellFormed -/

/-- A packet with every field zero but its opcode. -/
def bare (op : Byte) : Packet := { opcode := op, flags := 0, tag := 0, ctx := 0, length := 0, rsv := 0, params := 0 }

def sampleMeter : PowerSample := { power := 0, peak := 0, energy := 0, rails := [] }

theorem test_ill_formed_packets_0 : ([.identify 0 (bare 0xFF),
    .telemetryRead 0 (bare 0xFF) sampleMeter,
    .faultLogRead 0 (bare 0xFF),
    .portConfigPort 0 (bare 0xFF),
    .portConfigPort 0 { bare 0x06 with params := 1 },
    .portConfigDatagram 0 (bare 0xFF),
    .portConfigDatagram 0 { bare 0x06 with params := 0 },
    .streamOpen 0 (bare 0xFF),
    .streamAdmit 0 (bare 0xFF) [] [],
    .streamClose 0 (bare 0xFF),
    .streamQuery 0 (bare 0xFF),
    .keyLoad 0 (bare 0xFF) (.fault 1),
    .sheafDefine 0 (bare 0xFF),
    .sheafDissolve 0 (bare 0xFF),
    .shedRankSet 0 (bare 0xFF),
    .networkLoad 0 (bare 0xFF) (.fault 1) [],
    .networkUnload 0 (bare 0xFF),
    .roundConfig 0 (bare 0xFF),
    .clipRequest 0 (bare 0xFF) (.fault 1),
    .clipCancel 0 (bare 0xFF),
    .selftestRequest 0 (bare 0xFF),
    .serviceRestore 0 (bare 0xFF),
    .recessEnter 0 (bare 0xFF),
    .recessExit 0 (bare 0xFF)] : List Instr).all (fun c => !wellFormed c) = true := by
  decide +kernel

theorem test_ill_formed_packets_1 : ([.fwStageBailiff 0 (bare 0xFF) (.fault 1) true,
    .fwStageBailiff 0 { bare 0x20 with params := 79228162514264337593543950336 } (.fault 1) true,
    .fwStagePatch 0 (bare 0xFF) (.fault 1) true,
    .fwStagePatch 0 { bare 0x20 with params := 0 } (.fault 1) true,
    .fwArmBailiff 0 (bare 0xFF),
    .fwArmBailiff 0 { bare 0x21 with params := 1 },
    .fwArmPatch 0 (bare 0xFF),
    .fwArmPatch 0 { bare 0x21 with params := 0 },
    .fwActivate 0 (bare 0xFF),
    .fwActivate 0 { bare 0x22 with params := 1 },
    .fwDisarm 0 (bare 0xFF),
    .fwDisarm 0 { bare 0x22 with params := 0 },
    .auPush 0 (bare 0xFF),
    .jobSubmit 0 (bare 0xFF),
    .jobCancel 0 (bare 0xFF),
    .ringCredit 0 (bare 0xFF),
    .maintEcho 0 (bare 0xFF),
    .maintPeek 0 (bare 0xFF),
    .maintErrInject 0 (bare 0xFF),
    .maintCountersClear 0 (bare 0xFF)] : List Instr).all (fun c => !wellFormed c) = true := by
  decide +kernel

theorem test_ill_formed_register_values : ([.ringEnable .completion 63 0xFE,
    .ringDisable .completion 63 1,
    .fwConfirm 2,
    .fwReject 1] : List Instr).all (fun c => !wellFormed c) = true := by
  decide +kernel

theorem test_ill_formed_tile_words_0 : ([.wloadWeights 0 0x0,
    .wloadWeights 0 0x101,
    .wloadScales 0 0x0,
    .wloadScales 0 0x201,
    .matmul 0 0x0,
    .conv 0 0x0,
    .pool 0 0x0,
    .crop 0 0x0,
    .vecRequantise 0 0x0,
    .vecRequantise 0 0x106,
    .vecAdd 0 0x0,
    .vecAdd 0 0x206,
    .vecSubtract 0 0x0,
    .vecSubtract 0 0x306,
    .vecMultiply 0 0x0,
    .vecMultiply 0 0x406,
    .vecFusedMultiplyAdd 0 0x0,
    .vecFusedMultiplyAdd 0 0x506,
    .vecMinimum 0 0x0,
    .vecMinimum 0 0x606,
    .vecMaximum 0 0x0,
    .vecMaximum 0 0x706,
    .vecCompare 0 0x0,
    .vecCompare 0 0x906] : List Instr).all (fun c => !wellFormed c) = true := by
  decide +kernel

theorem test_ill_formed_tile_words_1 : ([.vecSelect 0 0x0,
    .vecSelect 0 0xa06,
    .vecRelu 0 0x0,
    .vecRelu 0 0xb06,
    .vecClip 0 0x0,
    .vecClip 0 0xc06,
    .vecLeakyRelu 0 0x0,
    .vecLeakyRelu 0 0xd06,
    .vecShift 0 0x0,
    .vecShift 0 0xe06,
    .vecConversion 0 0x0,
    .vecConversion 0 0x1106,
    .vecDivide 0 0x0,
    .vecDivide 0 0x1206,
    .vecReciprocal 0 0x0,
    .vecReciprocal 0 0x1306,
    .vecSquareRoot 0 0x0,
    .vecSquareRoot 0 0x1406,
    .vecReciprocalSquareRoot 0 0x0,
    .vecReciprocalSquareRoot 0 0x1506,
    .vecExp 0 0x0,
    .vecExp 0 0x1906,
    .vecExp2 0 0x0,
    .vecExp2 0 0x1a06] : List Instr).all (fun c => !wellFormed c) = true := by
  decide +kernel

theorem test_ill_formed_tile_words_2 : ([.vecLog 0 0x0,
    .vecLog 0 0x1b06,
    .vecLog2 0 0x0,
    .vecLog2 0 0x1c06,
    .vecSigmoid 0 0x0,
    .vecSigmoid 0 0x1d06,
    .vecTanh 0 0x0,
    .vecTanh 0 0x1e06,
    .vecSoftplus 0 0x0,
    .vecSoftplus 0 0x1f06,
    .vecSilu 0 0x0,
    .vecSilu 0 0x2006,
    .vecGelu 0 0x0,
    .vecGelu 0 0x2106,
    .vecSoftmax 0 0x0,
    .vecSoftmax 0 0x2206,
    .vecLayerNormalisation 0 0x0,
    .vecLayerNormalisation 0 0x2306,
    .vecSum 0 0x0,
    .vecSum 0 0x2906,
    .vecAxisMaximum 0 0x0,
    .vecAxisMaximum 0 0x2a06,
    .vecAxisMinimum 0 0x0,
    .vecAxisMinimum 0 0x2b06] : List Instr).all (fun c => !wellFormed c) = true := by
  decide +kernel

theorem test_ill_formed_tile_words_3 : ([.vecArgmax 0 0x0,
    .vecArgmax 0 0x2c06,
    .vecTopK 0 0x0,
    .vecTopK 0 0x2d06,
    .vecDepthwiseConvolution 0 0x0,
    .vecDepthwiseConvolution 0 0x3106,
    .vecResampling 0 0x0,
    .vecResampling 0 0x3206,
    .vecRepacking 0 0x0,
    .vecRepacking 0 0x3906,
    .vecTranspose 0 0x0,
    .vecTranspose 0 0x3a06,
    .vecConcatenation 0 0x0,
    .vecConcatenation 0 0x3b06,
    .vecSplit 0 0x0,
    .vecSplit 0 0x3c06,
    .vecBoxDecoding 0 0x0,
    .vecBoxDecoding 0 0x4106,
    .vecNonMaximumSuppression 0 0x0,
    .vecNonMaximumSuppression 0 0x4206,
    .syncEnd 0 0x0,
    .syncEnd 0 0x207,
    .syncSteps 0 0x0,
    .syncSteps 0 0x307] : List Instr).all (fun c => !wellFormed c) = true := by
  decide +kernel

theorem test_ill_formed_tile_words_4 : ([.syncQuiet 0 0x0,
    .syncQuiet 0 0x407,
    .syncMarks 0 0x0,
    .syncMarks 0 0x507,
    .syncParam 0 0x0,
    .syncParam 0 0x607,
    .claim 0 0x0,
    .dmaIn 0 0x0,
    .dmaIn 0 0x4000000009,
    .dmaOut 0 0x0,
    .dmaOut 0 0x9] : List Instr).all (fun c => !wellFormed c) = true := by
  decide +kernel

/-! ## Witnesses: commands of the submission rings

Each theorem `witness_<statement>` shows concrete states and operands that meet the hypotheses of the statement's clauses
together, at boundary values where a clause has a range. -/

/-- A function in D0 with its link in L0, the device READY, Memory Space and Bus Master Enable set. -/
def up : State := { State.reset with
  now := 1000
  board := { State.reset.board with perst := false }
  link := { State.reset.link with state := .l0, command := 6, crs := false }
  glb := { State.reset.glb with ready := true } }

/-- Submission ring 0 with one published packet, bound to completion ring 0 with 32 credits. -/
def oneRing : Cmd := {
  maintEn := true
  sq := [(0, { enable := true, sizeLog2 := 6, tail := 1, times := [1000] })]
  cq := [(0, { enable := true, sizeLog2 := 5, credit := 32 })] }

def ringUp : State := { up with cmd := oneRing }

/-- `v` as the parameter at packet offset `o`. -/
def fld (o v : Nat) : Nat := v * 2 ^ (8 * (o - 8))

/-- A packet of opcode `op` with its length, CTX 7 where the opcode names a stream, and these parameters. -/
def pk (op : Byte) (params : Nat) : Packet :=
  { opcode := op, flags := 0, tag := 5, ctx := if namesStream op then 7 else 0
    length := BitVec.ofNat 8 (getAt 0 op.toNat paramLength), rsv := 0, params := BitVec.ofNat 448 params }

/-- `Ready` as a Bool (ready_of_readyB). -/
def readyB (s : State) (ring : BitVec 6) (p : Packet) : Bool :=
  (queuedAs s ring p).isNone && fetchable s ring p && (packetCheck s ring p).isNone && !mustQueue s (fetchedOf s ring p)

theorem ready_of_readyB {s : State} {ring : BitVec 6} {p : Packet} (h : readyB s ring p = true) : Ready s ring p := by
  simp only [readyB, Bool.and_eq_true, Option.isNone_iff_eq_none, Bool.not_eq_true'] at h
  exact ⟨h.1.1.1, h.1.1.2, h.1.2, h.2⟩

def pIdentify := pk 0x01 0
def pTelemetry := pk 0x02 (fld 8 0x1000 + fld 16 256)
def pFaultLog := pk 0x03 (fld 8 0x1000 + fld 16 256)
def pPort := pk 0x06 (fld 10 1 + fld 12 1280)
def pDatagram := pk 0x06 (fld 8 1 + fld 10 3 + fld 11 2)
def pOpen := pk 0x08 (fld 10 8)
def pAdmit := pk 0x09 (fld 8 16 + fld 10 16 + fld 12 4096 + fld 16 1000 + fld 20 0x11 + fld 21 8 + fld 22 1 + fld 28 1
  + fld 30 (2 ^ 112 - 1))
def pClose := pk 0x0A 0
def pQuery := pk 0x0B 0
def pKey := pk 0x0C (fld 24 0x1000 + fld 32 64)
def pSheaf := pk 0x0D (fld 10 1 + fld 12 2 + fld 14 (2 ^ 96 - 1))
def pDissolve := pk 0x0E 0
def pRank := pk 0x0F (fld 8 3)
def pLoad := pk 0x10 (fld 8 0x1000 + fld 16 256)
def pUnload := pk 0x11 (fld 8 1)
def pRound := pk 0x12 (fld 8 1 + fld 10 2)
def pClip := pk 0x14 (fld 17 0x20 + fld 19 51 + fld 20 8 + fld 24 0xFFFFFFFF + fld 28 0xFFFFFFFF + fld 32 0x1000)
def pClipCancel := pk 0x15 (fld 8 1)
def pSelftest := pk 0x18 (fld 8 1 + fld 10 127)
def pRestore := pk 0x19 0
def pEnter := pk 0x1C (fld 8 1)
def pExit := pk 0x1D 0
def pStage0 := pk 0x20 (fld 8 0x1000 + fld 16 256)
def pStage1 := pk 0x20 (fld 8 0x1000 + fld 16 256 + fld 20 1)
def pArm0 := pk 0x21 0
def pArm1 := pk 0x21 (fld 8 1)
def pActivate := pk 0x22 0
def pDisarm := pk 0x22 (fld 8 1)
def pPush := pk 0x40 (fld 8 0x1000 + fld 16 4096)
def pJob := pk 0x41 (fld 8 1 + fld 10 7 + fld 12 200 + fld 24 256 + fld 28 256 + fld 40 1)
def pJobCancel := pk 0x42 (fld 8 5)
def pCredit := pk 0x48 (fld 12 1)
def pEcho := pk 0x80 0
def pPeek := pk 0x81 (fld 8 (32 * 0x800000))
def pInject := pk 0x82 (fld 8 1 + fld 16 0x17FFFFFFFC)
def pClear := pk 0x83 0

def allPackets : List Packet := [pIdentify, pTelemetry, pFaultLog, pPort, pDatagram, pOpen, pAdmit, pClose, pQuery, pKey,
  pSheaf, pDissolve, pRank, pLoad, pUnload, pRound, pClip, pClipCancel, pSelftest, pRestore, pEnter, pExit, pStage0, pStage1,
  pArm0, pArm1, pActivate, pDisarm, pPush, pJob, pJobCancel, pCredit, pEcho, pPeek, pInject, pClear]

theorem test_every_packet_is_ready : (allPackets.all fun p => readyB ringUp 0 p) = true := by decide +kernel

/-! ### The queue, packets, rings -/

theorem witness_StepRunsTheFrontCommandOrPassesACycle : State.reset.pending = [] ∧
    ({ State.reset with pending := [.slotIssue] }).pending ≠ [] := by decide +kernel

theorem witness_CommandsCompleteUnlessForeign : wellFormed (.identify 0 pIdentify) = true ∧
    wellFormed (.identify 0 pEcho) = false ∧ exec (.identify 0 pEcho) ringUp = .fault .notThisCommand := by
  refine ⟨by decide +kernel, by decide +kernel, rfl⟩

/-- One command with tag 5 of ring 0 waits for a boundary, its deadline just reached. -/
def waiting (op : Byte) (cause : WaitCause) : Outstanding :=
  { ring := 0, tag := 5, opcode := op, ctx := 7, published := 0, deadline := 1000, cause }

def busyRing (op : Byte) (cause : WaitCause) : State :=
  { ringUp with cmd := { oneRing with outstanding := [waiting op cause] } }

def noMaint : State := { ringUp with cmd := { oneRing with maintEn := false } }

/-- The status and DETAIL that the checks of R32 answer. -/
def checkOf (s : State) (p : Packet) : Option (BitVec 16 × Byte) := (packetCheck s 0 p).map fun r => (r.status, r.detail)

theorem witness_PacketChecksRunInOrderAndAlone :
    tagBusy (busyRing 0x0A .boundary) 0 pIdentify.tag = true ∧ tagBusy ringUp 0 pIdentify.tag = false ∧
    assignedOp 0x04 = false ∧ assignedOp 0x01 = true ∧ maintOp 0x80 = true ∧ noMaint.cmd.maintEn = false ∧
    checkOf (busyRing 0x0A .boundary) pIdentify = some (0x0102, 0) ∧
    checkOf ringUp { pIdentify with opcode := 0x04 } = some (0x0100, 0) ∧
    checkOf noMaint pEcho = some (0x0103, 0) ∧
    checkOf ringUp { pEcho with length := 57 } = some (0x0101, 56) ∧
    checkOf ringUp { pRank with length := 3 } = some (0x0101, 2) ∧
    checkOf ringUp { pRank with flags := 4 } = some (0x0100, 1) ∧
    checkOf ringUp { pRank with ctx := 0x1000 } = some (0x0100, 4) ∧
    checkOf ringUp { pIdentify with ctx := 1 } = some (0x0100, 4) ∧
    checkOf ringUp { pRank with rsv := 1 } = some (0x0100, 7) ∧
    checkOf ringUp { pPort with params := 2 } = some (0x0100, 8) ∧
    checkOf ringUp { pRank with params := BitVec.ofNat 448 (fld 10 1) } = some (0x0100, 10) ∧
    checkOf ringUp pRank = none := by decide +kernel

theorem witness_PacketChecksRunInOrderAndAlone_effect :
    packetOf (.identify 0 { pIdentify with rsv := 1 }) = some (0, { pIdentify with rsv := 1 }) ∧
    wellFormed (.identify 0 { pIdentify with rsv := 1 }) = true ∧
    queuedAs ringUp 0 { pIdentify with rsv := 1 } = none ∧
    fetchable ringUp 0 { pIdentify with rsv := 1 } = true := by decide +kernel

/-- Ring 0 as given, in a machine that is up. -/
def withRing (q : SubRing) : State := { up with cmd := { oneRing with sq := [(0, q)] } }

def heldRing : State := { up with cmd := { oneRing with
  cq := [(0, { enable := true, sizeLog2 := 5, held := List.replicate 64 {} })] } }

def fullMgmt : State := { ringUp with cmd := { oneRing with
  outstanding := (List.range 256).map fun k => { waiting 0x0F .boundary with ring := 1, tag := BitVec.ofNat 16 k } } }

theorem witness_PacketsWaitUntilFetchedAndExecuted :
    queuedAs (withRing {}) 0 pIdentify = none ∧ (sqAt (withRing {}) 0).enable = false ∧
    (let s := withRing { enable := true, sizeLog2 := 6 }
     queuedAs s 0 pIdentify = none ∧ (sqAt s 0).head = (sqAt s 0).tail) ∧
    (queuedAs heldRing 0 pIdentify = none ∧ 64 ≤ (cqAt heldRing 0).held.length) ∧
    (let p := { pIdentify with flags := 1 }
     let s := busyRing 0x0A .boundary
     wellFormed (.identify 0 p) = true ∧ queuedAs s 0 p = none ∧ pktFence p = true ∧ ringBusy s 0 = true) ∧
    (wellFormed (.shedRankSet 0 pRank) = true ∧ queuedAs fullMgmt 0 pRank = none ∧ mgmtOpcode pRank.opcode = true ∧
      256 ≤ mgmtOutstanding fullMgmt) ∧
    (let s := busyRing 0x0A .boundary
     let p := { pRank with tag := 6 }
     queuedAs s 0 p = none ∧ fetchable s 0 p = true ∧ packetCheck s 0 p = none ∧ mgmtOpcode p.opcode = true ∧
       executing (waiting 0x0A .boundary) = true ∧ (waiting 0x0A .boundary) ∈ s.cmd.outstanding) := by decide +kernel

theorem witness_RepliesTakeOneCreditAndChangeNothingElse :
    (cqAt ringUp 0).held = [] ∧ cqReady ringUp 0 = true ∧ ringUp.cmd.outstanding = [] ∧
    (let s := withRing { enable := true, sizeLog2 := 6 }
     let c := { s.cmd with cq := [(0, { enable := true, sizeLog2 := 5, credit := 1, tail := 31 })] }
     cqReady { s with cmd := c } 0 = true ∧ (cqAt { s with cmd := c } 0).tail + 1 = 2 ^ 5) ∧
    (let s := busyRing 0x0A .boundary
     s.cmd.outstanding = [waiting 0x0A .boundary] ∧ mgmtOpcode 0x0A = true ∧ (waiting 0x0A .boundary).deadline ≤ s.now ∧
       ¬ (waiting 0x0A .boundary).deadline ≤ ({ s with now := 999 } : State).now) := by decide +kernel

theorem witness_DoorbellPublishesOrIsRefused :
    hostAccess ringUp = true ∧
    (let q := sqAt ringUp 0
     (64 : Nat) = 2 ^ q.sizeLog2.toNat ∧ q.enable = true ∧ (0 + 64 - q.tail) % 64 + (q.tail + 64 - q.head) % 64 = 64 ∧
       (63 + 64 - q.tail) % 64 + (q.tail + 64 - q.head) % 64 = 63) ∧
    (sqAt ringUp 1).enable = false ∧
    (∃ t, exec (.doorbellWrite 0 63) ringUp = .next t ∧ (sqAt t 0).tail = 63) ∧
    (∃ t, exec (.doorbellWrite 0 0) ringUp = .next t ∧ (sqAt t 0).tail = 1 ∧ t.cmd.doorbellRefused = true) ∧
    (∃ t, exec (.doorbellWrite 0 64) ringUp = .next t ∧ t.cmd.doorbellRefused = true) ∧
    (∃ t, exec (.doorbellWrite 0x400 0) ringUp = .next t ∧ t.cmd.doorbellRefused = true ∧ t.cmd.errRing = 1) := by
  refine ⟨by decide +kernel, by decide +kernel, by decide +kernel, ?_, ?_, ?_, ?_⟩ <;>
    exact ⟨_, rfl, by decide +kernel⟩

theorem witness_RingConfigurationTakesEffectWhileDisabled :
    hostAccess up = true ∧ (0x61 : Word).getLsbD 0 = true ∧ (sqAt up 0).enable = false ∧
    6 ≤ ((0x61 : Word).extractLsb' 4 4).toNat ∧ ((0x51 : Word).extractLsb' 4 4).toNat < 6 ∧
    (cqAt up 0).enable = false ∧ (cqAt up 0).held = [] ∧ 5 ≤ ((0x51 : Word).extractLsb' 4 4).toNat ∧
    ((0x41 : Word).extractLsb' 4 4).toNat < 5 ∧ (mrAt up 0).enable = false ∧
    (hostAccess ringUp = true ∧ (sqAt ringUp 0).enable = true ∧
      (0x71 : Word).extractLsb' 4 4 ≠ (sqAt ringUp 0).sizeLog2 ∧ (0x161 : Word).extractLsb' 8 6 ≠ (sqAt ringUp 0).cqSel) := by
  decide +kernel

def mrUp : State := { ringUp with cmd := { oneRing with mr := [(0, { enable := true, sizeLog2 := 5, credit := 31 })] } }

theorem witness_RingDisableStopsOrIsRefused :
    hostAccess mrUp = true ∧ (0x60 : Word).getLsbD 0 = false ∧ (sqAt mrUp 0).enable = true ∧ (cqAt mrUp 0).enable = true ∧
    (mrAt mrUp 0).enable = true ∧
    (mrUp.cmd.sq.any (fun e => e.2.enable && e.2.cqSel == (0 : BitVec 6)) || cqOutstanding mrUp 0) = true ∧
    (let s := { mrUp with cmd := { mrUp.cmd with sq := [] } }
     (s.cmd.sq.any (fun e => e.2.enable && e.2.cqSel == (0 : BitVec 6)) || cqOutstanding s 0) = false) := by decide +kernel

theorem witness_RingCreditReturnsCredits :
    readyB ringUp 0 pCredit = true ∧ param pCredit 8 1 = 0 ∧ (cqAt ringUp 0).credit + param pCredit 12 4 = 33 ∧
    (let s := { ringUp with cmd := { oneRing with cq := [(0, { enable := true, sizeLog2 := 5, credit := 31 })] } }
     readyB s 0 pCredit = true ∧ (cqAt s 0).credit + param pCredit 12 4 ≤ 2 ^ (cqAt s 0).sizeLog2.toNat ∧ (cqAt s 0).held = []) ∧
    (let p := pk 0x48 (fld 9 1 + fld 12 1)
     readyB ringUp 0 p = true ∧ (cqAt ringUp (param p 9 1 % 64)).enable = false) ∧
    (let p := pk 0x48 (fld 8 1 + fld 12 1)
     readyB mrUp 0 p = true ∧ param p 8 1 = 1 ∧ (mrAt mrUp 0).enable = true ∧ (mrAt mrUp 0).credit + param p 12 4 = 32 ∧
       readyB ringUp 0 p = true ∧ (mrAt ringUp 0).enable = false) := by
  decide +kernel

/-! ### Commands that report, maintenance, streams -/

theorem witness_CommandsThatOnlyReport :
    readyB ringUp 0 pIdentify = true ∧ pIdentify.opcode = 0x01 ∧
    readyB ringUp 0 pTelemetry = true ∧ param pTelemetry 16 4 = 256 ∧
    readyB ringUp 0 pQuery = true ∧ param pQuery 8 8 = 0 ∧ param pQuery 16 4 = 0 ∧
    (let p := pk 0x0B (fld 16 256)
     readyB ringUp 0 p = true ∧ ¬ (param p 8 8 = 0 ∧ param p 16 4 = 0)) ∧
    (let r : FaultRec := { seq := 1 }
     let s := { ringUp with flt := { ringUp.flt with staging := [r] } }
     readyB s 0 pFaultLog = true ∧ param pFaultLog 20 4 < 2 ^ 31 ∧
       (recordsFrom s (param pFaultLog 20 4)).take (param pFaultLog 16 4 / 256) = [r]) ∧
    (let q : FaultRec := { seq := 0x7FFFFFFF }
     let r : FaultRec := { seq := 1 }
     let s := { ringUp with flt := { ringUp.flt with staging := [q, r], lastSeq := 1 } }
     faultsHeld s = [q] ++ r :: [] ∧ (∀ x ∈ [q], x.seq ≠ r.seq) ∧
       (∀ x ∈ faultsHeld { s with flt := { s.flt with staging := [r] } }, 0 < x.seq.toNat ∧ x.seq.toNat ≤ s.flt.lastSeq.toNat)) := by
  decide +kernel

/-- The device with core 127 retired. -/
def retired127 : State := { ringUp with cores := [(127, { retired := true })] }

def outOfService : State := { ringUp with flt := { ringUp.flt with oos := true, oosCause := 0x201 } }

theorem witness_MaintenanceSelftestAndRestore :
    readyB ringUp 0 pEcho = true ∧ readyB ringUp 0 pClear = true ∧
    readyB ringUp 0 pPeek = true ∧ bankOn ringUp (param pPeek 8 8) = true ∧ sealedUnit ringUp (param pPeek 8 8) = false ∧
    32 ≤ param pPeek 8 8 / 0x800000 ∧ memSyn ringUp.mem.dpa (granaryBase + param pPeek 8 8 + 4) = 0 ∧
    memSyn ringUp.mem.dpa (granaryBase + param pPeek 8 8) = 0 ∧
    (let s := { ringUp with pwr := { ringUp.pwr with on := [] } }
     readyB s 0 pPeek = true ∧ bankOn s (param pPeek 8 8) = false) ∧
    (readyB ringUp 0 pInject = true ∧ ringUp.pwr.recess = false ∧ injectOk ringUp pInject ≠ some 16) ∧
    (let p := pk 0x82 (fld 8 1 + fld 16 0x1800000000)
     readyB ringUp 0 p = true ∧ injectOk ringUp p = some 16) ∧
    (let s := { ringUp with pwr := { ringUp.pwr with recess := true } }
     readyB s 0 pSelftest = true ∧ s.pwr.recess = true) ∧
    (readyB retired127 0 pSelftest = true ∧ param pSelftest 8 1 ≠ 2 ∧
      testRetired retired127 (testOf (fetchedOf retired127 0 pSelftest) (fetch 0 retired127)) = true) ∧
    (readyB ringUp 0 pSelftest = true ∧ testRetired ringUp (testOf (fetchedOf ringUp 0 pSelftest) (fetch 0 ringUp)) = false) ∧
    (let p := pk 0x18 (fld 8 2)
     readyB ringUp 0 p = true ∧ param p 8 1 = 2) ∧
    (readyB outOfService 0 pRestore = true ∧ outOfService.flt.oos = true ∧ outOfService.flt.oosCause ≠ 0x108) ∧
    (readyB ringUp 0 pRestore = true ∧ ringUp.flt.oos = false) := by
  decide +kernel

/-- Stream 7 as given, with a network loaded under handle 1. -/
def streamUp (st : Stream) : State :=
  { ringUp with nets := [(1, { layersByClass := [(8, [])] })], streams := [(7, st)] }

theorem witness_StreamsOpenRankAndClose :
    (readyB ringUp 0 pOpen = true ∧ (streamAt ringUp 7).state = .closed) ∧
    (readyB (streamUp { state := .faulted }) 0 pOpen = true ∧ (streamAt (streamUp { state := .faulted }) 7).state ≠ .closed) ∧
    (readyB (streamUp { state := .opened }) 0 pRank = true ∧ (streamAt (streamUp { state := .opened }) 7).state ≠ .closed) ∧
    (readyB (streamUp { state := .faulted }) 0 pRank = true) ∧ readyB ringUp 0 pRank = true ∧
    (readyB ringUp 0 pClose = true ∧ pClose.opcode = 0x0A) ∧
    (let s := streamUp { state := .running }
     readyB s 0 pClose = true ∧ holds (streamAt s 7).state = true ∧ pendingAdmit s 7 = none) := by
  decide +kernel

/-- The verdict of Roll Call on stream 7, and what its reply would hold. -/
def verdictOf (s : State) (p : Packet) : Verdict :=
  rollCall (fetch 0 s) (loadsBut (fetch 0 s) 7) { ctx := 7, ad := placed (fetch 0 s) 7 p [] [], windows := none }
    (streamAt s 7).op (networkEntries p)

theorem witness_StreamAdmitRunsRollCall :
    (let s := { streamUp { state := .opened } with pwr := { ringUp.pwr with recess := true } }
     readyB s 0 pAdmit = true ∧ s.pwr.recess = true) ∧
    (readyB outOfService 0 pAdmit = true ∧ outOfService.pwr.recess = false ∧ outOfService.flt.oos = true) ∧
    (readyB ringUp 0 pAdmit = true ∧ (streamAt ringUp 7).state ≠ .opened ∧ (streamAt ringUp 7).state ≠ .shed) ∧
    (let s := streamUp { state := .opened }
     readyB s 0 pAdmit = true ∧ pendingAdmit s 7 = none ∧ param pAdmit 20 1 / 16 = (streamAt s 7).op.codec + 1) ∧
    (let s := { streamUp { state := .shed } with nets := [] }
     readyB s 0 pAdmit = true ∧ (match verdictOf s pAdmit with | .refuse _ _ => true | _ => false) = true) := by
  decide +kernel

def roundsRun (s : State) : State := { s with bell := { s.bell with running := true } }

/-- Streams 1 and 2 read fused network 2. -/
def fusedUp : State := { ringUp with
  nets := [(2, { role := 2, views := 2, layersByClass := [(8, [])] })]
  streams := [(1, { state := .running, ad := { networks := [2] } }), (2, { state := .running, ad := { networks := [2] } })] }

theorem witness_RoundSettingsSheavesSlipsAndRelocks :
    (readyB fusedUp 0 pRound = true ∧ firstAdmitted fusedUp = some 1) ∧
    (readyB (roundsRun ringUp) 0 pRound = true ∧ firstAdmitted (roundsRun ringUp) = none ∧ (roundsRun ringUp).bell.running = true) ∧
    (let p := pk 0x0D (fld 10 1 + fld 12 (2 ^ 112 - 1))
     readyB fusedUp 0 p = true ∧ (sheafMembers p).length < 2) ∧
    (readyB fusedUp 0 pSheaf = true ∧ sheafMembers pSheaf = [1, 2] ∧ (findAt (param pSheaf 8 2) fusedUp.sheaves).isSome = false ∧
      ((sheafMembers pSheaf).all fun m => memberOk fusedUp m.toNat) = true ∧ commonFused fusedUp [1, 2] = [2] ∧
      computeTerm (fetch 0 fusedUp) (loadsBut (fetch 0 fusedUp) 0x1000)
        (putAt 0 { members := [1, 2], entries := sheafEntries pSheaf, network := 2 } fusedUp.sheaves) = none) ∧
    (readyB fusedUp 0 pDissolve = true ∧ (findAt (param pDissolve 8 2) fusedUp.sheaves).isNone = true) ∧
    (let s := { roundsRun ringUp with sheaves := [(0, { members := [1, 2], network := 2 })] }
     readyB s 0 pDissolve = true ∧ (findAt (param pDissolve 8 2) s.sheaves).isNone = false) ∧
    (let c : Clocking := { slipCheck := true, relockCheck := true, locked := true, fit := some { t0 := 0, period := 50000000, half := 625000 } }
     let s := streamUp { state := .running, clk := c }
     holds (streamAt s 7).state = true ∧ (streamAt s 7).clk.slipCheck = true ∧ (streamAt s 7).clk.relockCheck = true ∧
       (streamAt s 7).clk.locked = true ∧ (streamAt s 7).clk.fit.isSome = true) := by
  decide +kernel

/-! ### The timetable sequencer -/

/-- Rounds run, `now` fc into a round that began at 1,000,000 fc. -/
def inRound (now : Nat) (b : Bell) : State :=
  { ringUp with now := 1000000 + now, bell := { b with running := true, roundStart := 1000000 } }

/-- An area of these slots in place of area 0. -/
def slotsOf (l : List (BitVec 4096)) : SMap AreaContent := [(0, { noArea with slots := l })]

theorem witness_DueSlotIssues :
    (let s := inRound 4937499 {}
     s.flt.reset = none ∧ s.bell.gap = none ∧ s.jobs.all (·.inStarted) = true ∧
       nextSlot s = some (0, bareSlot 2 4937500) ∧ canIssue s 0 (bareSlot 2 4937500) = false) ∧
    (let s := inRound 4937500 {}
     nextSlot s = some (0, bareSlot 2 4937500) ∧ slotKind (bareSlot 2 4937500) ≠ 3 ∧
       canIssue s 0 (bareSlot 2 4937500) = true ∧ slotClean s 0 (bareSlot 2 4937500) = true ∧ failedCounter s = none) ∧
    (let s := inRound 5000000 { slot := 1 }
     nextSlot s = some (1, bareSlot 3 5000000) ∧ slotKind (bareSlot 3 5000000) = 3) := by decide +kernel

def act (u : UnitId) (fin : Nat) : Action := { unit := u, issued := 1000000, finishBy := 1000000 + fin, slot := 3, layer := 0 }

theorem witness_UnitsFinishWakeOrHang :
    (let s := inRound 100 {}
     s.bell.actions.find? (fun a => a.unit == UnitId.track) = none) ∧
    (let s := inRound 100 { actions := [act .track 100] }
     s.bell.actions.find? (fun a => a.unit == UnitId.track) = some (act .track 100) ∧ unitDone s .track = true ∧
       s.flt.reset = none ∧ s.now ≤ (act .track 100).finishBy ∧ (act .track 100).finishBy ≤ s.now ∧
       (act .track 99).finishBy < s.now ∧ s.pwr.exit_ = none) ∧
    (let s := inRound 100 { actions := [act .track 101] }
     s.bell.actions.find? (fun a => a.unit == UnitId.track && decide (a.finishBy ≤ s.now)) = none ∧
       deadRun s .track = none) ∧
    (let s := inRound 100 { actions := [act .track 100] }
     s.bell.actions.find? (fun a => a.unit == UnitId.track && decide (a.finishBy ≤ s.now)) = some (act .track 100)) ∧
    (let s := { inRound 37500 {} with cores := [(5, { powered := true, wakeAt := some 1000000, sleepAfter := true })] }
     (coreAt s 5).powered = true ∧ (coreAt s 5).ready = false ∧ wakeOpen (coreAt s 5) s.now = true ∧
       1000000 + 37500 ≤ s.now ∧ wakeOpen (coreAt s 5) (s.now + 1) = false ∧ ¬ s.now < 1000000 + 37500) ∧
    (let s := inRound 37499 {}
     s.now < 1000000 + 37500 ∧ (coreAt s 5).powered = false ∧ (coreAt s 5).wakeAt = none) := by decide +kernel

theorem witness_RoundsAndTheFallowSlot :
    (let s := inRound 5000000 { slot := 1, fallowDone := true }
     boundaryDue s = true ∧ failedCounter s = none ∧ nextSlot s = some (1, bareSlot 3 5000000) ∧
      slotClean s 1 (bareSlot 3 5000000) = true ∧ s.flt.oosPending = false ∧ s.bell.shedDue = [] ∧
       s.bell.retireDecided = false ∧ s.bell.next.state = 0) ∧
    boundaryDue (inRound 4999999 { slot := 1, fallowDone := true }) = false ∧
    boundaryDue (inRound 5000000 { slot := 1, fallowDone := true, next := { state := 3 } }) = true ∧
    boundaryDue (inRound 5000000 { slot := 1, fallowDone := true, next := { state := 2 } }) = true ∧
    boundaryDue (inRound 5000000 { slot := 1, fallowDone := true, next := { state := 1 } }) = true ∧
    fallowDue (inRound 4937499 {}) = false ∧ fallowDue (inRound 4937500 {}) = true := by decide +kernel

/-- A fold that evaluates its accumulator at each step. -/
def foldStrict (f : Word → Byte → Word) : List Byte → Word → Word
  | [], c => c
  | b :: r, c => if f c b = 0 then foldStrict f r 0 else foldStrict f r (f c b)

theorem foldStrict_eq (f : Word → Byte → Word) (l : List Byte) (c : Word) : l.foldl f c = foldStrict f l c := by
  induction l generalizing c with
  | nil => rfl
  | cons b r ih => simp only [foldStrict, List.foldl_cons, ih]; split <;> simp_all

/-- A FALLOW and an END slot with their CRCs. -/
def goodArea : AreaContent := { noArea with
  slots := [bareSlot 2 4937500 + BitVec.ofNat 4096 (1290739226 * 2 ^ 4064),
    bareSlot 3 5000000 + BitVec.ofNat 4096 (1458890919 * 2 ^ 4064)] }

/-- NEXT in area 1 and STANDBY in area 2 are being checked. -/
def checking (a b : AreaContent) : State := inRound 0 { next := { state := 2, area := 1 }, standby := { state := 2, area := 2 }, areas := [(1, a), (2, b)] }

theorem witness_TimetableAreasAndCapacityFalls :
    (let s := inRound 0 {}
     (1 : BitVec 2) ≠ s.bell.active ∧ (1 : BitVec 2).toNat ≠ 3 ∧ s.bell.next.state ≠ 2 ∧ s.bell.standby.state = 0 ∧
       s.bell.standby.state ≠ 2 ∧ s.bell.next.state = 0) ∧
    (let s := checking noArea { noArea with slots := [0] }
     s.bell.next.state = 2 ∧ areaFault s (areaAt s s.bell.next.area) = some (3, 0) ∧ s.bell.standby.state = 2) ∧
    64 ≤ coresLeft (nextClassDown ringUp) ∧
    coresLeft (nextClassDown { ringUp with cores := (List.range 64).map fun n => (n, { retired := true }) }) < 64 ∧
    isRetiring ringUp .decode 3 = false ∧
    (let s := { ringUp with decEng := [(3, { retiring := true })] }
     isRetiring s .decode 3 = true ∧ (s.bell.changes.any fun c => c.kind == ChangeKind.retire .decode 3) = false) := by
  decide +kernel

theorem witness_TimetableAreasAndCapacityFalls_pass :
    areaFault (checking goodArea goodArea) (areaAt (checking goodArea goodArea) 1) = none ∧
    areaFault (checking goodArea goodArea) (areaAt (checking goodArea goodArea) 2) = none := by
  simp only [areaFault, slotCrcBad, crc32c, foldStrict_eq]
  decide +kernel

theorem witness_TimetableAreasAndCapacityFalls_crc :
    areaFault (checking { noArea with slots := [bareSlot 3 5000000] } noArea) { noArea with slots := [bareSlot 3 5000000] } =
      some (1, 0) := by
  simp only [areaFault, slotCrcBad, crc32c, foldStrict_eq]
  decide +kernel

theorem witness_MemoryUpkeep :
    (let s := { ringUp with mem := { ringUp.mem with owed := [(3, 7), (4, 8)] } }
     getAt 0 3 s.mem.owed < 8 ∧ 8 ≤ getAt 0 4 s.mem.owed) ∧
    (let m : Mem := { ringUp.mem.dpa with cells := [⟨256, 1⟩], syn := [(256, BitVec.ofNat 7 (eccColumns.getD 0 0))] }
     let s := { ringUp with mem := { ringUp.mem with dpa := m } }
     dpaRegion 256 = .hbm ∧ s.mem.substActive = false ∧ s.mem.dpa.wf = true ∧
       eccKind (memSyn s.mem.dpa 256) = .corrected 0 ∧
       ∀ i, i < 64 → eccKind (memSyn s.mem.dpa (256 + 4 * i)) ≠ .uncorrectable) ∧
    (ringUp.mem.substActive && ringUp.mem.mirrorReads) = false ∧
    (let s := { ringUp with mem := { ringUp.mem with substActive := true, mirrorReads := true, substPc := 5 } }
     s.mem.substActive = true ∧ s.mem.mirrorReads = true) := by decide +kernel

/-! ### DMA engines, park records, BAR2 -/

theorem witness_GranuleDoneCountsLeadingGranules :
    (let t : Transfer := { desc := 0, total := 4, done := 1, landed := [2], cls := 0, owner := 0 }
     t.done ∉ t.landed ∧ (landed t 1).done = 3 ∧ (landed t 3).done = 1) := by decide +kernel

/-- Host engine 0 reads one granule of 4 bytes of host memory to a host-ingest block. -/
def hostRead1 : Transfer :=
  { desc := mkDesc 2 0 0 4 0x1000 0 1 0 0, total := 1, flight := [0], cls := 3, owner := 5, blocks := [0] }

def hostRuns (t : Transfer) : State := { ringUp with mem := { ringUp.mem with host := [(0, [t])] } }

theorem witness_GranulesLandOrPark :
    takesCompletions State.reset = false ∧
    (let s := hostRuns hostRead1
     takesCompletions s = true ∧ activeOf (getAt [] 0 s.mem.host) = some hostRead1 ∧
       (refillIn s hostRead1).flight.contains 1 = false ∧ (refillIn s hostRead1).flight.contains 0 = true ∧
       descSrcSpace hostRead1.desc = 2 ∧ granuleLen hostRead1.desc 0 = 4 ∧ descDstSpace hostRead1.desc = 0 ∧
       hostRead1.blocks ≠ [] ∧ s.slot.present = true ∧ freePark s = some 0 ∧
       (refillIn s hostRead1).flight = [0] ∧ hostRead1.failed = none) ∧
    (let s := hostRuns { hostRead1 with buf := [(0, [1, 2, 3])] }
     (getAt [] 0 { hostRead1 with buf := [(0, [1, 2, 3])] }.buf ++ [4]).length = 4 ∧ takesCompletions s = true) ∧
    (activeOf (getAt [] 0 ringUp.mem.host) = none ∧ (sqAt ringUp 0).enable = true ∧ (sqAt ringUp 0).parked = false ∧
      (sqAt ringUp 0).head ≠ (sqAt ringUp 0).tail ∧ freePark ringUp = some 0 ∧ takesCompletions ringUp = true) ∧
    ({ ringUp with flt := { ringUp.flt with reset := some { at_ := 0, suspects := [], layerRan := none, seq := 1 } } } : State).flt.reset.isSome =
      true := by
  decide +kernel

/-- A transfer of one granule of 4 bytes within the Granary. -/
def copy1 : Transfer :=
  { desc := mkDesc 0 0 0 4 (32 * 0x800000) (33 * 0x800000) 1 0 0, total := 1, flight := [0], cls := 0, owner := 0 }

/-- Granule 0 of `t` can be read from its source and written at its destination. -/
def moves (e : DmaEngine) (timed : Bool) (t : Transfer) (s : State) : Bool :=
  match readGranule e timed t 0 s with
  | (.bytes l, s1) => (match writeGranule e timed t 0 l s1 with | (0, true, _) => true | _ => false)
  | _ => false

theorem witness_GranulesLandOrPark_land :
    (let s := { ringUp with mem := { ringUp.mem with bulk := [(3, [copy1])], host := [(7, [copy1])], timed := [(15, [copy1])] } }
     s.flt.reset = none ∧ activeOf (getAt [] 3 s.mem.bulk) = some copy1 ∧ activeOf (getAt [] 7 s.mem.host) = some copy1 ∧
       activeOf (getAt [] 15 s.mem.timed) = some copy1 ∧ descSrcSpace copy1.desc ≠ 2 ∧ descDstSpace copy1.desc ≠ 2 ∧
       (refillIn s copy1).flight.contains 0 = true ∧ overtaken s copy1 = false ∧ copy1.done = 0 ∧
       moves (.bulk 3) false (refillIn s copy1) s = true ∧ moves (.host 7) false (refillIn s copy1) s = true ∧
       moves (.timed 15) true copy1 s = true) := by decide +kernel

/-- A parked transfer of one class. -/
def parkOf (cls : Nat) (cause : Byte) (state : Nat) : ParkRecord :=
  { desc := 0, done := 0, total := 1, engine := 20, cause, state, cls, owner := 0, faultAddr := 0, round := 0, retries := 0,
    faultSeq := 0 }

def parked (p : ParkRecord) (s : State) : State := { s with mem := { s.mem with parks := [(1023, p)] } }

theorem witness_ParkActionsInvalidationAndBar2 :
    (parkOf 0 1 1).tried ≠ some (mgmtStep ringUp) ∧ ({ parkOf 2 1 1 with tried := some 0 }).tried = some (mgmtStep ringUp) ∧
    findAt 1023 ringUp.mem.parks = none ∧
    findAt 1023 (parked (parkOf 0 1 2) ringUp).mem.parks = some (parkOf 0 1 2) ∧ (parkOf 0 1 2).state ≠ 1 ∧
    (parkOf 0 0x31 1).cause = 0x31 ∧ (parkOf 0 1 1).state = 1 ∧ (parkOf 0 1 1).cause ≠ 0x31 ∧ (parkOf 0 1 1).cls = 0 ∧
    hostUp (parked (parkOf 0 1 1) ringUp) = true ∧ hostUp (parked (parkOf 0 1 1) State.reset) = false ∧
    (parkOf 1 1 1).cls = 1 ∧ (parkOf 3 1 1).cls = 3 ∧ (parkOf 6 1 1).cls = 6 ∧
    hostAccess State.reset = false ∧ hostAccess ringUp = true ∧
    (∀ e ∈ allEngines, (activeOf (engineList ringUp e)).isNone = true) ∧
    (let o : BitVec 29 := 32 * 0x800000
     o.toNat % 4 = 0 ∧ bankOn ringUp o.toNat = true ∧ sealedUnit ringUp o.toNat = false ∧ bankOf o.toNat = 32 ∧
       memSyn ringUp.mem.dpa (granaryBase + o.toNat) = 0 ∧ bar2Writable ringUp o.toNat 4 = true ∧
       bar2Writable noMaint o.toNat 4 = false ∧ noMaint.cmd.maintEn = false) ∧
    (let o : BitVec 29 := 31 * 0x800000
     bankOn ringUp o.toNat = true ∧ sealedUnit ringUp o.toNat = true ∧ bar2Writable ringUp o.toNat 4 = false) ∧
    (let m : Mem := { ringUp.mem.dpa with syn := [(granaryBase + 0x18000000 - 4, 0x7F)] }
     let s := { ringUp with mem := { ringUp.mem with dpa := m } }
     bankOf (0x18000000 - 4) = 47 ∧ sealedUnit s (0x18000000 - 4) = false ∧ bankOn s (0x18000000 - 4) = true ∧
       memSyn s.mem.dpa (granaryBase + (0x18000000 - 4)) = 0x7F) := by decide +kernel

/-! ### Networks, jobs, clips -/

/-- A best-effort image of one layer for 128 cores: section table, one section of each type it needs. -/
def imgBody : List Byte :=
  let sec (t c n o : Nat) : List Byte := leBytes 2 t ++ [BitVec.ofNat 8 c, 0] ++ leBytes 4 n ++ leBytes 8 o
  padTo 256 (sec 2 8 1 256 ++ sec 3 8 1 512 ++ sec 4 8 1 1024 ++ sec 5 8 128 1280 ++ sec 9 8 1 3328 ++ sec 15 0xFF 1 3584)
    ++ padTo 256 (leBytes 4 10 ++ leBytes 4 0 ++ leBytes 2 1 ++ leBytes 2 1250 ++ leBytes 4 0 ++ leBytes 2 1 ++ [0, 1])
    ++ padTo 512 (leBytes 4 0x10000000) ++ List.replicate 2816 0

def img : List Byte :=
  padTo 256 ([0x4B, 0x56, 0x4E, 0x49, 1, 0, 4, 0] ++ leBytes 8 3840 ++ leBytes 2 6 ++ leBytes 2 1 ++ leBytes 2 256
    ++ [0, 0, 0, 0, 0, 0] ++ leBytes 2 1 ++ [0, 0]) ++ padTo 256 (leBytes 4 2140351916) ++ imgBody

def pLoadImg : Packet := pk 0x10 (fld 8 0x1000 + fld 16 4352 + fld 20 0xFFFF)

def loadOk : Except Reply (ImageHead × List Byte × List Section) → Bool
  | .ok x => x.1.role == 4 && (weightsOf x.2.1 x.2.2).length == 0
  | .error _ => false

theorem witness_NetworksLoadAndUnload_pass : loadOk (loadVerdict (fetch 0 ringUp) pLoadImg img) = true := by
  simp only [loadVerdict, checksOk, crc32c, foldStrict_eq]
  decide +kernel

/-- A best-effort network under handle 1. -/
def beNet : Network := { role := 4, layersByClass := [(8, [⟨10, 0, 1, 1250, 0, 1, 0, 1⟩])] }

theorem witness_NetworksLoadAndUnload :
    readyB ringUp 0 pLoadImg = true ∧ ringUp.pwr.recess = false ∧ ringUp.flt.oos = false ∧
    weightPages (fetch 0 ringUp) 0 [] = some ([], []) ∧ allotment (fetch 0 ringUp) 0 = some [] ∧
    freeHandle (fetch 0 ringUp) = some 1 ∧
    freeHandle { ringUp with nets := (List.range 63).map fun n => (n + 1, beNet) } = some 64 ∧
    loadOk (loadVerdict (fetch 0 ringUp) pLoad []) = false ∧
    (let s := { ringUp with pwr := { ringUp.pwr with recess := true } }
     readyB s 0 pLoad = true ∧ s.pwr.recess = true) ∧
    (readyB outOfService 0 pLoad = true ∧ outOfService.flt.oos = true) ∧
    (readyB ringUp 0 pUnload = true ∧ netAt ringUp 1 = none) ∧
    (let s := streamUp { state := .running, ad := { networks := [1] } }
     readyB s 0 pUnload = true ∧ (netAt s 1).isSome = true ∧ networkUser s 1 = some 7) ∧
    (let s := { ringUp with nets := [(1, beNet), (2, { beNet with upstream := 1 })] }
     readyB s 0 pUnload = true ∧ networkUser s 1 = none ∧ ∃ e ∈ s.nets, e.2.upstream = 1) ∧
    (let s := { ringUp with nets := [(1, beNet)] }
     readyB s 0 pUnload = true ∧ netAt s 1 = some beNet ∧ networkUser s 1 = none ∧ (∀ e ∈ s.nets, e.2.upstream ≠ 1) ∧
       (∀ j ∈ s.jobs, j.network ≠ 1) ∧ contextUsed s beNet.xctx = false ∧
       contextUsed { s with bell := { s.bell with
         areas := [(0, { noArea with dma := [mkDesc 1 0 beNet.xctx 16 0 0 1 0 0] })] } } beNet.xctx = true) := by decide +kernel

theorem witness_MirrorPagesDifferInTheHash : ∃ w m, weightPages ringUp 2 [] = some (w, m) := ⟨[0, 1], [2, 3], by decide +kernel⟩

def beUp (jobs : List Job) : State := { ringUp with nets := [(1, beNet)], jobs }

def job5 : Job :=
  { ring := 0, tag := 5, network := 1, priority := 0, slice := 200, inAddr := 0, inBytes := 256, outAddr := 0,
    outBytes := 256, batch := 1 }

theorem witness_JobsAreHeldAndCancelled :
    (readyB (beUp []) 0 pJob = true ∧ jobVerdict (fetch 0 (beUp [])) pJob = none ∧ (beUp []).pwr.recess = false ∧
      (beUp []).flt.oos = false) ∧
    (readyB ringUp 0 pJob = true ∧ (jobVerdict (fetch 0 ringUp) pJob).isSome = true) ∧
    (readyB ringUp 0 pJobCancel = true ∧ ringUp.jobs.find? (fun j => j.ring == 0 && j.tag == 5) = none) ∧
    (let p := { pJobCancel with tag := 6 }
     readyB (beUp [job5]) 0 p = true ∧ (beUp [job5]).jobs.find? (fun j => j.ring == 0 && j.tag == 5) = some job5 ∧
       jobRuns (beUp [job5]) job5 = false) ∧
    (let s := { beUp [job5] with bell := { (beUp []).bell with gap := some { until_ := 9, job := some (0, 5) } } }
     readyB s 0 { pJobCancel with tag := 6 } = true ∧ jobRuns s job5 = true) := by decide +kernel

/-- A clip of stream 7 in its first states. -/
def clip1 : Clip :=
  { num := 1, ctx := 7, ring := 0, tag := 9, startSeq := 0, endSeq := 0, format := 0, cflags := 0x10, baseQp := 0, maxQp := 51,
    refreshPics := 8, capBytes := 4096, keyCapBytes := 4096, outAddr := 0, outBytes := 4096, roi := [], port := 0,
    ipv6 := false, dstIp := 0, dstPort := 0, srcPort := 0, ssrc := 0, pt := 96, dscp := 0, seqNum := 0, pace := 1,
    source := [], decodeSeq := 0 }

/-- Stream 7 runs with one picture in its replay ring. -/
def clipStream : Stream := {
  state := .running, ad := { maxW := 16, maxH := 16 }, cnt := { frameSeq := 1 }
  ring := { entries := [{ seq := 0, ts := 0, capture := 0, round := 0, offset := 0, length := 100, flags := 0, refFree := true,
                          refused := false }] } }

def clipUp (l : List Clip) : State := { streamUp clipStream with clips := l }

def noLists : ClipLists := { desc := [], roi := [], source := [] }

theorem witness_ClipsAreTakenStartedAndSent :
    (let s := clipUp []
     let k := clipOf (fetchedOf s 0 pClip) (clipNumber s) noLists
     readyB s 0 pClip = true ∧ s.pwr.recess = false ∧ s.flt.oos = false ∧ holds (streamAt s 7).state = true ∧
       capMin (param pClip 16 1) 16 16 false ≤ param pClip 24 4 ∧ capMin (param pClip 16 1) 16 16 true ≤ param pClip 28 4 ∧
       clipListsOk k noLists = true ∧ clipSourced k = false ∧ clipFirst (streamAt s 7) k = some 0 ∧
       (clipsOpen s).length < 64 ∧
       clipListsOk (clipOf (fetchedOf s 0 pClip) 0 { noLists with desc := [1] }) { noLists with desc := [1] } = false) ∧
    (let p := pk 0x14 (fld 17 0x10 + fld 19 51 + fld 20 8 + fld 24 (capMin 0 16 16 false - 1) + fld 28 0xFFFFFFFF + fld 32 0x1000)
     readyB (clipUp []) 0 p = true ∧ param p 24 4 < capMin (param p 16 1) 16 16 false) ∧
    (readyB ringUp 0 pClip = true ∧ ¬ (holds (streamAt ringUp 7).state = true)) ∧
    (let s := streamUp { clipStream with ring := {} }
     readyB s 0 pClip = true ∧ clipFirst (streamAt s 7) (clipOf (fetchedOf s 0 pClip) (clipNumber s) noLists) = none) ∧
    (let s := clipUp ((List.range 64).map fun n => { clip1 with num := BitVec.ofNat 16 n })
     readyB s 0 pClip = true ∧ 64 ≤ (clipsOpen s).length) ∧
    (readyB (clipUp []) 0 pClipCancel = true ∧ (clipsOpen (clipUp [])).find? (fun k => k.num.toNat = 1) = none) ∧
    (readyB (clipUp [clip1]) 0 pClipCancel = true ∧
      (clipsOpen (clipUp [clip1])).find? (fun k => k.num.toNat = 1) = some clip1 ∧ clipIdle (clipUp [clip1]) clip1 = true) ∧
    (let k := { clip1 with engine := some 7 }
     let s := { clipUp [k] with encEng := [(7, { busy := true, clip := some 1 })] }
     readyB s 0 pClipCancel = true ∧ clipIdle s k = false) := by decide +kernel

def pic1 : ClipPic := { seq := 0, ts := 0, capture := 0, outcome := 0, width := 16, height := 16 }

theorem witness_ClipsAreTakenStartedAndSent_run :
    (let s := clipUp [clip1]
     s.flt.reset = none ∧ s.pwr.transition = 0 ∧ maxStage s < 2 ∧
       clipOrder ((clipsOpen s).filter fun k => k.engine.isNone) = [clip1] ∧
       (!(encAt s 0).retired && !(encAt s 0).retiring && (encAt s 0).clip.isNone) = true ∧
       s.clipAreaUsed + clipUnits (streamAt s 7) clip1 ≤ 0x1000 ∧
       0x1000 < 0x1000 + clipUnits (streamAt s 7) clip1 ∧ clipOrder (clipsOpen ringUp) = []) ∧
    (let k := { clip1 with engine := some 7 }
     let s := clipUp [k]
     k.pics = [] ∧ k.decodeSeq ≤ k.endSeq ∧ ((clipsOpen s).find? fun k => k.num == (1 : BitVec 16) && k.engine.isSome) = some k ∧
       clipLost s k = false ∧ (clipAu s k).isSome = true ∧ clipSourced k = false ∧ hotIdle s = false ∧
       clipLeaves s 1 0 = some 1 ∧
      clipLeaves { streamUp { clipStream with state := .opened } with clips := [k], tel := { level := 2 } } 1 0 = none) ∧
    (let k := { clip1 with engine := some 7 }
     let s := { streamUp { clipStream with state := .opened } with clips := [k], tel := { level := 2 } }
     ((clipsOpen s).find? fun k => k.num == (1 : BitVec 16) && k.engine.isSome) = some k ∧ clipLost s k = false ∧
       (clipAu s k).isSome = true ∧ hotIdle s = true) ∧
    (let k := { clip1 with engine := some 7 }
     clipLost { streamUp { clipStream with ring := {} } with clips := [k] } k = true) ∧
    (let k := { clip1 with engine := some 7, pics := [pic1] }
     let s := { clipUp [k] with encEng := [(7, { busy := true, clip := some 1, since := 1000 })], now := 1000 + 63140 }
     ((clipsOpen s).find? fun k => k.num == (1 : BitVec 16)) = some k ∧ segmentRoom s k 0x10000 = true ∧
       segmentRoom s k 0x80000000 = false ∧ (encAt s 7).busy = true ∧ s.pwr.exit_ = none ∧
       ceilDiv ((2 * 16 * 16 + 50000) * 5) 4 = 63140 ∧
       ((clipsOpen s).find? fun k => (encAt s 7).clip == some k.num) = some k) ∧
    (let k := { clip1 with packets := [{ ts := 0, marker := true, payload := [1], blocks := [] }] }
     let s := { clipUp [k] with ports := [(0, { linkUp := true })] }
     (s.clips.find? fun k => k.num == (1 : BitVec 16)) = some k ∧ (portAt s 0).linkUp = true ∧ (portAt s 0).pauseUntil ≤ s.now ∧
       k.sentAt ≤ s.now ∧ datagramWaits s 0 = false ∧ (portAt ringUp 0).linkUp = false) := by decide +kernel

theorem witness_PicturesStayWithinTheirCap : 100 + [(9, 9, 9), (9, 9, 9)].length * 64 ≤ (228 : Nat) ∧
    (codeRows 228 64 [(500, 100, 64), (500, 100, 64)] 100 .normal).1 = 228 := by decide +kernel

/-! ### Firmware, attestation, power -/

def fwUp (w : Fw) : State := { ringUp with fw := w }


theorem witness_StagingAndArming :
    (readyB ringUp 0 pStage0 = true ∧ wellFormed (.fwStageBailiff 0 pStage0 (.fault 1) true) = true ∧
      ringUp.fw.upd.toNat ≤ 2 ∧ fwVerdict (spoilTarget 0 (fetch 0 ringUp)) 0 256 [] = some (1, 0x100, 16)) ∧
    (readyB (fwUp { upd := 3 }) 0 pStage0 = true ∧ 2 < (fwUp { upd := 3 }).fw.upd.toNat) ∧
    (readyB (fwUp { upd := 3 }) 0 pStage1 = true ∧ wellFormed (.fwStagePatch 0 pStage1 (.fault 1) true) = true) ∧
    (wellFormed (.fwArmBailiff 0 pArm0) = true ∧ readyB (fwUp { upd := 1 }) 0 pArm0 = true ∧
      readyB (fwUp { upd := 2 }) 0 pArm0 = true) ∧
    (let s := fwUp { upd := 2, bank := 0, banks := [(0, { outFmt := 3 }), (1, { inMin := 3, inMax := 3 })] }
     readyB s 0 pArm0 = true ∧ (stagedImage s).inMin ≤ (runningImage s).outFmt ∧
       (runningImage s).outFmt ≤ (stagedImage s).inMax) ∧
    (let s := fwUp { upd := 2, bank := 0, banks := [(0, { outFmt := 3 }), (1, { inMin := 4, inMax := 5 })] }
     ¬ (stagedImage s).inMin ≤ (runningImage s).outFmt) ∧
    (wellFormed (.fwArmPatch 0 pArm1) = true ∧ readyB (fwUp {}) 0 pArm1 = true ∧
      readyB (fwUp { patchStaged := some 1 }) 0 pArm1 = true ∧
      readyB (fwUp { patchStaged := some 1, patchPending := true }) 0 pArm1 = true) ∧
    (wellFormed (.fwActivate 0 pActivate) = true ∧ readyB (fwUp { upd := 3 }) 0 pActivate = true ∧
      readyB (fwUp { upd := 4, quiesced := true }) 0 pActivate = true ∧ readyB (fwUp { upd := 2 }) 0 pActivate = true ∧
      (fwUp { upd := 3 }).pwr.recess = false) ∧
    (let s := { ringUp with pwr := { ringUp.pwr with recess := true } }
     readyB s 0 pActivate = true ∧ readyB s 0 pDisarm = true ∧ s.pwr.recess = true) ∧
    (wellFormed (.fwDisarm 0 pDisarm) = true ∧ readyB (fwUp { upd := 3 }) 0 pDisarm = true ∧
      readyB (fwUp { upd := 2 }) 0 pDisarm = true) := by decide +kernel

theorem witness_SwitchTrialAndSyncIn :
    (fwUp { step := 2 }).fw.step = 2 ∧ (fwUp {}).fw.step ≠ 2 ∧
    (let s := fwUp { loadedBlocks := 1, banks := [(0, { blocks := 2 })] }
     s.fw.loadedBlocks ≠ 0 ∧ 1 < (runningImage s).blocks) ∧
    ((fwUp { upd := 5, trialEnd := 1000 }).fw.trialEnd ≤ (fwUp {}).now ∧ hostAccess (fwUp { upd := 5 }) = true ∧
      (2 : Word).getLsbD 1 = true ∧ (fwUp {}).fw.clusterReset = false ∧ (fwUp {}).glb.ready = true ∧
      (let s := { fwUp { upd := 5 } with now := 63000000 }
       s.fw.aliveAt + 63000000 ≤ s.now)) ∧
    ((fwUp { upd := 0 }).fw.upd ≠ 4 ∧ (fwUp { upd := 0 }).fw.upd ≠ 5) ∧
    ((1 : Word).getLsbD 0 = true ∧ (1 : Word).getLsbD 1 = false) ∧
    ((fwUp { upd := 3, syncEn := true }).pwr.aonReset = false ∧ (fwUp { upd := 3, syncEn := true }).fw.syncEn = true) ∧
    ({ ringUp with pwr := { ringUp.pwr with aonReset := true } } : State).pwr.aonReset = true ∧
    ((fwUp { upd := 5, hostConfirm := true }).fw.confirmSeen = false ∧ (fwUp { upd := 5, restarted := true }).fw.restarted = true) := by
  decide +kernel

theorem witness_AttestationAnswersInOrder :
    doeServes ringUp = true ∧ ringUp.fw.spdm = 0 ∧ 1 ≤ (fwUp { spdm := 1 }).fw.spdm ∧ 2 ≤ (fwUp { spdm := 2 }).fw.spdm ∧
    doeServes (fwUp { spdm := 3 }) = true ∧ 3 ≤ (fwUp { spdm := 3 }).fw.spdm := by decide +kernel


theorem witness_AttestationAnswersInOrder_slot : certSlots.contains 1 = true := by
  unfold certSlots; split <;> decide

theorem witness_AttestationAnswersInOrder_chain (h : Config.certChain 1 ≠ []) : 0 < (Config.certChain 1).length :=
  List.length_pos_iff.mpr h

def pwrUp (p : Pwr) : State := { ringUp with pwr := p, now := 200000000 }

/-- A Recess entry that waits for domain 128, and then for the shell of the rounds. -/
def entry128 : RecessEntry := { todo := [(128, 0), (266, 0)], done := [], start := 194000000, banks := false, cmd := (0, 5) }

theorem witness_PowerHandshakeSwitchesDomains :
    pwrWorks (pwrUp {}) = true ∧
    (findAt 128 (pwrUp { entry := some entry128, on := [128] }).pwr.hs = none ∧
      domainOn (pwrUp { entry := some entry128, on := [128] }) 128 = true ∧ entry128.todo.head? = some (128, 0)) ∧
    (findAt 264 (pwrUp { on := [264] }).pwr.hs = none ∧ domainOn (pwrUp { on := [264] }) 264 = true ∧
      offTrigger (pwrUp { on := [264] }) 264 = true) ∧
    (engineDomain 128 = some (.decode, 0) ∧ idleDue (pwrUp { on := [128] }) .decode 0 = true ∧
      idleDue { pwrUp { on := [128] } with now := 124999999 } .decode 0 = false) ∧
    (let s := pwrUp { on := [128], hs := [(128, { mode := 0 })] }
     findAt 128 s.pwr.hs = some { mode := 0 } ∧ answerOf s 128 { mode := 0 } = none ∧ s.pwr.entry = none) ∧
    (let s := { pwrUp { hs := [(5, { mode := 0 })] } with cores := [(5, { powered := true, busy := true })] }
     findAt 5 s.pwr.hs = some { mode := 0 } ∧ answerOf s 5 { mode := 0 } = some (false, (1 : Byte).toNat)) ∧
    (answerOf (pwrUp {}) 128 { mode := 0, accessed := true } = some (true, (2 : Byte).toNat)) ∧
    (let s := pwrUp { hs := [(128, { mode := 0, delayUntil := some 200000000 })], entry := some entry128 }
     entryWaits s 128 = true ∧ phaseOver s = true ∧ (200000000 : Nat) ≤ s.now ∧
       entryWaits (pwrUp {}) 128 = false ∧ (pwrUp {}).now < 200000001) ∧
    (domainOn (pwrUp {}) 128 = false ∧ domainRetired (pwrUp {}) 128 = false ∧ (pwrUp {}).pwr.recess = false ∧
      (pwrUp {}).pwr.aonLow = false ∧ (pwrUp { aonLow := true }).pwr.wakeQueue.length < 16) ∧
    (128 ∈ (pwrUp { waking := [128, 5] }).pwr.waking ∧ ∀ g, g < 16 → 248 + g ∈ (pwrUp {}).pwr.on) := by decide +kernel

theorem witness_RecessAndTheAlwaysOnDomain :
    (let s := pwrUp { recess := true }
     readyB s 0 pEnter = true ∧ readyB s 0 pExit = true ∧ s.pwr.recess = true ∧ s.pwr.exit_ = none) ∧
    (let s := streamUp { state := .truant }
     readyB s 0 pEnter = true ∧ (holders s).head?.isSome = true) ∧
    (readyB ringUp 0 pEnter = true ∧ holders ringUp = [] ∧ readyB ringUp 0 pExit = true ∧ ringUp.pwr.recess = false) ∧
    (let s := pwrUp { recess := true, exit_ := some (0, (0, 5)) }
     s.pwr.exit_ = some (0, (0, 5)) ∧ s.pwr.aonLow = false ∧ pwrWorks s = true ∧ s.flt.later = [] ∧ s.pwr.heldSync = false) ∧
    (hostAccess ringUp = true ∧ shellUp ringUp (regDomain 0) = true ∧ shellUp ringUp (regDomain 0x40000) = false ∧
      (30 : BitVec 16).toNat ≤ 30 ∧ ringUp.pwr.aonReset = false ∧ ringUp.pwr.aonLow = false) ∧
    (let s := pwrUp { recess := true, shells := [(128, 199000000)] }
     (128, 199000000) ∈ s.pwr.shells ∧ 199000000 + 1000000 ≤ s.now ∧ shellOnly s 128 = false ∧
       ¬ 199000001 + 1000000 ≤ s.now) ∧
    (pwrUp { fullAt := some 200000000 }).pwr.fullAt = some 200000000 ∧ (200000000 : Nat) ≤ (pwrUp {}).now ∧
    (let s := { ringUp with link := { ringUp.link with state := .l12 }, pwr := { ringUp.pwr with aonLow := true } }
     s.link.state = .l12 ∧ s.pwr.aonLow = true ∧ s.pwr.leaving = false) ∧
    (pwrUp { aonReset := true }).pwr.aonReset = true ∧ (pwrUp {}).pwr.aonReset = false := by decide +kernel

/-! ### Tile instructions -/

/-- Core 127 runs the program, at its word 0. -/
def coreProg (l : List (Nat × Nat)) (c : Core) : State := { ringUp with cores := [(127, { c with
  powered := true, ready := true, busy := true, prog := l.map fun e => (e.1, BitVec.ofNat 128 e.2) })] }

def coreRun (w : Nat) : State := coreProg [(0, w)] {}

def atWordB (s : State) (n w : Nat) : Bool :=
  let c := coreAt s n
  c.powered && c.ready && c.busy && !c.seq.stopped && s.flt.reset.isNone && decide (c.seq.pc ≤ 4095)
    && decide (w < 2 ^ 128) && getAt (0 : BitVec 128) c.seq.pc c.prog == BitVec.ofNat 128 w
    && (List.range 4).all fun j => coreSyn c 6 (16 * c.seq.pc + 4 * j) == 0

/-- `Issues` as a Bool (issues_of_issuesB). -/
def issuesB (s : State) (n w : Nat) : Bool :=
  atWordB s n w && (badField w).isNone && (firstBad s n w (checksOf w)).isNone && issues s n w

theorem atWord_of_atWordB {s : State} {n w : Nat} (h : atWordB s n w = true) : AtWord s n w := by
  simp only [atWordB, Bool.and_eq_true, Bool.not_eq_true', Option.isNone_iff_eq_none, decide_eq_true_eq, beq_iff_eq,
    List.all_eq_true, List.mem_range] at h
  obtain ⟨⟨⟨⟨⟨⟨⟨⟨h1, h2⟩, h3⟩, h4⟩, h5⟩, h6⟩, h7⟩, h8⟩, h9⟩ := h
  exact ⟨⟨h1, h2, h3, h4, h5⟩, h6, h7, h8, h9⟩

theorem issues_of_issuesB {s : State} {n w : Nat} (h : issuesB s n w = true) : Issues s n w := by
  simp only [issuesB, Bool.and_eq_true, Option.isNone_iff_eq_none] at h
  exact ⟨atWord_of_atWordB h.1.1.1, h.1.1.2, h.1.2, h.2⟩

/-- A VEC word from one 32-byte block at 0x1000 (and 0x2000) to 0x3000, in FP32. -/
def vecWord (func : Nat) : Nat :=
  6 + func * 2 ^ 8 + 7 * 2 ^ 16 + 7 * 2 ^ 19 + 0x100 * 2 ^ 22 + 0x200 * 2 ^ 38 + 0x300 * 2 ^ 54

/-- The core's parameters stand at word 16. -/
def vecRun (func : Nat) : State := coreProg [(0, vecWord func), (16, 2 + 3 * 2 ^ 32 + 8 * 2 ^ 64 + 4 * 2 ^ 96)] { seq := { pb := 16 } }

/-- A geometry block at word 32: windows of 2 x 2 with stride 2 over 4 x 4 pixels, band rows of 1,024 bytes. -/
def geoBlock : Nat :=
  4 + 4 * 2 ^ 16 + 4 * 2 ^ 48 + 64 * 2 ^ 64 + 2 * 2 ^ 112 + 2 * 2 ^ 128 + 2 * 2 ^ 208 + 2 * 2 ^ 216 + 2 ^ 224 + 2 ^ 232
    + 2 * 2 ^ 240 + 2 * 2 ^ 248

def geoRun (w : Nat) : State := coreProg [(0, w), (32, geoBlock), (33, geoBlock / 2 ^ 128), (34, geoBlock / 2 ^ 256)] {}

/-- INT8 x INT8, array 0, four vectors, accumulator rows 252 to 255. -/
def passWord (op : Nat) : Nat := op + 1 * 2 ^ 8 + 2 ^ 14 + 3 * 2 ^ 18 + 0x10 * 2 ^ 50 + 252 * 2 ^ 67
  + (if op = 3 then 32 * 2 ^ 88 else 8 * 2 ^ 78)

def poolWord : Nat := 4 + 32 * 2 ^ 11 + 0x100 * 2 ^ 23 + 0x400 * 2 ^ 39 + 1 * 2 ^ 55

/-- The ACTIVE area with one DMA descriptor and one crop record; slot 0 is a work slot. -/
def areaRun (cells : List Host.Cell) (s : State) : State := { s with
  bell := { s.bell with
    areas := [(0, { noArea with slots := [0], dma := [mkDesc 0 0 0 512 0x10000000 0x10000000 1 0 0], rowNets := [1]
                                crops := [BitVec.ofNat 256 (4 * 2 ^ 128 + 4 * 2 ^ 144 + 8 * 2 ^ 160 + 2 ^ 176 + 2 ^ 208)] })] }
  nets := [(1, { recCap := 4, regionCap := 4, layersByClass := [(8, [])] })]
  mem := { s.mem with dpa := { s.mem.dpa with cells := cells } } }

def claimWord : Nat := 8 + 63 * 2 ^ 8 + 2 * 2 ^ 14 + 5 * 2 ^ 58 + 1 * 2 ^ 70 + 16382 * 2 ^ 86

/-- The three words of each SYNC row, and one word of another row. -/
theorem witness_IssueChecksRaiseInstructionFaults :
    tileCmd (.syncEnd 127 0x107) = some (127, 0x107) ∧ wellFormed (.syncEnd 127 0x107) = true ∧
    (coreAt ringUp 127).powered = false ∧
    (let s := coreProg [] { seq := { pc := 4096 } }
     (coreAt s 127).powered = true ∧ (coreAt s 127).ready = true ∧ (coreAt s 127).busy = true ∧
       (coreAt s 127).seq.stopped = false ∧ s.flt.reset = none ∧ 4095 < (coreAt s 127).seq.pc) ∧
    (atWordB (coreRun 0x1107) 127 0x1107 = true ∧ badField 0x1107 = some 12) ∧
    (atWordB (coreRun 0x307) 127 0x307 = true ∧ badField 0x307 = none ∧ (0x307 : Nat) ≠ (0x107 : BitVec 128).toNat) ∧
    (let w := 1 + 0x7FFF * 2 ^ 10
     atWordB (coreRun w) 127 w = true ∧ badField w = none ∧ firstBad (coreRun w) 127 w (checksOf w) = some (4, 8176)) ∧
    (let w := 1 + 2 ^ 25
     let s := coreProg [(0, w)] { seq := { wmark := [0, 0] } }
     atWordB s 127 w = true ∧ firstBad s 127 w (checksOf w) = none ∧ issues s 127 w = false) := by decide +kernel

theorem witness_SyncSetsSequencerRegisters :
    ([0x107, 0x207, 0x307, 0x407, 0x507, 0x2407 + 0x10000 * 2 ^ 14, 0x1C07 + 0x10000 * 2 ^ 14, 0x507 + 4095 * 2 ^ 11].all fun w =>
      issuesB (coreRun w) 127 w && insnOp w == 7) = true ∧
    isSync 1 0x107 = true ∧ isSync 2 0x207 = true ∧ isSync 3 0x307 = true ∧ isSync 4 0x407 = true ∧
    isSync 5 0x507 = true := by decide +kernel

theorem witness_ClaimsLoadsAndTransfers :
    (let s := areaRun [] (coreRun claimWord)
     issuesB s 127 claimWord = true ∧ insnOp claimWord = 8 ∧ (claimLoop s 127).elim 0 (·.iter + 1) < bitsOf claimWord 85 70 ∧
       (wcAt s 63).latched = false ∧ claimWord.testBit 30 = false) ∧
    (let l : ClaimLoop := { pc := 0, body := 5, iter := 0, wc := 63, epoch := 0, attempt := 0 }
     let s := areaRun [] (coreProg [(0, claimWord)] { seq := { loop := some l } })
     issuesB s 127 claimWord = true ∧ bitsOf claimWord 85 70 ≤ (claimLoop s 127).elim 0 (·.iter + 1)) ∧
    (let s := { coreRun claimWord with wcs := [(63, { latched := true, limit := 2, value := 2 })] }
     issuesB s 127 claimWord = true ∧ (wcAt s 63).latched = true ∧ (wcAt s 63).limit.toNat ≤ (wcAt s 63).value.toNat) ∧
    (let w := claimWord + 2 ^ 30
     issuesB (coreRun w) 127 w = true ∧ w.testBit 30 = true) ∧
    (let w := 1 + 0x7E00 * 2 ^ 10
     issuesB (coreRun w) 127 w = true ∧ insnOp w = 1 ∧ bitsOf w 9 8 = 0) ∧
    (let w := 1 + 2 ^ 8 + 63 * 2 ^ 38 + 1984 * 2 ^ 27
     issuesB (coreRun w) 127 w = true ∧ insnOp w = 1 ∧ bitsOf w 9 8 = 1) ∧
    (let w := 9 + 2 ^ 39 + 3 * 2 ^ 40
     issuesB (areaRun [] (coreRun w)) 127 w = true ∧ insnOp w = 9 ∧ w.testBit 38 = false ∧ w.testBit 39 = true) ∧
    (let w := 9 + 2 ^ 38 + 2 ^ 42 + 16383 * 2 ^ 43
     issuesB (areaRun [] (coreRun w)) 127 w = true ∧ w.testBit 38 = true ∧ w.testBit 42 = true) := by decide +kernel

theorem clean_core (s : Core) (h1 : s.syn = []) (h2 : s.act = {}) (h3 : s.wgt = {}) : CoreClean s := by
  refine ⟨h1, ?_, ?_, fun a => ?_, fun a => ?_⟩
  · rw [h2]; rfl
  · rw [h3]; rfl
  · rw [h2]; simp [memSyn, findAt, synBlank]
  · rw [h3]; simp [memSyn, findAt, synBlank]

theorem witness_CoreClean : CoreClean (coreAt (geoRun (passWord 2)) 127) ∧ CoreClean (coreAt (vecRun 1) 127) :=
  ⟨clean_core _ rfl rfl rfl, clean_core _ rfl rfl rfl⟩

theorem witness_ArrayPassesFillAccumulatorRows :
    issuesB (geoRun (passWord 2)) 127 (passWord 2) = true ∧ insnOp (passWord 2) = 2 ∧
    issuesB (geoRun (passWord 3)) 127 (passWord 3) = true ∧ insnOp (passWord 3) = 3 ∧
    vectorsOf (passWord 2) 0 = 4 ∧ vectorsOf (passWord 2) 1 = 0 ∧ accBase (passWord 2) = 252 := by decide +kernel

theorem witness_IntegerOutputsAreExactToHalfAStep :
    pairFp (passWord 2) = false ∧ (requantInt 5 0 1 1).1 = 2 ∧ (requantInt 7 0 1 1).1 = 4 ∧
    (requantInt 2147483647 1 (-16) 1).2.acc = 1 ∧ (requantInt 2147483647 0 31 1).1 = 1 ∧
    (requantInt 255 0 0 1).2.out = 1 := by decide +kernel

/-- A crop record's list with CAP 1 and COUNT `n`. -/
def cropList (n : Byte) : List Host.Cell :=
  (if n = 0 then [] else [⟨granaryBase, n⟩]) ++ [⟨granaryBase + 4, 1⟩]

theorem witness_PoolAndCropWriteTheirTiles :
    (issuesB (geoRun poolWord) 127 poolWord = true ∧ insnOp poolWord = 4 ∧ poolGlobal poolWord = false ∧
      (let g := poolGeo (geoRun poolWord) 127 poolWord
       let taps := poolTaps poolWord g 1 1
       poolRows poolWord g = 2 ∧ poolCols poolWord g = 2 ∧ taps.length = 4 ∧ poolDivisor poolWord g taps.length ≠ 0 ∧
         poolSrc (geoRun poolWord) 127 poolWord + poolBlocks poolWord * g.bandH * g.row ≤ poolDst (geoRun poolWord) 127 poolWord)) ∧
    (let s := areaRun (cropList 0) (coreRun 5)
     issuesB s 127 5 = true ∧ insnOp 5 = 5 ∧ cropEntry s 127 5 = 0) ∧
    (let w := 5 + 2 ^ 52
     issuesB (areaRun (cropList 1) (coreRun w)) 127 w = true ∧ w.testBit 52 = true) := by decide +kernel

theorem witness_PoolAndCropWriteTheirTiles_region :
    (let s := areaRun (cropList 1) (coreRun 5)
     (regionOf (coreXctx s 127) (insnCrop s 5) (listCap s (insnCrop s 5)) 0 0 s).1.isSome = true) ∧
    (let s := areaRun (cropList 0) (coreRun 5)
     (regionOf (coreXctx s 127) (insnCrop s 5) (listCap s (insnCrop s 5)) 0 0 s).1 = none) := by decide +kernel

def elementwiseFuncs : List Nat :=
  [0, 1, 2, 3, 4, 5, 6, 8, 9, 0xA, 0xB, 0xC, 0xD, 0x10, 0x11, 0x12, 0x13, 0x14, 0x18, 0x19, 0x1A, 0x1B, 0x1C, 0x1D, 0x1E,
   0x1F, 0x20]

theorem witness_ElementwiseVecWritesItsLanes :
    (elementwiseFuncs.all fun f => issuesB (vecRun f) 127 (vecWord f)) = true ∧
    wellFormed (.vecAdd 127 (BitVec.ofNat 128 (vecWord 1))) = true ∧ wellFormed (.vecGelu 127 (BitVec.ofNat 128 (vecWord 0x20))) = true ∧
    vecTotal (vecWord 1) = 8 := by decide +kernel

/-- `vecWord`, with axis 1 in IMM. -/
def alongWidth (func : Nat) : Nat := vecWord func + 2 ^ 116
def widthRun (func : Nat) : State := coreProg [(0, alongWidth func), (16, 2 + 3 * 2 ^ 32 + 8 * 2 ^ 64 + 4 * 2 ^ 96)] { seq := { pb := 16 } }

theorem witness_TensorVecWritesOnlyItsDestination :
    ([0x21, 0x22, 0x31, 0x38, 0x39, 0x3A, 0x3B, 0x40, 0x41].all fun f => issuesB (vecRun f) 127 (vecWord f)) = true ∧
    ([0x28, 0x29, 0x2A, 0x2B].all fun f => issuesB (widthRun f) 127 (alongWidth f)) = true ∧
    issuesB (coreProg [(0, vecWord 0x30)] { seq := { pb := 16 } }) 127 (vecWord 0x30) = true ∧
    wellFormed (.vecTranspose 127 (BitVec.ofNat 128 (vecWord 0x39))) = true ∧
    32 * (boxParams (vecRun 0x40) 127).geom + 32 ≤ 0x20000000 ∧
    (let d := dimsOut (vecRun 0x39) 127 (vecWord 0x39)
     0 < d.c ∧ 0 < d.h ∧ 0 < d.w) ∧ fmtIn (vecWord 0x38) = fmtOut (vecWord 0x38) ∧ axisOf (vecWord 0x3A) = 0 ∧
    (let s := vecRun 0x3B
     let w := vecWord 0x3B
     axisOf w = 0 ∧ vparam s 127 3 ≤ (dimsIn s 127 w).c ∧
       vecB s 127 w + dimsBytes (dimsSecond s 127 w) ≤ vecDst s 127 w) := by decide +kernel

/-- Top-k issues whatever axis the hardware takes it along. -/
theorem witness_TensorVecWritesOnlyItsDestination_topK : issuesB (vecRun 0x2C) 127 (vecWord 0x2C) = true := by
  have outs : reduceOuts (vecWord 0x2C) = 1 ∨ reduceOuts (vecWord 0x2C) = 8 := by
    unfold reduceOuts channelSpan
    rw [show vecCount (vecWord 0x2C) = 1 by decide +kernel, show lineLen (vecWord 0x2C) = 8 by decide +kernel]
    split
    · left; rw [show max 1 (min 1 (Config.channelBlocks (vecWord 0x2C))) = 1 by omega]; decide
    · exact .inr rfl
  have fits : ∀ k, k = 1 ∨ k = 8 → beyond 0x100000 3 ((vecSources (vecRun 0x2C) 127 (vecWord 0x2C) ++
      [vecDst (vecRun 0x2C) 127 (vecWord 0x2C) + flatBytes (fmtOut (vecWord 0x2C)) (2 * k * (vecImm (vecWord 0x2C) + 1))]).foldl
        max 0) = none := by
    rintro _ (rfl | rfl) <;> decide +kernel
  have ends : vecEnds (vecRun 0x2C) 127 (vecWord 0x2C) = vecSources (vecRun 0x2C) 127 (vecWord 0x2C) ++
      [vecDst (vecRun 0x2C) 127 (vecWord 0x2C) + flatBytes (fmtOut (vecWord 0x2C))
        (2 * reduceOuts (vecWord 0x2C) * (vecImm (vecWord 0x2C) + 1))] := by
    rw [vecEnds, vecTargets, show vecFunc (vecWord 0x2C) = 0x2C by decide +kernel]
    rfl
  have params : (if vecFunc (vecWord 0x2C) < 0x21 then none
      else checkProg (coreAt (vecRun 0x2C) 127).seq.pb (paramProg (vecWord 0x2C))) = none := by decide +kernel
  have others : firstBad (vecRun 0x2C) 127 (vecWord 0x2C) (checkVec.drop 2) = none := by decide +kernel
  have cons : ∀ (c : Check) r, c (vecRun 0x2C) 127 (vecWord 0x2C) = none →
      firstBad (vecRun 0x2C) 127 (vecWord 0x2C) r = none → firstBad (vecRun 0x2C) 127 (vecWord 0x2C) (c :: r) = none :=
    fun c r h k => by simp only [firstBad, h, k]
  have first : firstBad (vecRun 0x2C) 127 (vecWord 0x2C) checkVec = none := by
    refine cons _ _ params (cons _ _ ?_ others)
    simp only [ends]
    exact fits _ outs
  have rest : (atWordB (vecRun 0x2C) 127 (vecWord 0x2C) && (badField (vecWord 0x2C)).isNone &&
      issues (vecRun 0x2C) 127 (vecWord 0x2C)) = true := by decide +kernel
  simp only [Bool.and_eq_true] at rest
  have ofOp : checksOf (vecWord 0x2C) = checkVec := by
    unfold checksOf; rw [show insnOp (vecWord 0x2C) = 6 by decide +kernel]; rfl
  unfold issuesB
  rw [rest.1.1, rest.1.2, rest.2, ofOp, first]
  rfl

theorem witness_SuppressionKeepsSeparateBoxes :
    (nmsLoop fpZero 1 false [[1], [2]] []).1 = [[1]] ∧ (nmsLoop fpZero 1 false [[1], [2]] []).2 = 1 := by decide +kernel

/-! ### The track store, records, compute resets -/

/-- The track-store action of slot 0 runs operation `op`. -/
def trackOp (op : Nat) (b : Bell) : State :=
  let s := inRound 100 { b with
    actions := [{ act .track 1000 with slot := 0 }], areas := slotsOf [BitVec.ofNat 4096 op <<< 3776] }
  { s with trk := { s.trk with busy := true } }

theorem witness_TrackStoreOperationsComplete :
    trackRuns ringUp 1 = none ∧ trackRuns (trackOp 1 {}) 1 = some 0 ∧ trackRuns (trackOp 2 {}) 2 = some 0 ∧
    trackRuns (trackOp 3 {}) 3 = some 0 ∧ trackRuns (trackOp 3 { emitRan := true }) 3 = some 0 ∧
    trackRuns (trackOp 3 {}) 2 = none := by decide +kernel

theorem witness_TrackStoreOperationsComplete_frames (c : Nat) : analysedFrames (trackOp 2 {}) c = [] := by
  have h : ∀ d, tracked (trackOp 2 {}) d = none := fun d => by simp [tracked, trackOp, streamAt, inRound, ringUp, up, State.reset, getAt, trackedNet]
  unfold analysedFrames; rw [h]

def track1 : Track :=
  { ctx := 7, cls := 0, created := 0, firstSeq := 1, lastSeq := 5, hits := 1, misses := 2, hpos := 0, conf := 0,
    box := [0, 0, 0, 0], vel := [0, 0, 0, 0], hist := [(0, false), (1, true)], missSeq := 0 }

def tracksUp (l : SMap Track) (head free : Nat) : State :=
  let s := streamUp { state := .running, histFree := free }
  { s with trk := { s.trk with tracks := l, headroom := head } }

theorem witness_TracksJoinGrowAndLeave :
    (let s := tracksUp [(0x1FFFF, track1)] 1 4
     findAt 0x1FFFF s.trk.tracks = some track1 ∧ track1.missSeq.toNat ≠ 6 ∧ (3 : Nat) ≤ (satAddW track1.misses 1).toNat ∧
       (satAddW track1.misses 1).toNat < 4 ∧ holds (streamAt s 7).state = true ∧ track1.lastSeq.toNat = 5 ∧
       track1.lastSeq.toNat ≠ 6) ∧
    track1.hist.length < 3 ∧ 2 ≤ track1.hist.length ∧ track1.hist.length < 4 ∧ (0 : Nat) < 1 ∧
    (let s := tracksUp [(0, track1)] 0 4
     let ids := s.trk.tracks.map (·.1)
     s.trk.headroom = 0 ∧ 1 ∉ ids ∧ (∀ k, k < 1 → k ∈ ids) ∧ 4 ≤ (streamAt s 7).histFree ∧ (streamAt s 7).histFree < 5) := by
  decide +kernel

/-- A record of stream 7 that waits for ring 0. -/
def rec1 : QRec := { ctx := 7, bytes := 1 :: List.replicate 63 0, made := 500 }

def recordsUp (m : MetaRing) (b : Bell) : State :=
  { streamUp { state := .running } with cmd := { oneRing with mr := [(0, m)] }, bell := b }

def dgUp (d : DgDest) (pauseUntil : Nat) : State :=
  { inRound 125000 {} with dests := [(63, d)], ports := [(0, { linkUp := true, pauseUntil })] }

theorem witness_RecordsLeaveByRingAndDatagram :
    (mrAt (refreshMr 0 (recordsUp {} {})) 0).queue = [] ∧
    (let s := refreshMr 0 (recordsUp { enable := true, sizeLog2 := 5, credit := 1, tail := 31, queue := [rec1] } {})
     (mrAt s 0).queue = [rec1] ∧ 1 ≤ mrUsable s 0 ∧ egressDue s rec1 = true ∧ (mrAt s 0).tail < ringSize (mrAt s 0).sizeLog2) ∧
    (let q := { rec1 with ext := some ([], 1) }
     let s := refreshMr 0 (recordsUp { enable := true, sizeLog2 := 5, credit := 1, queue := [q] } {})
     mrUsable s 0 < 2 ∧ ((mrAt s 0).queue.head?.elim false (·.ext.isSome)) = true) ∧
    (let s := refreshMr 0 (recordsUp { enable := true, sizeLog2 := 5, credit := 1, queue := [rec1] } { running := true, roundStart := 500 })
     egressDue s rec1 = false) ∧
    ((destAt (dgUp {} 0) 63).enable = false ∧ (destAt (dgUp { enable := true } 0) 63).resolved = false) ∧
    (let d : DgDest := { enable := true, resolved := true, queue := [rec1] }
     let s := dgUp d 1125000
     (takeDatagram s d.queue (datagramCap s d)).1 = [rec1] ∧ (portAt s 0).pauseUntil ≤ s.now ∧ windowPassed s rec1.made = true) ∧
    (let d : DgDest := { enable := true, resolved := true, queue := [{ rec1 with made := 1000000, bytes := 2 :: List.replicate 63 0 }] }
     let s := { dgUp d 0 with now := 1124999 }
     windowPassed s 1000000 = false ∧ (takeDatagram s d.queue (datagramCap s d)).2 = [] ∧
       (takeDatagram s d.queue (datagramCap s d)).1 ≠ [] ∧ s.now < (portAt (dgUp d 1125000) 0).pauseUntil) := by decide +kernel

def resetting (at_ : Nat) (stuck : Bool) : State := { ringUp with
  now := 312500
  flt := { ringUp.flt with reset := some { at_, suspects := [.track 2], layerRan := none, seq := 1 }, stuck } }

theorem witness_ComputeResetsRunAndEnd :
    (ringUp.flt.reset = none ∧ ringUp.pwr.exit_ = none ∧ ringUp.pwr.aonLow = false) ∧
    ((resetting 0 false).flt.reset.isSome = true ∧ (resetting 0 false).flt.stuck = false ∧ (0 : Nat) + 312500 ≤ (resetting 0 false).now ∧
      (resetting 1 false).now < 1 + 312500 ∧ (resetting 0 false).flt.oos = false) ∧
    (resetting 0 true).flt.stuck = true ∧
    ({ ringUp with pwr := { ringUp.pwr with aonLow := true } } : State).pwr.aonLow = true ∧
    (∀ z ∈ (resetting 0 false).flt.replaying, sameSuspect z (.track 2) = false) ∧
    (ringUp.flt.psram.length + ringUp.flt.staging.length ≤ 16384) := by decide +kernel

/-! ### Registers, the wire, link and function states -/

theorem witness_HostAccessesFollowTheirType :
    inReset ringUp = false ∧ linkSpeaks ringUp = true ∧ hostAccess ringUp = true ∧
    (let s := { ringUp with link := { ringUp.link with command := 4 } }
     inReset s = false ∧ linkSpeaks s = true ∧ hostAccess s = false) ∧
    ([0x10, 0x14, 0x40F00, 0x260004].all fun o => shellUp ringUp (regDomain o)) = true ∧
    (let s := { ringUp with pwr := { ringUp.pwr with on := [264] } }
     shellUp s (regDomain 0x20040) = true) ∧
    blockOf 0xFFFFFC = none ∧ shellUp ringUp (regDomain 0xFFFFFC) = true := by decide +kernel

/-- The wire may be asserted; CMD_ERR is pending and not masked. -/
def wireReady : State := { ringUp with
  now := 3000, cmd := { oneRing with badSize := true }, glb := { ringUp.glb with mask := 0xFFB, timerStart := some 1750, coalTime := 1 } }

theorem witness_InterruptWireFollowsItsConditions :
    (wireReady.glb.timerStart = some 1750 ∧ wireReady.glb.coalTime ≠ 0 ∧ 1750 + 1250 * wireReady.glb.coalTime.toNat ≤ wireReady.now ∧
      wireReady.glb.wire = false ∧ wireAllowed wireReady = true ∧ unmasked wireReady ≠ 0) ∧
    (let s := { wireReady with now := 2999 }
     s.now < 1750 + 1250 * s.glb.coalTime.toNat) ∧ ringUp.glb.timerStart = none ∧
    (let s := { wireReady with link := { wireReady.link with command := 0x406 } }
     wireAllowed s = false ∧ s.link.flr = false ∧ s.link.state ≠ .detect ∧ s.link.state ≠ .l2 ∧ s.link.command.getLsbD 10 = true ∧
       s.link.d3hot = false ∧ linkSpeaks s = true ∧ unmasked s ≠ 0 ∧ (6 : BitVec 16).getLsbD 10 = false) ∧
    (let s := { wireReady with glb := { wireReady.glb with wire := true } }
     s.glb.wire = true ∧ linkSpeaks s = true ∧ (0x406 : BitVec 16).getLsbD 10 = true) := by decide +kernel

theorem witness_LinkAndDevicePowerStates :
    (State.reset.link.state = .detect ∧ State.reset.link.refclk = true) ∧
    (ringUp.link.state = .l0 ∧ anyHolds ringUp = false ∧ hostBusy ringUp = false ∧ isSurprise ringUp = true ∧
      linkSpeaks ringUp = true ∧ inReset ringUp = false ∧ configReached ringUp = true ∧ ringUp.link.d3hot = false) ∧
    anyHolds (streamUp { state := .truant }) = true ∧
    isSurprise { ringUp with link := { ringUp.link with narrow := true } } = false ∧
    (let s := { wireReady with link := { wireReady.link with state := .detect } }
     s.link.state = .detect ∧ s.link.refclk = true ∧ inReset s = false ∧
       wireAllowed { s with link := { s.link with state := .l0 } } = true ∧ s.glb.wire = false ∧ unmasked s ≠ 0) ∧
    (let s := { ringUp with link := { ringUp.link with d3hot := true } }
     configReached s = true ∧ s.link.d3hot = true) ∧
    ({ ringUp with link := { ringUp.link with refclk := false } } : State).link.refclk = false := by decide +kernel

theorem witness_ResetsKeepWhatTheRulesSay :
    State.reset.board.perst = true ∧ State.reset.board.pwrgd = true ∧ State.reset.board.railHold = false ∧
    State.reset.board.thermTrip = false ∧
    ringUp.board.perst = false ∧ isSurprise ringUp = true ∧ ringUp.link.state ≠ .l2 ∧
    (let s := { State.reset with board := { State.reset.board with removalNext := true, wakeN := true } }
     s.board.perst = true ∧ s.board.removalNext = true ∧ s.board.wakeN = true) ∧
    (let s := { State.reset with board := { State.reset.board with perst := false } }
     s.link.crs = true ∧ inReset s = false) ∧
    (let s := { State.reset with board := { State.reset.board with pwrgd := false } }
     s.board.pwrgd = false) ∧
    ((3 : BitVec 4) ∈ [(9 : BitVec 4), 3] ∧ mainRail 3 = true ∧ mainRail 9 = false ∧ mainRail 8 = true ∧ mainRail 10 = true ∧
      mainRail 11 = false) ∧
    configReached ringUp = true ∧
    (let s := { ringUp with link := { ringUp.link with flr := true } }
     s.link.flr = true ∧ s.fw.record ≠ 5 ∧ s.pwr.recess = false) ∧
    (let s := { ringUp with link := { ringUp.link with flr := true }, pwr := { ringUp.pwr with recess := true } }
     s.link.flr = true ∧ s.pwr.recess = true) := by decide +kernel

/-- Temperatures of 25 degrees but for the compute die. -/
def die (t : Int) : Temps := { compute := t, base := 250, hbm0 := 250, hbm1 := 250, hbm2 := 250, hbm3 := 250 }

def hot (t : Tel) : State := { streamUp { state := .running } with tel := t, now := 125000000 }

theorem witness_SlotAssistAndThermalLevels :
    (ringUp.slot.present = true ∧ inReset ringUp = false ∧ isSurprise ringUp = true ∧ inReset State.reset = true) ∧
    ({ ringUp with slot := { ringUp.slot with present := false } } : State).slot.present = false ∧
    (let s := { ringUp with link := { ringUp.link with d3hot := true } }
     inReset s = false ∧ s.link.d3hot = true ∧ linkSpeaks s = true) ∧
    (let s := { State.reset with board := { State.reset.board with pwrgd := false }, link := { State.reset.link with pmeEn := true } }
     s.board.pwrgd = false ∧ s.link.pmeEn = true) ∧
    (1000 ≤ (die 1000).compute ∧ ¬ 1000 ≤ (die 999).compute ∧ 950 ≤ (die 999).compute ∧ ¬ 950 ≤ (die 949).compute ∧
      ¬ 950 ≤ (die 949).hbm3 ∧ 951 ≤ (die 951).compute ∧ (hot {}).tel.level.toNat < 2 ∧ anyHolds ringUp = false) ∧
    (let s := hot { level := 2, shedAt := some 0 }
     s.tel.shedAt = some 0 ∧ s.tel.level = 2 ∧ s.flt.reset = none ∧ 0 + 125000000 ≤ s.now ∧ anyHolds s = true ∧
       (firstToShed ((holders s).filter fun e => !s.bell.shedDue.any fun d => d.1.toNat == e.1)).isSome = true) ∧
    (let s := hot { temps := die 1150 }
     s.board.thermTrip = false ∧ s.board.pwrgd = true ∧ 1150 ≤ s.tel.temps.compute) := by decide +kernel

/-! ### Ingest -/

/-- An RTP packet of payload type 96 for any station, with sequence number 100. -/
def frame0 : Frame :=
  { fcsOk := true, length := 64, tags := 1, dstMac := 0xFFFFFFFFFFFF, vlan := 0, etherType := 0x0800, ipVersion := 4, ihl := 5
    ipChecksumOk := true, extBytes := 0, extOther := false, fragment := false, proto := 17, udpChecksumZero := true
    udpChecksumOk := false, srcIp := 1, dstIp := 2, srcPort := 5004, dstPort := 5006, payload := [], ssrc := 9, version := 2
    second := 96, seq := 100, ts := 7, marker := false, payloadOffset := 0, payloadLength := 0, formatOk := true, begins := true
    refFree := true, rtcpNtp := 0, rtcpTs := 0, srtpIndex := 0 }

/-- Port 0 is up; stream 7 as given, its key in the stash of the flow table. -/
def portUp (p : Port) (st : Stream) : State := { inRound 100 {} with
  ports := [(0, { p with linkUp := true })]
  streams := [(7, st)]
  flow := { stash := [(packetKey 0 frame0 5004 5006, 7)] } }

theorem broadcast_accepted (s : State) (n : Nat) : macAccepted s n 0xFFFFFFFFFFFF = true := by simp [macAccepted]

/-- What R86 asks of a frame besides its address. -/
def taken (f : Frame) : Bool := f.fcsOk && decide (64 ≤ f.length) && decide (f.length ≤ ({} : Port).mtu + 22) && decide (f.tags ≤ 1)

def placed0 (seq : BitVec 16) (arrived : Nat) : Placed :=
  { seq, ts := 7, marker := true, begins := true, refFree := true, bytes := 0, oversize := false, arrived, blocks := [] }

def rtpStream (ro : Reorder) : Stream := { state := .running, op := { pt := 96 }, ro }

theorem witness_ReceivedFramesAreCheckedInOrder :
    (portAt ringUp 0).linkUp = false ∧ (portAt (portUp {} {}) 0).linkUp = true ∧ (portAt (portUp {} {}) 0).mtu = ({} : Port).mtu ∧
    ([frame0, { frame0 with length := 1522 }].all taken) = true ∧
    ([{ frame0 with fcsOk := false }, { frame0 with length := 63 }, { frame0 with length := 1523 }, { frame0 with tags := 2 }].all
      fun f => !taken f) = true ∧
    ipAccepted frame0 = true ∧ ipAccepted { frame0 with ihl := 4 } = false ∧ controlProto 58 = true ∧ controlProto 17 = false ∧
    udpAccepted frame0 = true ∧ udpAccepted { frame0 with udpChecksumZero := false } = false ∧
    flowOf (portUp {} {}) 0 frame0 = some 7 ∧ flowOf (inRound 100 {}) 0 frame0 = none ∧
    isRtcp frame0 = false ∧ ({ frame0 with second := 97 } : Frame).second.toNat % 128 ≠ (rtpStream {}).op.pt.toNat ∧
    frame0.second.toNat % 128 = (rtpStream {}).op.pt.toNat ∧
    (let s := portUp {} (rtpStream { base := some 101 })
     holds (streamAt s 7).state = true ∧ 65536 - 3072 ≤ seqPos 101 frame0.seq ∧ ¬ 65536 - 3072 ≤ seqPos 3173 frame0.seq) ∧
    (let s := portUp {} (rtpStream { base := some 100, window := [placed0 100 0] })
     seqPos 100 frame0.seq < 1024 ∧ ((streamAt s 7).ro.window.any fun q => q.seq == frame0.seq) = true ∧
       ¬ seqPos 100 1124 < 1024) := by decide +kernel

theorem witness_ReceivedFramesAreCheckedInOrder_expiry :
    (let s := portUp {} (rtpStream { base := some 99, needBegin := false, window := [placed0 100 375100] })
     nextAu 99 (streamAt s 7).ro = some { first := 0, last := 1, ts := 7, whole := false } ∧
       waitStart (streamAt s 7).ro { first := 0, last := 1, ts := 7, whole := false } = some 375100 ∧
       375100 + jitterFc s ≤ s.now ∧ s.now < 375101 + jitterFc s) := by decide +kernel

theorem witness_PortAndStreamEvents :
    (portAt (portUp {} {}) 0).linkUp = true ∧
    ((portUp {} {}).now / 1250000000 = 0 ∧ (10000 : Nat) ≤ (portAt (portUp { controlCount := 10000 } {}) 0).controlCount ∧
      (portAt (portUp { controlCount := 9999 } {}) 0).controlCount < 10000) ∧
    (let s := { portUp { mode := 1 } {} with pwr := { ringUp.pwr with on := [264] } }
     s.pwr.on.contains 264 = true ∧ (portAt s 0).mode ≠ 0 ∧ (portAt s 0).linkUp = true) ∧
    (let s := { streamUp { state := .running } with now := 3750000000 }
     (streamAt s 7).state = .running ∧
       1250000000000 * (streamAt s 7).ad.truantFrames ≤ (s.now - (streamAt s 7).clk.lastDone) * (streamAt s 7).ad.frameRate) ∧
    holds (streamAt ringUp 7).state = false ∧ ringUp.flow.moveDue = false ∧
    (let s := { portUp {} {} with flow := { (portUp {} {}).flow with moveDue := true } }
     s.flow.moveDue = true ∧ s.flow.stash.length = 1) ∧
    maxStage ringUp < 3 ∧
    (let s := { streamUp { state := .running } with pools := [(1, { stage := 3 })] }
     3 ≤ maxStage s ∧ s.bell.stageShed ≠ some (mgmtStep s) ∧ stage3Stream s = some 7 ∧
       ({ s.bell with stageShed := some 0 } : Bell).stageShed = some (mgmtStep s)) := by decide +kernel

def hostStream (maxAu : Nat) : State := streamUp { state := .running, op := { source := 2 }, ad := { maxAu } }
def srtpStream : State := streamUp { state := .opened, op := { srtp := true } }

/-- A pushed access unit of one granule, landed. -/
def pushed : Transfer := { desc := 0, total := 1, done := 1, cls := 3, owner := 5 }
def auOf : AuPush := { bytes := 4096, ts := 3, capture := 0, discontinuity := true }
def pushedUp : State :=
  let s := hostStream 4096
  { s with
    mem := { s.mem with host := [(2, [pushed])] }
    cmd := { oneRing with outstanding := [{ waiting 0x40 .transfer with au := some auOf }] } }

theorem witness_IngestCommands :
    (readyB ringUp 0 pPort = true ∧ wellFormed (.portConfigPort 0 pPort) = true ∧ ringUp.pwr.recess = false) ∧
    (let s := { ringUp with pwr := { ringUp.pwr with recess := true } }
     readyB s 0 pPort = true ∧ s.pwr.recess = true) ∧
    (readyB ringUp 0 pDatagram = true ∧ wellFormed (.portConfigDatagram 0 pDatagram) = true) ∧
    (readyB ringUp 0 pKey = true ∧ pKey.opcode = 0x0C ∧ (streamAt ringUp 7).op.srtp = false) ∧
    (readyB srtpStream 0 pKey = true ∧ (streamAt srtpStream 7).op.srtp = true ∧ (streamAt srtpStream 7).state = .opened ∧
      unwrapKey (fetchedOf srtpStream 0 pKey) [] = none) ∧
    (readyB ringUp 0 pPush = true ∧ pPush.opcode = 0x40 ∧ (streamAt ringUp 7).state = .closed) ∧
    (readyB srtpStream 0 pPush = true ∧ (streamAt srtpStream 7).state ≠ .closed ∧ (streamAt srtpStream 7).state ≠ .faulted ∧
      (streamAt srtpStream 7).op.source ≠ 2) ∧
    (readyB (hostStream 4096) 0 pPush = true ∧ holds (streamAt (hostStream 4096) 7).state = true ∧
      (streamAt (hostStream 4096) 7).op.source = 2 ∧ param pPush 16 4 ≤ (streamAt (hostStream 4096) 7).ad.maxAu ∧
      (poolAlloc 3 7 (ceilDiv (param pPush 16 4) 4096) (fetch 0 (hostStream 4096))).1 = some [0]) ∧
    (let p := pk 0x40 (fld 8 0x1000 + fld 16 0x1001000)
     let s := hostStream 0x1001000
     readyB s 0 p = true ∧ param p 16 4 ≤ (streamAt s 7).ad.maxAu ∧
       (poolAlloc 3 7 (ceilDiv (param p 16 4) 4096) (fetch 0 s)).1 = none) ∧
    ((getAt [] (pushEngine 0) pushedUp.mem.host).find? (fun t => t.cls == 3 &&
        t.owner.toNat == (5 : BitVec 16).toNat + 65536 * (0 : BitVec 6).toNat && decide (t.total ≤ t.done)) = some pushed ∧
      (pushedUp.cmd.outstanding.find? (fun o => o.ring == 0 && o.tag == 5 && o.cause == .transfer && o.au.isSome)).map (·.au) =
        some (some auOf)) := by decide +kernel

/-- KEY_LOAD of suite 0 with a wrapped key of 139 bytes, all zero but for its version. -/
def pKey139 : Packet := pk 0x0C (fld 24 0x1000 + fld 32 139)
def wrapped0 : List Byte := [1, 0] ++ List.replicate 137 0

/-- A wrapped key that unwraps, whatever the key of Proctor is. -/
theorem witness_IngestCommands_unwraps
    (h : Config.keyUnwrap (List.replicate 97 0) 7 0 (List.replicate 40 0) = some (List.replicate 32 0)) :
    unwrapKey (fetchedOf srtpStream 0 pKey139) wrapped0 = some (List.replicate 30 0) := by
  have h8 : param (fetchedOf srtpStream 0 pKey139).p 8 1 = 0 := by decide +kernel
  have h9 : param (fetchedOf srtpStream 0 pKey139).p 9 1 = 0 := by decide +kernel
  have hn : param (fetchedOf srtpStream 0 pKey139).p 32 4 = 139 := by decide +kernel
  have hc : (fetchedOf srtpStream 0 pKey139).ctx = 7 := by decide +kernel
  have hp : padTo 139 wrapped0 = wrapped0 := by decide +kernel
  have hx : (wrapped0.drop 2).take 97 = List.replicate 97 0 := by decide +kernel
  have hw : (wrapped0.drop 99).take (wrappedBytes 0) = List.replicate 40 0 := by decide +kernel
  unfold unwrapKey
  simp only [h8, h9, hn, hc, hp, hx, hw]
  rw [if_neg (by decide +kernel)]
  change (match Config.keyUnwrap (List.replicate 97 0) 7 0 (List.replicate 40 0) with
    | none => none | some m => _) = _
  rw [h]
  decide +kernel

/-! ### Decoding and preparation -/

def block1 : BlockFacts := { bareBlock with covered := true, intra := true }
def picOf (coded : Bool) (active : Option Nat) : PicFacts :=
  { coded, stored := [{ id := 1, width := 16, height := 16, bitDepth := 8, chroma := 0, matrix := 0, fullRange := false }], active
    profileMismatch := false, intraOnly := true, outPos := 0, blocks := [block1], kept := [], isRef := true, cycles := 0, luma := [], chroma := [] }

def outcomeOf (poison : List Nat) (blocks : List BlockFacts) : Nat :=
  (decodeBlocks [] 0 false false (picOf true none) poison blocks).report.outcome.toNat

theorem witness_DecodeReportsFollowTheTable :
    outcomeOf [0] [block1] = 7 ∧ outcomeOf [] [bareBlock] = 6 ∧ outcomeOf [] [] = 6 ∧
    outcomeOf [] [block1, bareBlock] = 1 ∧ outcomeOf [] [block1] = 0 ∧
    (decodeBlocks [] 0 false false (picOf true none) [] [block1]).report.coverage = 255 ∧
    0 ∈ (decodeBlocks [] 0 false false (picOf true none) [] [bareBlock]).concealed := by decide +kernel

def frameOf (stage : FrameStage) : FrameRec :=
  { ctx := 7, seq := 4, ts := 3, capture := 0, round := 1, doneAt := 0, flags := 0, covered := true, stage }

def input0 : InputDesc :=
  { cropMode := 0, fit := 0, filter := 0, colour := 0, matrix := 0, range := 0, format := 0, fold := 1, x := 0, y := 0, w := 16
    h := 16, outW := 16, outH := 16, shift := [0, 0, 0], offset := [0, 0, 0], pad := [0, 0, 0], view := 0 }

/-- Stream 7 with one frame, `now` fc into the work region, after `refused` refused pictures in a row. -/
def videoUp (now refused : Nat) (stage : FrameStage) : State := { inRound (125000 + now) { roundSeq := 2 } with
  streams := [(7, { state := .running, ad := { networks := [1], maxW := 16, maxH := 16 }, dec := { refuseCount := refused } })]
  nets := [(1, { inputs := [input0] })]
  frames := [frameOf stage] }

def refusedAs (active : Option Nat) : Option Nat :=
  match refusalOf 0 (streamAt (videoUp 0 0 .waiting) 7).ad (storeSets [] (picOf true active).stored) (picOf true active) with
  | .error o => some o
  | .ok _ => none

theorem witness_VideoEnginesEndTheirPictures :
    decHead ringUp 0 = none ∧ prepHead ringUp 0 = none ∧
    decHead (videoUp 0 14 .waiting) 0 = some (frameOf .waiting) ∧ (frameOf .waiting).stage = .waiting ∧
    (streamAt (videoUp 0 14 .waiting) 7).dec.refuseCount + 1 < (videoUp 0 14 .waiting).refuseLimit.toNat ∧
    ¬ (streamAt (videoUp 0 15 .waiting) 7).dec.refuseCount + 1 < (videoUp 0 15 .waiting).refuseLimit.toNat ∧
    refusedAs (some 2) = some 2 ∧ refusedAs (some 1) = none ∧
    (let b := decBound (videoUp 0 0 .waiting) 7
     let s := videoUp b 0 .waiting
     s.pwr.exit_ = none ∧ decBound s 7 = b ∧ b ≤ s.now - decBegan s 0 (frameOf .waiting) ∧ 0 < b ∧
       (videoUp (b - 1) 0 .waiting).now - decBegan (videoUp (b - 1) 0 .waiting) 0 (frameOf .waiting) < b) ∧
    (let s := videoUp 0 0 .decoded
     prepHead s 0 = some (frameOf .decoded, false) ∧ 0 ∈ inputsLeft s false (frameOf .decoded) ∧
       (inputsOf s 7)[0]? = some input0) ∧
    (let b := prepBound (videoUp 0 0 .decoded) 7
     let s := videoUp b 0 .decoded
     prepBound s 7 = b ∧ b ≤ s.now - prepBegan s 0 (frameOf .decoded) ∧ 0 < b ∧
       (videoUp (b - 1) 0 .decoded).now - prepBegan (videoUp (b - 1) 0 .decoded) 0 (frameOf .decoded) < b) := by decide +kernel

/-! ### What every step keeps -/

theorem witness_EveryStepKeepsTheInvariants : Sys2Proof.Machine.Inv ringUp ∧ (∃ t, step { ringUp with pending := [.refclkReturn] } = .next t) := by
  refine ⟨?_, _, rfl⟩
  unfold Sys2Proof.Machine.Inv
  decide +kernel

theorem witness_StepsTakeExactlyOneCommand : ({ ringUp with pending := [.refclkReturn] } : State).pending = [.refclkReturn] ∧
    (∃ t, exec .refclkReturn ringUp = .next t) ∧ ∃ t, step { ringUp with pending := [.refclkReturn] } = .next t :=
  ⟨rfl, ⟨_, rfl⟩, _, rfl⟩

theorem witness_RollbackCountersOnlyRise :
    (let s := { ringUp with fw := { ringUp.fw with revoked := 1 }, pending := [.refclkReturn] }
     s.fw.revoked.getLsbD 0 = true ∧ ∃ t, step s = .next t) := ⟨by decide, _, rfl⟩

theorem witness_CoreBuffersStayCanonical :
    (let s := { ringUp with cores := [(5, {})], pending := [.refclkReturn] }
     (∀ e ∈ s.cores, e.2.act.wf = true ∧ e.2.wgt.wf = true) ∧ ∃ t, step s = .next t) := ⟨by decide, _, rfl⟩

/-! ### Further clauses -/

theorem witness_StepRunsTheFrontCommandOrPassesACycle_idle :
    (let s := { ringUp with now := 999999 }
     s.pending = [] ∧ (s.now + 1) % 1000000 = 0 ∧ (portAt s 0).held = [] ∧ (portAt s 1).held = []) ∧
    (let s := { ringUp with ports := [(0, { held := [({ port := 0 }, .resolve 1)], pauseUntil := 1001 })] }
     (s.now + 1) % 1000000 ≠ 0 ∧ (portAt s 0).held ≠ [] ∧ ¬ s.now + 1 < (portAt s 0).pauseUntil) := by decide +kernel

theorem witness_MaintenanceSelftestAndRestore_peek :
    (bankKept ringUp (param pPeek 8 8) = true ∧
      let s := { ringUp with pwr := { ringUp.pwr with on := [] } }
      bankKept s (param pPeek 8 8) = false ∧ sealedUnit s (param pPeek 8 8) = false ∧
        bankKept { s with pwr := { s.pwr with retained := [184 + 32] } } (param pPeek 8 8) = true) ∧
    (let p := pk 0x81 (fld 8 (31 * 0x800000))
     readyB ringUp 0 p = true ∧ sealedUnit ringUp (param p 8 8) = true) := by decide +kernel

/-- The first slot of a placed best-effort layer wakes group 0. -/
def gapUp (now base : Nat) : State :=
  inRound now { gap := some { until_ := 2000000, base := 1000000 + base, slots := [bareSlot 0 0] } }

theorem witness_DueSlotIssues_bestEffort :
    (let s := gapUp 100 101
     s.bell.running = true ∧ s.flt.reset = none ∧ s.jobs = [] ∧ gapJob s = none ∧ slotBarrier (bareSlot 0 0) = false ∧
       slotFits s (physOf s) (1000000 + 101 + slotStart (bareSlot 0 0)) false (bareSlot 0 0) = false) ∧
    (let s := gapUp 100 100
     slotFits s (physOf s) (1000000 + 100 + slotStart (bareSlot 0 0)) false (bareSlot 0 0) = true ∧ failedCounter s = none) := by
  decide +kernel

theorem witness_DueSlotIssues_retry : retryInputs (gapUp 100 100) = gapUp 100 100 := rfl

theorem witness_TimetableAreasAndCapacityFalls_pending :
    (let s := { ringUp with decEng := [(3, { retiring := true })], bell := { ringUp.bell with standby := { state := 2, area := 1 } } }
     isRetiring s .decode 3 = true ∧ pendingAdmits s = [] ∧ s.bell.standby.state = 2) ∧
    (let s := { busyRing 0x09 .boundary with
       decEng := [(3, { retiring := true })]
       streams := [(7, { state := .opened, ad := { engine := 3 } })]
       bell := { ringUp.bell with changes := [{ kind := .admission 7, cmd := some (0, 5) }] } }
     pendingAdmits s = [(7, some (0, 5))] ∧ servedBy .decode 3 (streamAt s 7).ad.engine = true) := by decide +kernel

theorem witness_MemoryUpkeep_panic :
    (let r : RefreshPorts := { waiting := true, levels := [(1, 64)] }
     r.levels = [(1, 64)] ∧ r.waiting = true) ∧
    (let s := { ringUp with mem := { ringUp.mem with rtPorts := [(1, { level := 64, panic := true })] } }
     inPanic s = true) := by decide +kernel

theorem witness_ParkActionsInvalidationAndBar2_banks :
    (let o : BitVec 29 := 32 * 0x800000
     let s := { ringUp with pwr := { ringUp.pwr with on := [] } }
     bankKept ringUp o.toNat = true ∧ hostAccess s = true ∧ bankKept s o.toNat = false ∧ sealedUnit s o.toNat = false ∧
       sealedUnit { s with mem := { s.mem with sealed := [o.toNat / 4096] } } o.toNat = true) := by decide +kernel

theorem witness_ClipsAreTakenStartedAndSent_hop :
    (let k := { clip1 with packets := [{ ts := 0, marker := true, payload := [1], blocks := [] }], dstIp := 0xE0 }
     let s := { clipUp [k] with ports := [(0, { linkUp := true })] }
     nextHop s k.port k.ipv6 k.dstIp ≠ 0) ∧
    (let s := { clipUp [clip1] with ports := [(0, { linkUp := true })] }
     nextHop s clip1.port false 5 = 0 ∧
       nextHop { s with ports := [(0, { linkUp := true, gateway4 := 9 })] } clip1.port false 5 = 9) := by decide +kernel

theorem witness_RecordsLeaveByRingAndDatagram_hop :
    (let d : DgDest := { enable := true, dstIp := 0xE0, queue := [{ rec1 with waitFrom := some 5 }] }
     d.enable = true ∧ d.resolved = false ∧ nextHop (dgUp d 0) d.port.toNat d.ipv6 d.dstIp ≠ 0) ∧
    nextHop (dgUp {} 0) 0 false 0 = 0 ∧
    (let s := { recordsUp { enable := true, sizeLog2 := 5, credit := 1, queue := [rec1] } {} with
       cmd := { oneRing with
         outstanding := [{ waiting 0x09 (.lastRecord 3) with ctx := 7 }]
         mr := [(0, { enable := true, sizeLog2 := 5, credit := 1, queue := [rec1] })] } }
     (takeRecord (refreshMr 0 s) (mrAt (refreshMr 0 s) 0).queue).isNone = true ∧ mayLeave s rec1 = false ∧
       mayLeave s { rec1 with old := true } = true) := by decide +kernel

theorem witness_HostAccessesFollowTheirType_pairs :
    (hostAccess ringUp = true ∧ inReset ringUp = false ∧ linkSpeaks ringUp = true ∧ configReached ringUp = true) ∧
    ((0xF0 : BitVec 8).extractLsb' 4 4 ≠ 0 ∧ (0x0F : BitVec 8).extractLsb' 4 4 = 0) ∧
    setIn 0x10 ringUp = 0 ∧
    (let s := hwSet 0x10 3 ringUp
     (setIn 0x10 s).getLsbD 3 = true) ∧
    (let s := { ringUp with
       ports := [(0, { rxFrames := 3 })]
       cyc := { ringUp.cyc with ports := [(0, { rxFrames := 2 })] } }
     (getAt ({} : Port) 0 s.cyc.ports).rxFrames = 2 ∧ (portAt s 0).rxFrames = 3) := by decide +kernel

theorem witness_ReceivedFramesAreCheckedInOrder_form :
    formatTaken 0 [0x59] = false ∧ formatTaken 0 [0x58] = true ∧ formatTaken 0 [0x65, 0x88] = true ∧
    (let s := portUp {} (rtpStream { base := some 100, flushed := some 7 })
     (streamAt s 7).ro.flushed = some frame0.ts) ∧
    (let s := portUp {} (rtpStream { base := some 100, candidate := none })
     (streamAt s 7).ro.candidate = none ∧ (streamAt s 7).op.srtp = false) := by decide +kernel

theorem witness_PortAndStreamEvents_held :
    (let p : Port := { ipv4 := 7, pauseUntil := 1000101, linkUp := true }
     let s := portUp p {}
     p.ipv4 ≠ 0 ∧ (7 : BitVec 32) = p.ipv4 ∧ s.now < (portAt s 0).pauseUntil ∧ ¬ s.now < (portAt (portUp {} {}) 0).pauseUntil) ∧
    (let p : Port := { held := [({ port := 0 }, .resolve 1)] }
     (portAt (portUp p {}) 0).linkUp = true ∧ (portAt (portUp p {}) 0).held ≠ []) := by decide +kernel

theorem witness_VideoEnginesEndTheirPictures_clean :
    (let s := videoUp 0 0 .waiting
     s.mem.dpa.syn = [] ∧ s.mem.substActive = false ∧ (readAu (frameOf .waiting) s).1 = false ∧ (streamAt s 7).ad.pages = [] ∧
       (picOf true (some 1)).hidden = [] ∧ refusedAs (some 1) = none) := by decide +kernel

/-- One core is retired, so that a core lies outside the mapping. -/
def oneRetired : State := { ringUp with cores := [(3, { retired := true })] }

theorem witness_AssembledAreasAreWhole :
    (∃ w, w ∈ (assemble false { idle := [], lanes := [], images := [], bestEffort := [] } oneRetired).slots) ∧
    3 < 128 ∧ 3 ∉ classCores (servedState false oneRetired) := by
  refine ⟨?_, by decide, by decide +kernel⟩
  simp only [assemble, areaSlots]
  exact ⟨_, List.mem_append_right _ (List.mem_singleton.mpr rfl)⟩

/-- R192, R193, R211, R212, R225: a template's slot at layer 3 from fc 125,000, its program behind 10 words, its cores mapped
one up. -/
def templateSlot : BitVec 4096 := BitVec.ofNat 4096 (7 + 2 ^ 192 * (1 + 2 ^ 8 * 3 + 2 ^ 16 * 4 + 2 ^ 32 * 900))

theorem test_template_is_placed :
    let w := placeSlot (· + 1) { net := 1, prog := 10, scale := 0, dma := 0, crop := 0, rowMap := 2 } 3 125000 templateSlot
    slotStart w = 125007 ∧ slotLayer w = 3 ∧ slotBatch w = 2 ∧ groupMask (slotGroup w 0) = 6 ∧
      groupEntry (slotGroup w 0) = 14 ∧ groupFinish (slotGroup w 0) = 900 ∧ slotGroup w 1 = 0 := by decide +kernel

/-- R199: a RUN at 1,420,000 that nothing woke gets a slot of its own with the WAKE at 1,410,000. -/
theorem test_wake_is_placed :
    ((withWakes [bareSlot 0 1400000, BitVec.ofNat 4096 (1420000 + 2 ^ (192 + 128 * 12) * (1 + 2 ^ 8 * 255))] []).map fun w =>
      (slotStart w, slotWake w)) = [(1420000, 0), (1410000, 2 ^ 12), (1400000, 0)] := by decide +kernel

/-- R201: a gap of 20 µs gets a GAP slot that ends where the next layer starts. -/
theorem test_gap_is_placed :
    (withGapEnds 4937500 (gapsBetween [{ start := 125000, stop := 200000, slots := [] },
      { start := 225000, stop := 300000, slots := [] }, { start := 324999, stop := 400000, slots := [] }]
      ++ [bareSlot 0 225000])).map (fun w => (slotKind w, slotStart w, slotGapEnd w)) =
      [(1, 200000, 225000), (0, 225000, 0)] := by decide +kernel

/-- R305: an uncorrectable word of a slot starts a compute reset with one FC_ECC_UE and leaves the position; a corrected one
lets the slot issue. -/
theorem test_error_in_a_slot :
    let s := inRound 4937500 {}
    let bad (y : BitVec 7) : State := { s with mem := { s.mem with dpa := { s.mem.dpa with syn := [(activeBase s + 4, y)] } } }
    (match execSlotIssue (bad 0x03) with
     | .next t => (t.flt.reset.isSome, t.bell.slot, t.flt.staging.map fun r => (r.code, r.scope, r.fflags)) | _ => (false, 9, []))
      = (true, 0, [(0x401, 4, 1)]) ∧
    (match execSlotIssue (bad 0x40) with
     | .next t => (t.flt.reset.isSome, t.bell.slot, t.mem.ce.toNat) | _ => (true, 9, 9)) = (false, 1, 1) := by decide +kernel

/-- R286: the pages of an image that an area still names stay mapped until the area is gone. -/
theorem test_pinned_pages_wait_for_the_area :
    let d := mkDesc 1 0 3 16 0 0 1 0 0
    let s := { ringUp with
      bell := { ringUp.bell with areas := [(2, { noArea with dma := [d] })] }
      mem := { ringUp.mem with usedPages := [5, 6], ptes := [(3 * 4096, 0xD)] } }
    let t := giveBack { xctx := 3, pages := [5] } s
    let u := releaseHeld { t with bell := { t.bell with areas := [] } }
    (t.mem.usedPages, t.mem.ptes.length, (releaseHeld t).mem.leaving.length) = ([5, 6], 1, 1) ∧
      (u.mem.usedPages, u.mem.ptes.length, u.mem.leaving.length) = ([6], 0, 0) := by decide +kernel

end Sys2Proof.Tests
end

/-! # The queue, and host accesses to registers

What one idle fast cycle does (R2, R45, R86, R215, R340), what host accesses leave alone, and what a register of each type
answers and takes (R7, R10, R11, R25, R343, R345). -/

namespace Sys2Proof.Machine

/-! ## Index maps whose every entry changes -/

theorem getAt_mapAt {α : Type} (f : α → α) (d : α) (k : Nat) :
    ∀ m : List (Nat × α), (findAt k m).isSome → getAt d k (mapAt f m) = f (getAt d k m)
  | [], h => by simp [findAt] at h
  | (j, v) :: r, h => by
    by_cases hj : j = k
    · simp [mapAt, getAt, hj]
    · have hr : (findAt k r).isSome := by simpa [findAt, hj] using h
      simpa [mapAt, getAt, hj] using getAt_mapAt f d k r hr

/-! ## What a PAUSE held (R86) -/

/-- Port `n` has nothing to send: no frame waits, or a PAUSE still holds it. -/
def TxIdle (s : State) (n : Nat) : Prop := (portAt s n).held = [] ∨ s.now < (portAt s n).pauseUntil

theorem portAt_setPort_ne {m n : Nat} (h : m ≠ n) (p : Port) (s : State) : portAt (setPort n p s) m = portAt s m :=
  getAt_putAt_ne _ _ h _

/-- Sending the frames that waited changes only what has been sent. -/
theorem foldl_sendControl_eq (l : List (TxHeader × ControlOut)) (s : State) :
    ∃ out, l.foldl (fun s e => send (.control e.1 e.2) s) s = { s with out } := by
  induction l generalizing s with
  | nil => exact ⟨s.out, rfl⟩
  | cons e r ih => exact ih (send (.control e.1 e.2) s)

/-- The end of a PAUSE changes the ports and what has been sent; another port stays as it is. -/
theorem releaseTx_eq (n : Nat) (s : State) :
    ∃ ports out, releaseTx n s = { s with ports, out } ∧ ∀ m, m ≠ n → getAt {} m ports = portAt s m := by
  unfold releaseTx
  dsimp only
  split
  · exact ⟨s.ports, s.out, rfl, fun _ _ => rfl⟩
  · obtain ⟨out, h⟩ := foldl_sendControl_eq (portAt s n).held (setPort n { portAt s n with held := [] } s)
    exact ⟨_, out, h, fun m hm => portAt_setPort_ne hm _ s⟩

theorem portAt_releaseTx_ne {m n : Nat} (h : m ≠ n) (s : State) : portAt (releaseTx n s) m = portAt s m := by
  obtain ⟨ports, out, heq, hports⟩ := releaseTx_eq n s
  rw [heq]
  exact hports m h

theorem releaseTx_of_idle {n : Nat} {s : State} (h : TxIdle s n) : releaseTx n s = s := by
  unfold releaseTx
  rcases h with h | h
  · simp [h]
  · simp [txPaused, h]

/-- Releasing one port does not change whether another is idle. -/
theorem txIdle_releaseTx_ne {m n : Nat} (h : m ≠ n) (s : State) : TxIdle (releaseTx n s) m ↔ TxIdle s m := by
  have hnow : (releaseTx n s).now = s.now := by obtain ⟨_, _, heq, _⟩ := releaseTx_eq n s; rw [heq]
  simp only [TxIdle, portAt_releaseTx_ne h, hnow]

/-! ## One idle fast cycle -/

/-- The instant after this one, counted, and sampled where it is a management step boundary. -/
def nextInstant (s : State) : State := sampleStep { countFc s with now := s.now + 1 }

theorem tick_eq_releaseTx (s : State) :
    tick s = { releaseTx 1 (releaseTx 0 (nextInstant s)) with
      cyc := startOf (releaseTx 1 (releaseTx 0 (nextInstant s))) } := rfl

/-- Away from a management step boundary an instant only counts. -/
theorem nextInstant_between {s : State} (h : (s.now + 1) % 1000000 ≠ 0) :
    nextInstant s = { countFc s with now := s.now + 1 } := if_neg h

/-- At a management step boundary streams and telemetry are sampled, and the longest stall of the step starts anew. -/
theorem nextInstant_boundary {s : State} (h : (s.now + 1) % 1000000 = 0) :
    ∃ sample, nextInstant s = { countFc s with
      now := s.now + 1
      streams := mapAt (fun (st : Stream) => { st with sampled := st.cnt }) s.streams
      tel := { s.tel with sample }
      pwr := { s.pwr with stallStep := 0 } } ∧ sample.step = (s.now + 1) / 1000000 :=
  ⟨telSample { countFc s with now := s.now + 1 }, if_pos h, rfl⟩

/-- All that an instant can change before the ports send. -/
theorem nextInstant_eq (s : State) : ∃ streams sample stallStep, nextInstant s = { countFc s with
    now := s.now + 1, streams, tel := { s.tel with sample }, pwr := { s.pwr with stallStep } } := by
  by_cases h : (s.now + 1) % 1000000 = 0
  · obtain ⟨sample, heq, -⟩ := nextInstant_boundary h
    exact ⟨_, sample, 0, heq⟩
  · exact ⟨s.streams, s.tel.sample, s.pwr.stallStep, nextInstant_between h⟩

/-- Releasing both ports changes the ports, what has been sent, and where the next fc counts from. -/
theorem tick_eq (s : State) : ∃ ports out cyc, tick s = { nextInstant s with ports, out, cyc } := by
  obtain ⟨_, _, h0, -⟩ := releaseTx_eq 0 (nextInstant s)
  obtain ⟨ports, out, h1, -⟩ := releaseTx_eq 1 (releaseTx 0 (nextInstant s))
  rw [tick_eq_releaseTx, h1, h0]
  exact ⟨ports, out, _, rfl⟩

@[simp] theorem tick_now (s : State) : (tick s).now = s.now + 1 := by
  obtain ⟨_, _, _, ht⟩ := tick_eq s
  obtain ⟨_, _, _, hn⟩ := nextInstant_eq s
  rw [ht, hn]

@[simp] theorem tick_bell (s : State) : (tick s).bell = (countFc s).bell := by
  obtain ⟨_, _, _, ht⟩ := tick_eq s
  obtain ⟨_, _, _, hn⟩ := nextInstant_eq s
  rw [ht, hn]

/-- An idle fast cycle changes nothing but what is named here. -/
theorem tick_frame (s : State) :
    tick s = { s with
      now := (tick s).now
      bell := { s.bell with beFc := (tick s).bell.beFc, wakeStall := (tick s).bell.wakeStall }
      streams := (tick s).streams
      tel := { s.tel with sample := (tick s).tel.sample }
      pwr := { s.pwr with stallStep := (tick s).pwr.stallStep }
      ports := (tick s).ports, out := (tick s).out, cyc := (tick s).cyc } := by
  obtain ⟨_, _, _, ht⟩ := tick_eq s
  obtain ⟨_, _, _, hn⟩ := nextInstant_eq s
  rw [ht, hn]
  rfl

theorem tick_between {s : State} (h : (s.now + 1) % 1000000 ≠ 0) :
    (tick s).streams = s.streams ∧ (tick s).tel = s.tel ∧ (tick s).pwr = s.pwr := by
  obtain ⟨_, _, _, ht⟩ := tick_eq s
  rw [ht, nextInstant_between h]
  exact ⟨rfl, rfl, rfl⟩

theorem tick_boundary {s : State} (h : (s.now + 1) % 1000000 = 0) :
    (tick s).tel.sample.step = mgmtStep (tick s) ∧ (tick s).pwr.stallStep = 0 ∧
      ∀ c, (findAt c s.streams).isSome →
        streamAt (tick s) c = { streamAt s c with sampled := (streamAt s c).cnt } := by
  obtain ⟨_, _, _, ht⟩ := tick_eq s
  obtain ⟨sample, hn, hstep⟩ := nextInstant_boundary h
  have hstreams : (tick s).streams = mapAt (fun (st : Stream) => { st with sampled := st.cnt }) s.streams := by
    rw [ht, hn]
  refine ⟨by rw [ht, hn]; exact hstep, by rw [ht, hn], fun c hc => ?_⟩
  rw [streamAt, hstreams, getAt_mapAt _ _ c s.streams hc]
  rfl

/-- A port is idle at the next instant exactly if nothing waits on it or its PAUSE outlasts that instant. -/
theorem txIdle_nextInstant (s : State) (n : Nat) :
    TxIdle (nextInstant s) n ↔ (portAt s n).held = [] ∨ s.now + 1 < (portAt s n).pauseUntil := by
  obtain ⟨_, _, _, hn⟩ := nextInstant_eq s
  rw [hn]
  rfl

theorem nextInstant_ports (s : State) : (nextInstant s).ports = s.ports := by
  obtain ⟨_, _, _, hn⟩ := nextInstant_eq s
  rw [hn]
  rfl

theorem nextInstant_out (s : State) : (nextInstant s).out = s.out := by
  obtain ⟨_, _, _, hn⟩ := nextInstant_eq s
  rw [hn]
  rfl

/-- A port without a frame that may go keeps all it holds. -/
theorem portAt_tick_of_idle {s : State} {n : Nat} (hn : n < 2) (h : TxIdle (nextInstant s) n) :
    portAt (tick s) n = portAt s n := by
  have hkept : portAt (nextInstant s) n = portAt s n := by simp only [portAt, nextInstant_ports]
  have hport : portAt (tick s) n = portAt (releaseTx 1 (releaseTx 0 (nextInstant s))) n := by
    simp only [portAt, tick_eq_releaseTx]
  rw [hport, ← hkept]
  obtain rfl | rfl : n = 0 ∨ n = 1 := by omega
  · rw [portAt_releaseTx_ne (by decide), releaseTx_of_idle h]
  · rw [releaseTx_of_idle ((txIdle_releaseTx_ne (by decide) _).mpr h), portAt_releaseTx_ne (by decide)]

/-- With both ports idle nothing is sent. -/
theorem tick_out_of_idle {s : State} (h0 : TxIdle (nextInstant s) 0) (h1 : TxIdle (nextInstant s) 1) :
    (tick s).out = s.out := by
  rw [tick_eq_releaseTx, releaseTx_of_idle h0, releaseTx_of_idle h1]
  exact nextInstant_out s

theorem step_of_pending {s : State} {c : Instr} {rest : List Instr} (h : s.pending = c :: rest) :
    step s = exec c { s with pending := rest } := by
  simp only [step, h]

theorem step_of_idle {s : State} (h : s.pending = []) : step s = .next (tick s) := by
  simp only [step, h]

/-- Settles O1: one lemma for each thing an idle fast cycle does. -/
theorem stepRunsTheFrontCommandOrPassesACycle : Obligations.StepRunsTheFrontCommandOrPassesACycle := by
  unfold Obligations.StepRunsTheFrontCommandOrPassesACycle
  refine ⟨fun s c rest => step_of_pending (s := { s with pending := c :: rest }) rfl,
    fun s hs => ⟨tick s, step_of_idle hs, tick_now s, tick_frame s, ?_⟩⟩
  simp only [tick_now, tick_bell, ← txIdle_nextInstant]
  exact ⟨rfl, rfl, tick_between, tick_boundary, fun n hn => portAt_tick_of_idle hn,
    fun h => tick_out_of_idle (h 0 (by decide)) (h 1 (by decide))⟩

end Sys2Proof.Machine

namespace Sys2Proof.Machine

/-! ## What host accesses leave alone

A register access can answer commands, record a fault and drive pins, but no access reaches HBM or Granary, a network or a
stream. -/

/-- HBM and Granary, the networks and the streams are the same. -/
structure KeepsData (s t : State) : Prop where
  dpa : t.mem.dpa = s.mem.dpa
  nets : t.nets = s.nets
  streams : t.streams = s.streams

namespace KeepsData
variable {s t u : State}

theorem refl (s : State) : KeepsData s s := ⟨rfl, rfl, rfl⟩

theorem trans (h : KeepsData s t) (k : KeepsData t u) : KeepsData s u :=
  ⟨k.dpa.trans h.dpa, k.nets.trans h.nets, k.streams.trans h.streams⟩

theorem foldl {α : Type} {f : State → α → State} (hf : ∀ s a, KeepsData s (f s a)) (l : List α) (h : KeepsData s t) :
    KeepsData s (l.foldl f t) := by
  induction l generalizing t with
  | nil => exact h
  | cons a r ih => exact ih (h.trans (hf t a))

/-- What answering a command may change holds no data. -/
theorem answered (h : KeepsData s t) (k : SameButReplies t u) : KeepsData s u := by
  unfold SameButReplies at k
  rw [k]
  exact ⟨h.dpa, h.nets, h.streams⟩

theorem updateWire (h : KeepsData s t) : KeepsData s (updateWire t) := h.answered (sameButReplies_updateWire t)

theorem flushCq (n : Nat) (h : KeepsData s t) : KeepsData s (flushCq n t) :=
  h.answered (sameButReplies_drainReplies _ _ t)

theorem finishAll (cmds : List (BitVec 6 × BitVec 16)) (r : Reply) (h : KeepsData s t) :
    KeepsData s (finishAll cmds r t) :=
  h.foldl (fun s c => (KeepsData.refl s).answered (sameButReplies_finish c r s)) cmds

theorem hwSet (o b : Nat) (h : KeepsData s t) : KeepsData s (hwSet o b t) := ⟨h.dpa, h.nets, h.streams⟩

/-! ### Fault records and firmware -/

theorem leaveLow (h : KeepsData s t) : KeepsData s (leaveLow t) := by
  unfold Machine.leaveLow
  split
  · exact ⟨h.dpa, h.nets, h.streams⟩
  · exact h

theorem enterLow (h : KeepsData s t) : KeepsData s (enterLow t) := by
  unfold Machine.enterLow
  split
  · exact ⟨h.dpa, h.nets, h.streams⟩
  · exact h

theorem pmeD3hot (h : KeepsData s t) : KeepsData s (pmeD3hot t) := by
  unfold Machine.pmeD3hot
  split
  · split
    · exact ⟨h.dpa, h.nets, h.streams⟩
    · exact leaveLow ⟨h.dpa, h.nets, h.streams⟩
  · exact h

theorem recordFault (r : FaultRec) (h : KeepsData s t) : KeepsData s (recordFault r t) := by
  unfold Machine.recordFault
  split
  · exact ⟨h.dpa, h.nets, h.streams⟩
  · dsimp only
    split
    · exact updateWire (pmeD3hot (hwSet _ _ (leaveLow ⟨h.dpa, h.nets, h.streams⟩)))
    · exact leaveLow ⟨h.dpa, h.nets, h.streams⟩

theorem fwEvent (bit : Nat) (w : Fw) (h : KeepsData s t) : KeepsData s (fwEvent bit w t) :=
  updateWire (hwSet _ _ (hwSet _ _ ⟨h.dpa, h.nets, h.streams⟩))

theorem fwFallback (h : KeepsData s t) : KeepsData s (fwFallback t) := by
  have hr := h.recordFault { code := 0x0505, scope := 0 }
  exact finishAll _ _ (fwEvent _ _ ⟨hr.dpa, hr.nets, hr.streams⟩)

theorem fwCtrl (v : Word) (h : KeepsData s t) : KeepsData s (fwCtrl v t) := by
  unfold Machine.fwCtrl
  split
  all_goals
    dsimp only
    split
    · exact fwFallback ⟨h.dpa, h.nets, h.streams⟩
    · exact ⟨h.dpa, h.nets, h.streams⟩

end KeepsData

/-! ### Rings and translations -/

theorem keepsData_errCfg (k : RingKind) (n : BitVec 6) (s : State) : KeepsData s (errCfg k n s) :=
  .updateWire ⟨rfl, rfl, rfl⟩

theorem keepsData_cfgSq (n : BitVec 6) (w : Word) (s : State) : KeepsData s (cfgSq n w s) := by
  unfold cfgSq
  dsimp only
  split
  · split
    · split <;> exact .updateWire ⟨rfl, rfl, rfl⟩
    · split <;> exact ⟨rfl, rfl, rfl⟩
  · split
    · exact ⟨rfl, rfl, rfl⟩
    · split
      · exact ⟨rfl, rfl, rfl⟩
      · exact .updateWire ⟨rfl, rfl, rfl⟩

/-- The tail of a CFG write to an enabled completion or metadata ring: another SIZE_LOG2 is refused. -/
theorem keepsData_sizeKept {s t : State} (h : KeepsData s t) (k : RingKind) (n : BitVec 6) (p : Prop) [Decidable p] :
    KeepsData s (if p then errCfg k n t else t) := by
  split
  · exact h.trans (keepsData_errCfg k n t)
  · exact h

theorem keepsData_cfgCq (n : BitVec 6) (w : Word) (s : State) : KeepsData s (cfgCq n w s) := by
  unfold cfgCq
  dsimp only
  split
  · refine keepsData_sizeKept ?_ _ _ _
    split
    · exact ⟨rfl, rfl, rfl⟩
    · split
      · exact .updateWire ⟨rfl, rfl, rfl⟩
      · exact ⟨rfl, rfl, rfl⟩
  · split
    · exact ⟨rfl, rfl, rfl⟩
    · split
      · exact .flushCq _ ⟨rfl, rfl, rfl⟩
      · exact .updateWire ⟨rfl, rfl, rfl⟩

theorem keepsData_cfgMr (n : BitVec 6) (w : Word) (s : State) : KeepsData s (cfgMr n w s) := by
  unfold cfgMr
  dsimp only
  split
  · refine keepsData_sizeKept ?_ _ _ _
    split
    · exact ⟨rfl, rfl, rfl⟩
    · split
      · exact .updateWire ⟨rfl, rfl, rfl⟩
      · exact ⟨rfl, rfl, rfl⟩
  · split
    · exact ⟨rfl, rfl, rfl⟩
    · split
      · exact ⟨rfl, rfl, rfl⟩
      · exact .updateWire ⟨rfl, rfl, rfl⟩

theorem keepsData_cfgWrite (k : RingKind) (n : BitVec 6) (w : Word) (s : State) : KeepsData s (cfgWrite k n w s) := by
  cases k
  case submission => exact keepsData_cfgSq n w s
  case completion => exact keepsData_cfgCq n w s
  case metadata => exact keepsData_cfgMr n w s

theorem keepsData_baseWrite (k : RingKind) (n : Nat) (lo hi : Word) (s : State) :
    KeepsData s (baseWrite k n lo hi s) := by
  unfold baseWrite
  split
  · exact keepsData_errCfg _ _ s
  · cases k <;> exact ⟨rfl, rfl, rfl⟩

theorem keepsData_boundaryFlush (e : DmaEngine) (s : State) : KeepsData s (boundaryFlush e s) := by
  unfold boundaryFlush
  dsimp only
  split
  · exact .refl s
  · exact ⟨rfl, rfl, rfl⟩

theorem keepsData_invalidate_ (v : Word) (s : State) : KeepsData s (invalidate_ v s) := by
  unfold invalidate_
  refine .foldl (fun s e => ?_) _ ⟨rfl, rfl, rfl⟩
  split
  · exact keepsData_boundaryFlush e s
  · exact .refl s

/-! ### Writes: the blocks that do more than set fields of their own -/

theorem keepsData_cmdWrite (o : Nat) (v : Word) (be : BitVec 4) (s : State) : KeepsData s (cmdWrite o v be s) := by
  unfold cmdWrite ringWrite
  dsimp only
  split
  case h_1 => exact ⟨rfl, rfl, rfl⟩
  case h_2 => exact ⟨rfl, rfl, rfl⟩
  case h_3 =>
    split
    · split
      · exact keepsData_baseWrite _ _ _ _ s
      · exact keepsData_baseWrite _ _ _ _ s
      · exact keepsData_cfgWrite _ _ _ s
      · exact .refl s
    · exact .refl s

theorem keepsData_memRegWrite (o : Nat) (v : Word) (be : BitVec 4) (s : State) : KeepsData s (memRegWrite o v be s) := by
  unfold memRegWrite
  split
  · exact ⟨rfl, rfl, rfl⟩
  · split
    · exact .refl s
    · exact keepsData_invalidate_ _ s
  · exact .refl s

theorem keepsData_pwrWrite (o : Nat) (v : Word) (be : BitVec 4) (s : State) : KeepsData s (pwrWrite o v be s) := by
  unfold pwrWrite
  split
  · exact ⟨rfl, rfl, rfl⟩
  · exact .enterLow ⟨rfl, rfl, rfl⟩
  · exact .refl s

theorem keepsData_fwmWrite (o : Nat) (v : Word) (be : BitVec 4) (s : State) : KeepsData s (fwmWrite o v be s) := by
  unfold fwmWrite
  dsimp only
  split
  · exact ⟨rfl, rfl, rfl⟩
  · exact .fwCtrl _ (.refl s)
  · exact .refl s

/-- No register write reaches HBM, Granary, a network or a stream: every other block only sets fields of its own. -/
theorem keepsData_regWrite (o : Nat) (v : Word) (be : BitVec 4) (s : State) : KeepsData s (regWrite o v be s) := by
  unfold regWrite
  rcases blockOf o with _ | ⟨b, r⟩
  · exact .refl s
  cases b
  case cmd => exact keepsData_cmdWrite _ _ _ s
  case mem => exact keepsData_memRegWrite _ _ _ s
  case pwr => exact keepsData_pwrWrite _ _ _ s
  case fwm => exact keepsData_fwmWrite _ _ _ s
  case enc | prep | trk | pool => exact .refl s
  all_goals
    simp only [glbWrite, ingWrite, decWrite, bellWrite, furrowWrite, fltWrite, slotWrite, telWrite]
    split <;> exact ⟨rfl, rfl, rfl⟩

/-! ### Reads: every RC field is a field of its block -/

theorem keepsData_regClear (o : Nat) (s : State) : KeepsData s (regClear o s) := by
  unfold regClear
  rcases blockOf o with _ | ⟨b, r⟩
  · exact .refl s
  cases b
  case glb => exact .refl s
  all_goals
    simp only [cmdClear, ingClear, portClear, decClear, encClear, prepClear, bellClear, furrowClear, trkClear, memClear,
      poolClear, pwrClear, fltClear, slotClear, fwmClear, telClear]
    repeat' split
    all_goals exact ⟨rfl, rfl, rfl⟩

theorem keepsData_readDone (o : Nat) (s : State) : KeepsData s (readDone o s) :=
  (keepsData_regClear o s).trans ⟨rfl, rfl, rfl⟩

theorem keepsData_touchDomain (d : Nat) (s : State) : KeepsData s (touchDomain d s) := ⟨rfl, rfl, rfl⟩

end Sys2Proof.Machine

namespace Sys2Proof.Machine

/-! ## What the wire leaves of what else is there -/

theorem mem_out_updateWire {e : Output} {s : State} (h : e ∈ s.out) : e ∈ (updateWire s).out := by
  unfold updateWire
  repeat' split
  all_goals simp [h]

@[simp] theorem updateWire_ports (s : State) : (updateWire s).ports = s.ports := by
  obtain ⟨_, _, _, _, _, h⟩ := updateWire_eq s; rw [h]
@[simp] theorem portAt_updateWire (s : State) (n : Nat) : portAt (updateWire s) n = portAt s n := by
  rw [portAt, updateWire_ports, portAt]
@[simp] theorem updateWire_refuseLimit (s : State) : (updateWire s).refuseLimit = s.refuseLimit := by
  obtain ⟨_, _, _, _, _, h⟩ := updateWire_eq s; rw [h]
@[simp] theorem updateWire_taintWeight (s : State) : (updateWire s).taintWeight = s.taintWeight := by
  obtain ⟨_, _, _, _, _, h⟩ := updateWire_eq s; rw [h]
@[simp] theorem updateWire_streamCause (s : State) : (updateWire s).glb.streamCause = s.glb.streamCause := by
  obtain ⟨_, _, _, _, _, h⟩ := updateWire_eq s; rw [h]
@[simp] theorem updateWire_poolCause (s : State) : (updateWire s).glb.poolCause = s.glb.poolCause := by
  obtain ⟨_, _, _, _, _, h⟩ := updateWire_eq s; rw [h]
@[simp] theorem updateWire_fwCause (s : State) : (updateWire s).glb.fwCause = s.glb.fwCause := by
  obtain ⟨_, _, _, _, _, h⟩ := updateWire_eq s; rw [h]

/-! ## An access to one dword (R7, R324, R345) -/

/-- The dword of BAR0 that holds an offset. -/
abbrev dwordOf (offset : BitVec 24) : Nat := offset.toNat / 4 * 4

/-- The state in which an access to the dword at `o` works: its domain is up and notes the access. -/
abbrev reached (o : Nat) (s : State) : State := touchDomain (regDomain o) s

section Access
variable {s : State} (hr : inReset s = false) (hl : linkSpeaks s = true)
include hr hl

theorem regAccess_undecoded (ha : hostAccess s = false) (offset : BitVec 24) (work : Nat → State → State) :
    regAccess offset work s = send .unsupportedRequest s := by
  simp [regAccess, hr, hl, ha]

theorem regAccess_up {offset : BitVec 24} (ha : hostAccess s = true)
    (hu : shellUp s (regDomain (dwordOf offset)) = true) (work : Nat → State → State) :
    regAccess offset work s = work (dwordOf offset) (reached (dwordOf offset) s) := by
  simp [regAccess, wakeFor, hr, hl, ha, hu]

theorem execRead_undecoded (ha : hostAccess s = false) (r : RegRead) :
    exec (.registerReadClear r) s = .next (send .unsupportedRequest s) :=
  congrArg _ (regAccess_undecoded hr hl ha _ _)

theorem execRead_single {offset : BitVec 24} (ha : hostAccess s = true)
    (hu : shellUp s (regDomain (dwordOf offset)) = true) :
    exec (.registerReadClear { offset, both := false }) s = .next
      (updateWire (send (.completion (readValue (dwordOf offset) (reached (dwordOf offset) s)))
        (readDone (dwordOf offset) (reached (dwordOf offset) s)))) :=
  congrArg _ (regAccess_up hr hl ha hu _)

theorem execRead_pair {offset : BitVec 24} (ha : hostAccess s = true)
    (hu : shellUp s (regDomain (dwordOf offset)) = true) :
    let o := dwordOf offset
    let u := readDone o (reached o s)
    exec (.registerReadClear { offset, both := true }) s = .next
      (updateWire (send (.completionBytes
        (leBytes 4 (readValue o (reached o s)).toNat ++ leBytes 4 (readValue (o + 4) u).toNat)) (readDone (o + 4) u))) :=
  congrArg _ (regAccess_up hr hl ha hu _)

theorem writeDword_up {offset : BitVec 24} (ha : hostAccess s = true)
    (hu : shellUp s (regDomain (dwordOf offset)) = true) (v : Word) (be : BitVec 4) :
    writeDword offset v be s = updateWire (regWrite (dwordOf offset) v be (reached (dwordOf offset) s)) :=
  regAccess_up hr hl ha hu _

end Access

theorem exec_registerWrite (offset : BitVec 24) (v : BitVec 64) (be : BitVec 8) (s : State) :
    exec (.registerWrite offset v be) s = execRegisterWrite offset v be s := rfl

/-- A write whose upper byte enables are clear is one dword's. -/
theorem execWrite_low (offset : BitVec 24) (v : BitVec 64) {be : BitVec 8} (hb : be.extractLsb' 4 4 = 0) (s : State) :
    exec (.registerWrite offset v be) s =
      .next (writeDword offset (v.extractLsb' 0 32) (be.extractLsb' 0 4) s) := by
  rw [exec_registerWrite, execRegisterWrite, hb]
  rfl

/-- A write with upper byte enables is the lower dword's, then the upper's (R7). -/
theorem execWrite_pair (offset : BitVec 24) (v : BitVec 64) {be : BitVec 8} (hb : be.extractLsb' 4 4 ≠ 0) {s : State}
    (ha : hostAccess s = true) :
    exec (.registerWrite offset v be) s =
      .next (writeDword (offset + 4) (v.extractLsb' 32 32) (be.extractLsb' 4 4)
        (writeDword offset (v.extractLsb' 0 32) (be.extractLsb' 0 4) s)) := by
  have hhigh : (be.extractLsb' 4 4 != 0) = true := bne_iff_ne.mpr hb
  rw [exec_registerWrite, execRegisterWrite, hhigh, ha]
  rfl

theorem execWrite_undecoded {s : State} (hr : inReset s = false) (hl : linkSpeaks s = true) (ha : hostAccess s = false)
    (offset : BitVec 24) (v : BitVec 64) (be : BitVec 8) :
    exec (.registerWrite offset v be) s = .next (send .unsupportedRequest s) := by
  rw [exec_registerWrite, execRegisterWrite, ha, Bool.and_false]
  exact congrArg Host.Outcome.next (regAccess_undecoded hr hl ha offset
    fun o s => updateWire (regWrite o (v.extractLsb' 0 32) (be.extractLsb' 0 4) s))

/-- The byte enables of the lower dword alone. -/
theorem lowEnables (be : BitVec 8) :
    (be &&& 0x0F).extractLsb' 4 4 = 0 ∧ (be &&& 0x0F).extractLsb' 0 4 = be.extractLsb' 0 4 := by
  rw [BitVec.extractLsb'_and, BitVec.extractLsb'_and]
  exact ⟨BitVec.and_zero, BitVec.and_allOnes⟩

/-- The byte enables of the upper dword, moved down. -/
theorem highEnables (be : BitVec 8) :
    (be >>> 4).extractLsb' 4 4 = 0 ∧ (be >>> 4).extractLsb' 0 4 = be.extractLsb' 4 4 := by
  constructor
  · ext i hi
    simpa using be.getLsbD_of_ge (4 + (4 + i)) (by omega)
  · ext i hi
    simp [Nat.add_comm]

/-- A 64-bit write is two dword writes, each with its own byte enables. -/
theorem execWrite_split (offset : BitVec 24) (v : BitVec 64) {be : BitVec 8} (hb : be.extractLsb' 4 4 ≠ 0) {s : State}
    (ha : hostAccess s = true) :
    ∃ m, exec (.registerWrite offset v (be &&& 0x0F)) s = .next m ∧
      exec (.registerWrite offset v be) s = exec (.registerWrite (offset + 4) (v >>> 32) (be >>> 4)) m := by
  obtain ⟨hlow, hlow'⟩ := lowEnables be
  obtain ⟨hhigh, hhigh'⟩ := highEnables be
  have hv : (v >>> 32).extractLsb' 0 32 = v.extractLsb' 32 32 := by ext i hi; simp
  refine ⟨_, execWrite_low _ _ hlow s, ?_⟩
  rw [execWrite_pair _ _ hb ha, execWrite_low _ _ hhigh, hlow', hhigh', hv]

/-- A write of a whole dword. -/
theorem execWrite_dword (offset : BitVec 24) (v : Word) (s : State) :
    exec (.registerWrite offset (v.setWidth 64) 0x0F) s = .next (writeDword offset v 0xF s) := by
  have hv : (v.setWidth 64).extractLsb' 0 32 = v := by
    rw [BitVec.extractLsb'_setWidth_of_le (by decide), BitVec.extractLsb'_eq_self]
  rw [execWrite_low _ _ (by decide), hv]
  rfl

/-! ## Offsets without a register (R345) -/

theorem regValue_undefined {o : Nat} (h : blockOf o = none) (s : State) : regValue o s = 0 := by
  simp only [regValue, h]

theorem readValue_undefined {o : Nat} (h : blockOf o = none) (s : State) : readValue o s = 0 := by
  simp [readValue, rcPart, regValue_undefined h]

theorem regWrite_undefined {o : Nat} (h : blockOf o = none) (v : Word) (be : BitVec 4) (s : State) :
    regWrite o v be s = s := by
  simp only [regWrite, h]

/-! ## The RC field of ING_PORT_RX_FRAMES (R11) -/

theorem regValue_rxFrames (s : State) : regValue 0x20040 s = (portAt s 0).rxFrames := rfl

theorem regClear_rxFrames (s : State) : regClear 0x20040 s = setPort 0 { portAt s 0 with
    rxFrames := (portAt s 0).rxFrames - (getAt ({} : Port) 0 s.cyc.ports).rxFrames } s := rfl

theorem rcPart_rxFrames (s : State) : rcPart 0x20040 s = (portAt s 0).rxFrames := by
  have hstart : getAt ({} : Port) 0 (startOf s).ports = portAt s 0 := rfl
  simp only [rcPart, regValue_rxFrames, regClear_rxFrames, portAt_setPort, hstart]
  simp [portAt]

/-- What a read answers is what stood before this fc. -/
theorem readValue_rxFrames (s : State) : readValue 0x20040 s = (getAt ({} : Port) 0 s.cyc.ports).rxFrames := by
  simp only [readValue, rcPart_rxFrames, regValue_rxFrames, BitVec.xor_self, BitVec.zero_or]
  rfl

/-- What a read leaves is what this fc has brought. -/
theorem portAt_readDone_rxFrames (s : State) : portAt (readDone 0x20040 s) 0 = { portAt s 0 with
    rxFrames := (portAt s 0).rxFrames - (getAt ({} : Port) 0 s.cyc.ports).rxFrames } := by
  simp only [readDone, portAt, regClear_rxFrames, setPort, getAt_putAt_self]

/-! ## Dword writes of RW and W1C fields (R10, R11) -/

theorem mergeBytes_all (old v : Word) : mergeBytes old v 0xF = v := by
  have hpick : mergeBytes old v 0xF =
      v.extractLsb' 24 8 ++ v.extractLsb' 16 8 ++ v.extractLsb' 8 8 ++ v.extractLsb' 0 8 := rfl
  rw [hpick, BitVec.extractLsb'_append_extractLsb'_eq_extractLsb' (rfl : 24 = 16 + 8),
    BitVec.extractLsb'_append_extractLsb'_eq_extractLsb' (rfl : 16 = 8 + 8),
    BitVec.extractLsb'_append_extractLsb'_eq_extractLsb' (rfl : 8 = 0 + 8)]
  exact BitVec.extractLsb'_eq_self

/-- A W1C bit that a write of all bytes carries. -/
theorem w1c_all (old : Bool) (v : Word) {i : Nat} (hi : i < 32) : w1c old v 0xF i = (old && !v.getLsbD i) := by
  have hbe : (BitVec.allOnes 4).getLsbD (i / 8) = true := by
    simp only [BitVec.getLsbD_allOnes, decide_eq_true_eq]
    omega
  have hhit : hit v (BitVec.allOnes 4) i = v.getLsbD i := by rw [hit, hbe, Bool.true_and]
  exact congrArg (fun b => old && !b) hhit

/-- A write reaches a register whole while the hardware has set none of its bits in this fc. -/
theorem unset_of_setIn {o : Nat} {s : State} (h : setIn o s = 0) (v : Word) : v &&& ~~~ setIn o s = v := by
  rw [h]
  exact BitVec.and_allOnes

theorem regWrite_cause (v : Word) (s : State) :
    regWrite 0x10 v 0xF s = glbWrite 0x10 (v &&& ~~~ setIn 0x10 s) 0xF s := rfl
theorem regWrite_mask (v : Word) (s : State) :
    regWrite 0x14 v 0xF s = glbWrite 0x14 (v &&& ~~~ setIn 0x14 s) 0xF s := rfl
theorem regWrite_policy (v : Word) (s : State) :
    regWrite 0x40F00 v 0xF s = decWrite 0xF00 (v &&& ~~~ setIn 0x40F00 s) 0xF s := rfl
theorem regWrite_slotCtrl (v : Word) (s : State) :
    regWrite 0x260004 v 0xF s = slotWrite 0x04 (v &&& ~~~ setIn 0x260004 s) 0xF s := rfl

theorem glbWrite_cause (v : Word) (s : State) : glbWrite 0x10 v 0xF s = { s with glb := { s.glb with
    streamCause := s.glb.streamCause && !v.getLsbD 3
    poolCause := s.glb.poolCause && !v.getLsbD 4
    fwCause := s.glb.fwCause && !v.getLsbD 11 } } := by
  simp only [glbWrite, w1c_all, Nat.reduceLT]

/-- A W1C bit that the hardware sets in this fc stays set (R11). -/
theorem regWrite_cause_set {s : State} (h : (setIn 0x10 s).getLsbD 3 = true) (v : Word) :
    (regWrite 0x10 v 0xF s).glb.streamCause = s.glb.streamCause := by
  rw [regWrite_cause, glbWrite_cause]
  simp [h]

/-- GLB_INT_CAUSE: a written 1 clears its cause, and no mask bit changes. -/
theorem regWrite_cause_clear {s : State} (h : setIn 0x10 s = 0) (v : Word) :
    (regWrite 0x10 v 0xF s).glb = { s.glb with
      streamCause := s.glb.streamCause && !v.getLsbD 3
      poolCause := s.glb.poolCause && !v.getLsbD 4
      fwCause := s.glb.fwCause && !v.getLsbD 11 } := by
  rw [regWrite_cause, unset_of_setIn h, glbWrite_cause]

/-- GLB_INT_MASK holds what is written. -/
theorem regWrite_mask_eq {s : State} (h : setIn 0x14 s = 0) (v : Word) :
    (regWrite 0x14 v 0xF s).glb.mask = v.setWidth 12 := by
  rw [regWrite_mask, unset_of_setIn h]
  simp only [glbWrite, maskWrite, mergeBytes_all]

/-- GLB_INT_MASK reads as its twelve bits. -/
theorem regValue_mask (s : State) : regValue 0x14 s = s.glb.mask.setWidth 32 := rfl

/-- DEC_POLICY holds what is written, but a REFUSE_LIMIT of 0 becomes 1 (R147). -/
theorem regWrite_policy_eq {s : State} (h : setIn 0x40F00 s = 0) (v : Word) :
    regWrite 0x40F00 v 0xF s = { s with
      refuseLimit := if v.extractLsb' 0 8 = 0 then 1 else v.extractLsb' 0 8, taintWeight := v.extractLsb' 8 8 } := by
  rw [regWrite_policy, unset_of_setIn h]
  simp only [decWrite, mergeBytes_all, if_true]

/-- SLOT_CTRL holds what is written and drives PWRCTL_EN and the lamps (R355, R363). -/
theorem regWrite_slotCtrl_eq {s : State} (h : setIn 0x260004 s = 0) (v : Word) :
    regWrite 0x260004 v 0xF s = send (.leds (v.extractLsb' 1 2) (v.extractLsb' 3 2)) (send (.pwrctlEn (v.getLsbD 0))
      { s with slot := { s.slot with
        pwrEn := v.getLsbD 0, attnInd := v.extractLsb' 1 2, pwrInd := v.extractLsb' 3 2, configured := true } }) := by
  rw [regWrite_slotCtrl, unset_of_setIn h]
  simp only [slotWrite, mergeBytes_all]

/-! ## Whole accesses -/

section Access
variable {s : State} {offset : BitVec 24} (hr : inReset s = false) (hl : linkSpeaks s = true)
  (ha : hostAccess s = true) (hu : shellUp s (regDomain (dwordOf offset)) = true)
include hr hl ha hu

/-- A read of one dword answers its value, and changes no data; of RX_FRAMES it leaves what this fc has brought. -/
theorem read_dword :
    let o := dwordOf offset
    ∃ t, exec (.registerReadClear { offset, both := false }) s = .next t ∧
      .completion (readValue o (reached o s)) ∈ t.out ∧ KeepsData s t ∧
      (o = 0x20040 → portAt t 0 = { portAt s 0 with
        rxFrames := (portAt s 0).rxFrames - (getAt ({} : Port) 0 s.cyc.ports).rxFrames }) := by
  intro o
  refine ⟨_, execRead_single hr hl ha hu, mem_out_updateWire List.mem_cons_self, .updateWire ?_, fun ho => ?_⟩
  · have h := (keepsData_touchDomain (regDomain o) s).trans (keepsData_readDone o (reached o s))
    exact ⟨h.dpa, h.nets, h.streams⟩
  · have hport := portAt_readDone_rxFrames (reached o s)
    rw [← ho] at hport
    rw [portAt_updateWire]
    exact hport

/-- A read of a pair answers the lower dword as it stood, then the upper as the lower's read left it (R7). -/
theorem read_pair :
    let o := dwordOf offset
    let u := reached o s
    ∃ t, exec (.registerReadClear { offset, both := true }) s = .next t ∧ KeepsData s t ∧
      .completionBytes (leBytes 4 (readValue o u).toNat ++ leBytes 4 (readValue (o + 4) (readDone o u)).toNat) ∈ t.out := by
  intro o u
  refine ⟨_, execRead_pair hr hl ha hu, .updateWire ?_, mem_out_updateWire List.mem_cons_self⟩
  have h := (keepsData_touchDomain (regDomain o) s).trans
    ((keepsData_readDone o u).trans (keepsData_readDone (o + 4) (readDone o u)))
  exact ⟨h.dpa, h.nets, h.streams⟩

theorem access_undefined (hb : blockOf (dwordOf offset) = none) :
    readValue (dwordOf offset) (reached (dwordOf offset) s) = 0 ∧
      ∀ v (be : BitVec 8), be.extractLsb' 4 4 = 0 →
        exec (.registerWrite offset v be) s = .next (updateWire (reached (dwordOf offset) s)) := by
  refine ⟨readValue_undefined hb _, fun v be hbe => ?_⟩
  rw [execWrite_low _ _ hbe, writeDword_up hr hl ha hu, regWrite_undefined hb]

/-- A write of a whole dword is the register's own write, with the wire brought up to date. -/
theorem write_dword (v : Word) :
    exec (.registerWrite offset (v.setWidth 64) 0x0F) s =
      .next (updateWire (regWrite (dwordOf offset) v 0xF (reached (dwordOf offset) s))) := by
  rw [execWrite_dword, writeDword_up hr hl ha hu]

end Access

/-- What a write of a whole dword leaves. -/
abbrev written (o : Nat) (v : Word) (s : State) : State := updateWire (regWrite o v 0xF (reached o s))

theorem keepsData_written (o : Nat) (v : Word) (s : State) : KeepsData s (written o v s) :=
  .updateWire ((keepsData_touchDomain (regDomain o) s).trans (keepsData_regWrite o v 0xF _))

section Written
variable {s : State} {o : Nat} (v : Word)

theorem written_cause_set (ho : o = 0x10) (h : (setIn 0x10 s).getLsbD 3 = true) :
    (written o v s).glb.streamCause = s.glb.streamCause := by
  subst ho
  rw [written, updateWire_streamCause, regWrite_cause_set (s := reached 0x10 s) h]
  rfl

theorem written_cause (ho : o = 0x10) (h : setIn o s = 0) :
    let t := written o v s
    t.glb.streamCause = (s.glb.streamCause && !v.getLsbD 3) ∧ t.glb.poolCause = (s.glb.poolCause && !v.getLsbD 4) ∧
      t.glb.fwCause = (s.glb.fwCause && !v.getLsbD 11) ∧ t.glb.mask = s.glb.mask := by
  subst ho
  simp only [written, updateWire_streamCause, updateWire_poolCause, updateWire_fwCause, updateWire_mask,
    regWrite_cause_clear (s := reached 0x10 s) h]
  exact ⟨rfl, rfl, rfl, rfl⟩

theorem written_mask (ho : o = 0x14) (h : setIn o s = 0) :
    (written o v s).glb.mask = v.setWidth 12 ∧ regValue 0x14 (written o v s) = v &&& 0xFFF := by
  subst ho
  have hmask : (written 0x14 v s).glb.mask = v.setWidth 12 := by
    rw [written, updateWire_mask, regWrite_mask_eq (s := reached 0x14 s) h]
  refine ⟨hmask, ?_⟩
  rw [regValue_mask, hmask]
  apply BitVec.eq_of_toNat_eq
  have hand : (v &&& 0xFFF).toNat = v.toNat % 2 ^ 12 := Nat.and_two_pow_sub_one_eq_mod v.toNat 12
  rw [hand, BitVec.toNat_setWidth, BitVec.toNat_setWidth]
  omega

theorem written_policy (ho : o = 0x40F00) (h : setIn o s = 0) :
    (written o v s).refuseLimit = (if v.extractLsb' 0 8 = 0 then 1 else v.extractLsb' 0 8) ∧
      (written o v s).taintWeight = v.extractLsb' 8 8 := by
  subst ho
  rw [written, updateWire_refuseLimit, updateWire_taintWeight, regWrite_policy_eq (s := reached 0x40F00 s) h]
  exact ⟨rfl, rfl⟩

theorem written_slotCtrl (ho : o = 0x260004) (h : setIn o s = 0) :
    let t := written o v s
    t.slot.pwrEn = v.getLsbD 0 ∧ t.slot.attnInd = v.extractLsb' 1 2 ∧ t.slot.pwrInd = v.extractLsb' 3 2 ∧
      .pwrctlEn (v.getLsbD 0) ∈ t.out ∧ t.slot.cause = s.slot.cause := by
  subst ho
  have hdriven : .pwrctlEn (v.getLsbD 0) ∈ (regWrite 0x260004 v 0xF (reached 0x260004 s)).out := by
    rw [regWrite_slotCtrl_eq (s := reached 0x260004 s) h]
    exact List.mem_cons_of_mem _ List.mem_cons_self
  have hslot : (written 0x260004 v s).slot = (regWrite 0x260004 v 0xF (reached 0x260004 s)).slot := updateWire_slot _
  rw [regWrite_slotCtrl_eq (s := reached 0x260004 s) h] at hslot
  simp only [hslot]
  exact ⟨rfl, rfl, rfl, mem_out_updateWire hdriven, rfl⟩

end Written

/-! ## Other requests (R343, R345) -/

theorem exec_request (r : BadRequest) (s : State) :
    exec (.pcieRequestUnsupported r) s = execPcieRequestUnsupported r s := rfl

theorem request_vendorType1 (s : State) : exec (.pcieRequestUnsupported .vendorType1) s = .next s := by
  simp [exec_request, execPcieRequestUnsupported]

section Requests
variable {s : State} (hr : inReset s = false) (hl : linkSpeaks s = true)
include hr hl

theorem request_neverTaken {r : BadRequest} (h : r = .io ∨ r = .atomic ∨ r = .noBar) :
    exec (.pcieRequestUnsupported r) s = .next (send .unsupportedRequest s) := by
  obtain rfl | rfl | rfl := h <;> simp [exec_request, execPcieRequestUnsupported, hr, hl]

theorem request_undecoded {r : BadRequest} (h : r = .disabledRead ∨ r = .disabledWrite) (ha : hostAccess s = false) :
    exec (.pcieRequestUnsupported r) s = .next (send .unsupportedRequest s) := by
  obtain rfl | rfl := h <;> simp [exec_request, execPcieRequestUnsupported, hr, hl, ha]

theorem request_oddRead (ha : hostAccess s = true) (bar : Nat) :
    exec (.pcieRequestUnsupported (.oddRead bar)) s = .next (send .completerAbort s) := by
  simp [exec_request, execPcieRequestUnsupported, hr, hl, ha]

theorem request_oddWrite (ha : hostAccess s = true) (bar : Nat) :
    exec (.pcieRequestUnsupported (.oddWrite bar)) s = .next { s with link := { s.link with aerAbort := true } } := by
  simp [exec_request, execPcieRequestUnsupported, hr, hl, ha]

theorem request_bar4Read (ha : hostAccess s = true) (offset : BitVec 16) :
    exec (.pcieRequestUnsupported (.bar4Read offset)) s = .next (send (.completion 0) s) := by
  simp [exec_request, execPcieRequestUnsupported, hr, hl, ha]

theorem request_configRead (hc : configReached s = true) (offset : BitVec 12) :
    exec (.pcieRequestUnsupported (.configRead offset)) s =
      .next (send (.completion (configDword (offset.toNat / 4 * 4) s)) (configOn s)) := by
  simp [exec_request, execPcieRequestUnsupported, hr, hl, hc]

theorem exec_poisonedWrite_decoded (ha : hostAccess s = true) (bar : Nat) (offset : BitVec 29) :
    exec (.poisonedWrite bar offset) s = .next { s with link := { s.link with aerPoisoned := true } } := by
  have hexec : exec (.poisonedWrite bar offset) s = execPoisonedWrite bar offset s := rfl
  simp [hexec, execPoisonedWrite, hr, hl, ha]

end Requests

/-- Settles O46: each access is the dword's own read or write, each register's lemma says what its type does, and every
other request is a row of R345's table. -/
theorem hostAccessesFollowTheirType : Obligations.HostAccessesFollowTheirType := by
  unfold Obligations.HostAccessesFollowTheirType
  intro s hr hl
  refine ⟨fun offset => ⟨fun ha => ?_, fun ha hu => ?_⟩, fun offset ha => request_bar4Read hr hl ha offset,
    fun offset hc => request_configRead hr hl hc offset, rfl, rfl, rfl, rfl,
    fun r => ⟨request_neverTaken hr hl, ?_, request_undecoded hr hl, fun bar ha => ⟨?_, ?_⟩⟩,
    fun bar offset ha => exec_poisonedWrite_decoded hr hl ha bar offset⟩
  · exact ⟨fun both => execRead_undecoded hr hl ha _, fun v be => execWrite_undecoded hr hl ha offset v be⟩
  · obtain ⟨t, hread, hanswer, hkept, hrx⟩ := read_dword hr hl ha hu
    obtain ⟨t2, hread2, hkept2, hanswer2⟩ := read_pair hr hl ha hu
    have hwritten := fun v => keepsData_written (dwordOf offset) v s
    refine ⟨⟨t, hread, hanswer, hkept.dpa, hkept.streams, fun ho => ?_⟩, ⟨t2, hread2, hkept2.dpa, hanswer2⟩,
      access_undefined hr hl ha hu, fun v be hbe => execWrite_split offset v hbe ha,
      fun v => ⟨_, write_dword hr hl ha hu v, (hwritten v).dpa, (hwritten v).nets, written_cause_set v, fun hset =>
        ⟨fun ho => (written_mask v ho hset).imp_right (⟨·, (hwritten v).streams⟩),
          fun ho => written_cause v ho hset,
          fun ho => (written_policy v ho hset).imp_right (⟨·, (hwritten v).streams⟩),
          fun ho => written_slotCtrl v ho hset⟩⟩⟩
    rw [hrx ho, ho]
    exact ⟨readValue_rxFrames _, rfl, rfl⟩
  · rintro rfl
    exact request_vendorType1 s
  · rintro rfl
    exact request_oddRead hr hl ha bar
  · rintro rfl
    exact request_oddWrite hr hl ha bar

end Sys2Proof.Machine

namespace Sys2Proof.Machine

/-! ## The fault recorder (R300 to R302)

A record also wakes the regulator and, from SCOPE 3, raises the power management event: neither touches memory or the
recorder. -/

theorem leaveLow_eq (s : State) : ∃ pwr, leaveLow s = { s with pwr } := by
  unfold leaveLow
  split
  · exact ⟨_, rfl⟩
  · exact ⟨s.pwr, rfl⟩

theorem pmeD3hot_eq (s : State) : ∃ pwr link out, pmeD3hot s = { s with pwr, link, out } := by
  unfold pmeD3hot
  split
  · split
    · exact ⟨s.pwr, _, s.out, rfl⟩
    · obtain ⟨pwr, hlow⟩ := leaveLow_eq { s with
        link := { s.link with pmeStatus := true, state := .l0 }, out := .pmPme :: s.out }
      exact ⟨pwr, _, _, hlow⟩
  · exact ⟨s.pwr, s.link, s.out, rfl⟩

@[simp] theorem leaveLow_mem (s : State) : (leaveLow s).mem = s.mem := by
  obtain ⟨_, h⟩ := leaveLow_eq s; rw [h]
@[simp] theorem leaveLow_flt (s : State) : (leaveLow s).flt = s.flt := by
  obtain ⟨_, h⟩ := leaveLow_eq s; rw [h]
@[simp] theorem pmeD3hot_mem (s : State) : (pmeD3hot s).mem = s.mem := by
  obtain ⟨_, _, _, h⟩ := pmeD3hot_eq s; rw [h]
@[simp] theorem pmeD3hot_flt (s : State) : (pmeD3hot s).flt = s.flt := by
  obtain ⟨_, _, _, h⟩ := pmeD3hot_eq s; rw [h]
@[simp] theorem hwSet_mem (o b : Nat) (s : State) : (hwSet o b s).mem = s.mem := rfl
@[simp] theorem hwSet_flt (o b : Nat) (s : State) : (hwSet o b s).flt = s.flt := rfl

@[simp] theorem recordFault_mem (r : FaultRec) (s : State) : (recordFault r s).mem = s.mem := by
  unfold recordFault
  split
  · rfl
  · dsimp only
    split <;> simp

/-- Only a record of SCOPE 0 can be dropped. -/
theorem records_recordFault {r : FaultRec} (h : r.scope ≠ 0) (s : State) :
    Records s (recordFault r s) r.code r.scope := by
  have hkept : ¬(r.scope == 0 ∧ 786432 ≤ stagingBytes s) := fun hdrop => h (eq_of_beq hdrop.1)
  unfold recordFault
  rw [if_neg hkept]
  dsimp only
  split <;> simp [Records]

/-! ## Park records (R293, R295) -/

section Parks
variable {s : State} {p : ParkRecord} {i : Nat}

theorem exec_parkRecordAction (i : BitVec 10) (s : State) :
    exec (.parkRecordAction i) s = execParkRecordAction i s := rfl

theorem exec_parkRecordAction_free {i : BitVec 10} (h : findAt i.toNat s.mem.parks = none) :
    exec (.parkRecordAction i) s = .next s := by
  simp only [exec_parkRecordAction, execParkRecordAction, h]

theorem exec_parkRecordAction_held {i : BitVec 10} (h : findAt i.toNat s.mem.parks = some p) :
    exec (.parkRecordAction i) s = .next (parkAction i.toNat p s) := by
  simp only [exec_parkRecordAction, execParkRecordAction, h]

/-- A frozen or captured record is not Bailiff's to act on. -/
theorem parkAction_left (h : p.state ≠ 1 ∨ p.cause = 0x31) : parkAction i p s = s := if_pos h

/-- The state without park record `i`. -/
abbrev withoutPark (i : Nat) (s : State) : State := { s with mem := { s.mem with parks := dropAt i s.mem.parks } }

/-- A record with one failed attempt more, in this management step. -/
def triedAgain (s : State) (p : ParkRecord) : ParkRecord :=
  { p with retries := p.retries + 1, tried := some (mgmtStep s) }

section Acted
variable (hacted : ¬(p.state ≠ 1 ∨ p.cause = 0x31))
include hacted

theorem parkAction_kill (hcls : 2 < p.cls) :
    parkAction i p s = killReport p.cls p.owner p.cause (ingestOf p.desc p.blocks) (withoutPark i s) := by
  rw [parkAction, if_neg hacted, if_neg (by omega)]

/-- Out of the host's reach, a ring transfer is tried again in a later management step. -/
theorem parkAction_retry (hcls : p.cls ≤ 1) (htried : p.tried ≠ some (mgmtStep s)) (hup : hostUp s = false) :
    parkAction i p s = { s with mem := { s.mem with parks := putAt i (triedAgain s p) s.mem.parks } } := by
  have hrecords : p.cls ≠ 2 := by omega
  rw [parkAction, if_neg hacted, if_pos (by omega), if_neg htried]
  simp [hup, hrecords, triedAgain]

variable (htried : p.tried ≠ some (mgmtStep s)) (hup : hostUp s = true)
include htried hup

theorem parkAction_submission (hcls : p.cls = 0) :
    let n := p.owner.toNat % 64
    parkAction i p s = setSq n { sqAt s n with parked := false } (withoutPark i s) := by
  rw [parkAction, if_neg hacted, if_pos (by omega), if_neg htried, if_neg (by simp [hup]), hcls]
  rfl

theorem parkAction_completion (hcls : p.cls = 1) :
    let n := p.owner.toNat % 64
    parkAction i p s = flushCq n (setCq n { cqAt s n with parked := false } (withoutPark i s)) := by
  rw [parkAction, if_neg hacted, if_pos (by omega), if_neg htried, if_neg (by simp [hup]), hcls]
  rfl

end Acted

theorem parkAction_tried (hcls : p.cls ≤ 2) (htried : p.tried = some (mgmtStep s)) : parkAction i p s = s := by
  rw [parkAction, if_pos hcls, if_pos htried, ite_self]

/-- The read of an AU_PUSH and the host buffer of a command have one owner, the command: it ends with the cause. -/
theorem killReport_command {cls : Nat} (hcls : cls = 3 ∨ cls = 6) (owner : Word) (cause : Byte) (blocks : List Nat)
    (s : State) : killReport cls owner cause blocks s =
      finish (ownerRing owner, ownerTag owner) (failWith 0x104 cause.toNat) (poolFree 3 blocks s) := by
  rcases hcls with rfl | rfl <;> rfl

end Parks

/-! Writing replies never parks a completion ring, and takes no park record. -/

@[simp] theorem holdReplies_parked (now : Nat) (l : List Reply) (c : ComRing) :
    (holdReplies now l c).parked = c.parked := by
  unfold holdReplies
  split
  · rfl
  · split <;> rfl

@[simp] theorem writeReply_parked (n : Nat) (r : Reply) (s : State) :
    (cqAt (writeReply n r s) n).parked = (cqAt s n).parked := by
  unfold writeReply
  dsimp only
  split <;> simp [cqAt, setCq, noteEntry, hwSet]

theorem drainReplies_parked (n : Nat) (l : List Reply) (s : State) :
    (cqAt (drainReplies n l s) n).parked = (cqAt s n).parked := by
  induction l generalizing s with
  | nil => simp [drainReplies]
  | cons r rs ih =>
    unfold drainReplies
    split
    · rw [ih, writeReply_parked]
    · simp

theorem flushCq_parked (n : Nat) (s : State) : (cqAt (flushCq n s) n).parked = (cqAt s n).parked :=
  drainReplies_parked n _ s

theorem flushCq_mem (n : Nat) (s : State) : (flushCq n s).mem = s.mem := by
  have hsame : SameButReplies s (flushCq n s) := sameButReplies_drainReplies n _ s
  unfold SameButReplies at hsame
  rw [hsame]

/-! ## Invalidation of translations (R287) -/

/-- No transfer is in progress on the engine, so that it stands at a granule boundary. -/
abbrev engineIdle (s : State) (e : DmaEngine) : Prop := (activeOf (engineList s e)).isNone = true

/-- An invalidation that names context `c`, or all of them, waits for the engine. -/
def awaits (s : State) (e : DmaEngine) (c : Nat) : Prop :=
  ∃ x ∈ s.mem.tlbWait, x.1 = e ∧ ∀ k, x.2 = some k → k.toNat = c

/-- Two states differ at most in the cached translations and the invalidations that wait. -/
def SameButTranslations (s t : State) : Prop :=
  t = { s with mem := { s.mem with tlb := t.mem.tlb, tlbWait := t.mem.tlbWait } }

theorem SameButTranslations.refl (s : State) : SameButTranslations s s := rfl

theorem SameButTranslations.trans {s t u : State} (h : SameButTranslations s t) (k : SameButTranslations t u) :
    SameButTranslations s u := by
  unfold SameButTranslations at *
  rw [k, h]

theorem SameButTranslations.engineList {s t : State} (h : SameButTranslations s t) (e : DmaEngine) :
    Machine.engineList t e = Machine.engineList s e := by
  unfold SameButTranslations at h
  rw [h]
  cases e <;> rfl

theorem SameButTranslations.idle_iff {s t : State} (h : SameButTranslations s t) (e : DmaEngine) :
    engineIdle t e ↔ engineIdle s e := by
  rw [engineIdle, h.engineList, engineIdle]

theorem mem_allEngines (e : DmaEngine) : e ∈ allEngines := by
  cases e with
  | timed n | bulk n | host n => simpa [allEngines] using ⟨n.toNat, n.isLt, BitVec.ofNat_toNat ..⟩

theorem sameButTranslations_boundaryFlush (e : DmaEngine) (s : State) : SameButTranslations s (boundaryFlush e s) := by
  unfold boundaryFlush
  dsimp only
  split <;> rfl

theorem mem_tlbWait_boundaryFlush {e : DmaEngine} {s : State} {x : DmaEngine × Option (BitVec 8)} :
    x ∈ (boundaryFlush e s).mem.tlbWait ↔ x ∈ s.mem.tlbWait ∧ x.1 ≠ e := by
  unfold boundaryFlush
  dsimp only
  split
  case isTrue hnone =>
    have hother : ∀ y ∈ s.mem.tlbWait, y.1 ≠ e := by simpa using hnone
    exact ⟨fun hx => ⟨hx, hother x hx⟩, And.left⟩
  case isFalse => simp

theorem mem_tlb_boundaryFlush {e : DmaEngine} {s : State} {x : DmaEngine × Nat × Nat × BitVec 64} :
    x ∈ (boundaryFlush e s).mem.tlb ↔ x ∈ s.mem.tlb ∧ ¬(x.1 = e ∧ awaits s e x.2.1) := by
  unfold boundaryFlush
  dsimp only
  split
  case isTrue hnone =>
    have hother : ∀ y ∈ s.mem.tlbWait, y.1 ≠ e := by simpa using hnone
    refine ⟨fun hx => ⟨hx, ?_⟩, And.left⟩
    rintro ⟨-, y, hy, hmine, -⟩
    exact hother y hy hmine
  case isFalse =>
    simp only [List.mem_filter, Bool.not_eq_true', Bool.and_eq_false_imp, beq_iff_eq, List.any_eq_false, awaits, not_and,
      not_exists]
    refine and_congr_right fun _ => imp_congr_right fun _ => forall_congr' fun y => ?_
    obtain ⟨d, _ | k⟩ := y
    · simp
    · simp

theorem awaits_boundaryFlush {e d : DmaEngine} (h : d ≠ e) (s : State) (c : Nat) :
    awaits (boundaryFlush e s) d c ↔ awaits s d c := by
  constructor
  · rintro ⟨x, hx, hd, hc⟩
    exact ⟨x, (mem_tlbWait_boundaryFlush.1 hx).1, hd, hc⟩
  · rintro ⟨x, hx, hd, hc⟩
    exact ⟨x, mem_tlbWait_boundaryFlush.2 ⟨hx, hd ▸ h⟩, hd, hc⟩

/-- Every idle engine of a list passes a granule boundary. -/
def flushIdle (es : List DmaEngine) (s : State) : State :=
  es.foldl (fun s e => if (activeOf (engineList s e)).isNone then boundaryFlush e s else s) s

section
variable {e : DmaEngine} {s : State}

theorem flushIdle_cons_idle (h : engineIdle s e) (r : List DmaEngine) :
    flushIdle (e :: r) s = flushIdle r (boundaryFlush e s) := by
  rw [flushIdle, List.foldl_cons, if_pos h, flushIdle]

theorem flushIdle_cons_busy (h : ¬engineIdle s e) (r : List DmaEngine) : flushIdle (e :: r) s = flushIdle r s := by
  rw [flushIdle, List.foldl_cons, if_neg h, flushIdle]

theorem not_awaits_boundaryFlush (c : Nat) : ¬awaits (boundaryFlush e s) e c := by
  rintro ⟨y, hy, hmine, -⟩
  exact (mem_tlbWait_boundaryFlush.1 hy).2 hmine

end

theorem sameButTranslations_flushIdle (es : List DmaEngine) (s : State) : SameButTranslations s (flushIdle es s) := by
  induction es generalizing s with
  | nil => exact .refl s
  | cons e r ih =>
    by_cases hidle : engineIdle s e
    · rw [flushIdle_cons_idle hidle]
      exact (sameButTranslations_boundaryFlush e s).trans (ih _)
    · rw [flushIdle_cons_busy hidle]
      exact ih s

/-- The translations that remain: of an idle engine, those of the contexts that no invalidation names. -/
theorem mem_tlb_flushIdle {es : List DmaEngine} {s : State} {x : DmaEngine × Nat × Nat × BitVec 64} :
    x ∈ (flushIdle es s).mem.tlb ↔ x ∈ s.mem.tlb ∧ ¬(x.1 ∈ es ∧ engineIdle s x.1 ∧ awaits s x.1 x.2.1) := by
  induction es generalizing s with
  | nil => simp [flushIdle]
  | cons e r ih =>
    by_cases hidle : engineIdle s e
    case neg =>
      have hmine : x.1 = e → ¬engineIdle s x.1 := fun he => he ▸ hidle
      rw [flushIdle_cons_busy hidle, ih, List.mem_cons]
      tauto
    case pos =>
      rw [flushIdle_cons_idle hidle, ih, mem_tlb_boundaryFlush, (sameButTranslations_boundaryFlush e s).idle_iff,
        List.mem_cons]
      by_cases he : x.1 = e
      · have hflushed := not_awaits_boundaryFlush (e := e) (s := s) x.2.1
        rw [he]
        tauto
      · rw [awaits_boundaryFlush he]
        tauto

/-- The context that a value of MEM_TLB_INV names, or none for all. -/
abbrev namedContext (v : Word) : Option (BitVec 8) := if v.getLsbD 8 then none else some (v.extractLsb' 0 8)

/-- The state in which an invalidation waits for every engine. -/
abbrev withInvalidation (v : Word) (s : State) : State :=
  { s with mem := { s.mem with tlbWait := s.mem.tlbWait ++ allEngines.map fun e => (e, namedContext v) } }

theorem invalidate_eq (v : Word) (s : State) : invalidate_ v s = flushIdle allEngines (withInvalidation v s) := rfl

theorem exec_tlbInvalidate (v : Word) (s : State) :
    exec (.tlbInvalidate v) s = .next (if hostAccess s then invalidate_ v s else s) := rfl

theorem sameButTranslations_invalidate (v : Word) (s : State) : SameButTranslations s (invalidate_ v s) :=
  .trans (t := withInvalidation v s) rfl (sameButTranslations_flushIdle _ _)

theorem awaits_withInvalidation {v : Word} {c : Nat} (h : v.getLsbD 8 = true ∨ c = (v.extractLsb' 0 8).toNat) (s : State)
    (e : DmaEngine) : awaits (withInvalidation v s) e c := by
  refine ⟨(e, namedContext v), List.mem_append_right _ (List.mem_map_of_mem (mem_allEngines e)), rfl, fun k hk => ?_⟩
  rcases h with hall | rfl
  · simp [namedContext, hall] at hk
  · unfold namedContext at hk
    split at hk
    · cases hk
    · cases hk
      rfl

/-- An idle engine keeps only translations of contexts that the value does not name. -/
theorem mem_tlb_invalidate {v : Word} {s : State} {x : DmaEngine × Nat × Nat × BitVec 64}
    (h : x ∈ (invalidate_ v s).mem.tlb) :
    x ∈ s.mem.tlb ∧ (engineIdle s x.1 → v.getLsbD 8 = false ∧ x.2.1 ≠ (v.extractLsb' 0 8).toNat) := by
  rw [invalidate_eq, mem_tlb_flushIdle] at h
  obtain ⟨hx, hkept⟩ := h
  refine ⟨hx, fun hidle => ?_⟩
  have hunnamed : ¬(v.getLsbD 8 = true ∨ x.2.1 = (v.extractLsb' 0 8).toNat) := fun hnamed =>
    hkept ⟨mem_allEngines x.1, hidle, awaits_withInvalidation hnamed s x.1⟩
  simpa only [not_or, Bool.not_eq_true] using hunnamed

theorem tlbDone_iff (s : State) : tlbDone s = true ↔ ∀ x ∈ s.mem.tlbWait, engineIdle s x.1 := List.all_eq_true

/-! ## BAR2 (R20, R272) -/

theorem dpaRegion_granary {o : Nat} (h : o < 0x20000000) : dpaRegion (granaryBase + o) = .granary := by
  unfold dpaRegion granaryBase
  rw [if_neg (by omega), if_pos (by omega)]

/-- A word of Granary is read where it lies. -/
theorem dpaReads_granary {o : Nat} (h : o < 0x20000000) (s : State) :
    let r := memRead s.mem.dpa (granaryBase + o)
    dpaReads 0 (granaryBase + o) 1 s =
      ([(r.1, r.2.1)], reportDpa 0 r.2.2.2 { s with mem := { s.mem with dpa := r.2.2.1 } }) := by
  simp [dpaReads, readAddr, dpaRegion_granary h]

theorem memRead_clean {m : Mem} {w : Nat} (h : memSyn m w = 0) : memRead m w = (memWord m w, false, m, []) := by
  have hkind : eccKind (memSyn m w) = .clean := by rw [h]; rfl
  simp only [memRead, hkind]

theorem memRead_marker {m : Mem} {w : Nat} (h : memSyn m w = 0x7F) :
    memRead m w = (memWord m w, true, m, [⟨w, 0x7F⟩]) := by
  have hkind : eccKind (memSyn m w) = .marker := by rw [h]; rfl
  simp only [memRead, hkind]
  rw [h]

/-- The poison marker is only counted. -/
theorem reportDpa_marker (scope w : Nat) (s : State) :
    reportDpa scope [⟨w, 0x7F⟩] s = { s with mem := { s.mem with marker := satAdd s.mem.marker 1 } } := rfl

/-- Banks that hold prepared inputs hold nothing beside the memory itself. -/
theorem bankByte_inputs {o : Nat} (hlo : 32 ≤ bankOf o) (hhi : bankOf o < 48) (s : State) : bankByte s o = 0 := by
  unfold bankByte
  dsimp only
  rw [if_neg (by omega), if_neg (by omega), if_neg (by omega), if_neg (by omega), if_neg (by omega)]

section Dword
variable {s : State} {o : Nat} (ho : o < 0x20000000)

theorem bar2Dword_closed (h : sealedUnit s o = true ∨ bankKept s o = false) : bar2Dword o s = (0, s) := by
  rcases h with h | h <;> simp [bar2Dword, h]

variable (hs : sealedUnit s o = false) (hk : bankKept s o = true)
include ho hs hk

theorem bar2Dword_marker (hm : memSyn s.mem.dpa (granaryBase + o) = 0x7F) :
    bar2Dword o s = (0xFFFFFFFF, { s with mem := { s.mem with marker := satAdd s.mem.marker 1 } }) := by
  have hin : ¬0x20000000 ≤ o := by omega
  simp only [bar2Dword, hs, hk, hin, dpaReads_granary ho, memRead_marker hm, reportDpa_marker]
  rfl

theorem bar2Dword_clean (hlo : 32 ≤ bankOf o) (hhi : bankOf o < 48) (h4 : o % 4 = 0)
    (hm : memSyn s.mem.dpa (granaryBase + o) = 0) : bar2Dword o s = (memWord s.mem.dpa (granaryBase + o), s) := by
  have hin : ¬0x20000000 ≤ o := by omega
  have hbytes : (List.range 4).map (fun i => bankByte s (o + i)) = List.replicate 4 0 := by
    have hbank : ∀ i < 4, bankByte s (o + i) = 0 := fun i hi => by
      have hsame : bankOf (o + i) = bankOf o := by unfold bankOf; omega
      exact bankByte_inputs (hsame ▸ hlo) (hsame ▸ hhi) s
    exact List.map_eq_replicate_iff.2 fun i hi => hbank i (List.mem_range.1 hi)
  simp only [bar2Dword, hs, hk, hin, dpaReads_granary ho, memRead_clean hm, hbytes]
  exact Prod.ext (BitVec.xor_zero ..) rfl

end Dword

theorem leBytes_zero : leBytes 4 0 = [0, 0, 0, 0] := by decide
theorem leBytes_allOnes : leBytes 4 (0xFFFFFFFF : Word).toNat = [0xFF, 0xFF, 0xFF, 0xFF] := by decide

/-- The record of a BAR2 access to offset `o`: FC_BAR2_SEALED or FC_BAR2_WRITE. -/
abbrev bar2Fault (code : BitVec 16) (o : Nat) : FaultRec :=
  { code, scope := 2, unit := unitCode 10 (bankOf o), body := leBytes 4 o }

theorem records_bar2Fault (code : BitVec 16) (o : Nat) (s : State) :
    Records s (recordFault (bar2Fault code o) s) code 2 :=
  records_recordFault (r := bar2Fault code o) (by simp) s

section Bar2
variable {s : State} {o : BitVec 29} (ha : hostAccess s = true)

theorem exec_bar2Read (o : BitVec 29) (n : Nat) (s : State) : exec (.bar2Read o n) s = execBar2Read o n s := rfl

theorem exec_bar2Write (o : BitVec 29) (bytes : List Byte) (s : State) :
    exec (.bar2Write o bytes) s = execBar2Write o bytes s := rfl

include ha

section Read
variable (h4 : o.toNat % 4 = 0)
include h4

theorem exec_bar2Read_dword (hs : sealedUnit s o.toNat = false) {d : Word} {u : State}
    (hd : bar2Dword o.toNat s = (d, u)) :
    exec (.bar2Read o 1) s = .next (send (.completionBytes (leBytes 4 d.toNat)) u) := by
  have hword : o.toNat / 4 * 4 = o.toNat := Nat.div_mul_cancel (Nat.dvd_of_mod_eq_zero h4)
  simp [exec_bar2Read, execBar2Read, bar2Dwords, ha, hs, hword, hd]

theorem exec_bar2Read_sealed (hs : sealedUnit s o.toNat = true) : exec (.bar2Read o 1) s =
    .next (send (.completionBytes [0, 0, 0, 0]) (recordFault (bar2Fault 0x414 o.toNat) s)) := by
  have hword : o.toNat / 4 * 4 = o.toNat := Nat.div_mul_cancel (Nat.dvd_of_mod_eq_zero h4)
  simp [exec_bar2Read, execBar2Read, bar2Dwords, ha, hs, hword, bar2Dword_closed (.inl hs), leBytes_zero, bar2Fault]

end Read

theorem exec_bar2Write_taken {bytes : List Byte} (hb : bytes ≠ []) (hw : bar2Writable s o.toNat bytes.length = true) :
    exec (.bar2Write o bytes) s =
      .next (dpaWriteBytes (granaryBase + o.toNat) (bytes.map fun b => (b, false)) s) := by
  simp [exec_bar2Write, execBar2Write, ha, hb, hw]

theorem exec_bar2Write_discarded {bytes : List Byte} (hb : bytes ≠ [])
    (hw : bar2Writable s o.toNat bytes.length = false) : exec (.bar2Write o bytes) s =
      .next (recordFault (bar2Fault 0x413 o.toNat) s) := by
  simp [exec_bar2Write, execBar2Write, ha, hb, hw, bar2Fault]

end Bar2

theorem bar2Writable_maintOff {s : State} (h : s.cmd.maintEn = false) (o n : Nat) : bar2Writable s o n = false := by
  rw [bar2Writable, h, Bool.false_and]

/-- Settles O22: each park record, invalidation and BAR2 access by the lemma that says what it does. -/
theorem parkActionsInvalidationAndBar2 : Obligations.ParkActionsInvalidationAndBar2 := by
  unfold Obligations.ParkActionsInvalidationAndBar2
  refine ⟨fun s i => ⟨exec_parkRecordAction_free, fun p hp => ?_⟩, fun s v => ⟨fun ha => ?_, fun ha => ?_⟩,
    fun s o ha h4 => ?_⟩
  case refine_1 =>
    rw [exec_parkRecordAction_held hp]
    refine ⟨fun h => by rw [parkAction_left h], fun hcls h => by rw [parkAction_tried hcls h], fun hstate hcause htried => ?_⟩
    have hacted : ¬(p.state ≠ 1 ∨ p.cause = 0x31) := by tauto
    refine ⟨fun hcls hup => ?_, fun hcls hup => ?_, fun hcls hup => ?_, fun hcls => ?_⟩
    · rw [parkAction_submission hacted (htried (by omega)) hup hcls]
    · rw [parkAction_retry hacted (by omega) (htried (by omega)) hup]
      exact ⟨triedAgain s p, rfl, rfl, hstate, rfl, rfl⟩
    · rw [parkAction_completion hacted (htried (by omega)) hup hcls]
      refine ⟨_, rfl, ?_, ?_⟩
      · rw [flushCq_parked, cqAt_setCq]
      · rw [flushCq_mem]
        exact findAt_dropAt_self _ _
    · rw [parkAction_kill hacted (by omega), killReport_command hcls]
  case refine_2 => rw [exec_tlbInvalidate, ha, if_neg Bool.false_ne_true]
  case refine_3 =>
    have hsame := sameButTranslations_invalidate v s
    refine ⟨invalidate_ v s, by rw [exec_tlbInvalidate, ha, if_pos rfl], ?_, ?_, ?_, fun x hx => ?_, tlbDone_iff _,
      fun hidle => ?_⟩
    · rw [hsame]
    · rw [hsame]
    · rw [hsame]
    · exact (mem_tlb_invalidate hx).imp_right fun hkept hidle _ => hkept hidle
    · exact (tlbDone_iff _).2 fun x _ => (hsame.idle_iff x.1).2 (hidle x.1 (mem_allEngines x.1))
  case refine_4 =>
    have ho : o.toNat < 0x20000000 := o.isLt
    refine ⟨fun hs => ?_, fun hk hs => ?_, fun hk hs => ⟨fun hm hlo hhi => ?_, fun hm => ?_⟩, fun bytes hb => ⟨fun hw => ?_,
      fun hw => ?_, fun hmaint => bar2Writable_maintOff hmaint _ _⟩⟩
    · exact ⟨_, _, exec_bar2Read_sealed ha h4 hs, rfl, records_bar2Fault _ _ s, recordFault_mem _ s⟩
    · simp [exec_bar2Read_dword ha h4 hs (bar2Dword_closed (.inr hk)), leBytes_zero]
    · rw [exec_bar2Read_dword ha h4 hs (bar2Dword_clean ho hs hk hlo hhi h4 hm)]
    · rw [exec_bar2Read_dword ha h4 hs (bar2Dword_marker ho hs hk hm), leBytes_allOnes]
      exact ⟨_, _, rfl, rfl, rfl, rfl⟩
    · exact exec_bar2Write_taken ha hb hw
    · exact ⟨_, exec_bar2Write_discarded ha hb hw, recordFault_mem _ s, records_bar2Fault _ _ s⟩

end Sys2Proof.Machine

namespace Sys2Proof.Machine

/-! ## Packet rows and tile rows -/

/-- Byte `k` of the parameters as the model's field checks read it (R31). -/
theorem selector_eq_param (p : Packet) {k n mask : Nat} (hn : 1 ≤ n) (hm : mask < 256) :
    selector p k mask = param p (8 + k) n &&& mask := by
  have hbits (i : Nat) (hi : 8 ≤ i) : mask.testBit i = false :=
    Nat.testBit_lt_two_pow (hm.trans_le (Nat.pow_le_pow_right (n := 2) (by decide) hi))
  rw [selector, param, Nat.add_sub_cancel_left, Nat.shiftRight_eq_div_pow, show 256 = 2 ^ 8 from rfl]
  refine Nat.eq_of_testBit_eq fun i => ?_
  simp only [Nat.testBit_and, Nat.testBit_mod_two_pow]
  rcases Nat.lt_or_ge i 8 with hi | hi
  · simp [hi, show i < 8 * n by omega]
  · simp [hbits i hi]

theorem ofOp_of_beq {op : Byte} {p : Packet} (h : (p.opcode == op) = true) : ofOp op p = true := h

theorem ofKind_of_selector {op : Byte} {p : Packet} {k n mask sel top : Nat} (hn : 1 ≤ n) (hm : mask < 256)
    (h : (p.opcode == op && selector p k mask == sel) = true) : ofKind op (8 + k) n mask sel top p = true := by
  rw [selector_eq_param p hn hm, Bool.and_eq_true] at h
  simp [ofKind, h.1, h.2]

/-- A command that a submission ring carries is one packet step, and a well-formed one carries a packet of its row. -/
theorem exec_of_packetOf {c : Instr} {ring : BitVec 6} {p : Packet} (h : packetOf c = some (ring, p)) :
    ∃ mine body, (wellFormed c = true → mine p = true) ∧ ∀ s, exec c s = packetStep mine ring p body s := by
  cases c <;> simp only [packetOf, Option.some.injEq, Prod.mk.injEq, reduceCtorEq] at h
  all_goals obtain ⟨rfl, rfl⟩ := h
  case portConfigPort | portConfigDatagram | fwStageBailiff | fwStagePatch | fwArmBailiff | fwArmPatch | fwActivate |
      fwDisarm =>
    refine ⟨_, _, fun h => ofKind_of_selector ?_ ?_ h, fun s => by unfold exec; rfl⟩ <;> decide
  all_goals exact ⟨_, _, ofOp_of_beq, fun s => by unfold exec; rfl⟩

/-! ## Commands complete -/

/-- A command that answers a next state, or stops because its operand is not one of its row (`wf` false). -/
def Completes (wf : Bool) (r : Res) : Prop := (∃ t, r = .next t) ∨ (r = .fault .notThisCommand ∧ wf = false)

theorem completes_next (wf : Bool) (t : State) : Completes wf (.next t) := .inl ⟨t, rfl⟩

theorem completes_ite {wf : Bool} {b : Prop} [Decidable b] {r : Res} (h : b → wf = false) (k : Completes wf r) :
    Completes wf (if b then .fault .notThisCommand else r) := by
  split
  case isTrue hb => exact .inr ⟨rfl, h hb⟩
  case isFalse => exact k

theorem completes_packetStep {wf : Bool} {mine : Packet → Bool} {ring : BitVec 6} {p : Packet}
    {body : Fetched → State → State} (h : wf = true → mine p = true) (s : State) :
    Completes wf (packetStep mine ring p body s) := by
  refine completes_ite (fun hb => Bool.eq_false_iff.2 fun hw => ?_) ?_
  · simp [h hw] at hb
  · dsimp only
    repeat' split
    all_goals exact completes_next _ _

theorem completes_tileStep {wf : Bool} {mine : Nat → Bool} {checks : List Check} {ready : State → Nat → Nat → Bool}
    {body : Nat → Nat → State → State} {core : BitVec 7} {w : BitVec 128} (h : wf = true → mine w.toNat = true)
    (s : State) : Completes wf (tileStep mine checks ready body core w s) := by
  refine completes_ite (fun hb => Bool.eq_false_iff.2 fun hw => ?_) (completes_next _ _)
  simp [h hw] at hb

theorem bitsOf_eq_tileField (w : BitVec 128) (lo n : Nat) (hn : 1 ≤ n) :
    bitsOf w.toNat (lo + n - 1) lo = tileField w lo n := by
  rw [bitsOf, tileField, Nat.shiftRight_eq_div_pow]
  congr 2; omega

theorem completes_vecStep (func : Nat) (body : Nat → Nat → State → State) (core : BitVec 7) (w : BitVec 128) (s : State) :
    Completes (tileOp w == 6 && tileField w 8 8 == func) (vecStep func body core w s) := by
  refine completes_tileStep (fun h => decide_eq_true ?_) s
  simp only [Bool.and_eq_true, beq_iff_eq] at h
  exact ⟨h.1, (bitsOf_eq_tileField w 8 8 (by decide)).trans h.2⟩

theorem exec_completes (c : Instr) (s : State) : Completes (wellFormed c) (exec c s) := by
  cases hp : packetOf c with
  | some r =>
    obtain ⟨mine, body, hm, he⟩ := exec_of_packetOf hp
    exact he s ▸ completes_packetStep hm s
  | none =>
    cases c <;> simp only [packetOf, reduceCtorEq] at hp
    all_goals unfold exec
    case vecRequantise | vecAdd | vecSubtract | vecMultiply | vecFusedMultiplyAdd | vecMinimum | vecMaximum |
        vecCompare | vecSelect | vecRelu | vecClip | vecLeakyRelu | vecShift | vecConversion | vecDivide |
        vecReciprocal | vecSquareRoot | vecReciprocalSquareRoot | vecExp | vecExp2 | vecLog | vecLog2 |
        vecSigmoid | vecTanh | vecSoftplus | vecSilu | vecGelu | vecSoftmax | vecLayerNormalisation | vecSum |
        vecAxisMaximum | vecAxisMinimum | vecArgmax | vecTopK | vecDepthwiseConvolution | vecResampling |
        vecRepacking | vecTranspose | vecConcatenation | vecSplit | vecBoxDecoding | vecNonMaximumSuppression =>
      exact completes_vecStep ..
    case syncEnd | syncSteps | syncQuiet | syncMarks | syncParam =>
      refine completes_tileStep (fun h => ?_) s
      rw [isSync, bitsOf_eq_tileField _ 8 3 (by decide)]
      exact h
    case wloadWeights | wloadScales | matmul | conv | pool | crop | claim | dmaIn | dmaOut =>
      simp only [execWloadWeights, execWloadScales, execMatmul, execConv, execPool, execCrop, execClaim, execDmaIn,
        execDmaOut]
      refine completes_tileStep (fun h => decide_eq_true ?_) s
      simp only [wellFormed, tileOp, tileField, Bool.and_eq_true, beq_iff_eq] at h
      simpa [insnOp, bitsOf, Nat.shiftRight_eq_div_pow, BitVec.getLsbD] using h
    case ringEnable => exact completes_ite (fun h => by simpa [wellFormed, cfgEnable] using h) (completes_next _ _)
    case ringDisable => exact completes_ite (fun h => by simpa [wellFormed, cfgEnable] using h) (completes_next _ _)
    case fwConfirm | fwReject => exact completes_ite (fun h => by simpa [wellFormed] using h) (completes_next _ _)
    case interruptDisableWrite =>
      dsimp only [execInterruptDisableWrite]
      split <;> exact completes_next _ _
    all_goals exact completes_next _ _

/-- Settles O2: every row is a packet step, a tile step, or one of four register writes and otherwise answers at once. -/
theorem commandsCompleteUnlessForeign : Obligations.CommandsCompleteUnlessForeign := by
  unfold Obligations.CommandsCompleteUnlessForeign
  refine ⟨fun c s hw => ?_, exec_completes⟩
  rcases exec_completes c s with h | ⟨_, hf⟩
  · exact h
  · exact absurd hw (by simp [hf])

end Sys2Proof.Machine

namespace Sys2Proof.Machine

/-! ## The checks of R32 -/

/-- Offsets of an opcode's field checks ascend, and lie among its parameters (R38). -/
theorem fieldChecks_offsets (op : Nat) (p : Packet) :
    ((fieldChecks op p).map Prod.fst).Pairwise (· ≤ ·) ∧
      ∀ o ∈ (fieldChecks op p).map Prod.fst, o < 8 + getAt 0 op paramLength := by
  unfold fieldChecks
  split
  case h_3 => split <;> decide
  case h_26 => simp
  all_goals decide

theorem fieldChecks_echo (p : Packet) : fieldChecks 0x80 p = [] := rfl

/-- The verdicts that refuse a packet stand in ascending order of packet offset, where its LENGTH is in order. -/
theorem pairwise_paramVerdicts {p : Packet} (hlen : p.opcode ≠ 0x80 → getAt 0 p.opcode.toNat paramLength ≤ p.length.toNat) :
    ((paramVerdicts p).filter (·.2)).Pairwise (·.1 ≤ ·.1) := by
  obtain ⟨hsort, hmem⟩ := fieldChecks_offsets p.opcode.toNat p
  rw [paramVerdicts, List.filter_append, List.pairwise_append]
  refine ⟨List.Pairwise.filter _ ?_, List.Pairwise.filter _ ?_, fun a ha b hb => ?_⟩
  · simpa only [List.pairwise_map] using hsort
  · rw [List.pairwise_map]
    exact List.pairwise_lt_range.imp fun h => by simp; omega
  · obtain ⟨c, hc, rfl⟩ := List.mem_map.1 (List.mem_filter.1 ha).1
    obtain ⟨⟨i, -, rfl⟩, hi⟩ := (List.mem_filter.1 hb).imp_left List.mem_map.1
    have hle : p.length.toNat ≤ i := of_decide_eq_true (Bool.and_eq_true_iff.1 hi).1
    have hlt := hmem c.1 (List.mem_map_of_mem hc)
    by_cases hop : p.opcode = 0x80
    · simp [hop, fieldChecks_echo] at hc
    · have := hlen hop
      dsimp only
      omega

/-- LENGTH is not that of the opcode (R38). -/
abbrev BadLength (p : Packet) : Prop :=
  if p.opcode = 0x80 then 56 < p.length.toNat else p.length.toNat ≠ getAt 0 p.opcode.toNat paramLength

theorem badLength_iff (p : Packet) : (if p.opcode == 0x80 then decide (56 < p.length.toNat)
    else p.length.toNat != getAt 0 p.opcode.toNat paramLength) = true ↔ BadLength p := by
  simp only [BadLength, beq_iff_eq]
  split <;> simp

/-- The first four checks of R32 pass. -/
structure Admissible (s : State) (ring : BitVec 6) (p : Packet) : Prop where
  tag : tagBusy s ring p.tag = false
  assigned : assignedOp p.opcode = true
  maint : maintOp p.opcode = false ∨ s.cmd.maintEn = true
  length : ¬ BadLength p

/-- The fifth check of R32 fails at FLAGS, at CTX, or at the reserved byte. -/
abbrev BadFlags (p : Packet) : Prop := p.flags.toNat &&& 0xFC ≠ 0 ∨ (pktQuiet p = true ∧ mgmtOpcode p.opcode = true)
abbrev BadContext (p : Packet) : Prop := (namesStream p.opcode = false ∧ p.ctx ≠ 0) ∨ p.ctx.toNat &&& 0xF000 ≠ 0

theorem headerChecks_eq (p : Packet) :
    headerChecks p = [(1, decide (BadFlags p)), (4, decide (BadContext p)), (7, decide (p.rsv ≠ 0))] := by
  have h1 : (p.flags.toNat &&& 0xFC != 0 || (pktQuiet p && mgmtOpcode p.opcode)) = decide (BadFlags p) :=
    Bool.eq_iff_iff.2 (by simp [BadFlags])
  have h4 : ((!namesStream p.opcode && p.ctx != 0) || p.ctx.toNat &&& 0xF000 != 0) = decide (BadContext p) :=
    Bool.eq_iff_iff.2 (by simp [BadContext])
  have h7 : (p.rsv != 0) = decide (p.rsv ≠ 0) := Bool.eq_iff_iff.2 (by simp)
  rw [headerChecks, h1, h4, h7]

/-- The first failing verdict is the one of the lowest offset, where the failing verdicts ascend. -/
theorem find_le_of_pairwise {l : List (Nat × Bool)} {e : Nat × Bool} (h : (l.filter (·.2)).Pairwise (·.1 ≤ ·.1))
    (hf : l.find? (·.2) = some e) : ∀ x ∈ l, x.2 = true → e.1 ≤ x.1 := by
  intro x hx hb
  rw [← List.head?_filter, List.head?_eq_some_iff] at hf
  obtain ⟨r, hr⟩ := hf
  have hmem : x ∈ e :: r := hr ▸ List.mem_filter.2 ⟨hx, hb⟩
  rcases List.mem_cons.1 hmem with rfl | hmem
  · exact le_rfl
  · exact (List.pairwise_cons.1 (hr ▸ h)).1 x hmem

section Checks
variable {s : State} {ring : BitVec 6} {p : Packet}

theorem packetCheck_tag (h : tagBusy s ring p.tag = true) : packetCheck s ring p = some (failWith 0x0102 0) := by
  rw [packetCheck, if_pos h]

theorem packetCheck_opcode (h : tagBusy s ring p.tag = false) (ha : assignedOp p.opcode = false) :
    packetCheck s ring p = some (failWith 0x0100 0) := by
  simp [packetCheck, h, ha]

theorem packetCheck_maint (h : tagBusy s ring p.tag = false) (ha : assignedOp p.opcode = true)
    (hm : maintOp p.opcode = true ∧ s.cmd.maintEn = false) : packetCheck s ring p = some (failWith 0x0103 0) := by
  simp [packetCheck, h, ha, hm.1, hm.2]

theorem packetCheck_length (h : tagBusy s ring p.tag = false) (ha : assignedOp p.opcode = true)
    (hm : maintOp p.opcode = false ∨ s.cmd.maintEn = true) (hl : BadLength p) :
    packetCheck s ring p = some (failWith 0x0101 (getAt 0 p.opcode.toNat paramLength)) := by
  have hm' : (maintOp p.opcode && !s.cmd.maintEn) = false := by rcases hm with h | h <;> simp [h]
  simp only [packetCheck, h, ha, hm', Bool.not_true, Bool.false_eq_true, if_false]
  exact if_pos ((badLength_iff p).2 hl)

/-- Past the first four checks, header and parameters decide. -/
theorem packetCheck_of_admissible (h : Admissible s ring p) : packetCheck s ring p =
    ((((headerChecks p).find? (·.2)).or ((paramVerdicts p).find? (·.2))).map fun e => failWith 0x0100 e.1) := by
  obtain ⟨htag, hop, hm, hl⟩ := h
  have hm' : (maintOp p.opcode && !s.cmd.maintEn) = false := by rcases hm with h | h <;> simp [h]
  simp only [packetCheck, htag, hop, hm', Bool.not_true, Bool.false_eq_true, if_false]
  rw [if_neg fun hb => hl ((badLength_iff p).1 hb)]
  cases (headerChecks p).find? (·.2) <;> cases (paramVerdicts p).find? (·.2) <;> rfl

/-- Past the first five checks, the parameters decide. -/
theorem packetCheck_of_header (h : Admissible s ring p) (h1 : ¬ BadFlags p) (h4 : ¬ BadContext p) (h7 : ¬ p.rsv ≠ 0) :
    packetCheck s ring p = ((paramVerdicts p).find? (·.2)).map fun e => failWith 0x0100 e.1 := by
  rw [packetCheck_of_admissible h, headerChecks_eq, decide_eq_false h1, decide_eq_false h4, decide_eq_false h7]
  rfl

theorem Admissible.length_le (h : Admissible s ring p) (hop : p.opcode ≠ 0x80) :
    getAt 0 p.opcode.toNat paramLength ≤ p.length.toNat := by
  have := h.length
  rw [BadLength, if_neg hop, not_not] at this
  exact this.ge

theorem mem_paramVerdicts_reserved {i : Nat} (hi : p.length.toNat ≤ i) (h56 : i < 56) (hne : param p (8 + i) 1 ≠ 0) :
    (8 + i, true) ∈ paramVerdicts p :=
  List.mem_append_right _ (List.mem_map.2 ⟨i, List.mem_range.2 h56, by simp [hi, hne]⟩)

end Checks

/-- Settles O3. -/
theorem packetChecksRunInOrderAndAlone : Obligations.PacketChecksRunInOrderAndAlone := by
  unfold Obligations.PacketChecksRunInOrderAndAlone
  refine ⟨fun s ring p => ⟨packetCheck_tag, fun htag => ⟨packetCheck_opcode htag, fun hop => ⟨packetCheck_maint htag hop,
    fun hm => ⟨packetCheck_length htag hop hm, fun hl => ?_⟩⟩⟩⟩, fun c ring p s r hc hw hq hf hr => ?_⟩
  · have hadm : Admissible s ring p := ⟨htag, hop, hm, hl⟩
    have header := (packetCheck_of_admissible hadm).trans (by rw [headerChecks_eq])
    refine ⟨fun h1 => ?_, fun h1 h4 => ?_, fun h1 h4 h7 => ?_, fun h1 h4 h7 => ⟨fun o ho => ?_, fun hall => ?_,
      fun i hi h56 hne => ?_⟩⟩
    · rw [header, decide_eq_true h1]; rfl
    · rw [header, decide_eq_false h1, decide_eq_true h4]; rfl
    · rw [header, decide_eq_false h1, decide_eq_false h4, decide_eq_true h7]; rfl
    · obtain ⟨e, he, rfl⟩ := Option.map_eq_some_iff.1 ho
      rw [packetCheck_of_header hadm h1 h4 h7, he]
      exact ⟨rfl, find_le_of_pairwise (pairwise_paramVerdicts hadm.length_le) he⟩
    · rw [packetCheck_of_header hadm h1 h4 h7, List.find?_eq_none.2 fun e he => by simp [hall e he]]; rfl
    · rw [packetCheck_of_header hadm h1 h4 h7, Ne, Option.map_eq_none_iff, List.find?_eq_none]
      exact fun h => h _ (mem_paramVerdicts_reserved hi h56 hne) rfl
  · obtain ⟨mine, body, hmine, hexec⟩ := exec_of_packetOf hc
    exact ⟨(hexec s).trans (packetStep_checked (hmine hw) hq hf hr),
      (sameButReplies_fetch ring s).trans (sameButReplies_answer _ r _)⟩

end Sys2Proof.Machine

namespace Sys2Proof.Machine

/-! ## Packets that wait -/

theorem mem_joinOut_self (first : Bool) (n : Outstanding) (l : List Outstanding) : n ∈ joinOut first n l := by
  induction l with
  | nil => exact List.mem_singleton_self n
  | cons o r ih =>
    unfold joinOut
    split
    · exact List.mem_cons_self
    · exact List.mem_cons_of_mem _ ih

/-- A command that joins the outstanding commands waits for its cause. -/
theorem waits_wait (f : Fetched) (cause : WaitCause) (s : State) : Waits (wait_ f cause s) f.ring f.tag cause :=
  ⟨_, mem_joinOut_self _ _ _, rfl, rfl, rfl⟩

section Fetching
variable {s : State} {ring : BitVec 6} {p : Packet}

/-- What a fetch needs (R25, R28, R33, R37). -/
theorem not_fetchable (h : (sqAt s ring.toNat).enable = false ∨ (sqAt s ring.toNat).head = (sqAt s ring.toNat).tail ∨
      (64 ≤ (cqAt s (sqAt s ring.toNat).cqSel.toNat).held.length ∧ p.opcode ≠ 0x48) ∨
      (pktFence p = true ∧ ringBusy s ring = true) ∨ (mgmtOpcode p.opcode = true ∧ 256 ≤ mgmtOutstanding s)) :
    fetchable s ring p = false := by
  rw [Bool.eq_false_iff, Ne, fetchable]
  simp only [Bool.and_eq_true, Bool.or_eq_true, decide_eq_true_eq, bne_iff_ne, beq_iff_eq, Bool.not_eq_true']
  rintro ⟨⟨⟨⟨⟨⟨⟨⟨⟨he, ht⟩, -⟩, -⟩, -⟩, hheld⟩, hfence⟩, hmgmt⟩, -⟩, -⟩
  rcases h with h | h | ⟨h, hop⟩ | ⟨hf, hb⟩ | ⟨hm, h⟩
  · simp [h] at he
  · exact ht h
  · rcases hheld with hlt | heq
    · omega
    · exact hop heq
  · simp [hf, hb] at hfence
  · rcases hmgmt with hn | ⟨hlt, -⟩
    · simp [hm] at hn
    · omega

/-- A management command waits for one of its ring that still executes (R51). -/
theorem mustQueue_of_executing {o : Outstanding} (hm : mgmtOpcode p.opcode = true) (hclose : p.opcode ≠ 0x0A)
    (hswitch : p.opcode ≠ 0x22) (ho : o ∈ s.cmd.outstanding) (hr : o.ring = ring) (he : executing o = true) :
    mustQueue s (fetchedOf s ring p) = true := by
  have hw : waitsFor o ring p.opcode (p.ctx.setWidth 12) = true := by
    simp only [waitsFor, he, hr, beq_false_of_ne hclose, beq_false_of_ne hswitch, beq_self_eq_true, Bool.false_and,
      Bool.not_false, Bool.and_self, Bool.true_or]
  exact Bool.and_eq_true_iff.2 ⟨hm, List.any_eq_true.2 ⟨o, ho, hw⟩⟩

end Fetching

/-- Settles O4. -/
theorem packetsWaitUntilFetchedAndExecuted : Obligations.PacketsWaitUntilFetchedAndExecuted := by
  unfold Obligations.PacketsWaitUntilFetchedAndExecuted
  refine ⟨fun c ring p s hc hw hq hblock => ?_, fun c ring p s o hc hw hq hf hr hm hclose hswitch ho hring he => ?_⟩
  all_goals obtain ⟨mine, body, hmine, hexec⟩ := exec_of_packetOf hc
  · exact (hexec s).trans (packetStep_held (hmine hw) hq (not_fetchable hblock))
  · have hqueue := mustQueue_of_executing hm hclose hswitch ho hring he
    exact ⟨(hexec s).trans (packetStep_queued (hmine hw) hq hf hr hqueue), waits_wait _ _ _⟩

end Sys2Proof.Machine

namespace Sys2Proof.Machine

/-! ## One reply (R27, R35) -/

/-- What answering a command leaves of the link and of GLB: the Command register, the mask and READY. -/
structure KeepsControls (s t : State) : Prop where
  command : t.link.command = s.link.command
  mask : t.glb.mask = s.glb.mask
  ready : t.glb.ready = s.glb.ready

namespace KeepsControls
variable {s t u : State}

theorem refl (s : State) : KeepsControls s s := ⟨rfl, rfl, rfl⟩

theorem trans (h : KeepsControls s t) (k : KeepsControls t u) : KeepsControls s u :=
  ⟨k.command.trans h.command, k.mask.trans h.mask, k.ready.trans h.ready⟩

theorem writeReply (n : Nat) (r : Reply) (s : State) : KeepsControls s (writeReply n r s) := by
  unfold Machine.writeReply
  dsimp only
  split
  · exact ⟨by rw [updateWire_link]; rfl, by rw [updateWire_mask]; rfl, by rw [updateWire_ready]; rfl⟩
  · exact ⟨rfl, rfl, rfl⟩

theorem drainReplies (n : Nat) (l : List Reply) (s : State) : KeepsControls s (drainReplies n l s) := by
  induction l generalizing s with
  | nil => exact ⟨rfl, rfl, rfl⟩
  | cons r rs ih =>
    unfold Machine.drainReplies
    split
    · exact (writeReply n r s).trans (ih _)
    · exact ⟨rfl, rfl, rfl⟩

theorem pushReply (r : Reply) (s : State) : KeepsControls s (pushReply r s) := drainReplies _ _ s

theorem releaseReplies (ring : BitVec 6) (l : List Outstanding) (b : Bool) (s : State) :
    KeepsControls s (releaseReplies ring l b s) := by
  induction l generalizing b s with
  | nil => exact refl s
  | cons o os ih =>
    unfold Machine.releaseReplies
    have kept (b : Bool) : KeepsControls s (Machine.releaseReplies ring os b
        { s with cmd := { s.cmd with outstanding := s.cmd.outstanding ++ [o] } }) := by
      refine trans ?_ (ih _ _)
      exact ⟨rfl, rfl, rfl⟩
    split
    · split
      · split
        · exact kept _
        · split
          · exact ih _ _
          · exact (pushReply _ _).trans (ih _ _)
      · exact kept _
    · exact kept _

theorem answer (f : Fetched) (r : Reply) (s : State) : KeepsControls s (answer f r s) := by
  unfold Machine.answer releaseRing
  refine trans ?_ (releaseReplies _ _ _ _)
  exact ⟨rfl, rfl, rfl⟩

end KeepsControls

@[simp] theorem leBytes_length (n v : Nat) : (leBytes n v).length = n := by simp [leBytes]

theorem replyBytes_length (r : Reply) (phase : Bool) (sqHead : Nat) : (replyBytes r phase sqHead).length = 32 := by
  simp [replyBytes]

theorem replyBytes_take (r : Reply) (phase : Bool) (sqHead : Nat) :
    (replyBytes r phase sqHead).take 5 = leBytes 2 r.tag.toNat ++ leBytes 2 r.status.toNat ++ [r.opcode] := rfl

theorem replyBytes_ring (r : Reply) (phase : Bool) (sqHead : Nat) :
    (replyBytes r phase sqHead).getD 5 0 = BitVec.ofNat 8 (r.ring.toNat + 64 * b2n r.interim + 128 * b2n phase) := rfl

/-- A completion ring after an entry was written to it. -/
def nextEntry (c : ComRing) : ComRing :=
  let last := c.tail + 1 = 2 ^ c.sizeLog2.toNat
  { c with tail := if last then 0 else c.tail + 1, phase := if last then !c.phase else c.phase, credit := c.credit - 1 }

/-- Of the rings, a written reply changes the completion ring that takes it. -/
theorem writeReply_cmd (n : Nat) (r : Reply) (s : State) :
    (writeReply n r s).cmd = { s.cmd with cq := putAt n (nextEntry (cqAt s n)) s.cmd.cq } := by
  simp only [writeReply, decide_eq_true_eq]
  split
  · rw [updateWire_cmd]; rfl
  · rfl

theorem cqAt_writeReply (n : Nat) (r : Reply) (s : State) : cqAt (writeReply n r s) n = nextEntry (cqAt s n) := by
  rw [cqAt, writeReply_cmd, getAt_putAt_self]

theorem mem_out_writeReply (n : Nat) (r : Reply) (s : State) :
    .hostWrite (BitVec.ofNat 64 ((cqAt s n).base.toNat + 32 * (cqAt s n).tail))
      (replyBytes r (cqAt s n).phase (sqAt s r.ring.toNat).head) ∈ (writeReply n r s).out := by
  unfold writeReply
  dsimp only
  split
  · exact mem_out_updateWire List.mem_cons_self
  · exact List.mem_cons_self

/-- The completion ring that replies of submission ring `ring` go to. -/
abbrev boundRing (s : State) (ring : BitVec 6) : Nat := (sqAt s ring.toNat).cqSel.toNat

theorem drainReplies_cons_ready {n : Nat} {r : Reply} {rs : List Reply} {s : State} (h : cqReady s n = true) :
    drainReplies n (r :: rs) s = drainReplies n rs (writeReply n r s) := by
  rw [drainReplies, if_pos h]

/-- With no reply held and a credit, a reply is written at once. -/
theorem pushReply_ready {r : Reply} {s : State} (hheld : (cqAt s (boundRing s r.ring)).held = [])
    (hready : cqReady s (boundRing s r.ring) = true) :
    pushReply r s = drainReplies (boundRing s r.ring) [] (writeReply (boundRing s r.ring) r s) := by
  change drainReplies (boundRing s r.ring) ((cqAt s (boundRing s r.ring)).held ++ [r]) s = _
  rw [hheld, List.nil_append, drainReplies_cons_ready hready]

theorem joinOut_foreign (first : Bool) {n : Outstanding} {l : List Outstanding} (h : ∀ o ∈ l, o.ring ≠ n.ring) :
    joinOut first n l = l ++ [n] := by
  induction l with
  | nil => rfl
  | cons o r ih =>
    have ho : (o.ring == n.ring) = false := beq_false_of_ne (h o List.mem_cons_self)
    simp [joinOut, ho, ih fun x hx => h x (List.mem_cons_of_mem _ hx)]

/-- The commands of other rings stay outstanding. -/
theorem releaseReplies_foreign {ring : BitVec 6} {l : List Outstanding} (h : ∀ o ∈ l, o.ring ≠ ring)
    (m : List Outstanding) (b : Bool) (s : State) : releaseReplies ring (l ++ m) b s =
      releaseReplies ring m b { s with cmd := { s.cmd with outstanding := s.cmd.outstanding ++ l } } := by
  induction l generalizing s with
  | nil => simp
  | cons o r ih =>
    rw [List.cons_append, releaseReplies, if_neg (h o List.mem_cons_self), ih fun x hx => h x (List.mem_cons_of_mem _ hx)]
    simp

/-- The reply that answers the command of `f`, as it is written. -/
def replyOf (f : Fetched) (r : Reply) (s : State) : Reply :=
  let final := withStream f.opcode f.ctx r s
  finalOf { ring := f.ring, tag := f.tag, opcode := f.opcode, ctx := f.ctx, published := f.published
            deadline := f.published + deadlineOf s f.p, interim := f.interim, quiet := f.quiet, cause := .ready final }
    final s.now

/-- With no command of its ring ahead of it, a reply that QUIET does not hold back goes to its completion ring. -/
theorem answer_alone {f : Fetched} {r : Reply} {s : State} (hring : ∀ o ∈ s.cmd.outstanding, o.ring ≠ f.ring)
    (hquiet : f.quiet = true → mgmtOpcode f.opcode = true ∨ r.status ≠ 0) :
    answer f r s = pushReply (replyOf f r s) s := by
  have hstatus : (withStream f.opcode f.ctx r s).status = r.status := by unfold withStream; split <;> rfl
  have hspoken : (f.quiet && !mgmtOpcode f.opcode && (withStream f.opcode f.ctx r s).status == 0) = false := by
    rw [hstatus, Bool.eq_false_iff, Ne]
    simp only [Bool.and_eq_true, Bool.not_eq_true', beq_iff_eq]
    rintro ⟨⟨hq, hm⟩, hz⟩
    rcases hquiet hq with h | h
    · simp [h] at hm
    · exact h hz
  rw [answer, releaseRing, wait_]
  simp only
  rw [joinOut_foreign _ hring, releaseReplies_foreign hring]
  simp only [releaseReplies, if_pos, Bool.and_false, Bool.false_eq_true, if_false, hspoken]
  rfl

theorem holdReplies_eq (now : Nat) (l : List Reply) (c : ComRing) :
    ∃ fullFrom fullFor, holdReplies now l c = { c with held := l, fullFrom, fullFor } := by
  unfold holdReplies
  repeat' split
  all_goals exact ⟨_, _, rfl⟩

/-- A reply written at once, as its completion ring and the host see it. -/
theorem pushReply_written {r : Reply} {s : State} (hheld : (cqAt s (boundRing s r.ring)).held = [])
    (hready : cqReady s (boundRing s r.ring) = true) :
    let n := boundRing s r.ring
    let c := nextEntry (cqAt s n)
    let t := pushReply r s
    (cqAt t n).credit = c.credit ∧ (cqAt t n).tail = c.tail ∧ (cqAt t n).phase = c.phase ∧
      t.cmd.outstanding = s.cmd.outstanding ∧
      .hostWrite (BitVec.ofNat 64 ((cqAt s n).base.toNat + 32 * (cqAt s n).tail))
        (replyBytes r (cqAt s n).phase (sqAt s r.ring.toNat).head) ∈ t.out := by
  intro n c t
  have ht : t = setCq n (holdReplies _ [] c) (writeReply n r s) :=
    (pushReply_ready hheld hready).trans (by rw [drainReplies, cqAt_writeReply])
  obtain ⟨fullFrom, fullFor, hc⟩ := holdReplies_eq (writeReply n r s).now [] c
  rw [ht, cqAt_setCq, hc]
  refine ⟨rfl, rfl, rfl, ?_, mem_out_writeReply n r s⟩
  exact (congrArg Cmd.outstanding (writeReply_cmd n r s) :)

theorem replyOf_status (f : Fetched) (r : Reply) (s : State) : (replyOf f r s).status = r.status := by
  simp only [replyOf, finalOf, withStream]
  split <;> rfl

theorem replyOf_interim (f : Fetched) (r : Reply) (s : State) : (replyOf f r s).interim = r.interim := by
  simp only [replyOf, finalOf, withStream]
  split <;> rfl

/-! ## Interim replies (R36) -/

theorem exec_replyDeadline (ring : BitVec 6) (tag : BitVec 16) (s : State) :
    exec (.replyDeadline ring tag) s = execReplyDeadline ring tag s := rfl

theorem deadlinePast_iff (now : Nat) (ring : BitVec 6) (tag : BitVec 16) (o : Outstanding) :
    deadlinePast now ring tag o = true ↔
      o.ring = ring ∧ o.tag = tag ∧ mgmtOpcode o.opcode = true ∧ o.interim = false ∧ o.deadline ≤ now := by
  simp [deadlinePast, and_assoc]

/-- The interim reply to a command (R36). -/
def interimOf (o : Outstanding) (s : State) : Reply :=
  { finalOf o (withStream o.opcode o.ctx { status := 1, interim := true } s) s.now with late := false }

theorem interimOf_spec (o : Outstanding) (s : State) : (interimOf o s).status = 1 ∧ (interimOf o s).interim = true ∧
    (interimOf o s).round = 0xFFFFFFFF ∧ (interimOf o s).tag = o.tag ∧ (interimOf o s).ring = o.ring ∧
    (interimOf o s).late = false := by
  unfold interimOf finalOf withStream
  split <;> exact ⟨rfl, rfl, rfl, rfl, rfl, rfl⟩

/-- Settles O5. -/
theorem repliesTakeOneCreditAndChangeNothingElse : Obligations.RepliesTakeOneCreditAndChangeNothingElse := by
  unfold Obligations.RepliesTakeOneCreditAndChangeNothingElse
  refine ⟨fun f r s => ?_, fun f r s => ?_, fun s ring tag => ⟨fun hnone => ?_, fun o hout hr ht hm hi hd => ?_⟩⟩
  · intro n c hring hquiet hheld hready t last
    have ht : t = pushReply (replyOf f r s) s := answer_alone hring hquiet
    obtain ⟨hcredit, htail, hphase, hout, hmem⟩ := pushReply_written (r := replyOf f r s) hheld hready
    have hc : 0 < c.credit := by
      simp only [cqReady, Bool.and_eq_true, decide_eq_true_eq] at hready
      exact hready.1.1.2
    rw [ht]
    refine ⟨⟨_, replyBytes_length _ _ _, ?_, ?_, hmem⟩, ?_, htail, hphase, hout⟩
    · rw [replyBytes_take, replyOf_status]; rfl
    · rw [replyBytes_ring, replyOf_interim]; rfl
    · exact (congrArg (· + 1) hcredit).trans (Nat.sub_add_cancel hc)
  · obtain ⟨hcommand, hmask, hready⟩ := KeepsControls.answer f r s
    exact ⟨sameButReplies_answer f r s, hcommand, hmask, hready⟩
  · have hfind : s.cmd.outstanding.find? (deadlinePast s.now ring tag) = none := by
      refine List.find?_eq_none.2 fun o ho hp => ?_
      obtain ⟨hr, ht, hm, hi, hd⟩ := (deadlinePast_iff _ _ _ _).1 hp
      rcases hnone o ho hr ht hm with h | h
      · simp [hi] at h
      · omega
    rw [exec_replyDeadline, execReplyDeadline, hfind]
  · intro u
    have hp : deadlinePast s.now ring tag o = true := (deadlinePast_iff _ _ _ _).2 ⟨hr, ht, hm, hi, hd⟩
    obtain ⟨hstatus, hinterim, hround, htag, hring, hlate⟩ := interimOf_spec o s
    refine ⟨interimOf o s, hstatus, hinterim, hround, htag.trans ht, hring.trans hr, hlate, ?_⟩
    rw [exec_replyDeadline, execReplyDeadline, hout]
    simp only [List.find?_cons, hp, markInterim, if_true]
    rfl

end Sys2Proof.Machine

namespace Sys2Proof.Machine

/-! ## CMD_ERR and the interrupt causes (R29, R362) -/

theorem b2n_le_one (b : Bool) : b2n b ≤ 1 := by cases b <;> decide

/-- A bit of a weighted sum of bits. -/
theorem testBit_of_digit {v i : Nat} {b : Bool} (h : v / 2 ^ i % 2 = b2n b) : v.testBit i = b := by
  rw [Nat.testBit_eq_decide_div_mod_eq, h]
  cases b <;> rfl

/-- The CMD_ERR cause stands while a bit of CMD_ERR does. -/
theorem intCause_cmdErr (s : State) : (intCause s).getLsbD 2 = cmdErrAny s := by
  have h0 := b2n_le_one (s.glb.cqCause != 0)
  have h1 := b2n_le_one (s.glb.mrCause != 0)
  have h2 := b2n_le_one (cmdErrAny s)
  rw [intCause, BitVec.getLsbD_ofNat, testBit_of_digit (b := cmdErrAny s) (by omega)]
  rfl

theorem sameButReplies_errCfg (k : RingKind) (n : BitVec 6) (s : State) : SameButReplies s (errCfg k n s) :=
  .trans (by rfl) (sameButReplies_updateWire _)
theorem sameButReplies_errSize (k : RingKind) (n : BitVec 6) (s : State) : SameButReplies s (errSize k n s) :=
  .trans (by rfl) (sameButReplies_updateWire _)
theorem sameButReplies_errDoorbell (n : BitVec 6) (s : State) : SameButReplies s (errDoorbell n s) :=
  .trans (by rfl) (sameButReplies_updateWire _)
theorem sameButReplies_errBusy (k : RingKind) (n : BitVec 6) (s : State) : SameButReplies s (errBusy k n s) :=
  .trans (by rfl) (sameButReplies_updateWire _)

@[simp] theorem errCfg_cmd (k : RingKind) (n : BitVec 6) (s : State) :
    (errCfg k n s).cmd = cmdErr k n { s.cmd with cfgWhileEnabled := true } := by
  rw [errCfg, updateWire_cmd]; rfl
@[simp] theorem errSize_cmd (k : RingKind) (n : BitVec 6) (s : State) :
    (errSize k n s).cmd = cmdErr k n { s.cmd with badSize := true } := by
  rw [errSize, updateWire_cmd]; rfl
@[simp] theorem errDoorbell_cmd (n : BitVec 6) (s : State) :
    (errDoorbell n s).cmd = cmdErr .submission n { s.cmd with doorbellRefused := true } := by
  rw [errDoorbell, updateWire_cmd]; rfl
@[simp] theorem errBusy_cmd (k : RingKind) (n : BitVec 6) (s : State) :
    (errBusy k n s).cmd = cmdErr k n { s.cmd with disableBusy := true } := by
  rw [errBusy, updateWire_cmd]; rfl

/-! ## Doorbells (R26) -/

section Doorbell
variable {s : State} {offset : BitVec 16} {value : Word}

/-- The ring whose doorbell stands at an offset of BAR4 (R25). -/
abbrev doorbellRing (offset : BitVec 16) : BitVec 6 := BitVec.ofNat 6 (offset.toNat / 0x400)

theorem exec_doorbellWrite_reserved (h : offset.toNat % 0x400 ≠ 0) : exec (.doorbellWrite offset value) s = .next s := by
  have hoff : (hostAccess s && offset.toNat % 0x400 == 0) = false := by simp [h]
  exact congrArg Host.Outcome.next (by rw [hoff]; rfl)

theorem exec_doorbellWrite (ha : hostAccess s = true) (h : offset.toNat % 0x400 = 0) :
    exec (.doorbellWrite offset value) s = .next (doorbell (doorbellRing offset) (value.toNat % 0x10000) s) := by
  have hoff : (hostAccess s && offset.toNat % 0x400 == 0) = true := by simp [ha, h]
  exact congrArg Host.Outcome.next (if_pos hoff)

/-- Packets that a doorbell write of `tail` adds to those of ring `q`. -/
abbrev fresh (q : SubRing) (tail : Nat) : Nat := (tail + ringSize q.sizeLog2 - q.tail) % ringSize q.sizeLog2

theorem doorbell_taken {n : BitVec 6} {tail : Nat} (he : (sqAt s n.toNat).enable = true)
    (ht : tail < ringSize (sqAt s n.toNat).sizeLog2)
    (hp : published (sqAt s n.toNat) + fresh (sqAt s n.toNat) tail ≤ ringSize (sqAt s n.toNat).sizeLog2 - 1) :
    doorbell n tail s = setSq n.toNat { sqAt s n.toNat with
      tail, times := (sqAt s n.toNat).times ++ List.replicate (fresh (sqAt s n.toNat) tail)
        (s.now, fullTime s (sqAt s n.toNat).cqSel.toNat) } s := by
  rw [doorbell]
  dsimp only
  rw [if_neg (by simp [he, ht]), if_neg (Nat.not_lt.2 hp)]

theorem doorbell_refused {n : BitVec 6} {tail : Nat} (h : (sqAt s n.toNat).enable = false ∨
      ringSize (sqAt s n.toNat).sizeLog2 ≤ tail ∨
      ringSize (sqAt s n.toNat).sizeLog2 - 1 < published (sqAt s n.toNat) + fresh (sqAt s n.toNat) tail) :
    doorbell n tail s = errDoorbell n s := by
  rw [doorbell]
  dsimp only
  by_cases hoff : (!(sqAt s n.toNat).enable) = true ∨ ringSize (sqAt s n.toNat).sizeLog2 ≤ tail
  · rw [if_pos hoff]
  · rw [if_neg hoff, if_pos]
    rcases h with h | h | h
    · exact absurd (.inl (by simp [h])) hoff
    · exact absurd (.inr h) hoff
    · exact h

end Doorbell

/-- Settles O6. -/
theorem doorbellPublishesOrIsRefused : Obligations.DoorbellPublishesOrIsRefused := by
  unfold Obligations.DoorbellPublishesOrIsRefused
  refine fun s offset value ha => ⟨exec_doorbellWrite_reserved, fun hoff => ⟨fun ⟨he, ht, hp⟩ => ?_, fun h => ?_⟩⟩
  · rw [exec_doorbellWrite ha hoff, doorbell_taken he ht hp]
    rfl
  · refine ⟨_, (exec_doorbellWrite ha hoff).trans (congrArg _ (doorbell_refused h)), ?_, ?_, ?_, ?_, ?_,
      sameButReplies_errDoorbell _ s⟩
    · rw [errDoorbell_cmd]; rfl
    · rw [errDoorbell_cmd]; rfl
    · rw [errDoorbell_cmd]; rfl
    · rw [errDoorbell_cmd]; rfl
    · rw [intCause_cmdErr, cmdErrAny, errDoorbell_cmd]
      simp [cmdErr]

end Sys2Proof.Machine

namespace Sys2Proof.Machine

/-! ## Ring configuration (R24, R29, R30) -/

section Cfg
variable {s : State} {n : BitVec 6} {w : Word}

theorem exec_ringEnable (k : RingKind) (ha : hostAccess s = true) (hw : cfgEnable w = true) :
    exec (.ringEnable k n w) s = .next (cfgWrite k n w s) := by
  change execRingEnable k n w s = _
  simp [execRingEnable, hw, ha]

theorem exec_ringDisable (k : RingKind) (ha : hostAccess s = true) (hw : cfgEnable w = false) :
    exec (.ringDisable k n w) s = .next (cfgWrite k n w s) := by
  change execRingDisable k n w s = _
  simp [execRingDisable, hw, ha]

/-! ### Submission rings -/

/-- The configuration that a CFG write gives a disabled submission ring. -/
abbrev sqConfigured (w : Word) (q : SubRing) : SubRing := { q with sizeLog2 := cfgSize w, cqSel := cfgSel w }

theorem cfgSq_enable (he : (sqAt s n.toNat).enable = false) (hw : cfgEnable w = true) (hsize : 6 ≤ (cfgSize w).toNat) :
    cfgSq n w s = setSq n.toNat { sqConfigured w (sqAt s n.toNat) with
      enable := true, head := 0, tail := 0, times := [], parked := false } s := by
  simp [cfgSq, he, hw, sizeOk, hsize]

theorem cfgSq_badSize (he : (sqAt s n.toNat).enable = false) (hw : cfgEnable w = true) (hsize : (cfgSize w).toNat < 6) :
    cfgSq n w s = errSize .submission n (setSq n.toNat (sqConfigured w (sqAt s n.toNat)) s) := by
  simp [sqConfigured, cfgSq, he, hw, sizeOk, Nat.not_le.2 hsize]

theorem cfgSq_enabled (he : (sqAt s n.toNat).enable = true) (hw : cfgEnable w = true)
    (hne : cfgSize w ≠ (sqAt s n.toNat).sizeLog2 ∨ cfgSel w ≠ (sqAt s n.toNat).cqSel) :
    cfgSq n w s = errCfg .submission n s := by
  simp [cfgSq, he, hw, hne]

@[simp] theorem sqAt_errSize (k : RingKind) (r : BitVec 6) (s : State) (m : Nat) : sqAt (errSize k r s) m = sqAt s m := by
  rw [sqAt, errSize_cmd]; rfl
@[simp] theorem sqAt_errCfg (k : RingKind) (r : BitVec 6) (s : State) (m : Nat) : sqAt (errCfg k r s) m = sqAt s m := by
  rw [sqAt, errCfg_cmd]; rfl
@[simp] theorem cqAt_errSize (k : RingKind) (r : BitVec 6) (s : State) (m : Nat) : cqAt (errSize k r s) m = cqAt s m := by
  rw [cqAt, errSize_cmd]; rfl
@[simp] theorem cqAt_errCfg (k : RingKind) (r : BitVec 6) (s : State) (m : Nat) : cqAt (errCfg k r s) m = cqAt s m := by
  rw [cqAt, errCfg_cmd]; rfl
@[simp] theorem cqAt_errBusy (k : RingKind) (r : BitVec 6) (s : State) (m : Nat) : cqAt (errBusy k r s) m = cqAt s m := by
  rw [cqAt, errBusy_cmd]; rfl
@[simp] theorem mrAt_errSize (k : RingKind) (r : BitVec 6) (s : State) (m : Nat) : mrAt (errSize k r s) m = mrAt s m := by
  rw [mrAt, errSize_cmd]; rfl
@[simp] theorem mrAt_errCfg (k : RingKind) (r : BitVec 6) (s : State) (m : Nat) : mrAt (errCfg k r s) m = mrAt s m := by
  rw [mrAt, errCfg_cmd]; rfl
@[simp] theorem mrAt_errBusy (k : RingKind) (r : BitVec 6) (s : State) (m : Nat) : mrAt (errBusy k r s) m = mrAt s m := by
  rw [mrAt, errBusy_cmd]; rfl

/-! ### Completion rings -/

theorem flushCq_empty {m : Nat} (h : (cqAt s m).held = []) :
    flushCq m s = setCq m (holdReplies s.now [] (cqAt s m)) s := by
  rw [flushCq, h, drainReplies]

/-- A completion ring without held replies that starts with credits holds none. -/
theorem flushCq_setCq {m : Nat} {c : ComRing} (h : c.held = []) :
    ∃ fullFrom fullFor cmd, flushCq m (setCq m c s) = { s with cmd } ∧
      cqAt { s with cmd } m = { c with fullFrom, fullFor } ∧ cmd.outstanding = s.cmd.outstanding := by
  obtain ⟨fullFrom, fullFor, hc⟩ := holdReplies_eq s.now [] c
  refine ⟨fullFrom, fullFor, (setCq m (holdReplies s.now [] c) (setCq m c s)).cmd, ?_, ?_, rfl⟩
  · rw [flushCq_empty (by rw [cqAt_setCq]; exact h), cqAt_setCq]
    rfl
  · exact (cqAt_setCq m _ _).trans (hc.trans (by rw [h]))

/-- The configuration that a CFG write gives a disabled completion ring. -/
abbrev cqConfigured (w : Word) (c : ComRing) : ComRing := { c with sizeLog2 := cfgSize w, intEn := cfgInt w }

theorem cfgCq_enable (he : (cqAt s n.toNat).enable = false) (hw : cfgEnable w = true) (hsize : 5 ≤ (cfgSize w).toNat) :
    cfgCq n w s = flushCq n.toNat (setCq n.toNat { cqConfigured w (cqAt s n.toNat) with
      enable := true, tail := 0, phase := true, credit := ringSize (cfgSize w), parked := false } s) := by
  simp [cfgCq, he, hw, sizeOk, hsize]

theorem cfgCq_badSize (he : (cqAt s n.toNat).enable = false) (hw : cfgEnable w = true) (hsize : (cfgSize w).toNat < 5) :
    cfgCq n w s = errSize .completion n (setCq n.toNat (cqConfigured w (cqAt s n.toNat)) s) := by
  simp [cqConfigured, cfgCq, he, hw, sizeOk, Nat.not_le.2 hsize]

/-! ### Metadata rings -/

theorem mrAt_refreshMr (m : Nat) (s : State) :
    ∃ queue stall, mrAt (refreshMr m s) m = { mrAt s m with queue, stall } :=
  ⟨_, _, mrAt_setMr m _ s⟩

theorem sameButReplies_refreshMr (m : Nat) (s : State) : SameButReplies s (refreshMr m s) := rfl
theorem sameButReplies_setMr (m : Nat) (v : MetaRing) (s : State) : SameButReplies s (setMr m v s) := rfl

/-- The configuration that a CFG write gives a disabled metadata ring. -/
abbrev mrConfigured (w : Word) (m : MetaRing) : MetaRing := { m with sizeLog2 := cfgSize w, intEn := cfgInt w }

theorem cfgMr_enable (he : (mrAt s n.toNat).enable = false) (hw : cfgEnable w = true) (hsize : 5 ≤ (cfgSize w).toNat) :
    cfgMr n w s = refreshMr n.toNat (setMr n.toNat { mrConfigured w (mrAt s n.toNat) with
      enable := true, tail := 0, phase := true, credit := ringSize (cfgSize w), parked := false } s) := by
  simp [cfgMr, he, hw, sizeOk, hsize]

theorem cfgMr_badSize (he : (mrAt s n.toNat).enable = false) (hw : cfgEnable w = true) (hsize : (cfgSize w).toNat < 5) :
    cfgMr n w s = errSize .metadata n (setMr n.toNat (mrConfigured w (mrAt s n.toNat)) s) := by
  simp [mrConfigured, cfgMr, he, hw, sizeOk, Nat.not_le.2 hsize]

/-! ### Disabling -/

/-- What a CFG write that carries another size or binding for an enabled ring does to the state it leaves. -/
abbrev sizeKept (k : RingKind) (n : BitVec 6) (differs : Prop) [Decidable differs] (t : State) : State :=
  if differs then errCfg k n t else t

/-- Refusing another size or binding changes CMD_ERR only. -/
theorem sizeKept_spec (k : RingKind) (n : BitVec 6) (differs : Prop) [Decidable differs] (t : State) :
    let v := sizeKept k n differs t
    (∀ m, sqAt v m = sqAt t m ∧ cqAt v m = cqAt t m ∧ mrAt v m = mrAt t m) ∧ v.cmd.disableBusy = t.cmd.disableBusy ∧
      v.cmd.outstanding = t.cmd.outstanding ∧ SameButReplies t v := by
  unfold sizeKept
  split
  · exact ⟨fun m => ⟨sqAt_errCfg .., cqAt_errCfg .., mrAt_errCfg ..⟩, by rw [errCfg_cmd]; rfl,
      by rw [errCfg_cmd]; rfl, sameButReplies_errCfg k n t⟩
  · exact ⟨fun _ => ⟨rfl, rfl, rfl⟩, rfl, rfl, rfl⟩

theorem cfgSq_disable (he : (sqAt s n.toNat).enable = true) (hw : cfgEnable w = false) :
    cfgSq n w s = sizeKept .submission n
      (cfgSize w ≠ (sqAt s n.toNat).sizeLog2 ∨ cfgSel w ≠ (sqAt s n.toNat).cqSel)
      (setSq n.toNat { sqAt s n.toNat with enable := false } s) := by
  simp only [cfgSq, he, hw, if_true, Bool.false_eq_true, if_false]

/-- What keeps a completion ring from being disabled (R30). -/
abbrev cqBusy (s : State) (n : BitVec 6) : Bool :=
  s.cmd.sq.any (fun e => e.2.enable && e.2.cqSel == n) || cqOutstanding s n.toNat

/-- A completion ring whose ENABLE is cleared, or which is busy. -/
def cqDisabled (n : BitVec 6) (w : Word) (s : State) : State :=
  let u := setCq n.toNat { cqAt s n.toNat with intEn := cfgInt w } s
  if cqBusy u n then errBusy .completion n u else setCq n.toNat { cqAt u n.toNat with enable := false } u

theorem cfgCq_disable (he : (cqAt s n.toNat).enable = true) (hw : cfgEnable w = false) :
    cfgCq n w s = sizeKept .completion n (cfgSize w ≠ (cqAt s n.toNat).sizeLog2) (cqDisabled n w s) := by
  simp only [cfgCq, he, hw, if_true, Bool.false_eq_true, if_false, cqDisabled, cqBusy]

theorem cqBusy_setCq (n : BitVec 6) (intEn : Bool) (s : State) :
    cqBusy (setCq n.toNat { cqAt s n.toNat with intEn } s) n = cqBusy s n := by
  rw [cqBusy, cqOutstanding, cqAt_setCq]
  rfl

theorem cqDisabled_spec (he : (cqAt s n.toNat).enable = true) (w : Word) :
    (cqAt (cqDisabled n w s) n.toNat).enable = cqBusy s n ∧
      (cqBusy s n = true → (cqDisabled n w s).cmd.disableBusy = true) ∧ SameButReplies s (cqDisabled n w s) := by
  rw [cqDisabled]
  dsimp only
  rw [cqBusy_setCq]
  cases cqBusy s n with
  | true =>
    rw [if_pos rfl, cqAt_errBusy, cqAt_setCq, errBusy_cmd]
    exact ⟨he, fun _ => rfl, .trans (sameButReplies_setCq _ _ s) (sameButReplies_errBusy _ _ _)⟩
  | false =>
    rw [if_neg Bool.false_ne_true, cqAt_setCq]
    exact ⟨rfl, fun h => absurd h Bool.false_ne_true, rfl⟩

/-- A metadata ring whose ENABLE is cleared, or which a stream names. -/
def mrDisabled (n : BitVec 6) (w : Word) (s : State) : State :=
  let u := setMr n.toNat { mrAt s n.toNat with intEn := cfgInt w } s
  if mrNamed u n then errBusy .metadata n u else setMr n.toNat { mrAt u n.toNat with enable := false } u

theorem cfgMr_disable (he : (mrAt s n.toNat).enable = true) (hw : cfgEnable w = false) :
    cfgMr n w s = sizeKept .metadata n (cfgSize w ≠ (mrAt s n.toNat).sizeLog2) (mrDisabled n w s) := by
  simp only [cfgMr, he, hw, if_true, Bool.false_eq_true, if_false, mrDisabled]

theorem mrDisabled_spec (he : (mrAt s n.toNat).enable = true) (w : Word) :
    (mrAt (mrDisabled n w s) n.toNat).enable = mrNamed s n ∧
      (mrNamed s n = true → (mrDisabled n w s).cmd.disableBusy = true) ∧ SameButReplies s (mrDisabled n w s) := by
  rw [mrDisabled]
  dsimp only
  change (mrAt (if mrNamed s n = true then _ else _) _).enable = _ ∧
    (_ → (if mrNamed s n = true then _ else _ : State).cmd.disableBusy = true) ∧
    SameButReplies s (if mrNamed s n = true then _ else _)
  cases mrNamed s n with
  | true =>
    rw [if_pos rfl, mrAt_errBusy, mrAt_setMr, errBusy_cmd]
    exact ⟨he, fun _ => rfl, .trans (sameButReplies_setMr _ _ s) (sameButReplies_errBusy _ _ _)⟩
  | false =>
    rw [if_neg Bool.false_ne_true, mrAt_setMr]
    exact ⟨rfl, fun h => absurd h Bool.false_ne_true, rfl⟩

end Cfg

/-- Settles O7. -/
theorem ringConfigurationTakesEffectWhileDisabled : Obligations.RingConfigurationTakesEffectWhileDisabled := by
  unfold Obligations.RingConfigurationTakesEffectWhileDisabled
  refine ⟨fun s n w ha hw => ⟨fun he => ?_, fun he hheld => ?_, fun he => ?_⟩, fun s n w ha hw he hne => ?_⟩
  case refine_1 =>
    rcases Nat.lt_or_ge (cfgSize w).toNat 6 with hsize | hsize
    · refine ⟨_, (exec_ringEnable .submission ha hw).trans (congrArg _ (cfgSq_badSize he hw hsize)),
        .trans (sameButReplies_setSq _ _ s) (sameButReplies_errSize _ _ _), ?_⟩
      rw [sqAt_errSize, sqAt_setSq]
      exact ⟨rfl, rfl, fun h => absurd h (Nat.not_le.2 hsize), fun _ => ⟨he, by rw [errSize_cmd]; rfl⟩,
        fun m hm => (sqAt_errSize _ _ _ m).trans (sqAt_setSq_ne hm _ s)⟩
    · refine ⟨_, (exec_ringEnable .submission ha hw).trans (congrArg _ (cfgSq_enable he hw hsize)),
        sameButReplies_setSq _ _ s, ?_⟩
      rw [sqAt_setSq]
      exact ⟨rfl, rfl, fun _ => ⟨rfl, rfl, rfl⟩, fun h => absurd hsize (Nat.not_le.2 h), fun m hm => sqAt_setSq_ne hm _ s⟩
  case refine_2 =>
    rcases Nat.lt_or_ge (cfgSize w).toNat 5 with hsize | hsize
    · refine ⟨_, (exec_ringEnable .completion ha hw).trans (congrArg _ (cfgCq_badSize he hw hsize)),
        .trans (sameButReplies_setCq _ _ s) (sameButReplies_errSize _ _ _), ?_⟩
      rw [cqAt_errSize, cqAt_setCq]
      exact ⟨rfl, rfl, fun h => absurd h (Nat.not_le.2 hsize), fun _ => ⟨he, by rw [errSize_cmd]; rfl⟩⟩
    · obtain ⟨fullFrom, fullFor, cmd, hflush, hring, -⟩ := flushCq_setCq (s := s) (m := n.toNat)
        (c := { cqConfigured w (cqAt s n.toNat) with
          enable := true, tail := 0, phase := true, credit := ringSize (cfgSize w), parked := false }) hheld
      refine ⟨_, (exec_ringEnable .completion ha hw).trans (congrArg _ ((cfgCq_enable he hw hsize).trans hflush)), rfl, ?_⟩
      rw [hring]
      exact ⟨rfl, rfl, fun _ => ⟨rfl, rfl, rfl, rfl⟩, fun h => absurd hsize (Nat.not_le.2 h)⟩
  case refine_3 =>
    rcases Nat.lt_or_ge (cfgSize w).toNat 5 with hsize | hsize
    · refine ⟨_, (exec_ringEnable .metadata ha hw).trans (congrArg _ (cfgMr_badSize he hw hsize)),
        .trans (sameButReplies_setMr _ _ s) (sameButReplies_errSize _ _ _), ?_⟩
      rw [mrAt_errSize, mrAt_setMr]
      exact ⟨rfl, rfl, fun h => absurd h (Nat.not_le.2 hsize), fun _ => ⟨he, by rw [errSize_cmd]; rfl⟩⟩
    · refine ⟨_, (exec_ringEnable .metadata ha hw).trans (congrArg _ (cfgMr_enable he hw hsize)), rfl, ?_⟩
      obtain ⟨queue, stall, hring⟩ := mrAt_refreshMr n.toNat (setMr n.toNat { mrConfigured w (mrAt s n.toNat) with
        enable := true, tail := 0, phase := true, credit := ringSize (cfgSize w), parked := false } s)
      rw [hring, mrAt_setMr]
      exact ⟨rfl, rfl, fun _ => ⟨rfl, rfl, rfl, rfl⟩, fun h => absurd hsize (Nat.not_le.2 h)⟩
  case refine_4 =>
    exact ⟨_, (exec_ringEnable .submission ha hw).trans (congrArg _ (cfgSq_enabled he hw hne)), sqAt_errCfg _ _ _ _,
      by rw [errCfg_cmd]; rfl, by rw [errCfg_cmd]; rfl, by rw [errCfg_cmd]; rfl, sameButReplies_errCfg _ _ s⟩

/-- Settles O8. -/
theorem ringDisableStopsOrIsRefused : Obligations.RingDisableStopsOrIsRefused := by
  unfold Obligations.RingDisableStopsOrIsRefused
  refine fun s n w ha hw => ⟨fun he => ?_, fun he => ?_, fun he => ?_⟩
  case refine_1 =>
    refine ⟨_, (exec_ringDisable .submission ha hw).trans (congrArg _ (cfgSq_disable he hw)), ?_⟩
    obtain ⟨hrings, -, hout, hsame⟩ := sizeKept_spec .submission n
      (cfgSize w ≠ (sqAt s n.toNat).sizeLog2 ∨ cfgSel w ≠ (sqAt s n.toNat).cqSel)
      (setSq n.toNat { sqAt s n.toNat with enable := false } s)
    have henable := congrArg SubRing.enable ((hrings n.toNat).1.trans (sqAt_setSq ..))
    exact ⟨henable, fun p => not_fetchable (.inl henable), hout, fun p => congrArg (List.find? _) hout,
      .trans (sameButReplies_setSq _ _ s) hsame⟩
  case refine_2 =>
    refine ⟨_, (exec_ringDisable .completion ha hw).trans (congrArg _ (cfgCq_disable he hw)), ?_⟩
    obtain ⟨hrings, hbusy, -, hsame⟩ := sizeKept_spec .completion n (cfgSize w ≠ (cqAt s n.toNat).sizeLog2)
      (cqDisabled n w s)
    obtain ⟨hdone, hset, hkept⟩ := cqDisabled_spec he w
    exact ⟨(congrArg _ (hrings n.toNat).2.1).trans hdone, fun h => hbusy.trans (hset h), hkept.trans hsame⟩
  case refine_3 =>
    refine ⟨_, (exec_ringDisable .metadata ha hw).trans (congrArg _ (cfgMr_disable he hw)), ?_⟩
    obtain ⟨hrings, hbusy, -, hsame⟩ := sizeKept_spec .metadata n (cfgSize w ≠ (mrAt s n.toNat).sizeLog2)
      (mrDisabled n w s)
    obtain ⟨hdone, hset, hkept⟩ := mrDisabled_spec he w
    exact ⟨(congrArg _ (hrings n.toNat).2.2).trans hdone, fun h => hbusy.trans (hset h), hkept.trans hsame⟩

/-! ## RING_CREDIT (R43) -/

theorem exec_ringCredit {s : State} {ring : BitVec 6} {p : Packet} (hop : p.opcode = 0x48) (hr : Ready s ring p) :
    exec (.ringCredit ring p) s = .next (ringCreditBody (fetchedOf s ring p) (fetch ring s)) :=
  packetStep_ready (beq_iff_eq.2 hop) hr

section Credit
variable {f : Fetched} {s : State}

/-- RING_CREDIT for a completion ring: refused where it is disabled or where credits would pass its size. -/
theorem ringCreditBody_cq (hk : param f.p 8 1 = 0) :
    let n := param f.p 9 1 % 64
    let c := cqAt s n
    let credit := c.credit + param f.p 12 4
    (c.enable = false → ringCreditBody f s = answer f (failWith 0x0100 9) s) ∧
      (c.enable = true → ringSize c.sizeLog2 < credit → ringCreditBody f s = answer f (failWith 0x0305 0) s) ∧
      (c.enable = true → credit ≤ ringSize c.sizeLog2 → ringCreditBody f s = flushCq n (setCq n { c with credit } s)) := by
  intro n c credit
  simp only [ringCreditBody, hk, if_true]
  refine ⟨fun he => ?_, fun he h => ?_, fun he h => ?_⟩
  · rw [if_pos (by simpa using he)]
  · rw [if_neg (by simpa using he), if_pos h]
  · rw [if_neg (by simpa using he), if_neg (Nat.not_lt.2 h)]

theorem ringCreditBody_mr (hk : param f.p 8 1 ≠ 0) :
    let n := param f.p 9 1 % 64
    let m := mrAt s n
    let credit := m.credit + param f.p 12 4
    (m.enable = false → ringCreditBody f s = answer f (failWith 0x0100 9) s) ∧
      (m.enable = true → ringSize m.sizeLog2 < credit → ringCreditBody f s = answer f (failWith 0x0305 0) s) ∧
      (m.enable = true → credit ≤ ringSize m.sizeLog2 → ringCreditBody f s = refreshMr n (setMr n { m with credit } s)) := by
  intro n m credit
  simp only [ringCreditBody, if_neg hk]
  refine ⟨fun he => ?_, fun he h => ?_, fun he h => ?_⟩
  · rw [if_pos (by simpa using he)]
  · rw [if_neg (by simpa using he), if_pos h]
  · rw [if_neg (by simpa using he), if_neg (Nat.not_lt.2 h)]

end Credit

/-- Settles O9. -/
theorem ringCreditReturnsCredits : Obligations.RingCreditReturnsCredits := by
  unfold Obligations.RingCreditReturnsCredits
  intro s ring p hop hr f u n count
  have hexec := exec_ringCredit hop hr
  refine ⟨fun hk => ?_, fun hk => ?_⟩
  · obtain ⟨hoff, hover, hfit⟩ := ringCreditBody_cq (f := f) (s := u) hk
    refine ⟨fun he => hexec.trans (congrArg _ (hoff he)), fun he h => hexec.trans (congrArg _ (hover he h)),
      fun he h hheld => ?_⟩
    obtain ⟨fullFrom, fullFor, cmd, hflush, hring, hout⟩ := flushCq_setCq (s := u) (m := n)
      (c := { cqAt s n with credit := (cqAt s n).credit + count }) hheld
    exact ⟨{ u with cmd }, hexec.trans (congrArg _ ((hfit he h).trans hflush)), by rw [hring], rfl, hout, rfl⟩
  · obtain ⟨hoff, hover, hfit⟩ := ringCreditBody_mr (f := f) (s := u) (hk.trans_ne one_ne_zero)
    refine ⟨fun he => hexec.trans (congrArg _ (hoff he)), fun he h => hexec.trans (congrArg _ (hover he h)),
      fun he h => ?_⟩
    obtain ⟨queue, stall, hring⟩ := mrAt_refreshMr n (setMr n { mrAt s n with credit := (mrAt s n).credit + count } u)
    exact ⟨_, hexec.trans (congrArg _ (hfit he h)), (congrArg _ hring).trans (by rw [mrAt_setMr]), rfl, rfl, rfl⟩

end Sys2Proof.Machine

namespace Sys2Proof.Machine

/-! ## Bytes as numbers (R5) -/

theorem leNat_lt (l : List Byte) : leNat l < 256 ^ l.length := by
  induction l with
  | nil => decide
  | cons b r ih =>
    have hb : b.toNat < 256 := b.isLt
    rw [leNat, List.length_cons, Nat.pow_succ]
    omega

theorem leNat_append (a b : List Byte) : leNat (a ++ b) = leNat a + 256 ^ a.length * leNat b := by
  induction a with
  | nil => simp [leNat]
  | cons x r ih => rw [List.cons_append, leNat, leNat, ih, List.length_cons, Nat.pow_succ]; ring

theorem leBytes_succ (n v : Nat) : leBytes (n + 1) v = BitVec.ofNat 8 v :: leBytes n (v / 256) := by
  simp only [leBytes, List.range_succ_eq_map, List.map_cons, List.map_map]
  congr 1
  refine List.map_congr_left fun i _ => ?_
  simp only [Function.comp_apply, Nat.shiftRight_eq_div_pow, Nat.div_div_eq_div_mul]
  rw [show 256 = 2 ^ 8 from rfl, ← Nat.pow_add]
  congr 3
  omega

/-- Bytes hold the number they were cut from. -/
theorem leNat_leBytes (n v : Nat) : leNat (leBytes n v) = v % 256 ^ n := by
  induction n generalizing v with
  | zero => simp [leBytes, leNat, Nat.mod_one]
  | succ n ih =>
    rw [leBytes_succ, leNat, ih, Nat.pow_succ', Nat.mod_mul]
    rfl

/-! ## Hosts that can be reached -/

theorem not_hostLost {s : State} (h : hostUp s = true) : hostLost s = false := by
  simp only [hostUp, linkSpeaks, Bool.and_eq_true, Bool.or_eq_true, beq_iff_eq] at h
  obtain ⟨⟨⟨⟨-, hl⟩, -⟩, -⟩, hp⟩ := h
  rcases hl with hl | hl <;> simp [hostLost, hl, hp]

theorem Ready.hostUp {s : State} {ring : BitVec 6} {p : Packet} (h : Ready s ring p) : hostUp s = true := by
  obtain ⟨-, hf, -, -⟩ := h
  simp only [fetchable, Bool.and_eq_true] at hf
  exact hf.1.1.1.1.1.1.2

theorem Ready.hostUp_fetch {s : State} {ring : BitVec 6} {p : Packet} (h : Ready s ring p) :
    Machine.hostUp (fetch ring s) = true := h.hostUp

theorem answerWrite_up {f : Fetched} {r : Reply} {addr : Nat} {bytes : List Byte} {s : State} (hb : bytes ≠ [])
    (h : hostUp s = true) : answerWrite f r addr bytes s = answer f r (hostWrites addr bytes s) := by
  rw [answerWrite, if_neg (by simpa using hb), not_hostLost h, if_neg Bool.false_ne_true]

/-! ## IDENTIFY (R44) -/

/-- RESULT of IDENTIFY as a number. -/
theorem leNat_identifyResult (s : State) : leNat (identifyResult s) =
    Config.stepping.toNat + 2 ^ 8 * (dstate s % 2 ^ 8) + 2 ^ 16 * (capacityClass s % 2 ^ 8) +
      2 ^ 24 * ((s.fw.upd.toNat + 8 * s.fw.bank.toNat) % 2 ^ 8) + 2 ^ 32 * (runningImage s).build.toNat +
      2 ^ 64 * Config.romRevision.toNat + 2 ^ 72 * (runningPatchSvn s % 2 ^ 8) + 2 ^ 80 * (s.nets.length % 2 ^ 8) := by
  have hbuild := (runningImage s).build.isLt
  rw [identifyResult, leNat_append, leNat_append, leNat_leBytes, Nat.mod_eq_of_lt (by omega)]
  simp only [leNat, BitVec.ofNat_eq_ofNat, BitVec.toNat_ofNat, Nat.zero_mod, List.length_append, List.length_cons, List.length_nil, leBytes_length]
  omega

theorem dstate_lt (s : State) : dstate s < 16 := by
  have h0 := b2n_le_one s.pwr.recess
  have h1 := b2n_le_one s.flt.oos
  have h2 := b2n_le_one s.pwr.aonLow
  have h3 := b2n_le_one (s.pwr.transition != 0)
  rw [dstate]
  omega

/-- The field of `n` bits from bit `lo` of a RESULT. -/
theorem extract_okWith {v lo n : Nat} {x : BitVec n} (hn : lo + n ≤ 96) (h : v / 2 ^ lo % 2 ^ n = x.toNat) :
    (okWith v).result.extractLsb' lo n = x := by
  refine BitVec.eq_of_toNat_eq ?_
  rw [okWith, BitVec.extractLsb'_toNat, BitVec.toNat_ofNat, Nat.shiftRight_eq_div_pow, ← h,
    show 96 = lo + (96 - lo) by omega, Nat.pow_add, Nat.mod_mul_right_div_self,
    Nat.mod_mod_of_dvd _ (Nat.pow_dvd_pow 2 (by omega))]

/-- The bits of a RESULT. -/
theorem getLsbD_okWith {v i : Nat} {b : Bool} (hi : i < 96) (h : v / 2 ^ i % 2 = b2n b) :
    (okWith v).result.getLsbD i = b := by
  rw [okWith, BitVec.getLsbD_ofNat, testBit_of_digit h]
  simp [hi]

/-- The fields of RESULT (R44). -/
theorem identify_fields (s : State) :
    let r := okWith (leNat (identifyResult s))
    r.result.extractLsb' 0 8 = Config.stepping ∧
    r.result.getLsbD 8 = s.pwr.recess ∧ r.result.getLsbD 9 = s.flt.oos ∧ r.result.getLsbD 10 = s.pwr.aonLow ∧
    r.result.getLsbD 11 = (s.pwr.transition != 0) ∧ r.result.extractLsb' 12 4 = 0 ∧
    r.result.extractLsb' 16 8 = BitVec.ofNat 8 (capacityClass s) ∧
    r.result.extractLsb' 24 3 = s.fw.upd ∧ r.result.extractLsb' 27 1 = s.fw.bank ∧
    r.result.extractLsb' 32 32 = (runningImage s).build ∧ r.result.extractLsb' 64 8 = Config.romRevision ∧
    r.result.extractLsb' 72 8 = BitVec.ofNat 8 (runningPatchSvn s) ∧
    r.result.extractLsb' 80 8 = BitVec.ofNat 8 s.nets.length ∧ r.result.extractLsb' 88 8 = 0 := by
  intro r
  have hd := dstate_lt s
  have hdef : dstate s = b2n s.pwr.recess + 2 * b2n s.flt.oos + 4 * b2n s.pwr.aonLow + 8 * b2n (s.pwr.transition != 0) := rfl
  have h0 := b2n_le_one s.pwr.recess
  have h1 := b2n_le_one s.flt.oos
  have h2 := b2n_le_one s.pwr.aonLow
  have h3 := b2n_le_one (s.pwr.transition != 0)
  have hstep := Config.stepping.isLt
  have hupd := s.fw.upd.isLt
  have hbank := s.fw.bank.isLt
  have hbuild := (runningImage s).build.isLt
  have hrom := Config.romRevision.isLt
  have hv := leNat_identifyResult s
  refine ⟨?_, ?_, ?_, ?_, ?_, ?_, ?_, ?_, ?_, ?_, ?_, ?_, ?_, ?_⟩
  · exact extract_okWith (by decide) (by omega)
  · exact getLsbD_okWith (by decide) (by omega)
  · exact getLsbD_okWith (by decide) (by omega)
  · exact getLsbD_okWith (by decide) (by omega)
  · exact getLsbD_okWith (by decide) (by omega)
  · exact extract_okWith (by decide) (by rw [show (0 : BitVec 4).toNat = 0 from rfl]; omega)
  · exact extract_okWith (by decide) (by rw [BitVec.toNat_ofNat]; omega)
  · exact extract_okWith (by decide) (by omega)
  · exact extract_okWith (by decide) (by omega)
  · exact extract_okWith (by decide) (by omega)
  · exact extract_okWith (by decide) (by omega)
  · exact extract_okWith (by decide) (by rw [BitVec.toNat_ofNat]; omega)
  · exact extract_okWith (by decide) (by rw [BitVec.toNat_ofNat]; omega)
  · exact extract_okWith (by decide) (by rw [show (0 : BitVec 8).toNat = 0 from rfl]; omega)

/-! ## FAULT_LOG_READ (R303) -/

section Records
variable {s : State}

theorem faultBytes_ne_nil (r : FaultRec) : faultBytes r ≠ [] := by simp [faultBytes, leBytes]

/-- The records from the one whose SEQ is asked for. -/
theorem recordsFrom_held {l m : List FaultRec} {r : FaultRec} (h : faultsHeld s = l ++ r :: m)
    (hl : ∀ x ∈ l, x.seq ≠ r.seq) : recordsFrom s r.seq.toNat = r :: m := by
  have hfind : (faultsHeld s).findIdx? (fun x => x.seq.toNat = r.seq.toNat) = some l.length := by
    rw [h, List.findIdx?_append, List.findIdx?_eq_none_iff.2 fun x hx => by simpa [BitVec.toNat_inj] using hl x hx]
    simp [List.findIdx?_cons]
  rw [recordsFrom]
  dsimp only
  rw [hfind, h]
  exact List.drop_left

/-- All records, where the SEQ asked for is older than each. -/
theorem recordsFrom_older {a : Nat}
    (h : ∀ r ∈ faultsHeld s, a < r.seq.toNat ∧ r.seq.toNat ≤ s.flt.lastSeq.toNat) : recordsFrom s a = faultsHeld s := by
  have hfind : (faultsHeld s).findIdx? (fun x => x.seq.toNat = a) = none :=
    List.findIdx?_eq_none_iff.2 fun x hx => by simpa using (h x hx).1.ne'
  simp only [recordsFrom, hfind]
  cases hh : (faultsHeld s).head? with
  | none => exact (List.head?_eq_none_iff.1 hh).symm
  | some r =>
    obtain ⟨hlt, hle⟩ := h r (List.mem_of_head? hh)
    refine if_neg fun hc => ?_
    rw [if_neg (by simpa using hle)] at hc
    omega

theorem readRecords_some {f : Fetched} (hup : hostUp s = true) {first last : FaultRec}
    (hf : ((recordsFrom s (bufArg f)).take (bufBytes f / 256)).head? = some first)
    (hl : ((recordsFrom s (bufArg f)).take (bufBytes f / 256)).getLast? = some last) :
    let l := (recordsFrom s (bufArg f)).take (bufBytes f / 256)
    readRecords f s = answer f (okWith (first.seq.toNat + 2 ^ 32 * l.length + 2 ^ 64 * (nextSeqAfter last.seq).toNat))
      (hostWrites (bufAddr f) (l.flatMap faultBytes) s) := by
  intro l
  obtain ⟨r, hr⟩ := List.head?_eq_some_iff.1 hf
  have hne : l.flatMap faultBytes ≠ [] := by
    simp only [l, hr, List.flatMap_cons]
    exact List.append_ne_nil_of_left_ne_nil (faultBytes_ne_nil first) _
  rw [readRecords]
  simp only [hl]
  refine (answerWrite_up hne hup).trans ?_
  simp only [l, hr]

end Records

@[simp] theorem countBytes_length (n v : Nat) : (countBytes n v).length = n := leBytes_length n _

theorem telemetryBytes_ne_nil (m : PowerSample) (s : State) : telemetryBytes m s ≠ [] := by
  refine List.ne_nil_of_length_pos ?_
  unfold telemetryBytes
  dsimp only
  simp only [List.length_append, leBytes_length]
  omega

theorem reportBytes_length (s : State) (c : Nat) : (reportBytes s c).length = 128 := by
  unfold reportBytes
  dsimp only
  simp only [List.length_append, leBytes_length, countBytes_length, List.length_cons, List.length_nil,
    List.length_replicate]

theorem ofOp_of_eq {op : Byte} {p : Packet} (h : p.opcode = op) : ofOp op p = true := beq_iff_eq.2 h

section Reports
variable {s : State} {ring : BitVec 6} {p : Packet}

theorem exec_identify (hop : p.opcode = 0x01) (hr : Ready s ring p) : exec (.identify ring p) s =
    .next (answer (fetchedOf s ring p) (okWith (leNat (identifyResult (fetch ring s)))) (fetch ring s)) := by
  change execIdentify ring p s = _
  rw [execIdentify, packetStep_ready (ofOp_of_eq hop) hr]

theorem exec_telemetryRead (hop : p.opcode = 0x02) (hr : Ready s ring p) (m : PowerSample)
    (hb : 256 ≤ bufBytes (fetchedOf s ring p)) : exec (.telemetryRead ring p m) s =
      .next (answerWrite (fetchedOf s ring p) {} (bufAddr (fetchedOf s ring p)) (telemetryBytes m (fetch ring s))
        (stallRead (fetch ring s))) := by
  change execTelemetryRead ring p m s = _
  rw [execTelemetryRead, packetStep_ready (ofOp_of_eq hop) hr, if_neg (Nat.not_lt.2 hb)]

theorem exec_faultLogRead (hop : p.opcode = 0x03) (hr : Ready s ring p) (ha : bufArg (fetchedOf s ring p) < 2 ^ 31) :
    exec (.faultLogRead ring p) s = .next (readRecords (fetchedOf s ring p) (fetch ring s)) := by
  change execFaultLogRead ring p s = _
  rw [execFaultLogRead, packetStep_ready (ofOp_of_eq hop) hr, if_pos ha]

theorem exec_streamQuery (hop : p.opcode = 0x0B) (hr : Ready s ring p) : exec (.streamQuery ring p) s =
    (let f := fetchedOf s ring p
    let u := fetch ring s
    .next (answerWrite f (okWith (queryResult u (fCtx f))) (bufAddr f)
      (if bufAddr f = 0 ∧ bufBytes f = 0 then [] else reportBytes u (fCtx f)) u)) := by
  change execStreamQuery ring p s = _
  rw [execStreamQuery, packetStep_ready (ofOp_of_eq hop) hr]

theorem exec_streamQuery_silent (hop : p.opcode = 0x0B) (hr : Ready s ring p)
    (h : bufAddr (fetchedOf s ring p) = 0 ∧ bufBytes (fetchedOf s ring p) = 0) : exec (.streamQuery ring p) s =
      .next (answer (fetchedOf s ring p) (okWith (queryResult (fetch ring s) (fCtx (fetchedOf s ring p)))) (fetch ring s)) := by
  rw [exec_streamQuery hop hr]
  dsimp only
  rw [if_pos h]
  rfl

theorem exec_streamQuery_report (hop : p.opcode = 0x0B) (hr : Ready s ring p)
    (h : ¬ (bufAddr (fetchedOf s ring p) = 0 ∧ bufBytes (fetchedOf s ring p) = 0)) :
    let f := fetchedOf s ring p
    let u := fetch ring s
    exec (.streamQuery ring p) s =
      .next (answer f (okWith (queryResult u (fCtx f))) (hostWrites (bufAddr f) (reportBytes u (fCtx f)) u)) := by
  rw [exec_streamQuery hop hr]
  dsimp only
  rw [if_neg h, answerWrite_up (List.ne_nil_of_length_eq_add_one (reportBytes_length _ _)) hr.hostUp_fetch]

end Reports

/-- Settles O10. -/
theorem commandsThatOnlyReport : Obligations.CommandsThatOnlyReport := by
  unfold Obligations.CommandsThatOnlyReport
  refine ⟨fun s ring p hop hr => ⟨_, exec_identify hop hr, rfl, rfl, identify_fields s⟩, fun s ring p hr => ?_⟩
  intro f u addr bytes arg
  have hup : hostUp u = true := hr.hostUp_fetch
  refine ⟨fun hop m hb => ?_, fun hop => ?_, fun hop harg => ?_, fun l m r h hl => recordsFrom_held h hl,
    recordsFrom_older⟩
  · rw [exec_telemetryRead hop hr m hb]
    exact congrArg _ (answerWrite_up (telemetryBytes_ne_nil m u) hup)
  · exact ⟨exec_streamQuery_silent hop hr, fun h => ⟨reportBytes_length u _, exec_streamQuery_report hop hr h⟩⟩
  · intro l first last hf hl
    rw [exec_faultLogRead hop hr harg]
    exact congrArg _ (readRecords_some (s := u) (f := f) hup hf hl)

end Sys2Proof.Machine

namespace Sys2Proof.Machine

/-! ## What a packet that executes satisfies -/

theorem admissible_of_packetCheck {s : State} {ring : BitVec 6} {p : Packet} (h : packetCheck s ring p = none) :
    Admissible s ring p := by
  have htag : tagBusy s ring p.tag = false := by
    by_contra ht
    simp [packetCheck_tag (eq_true_of_ne_false ht)] at h
  have hop : assignedOp p.opcode = true := by
    by_contra ha
    simp [packetCheck_opcode htag (eq_false_of_ne_true ha)] at h
  have hm : maintOp p.opcode = false ∨ s.cmd.maintEn = true := by
    by_contra hm
    rw [not_or, Bool.not_eq_false, Bool.not_eq_true] at hm
    simp [packetCheck_maint htag hop hm] at h
  exact ⟨htag, hop, hm, fun hl => by simp [packetCheck_length htag hop hm hl] at h⟩

/-- A packet that executes has passed every parameter check of its opcode. -/
theorem Ready.paramVerdict {s : State} {ring : BitVec 6} {p : Packet} (h : Ready s ring p) {e : Nat × Bool}
    (he : e ∈ paramVerdicts p) : e.2 = false := by
  obtain ⟨-, -, hcheck, -⟩ := h
  rw [packetCheck_of_admissible (admissible_of_packetCheck hcheck), Option.map_eq_none_iff, Option.or_eq_none_iff] at hcheck
  simpa using List.find?_eq_none.1 hcheck.2 e he

theorem Ready.fieldCheck {s : State} {ring : BitVec 6} {p : Packet} (h : Ready s ring p) {c : FieldCheck}
    (hc : c ∈ fieldChecks p.opcode.toNat p) : c.2 p = false :=
  h.paramVerdict (List.mem_append_left _ (List.mem_map_of_mem (f := fun c : FieldCheck => (c.1, c.2 p)) hc))

/-- MAINT_PEEK reads 8 aligned bytes of the Granary (R46). -/
theorem Ready.peekOffset {s : State} {ring : BitVec 6} {p : Packet} (h : Ready s ring p) (hop : p.opcode = 0x81) :
    param p 8 8 % 8 = 0 ∧ param p 8 8 < 0x20000000 := by
  have hc := h.fieldCheck (c := (8, fun p => param p 8 8 % 8 != 0 || decide (0x20000000 ≤ param p 8 8)))
    (by rw [hop]; exact List.mem_singleton.2 rfl)
  simpa using hc

/-! ## MAINT_PEEK (R46, R272) -/

theorem sealedUnit_fetch (s : State) (ring : BitVec 6) (o : Nat) : sealedUnit (fetch ring s) o = sealedUnit s o := rfl

section Peek
variable {s : State} {o : Nat} (h8 : o % 8 = 0)
include h8

/-- Both dwords of a MAINT_PEEK lie in one bank and one 4 KiB unit. -/
theorem bankOf_second : bankOf (o + 4) = bankOf o := by unfold bankOf; omega

theorem sealedUnit_second : sealedUnit s (o + 4) = sealedUnit s o := by
  rw [sealedUnit, sealedUnit, bankOf_second h8, show (o + 4) / 4096 = o / 4096 by omega]

theorem bankKept_second : bankKept s (o + 4) = bankKept s o := by
  rw [bankKept, bankKept, bankOn, bankOn, bankOf_second h8]

/-- A sealed unit, and a bank that holds nothing, read as zeros. -/
theorem bar2Dwords_closed (h : sealedUnit s o = true ∨ bankKept s o = false) :
    bar2Dwords 2 o s = ([0, 0], s) := by
  have hfirst := bar2Dword_closed h
  have hsecond := bar2Dword_closed (o := o + 4) (s := s) (by rwa [sealedUnit_second h8, bankKept_second h8])
  simp [bar2Dwords, hfirst, hsecond]

theorem bar2Dwords_clean (ho : o < 0x20000000) (hs : sealedUnit s o = false) (hk : bankKept s o = true)
    (hlo : 32 ≤ bankOf o) (hhi : bankOf o < 48) (hm : memSyn s.mem.dpa (granaryBase + o) = 0)
    (hm4 : memSyn s.mem.dpa (granaryBase + o + 4) = 0) :
    bar2Dwords 2 o s = ([memWord s.mem.dpa (granaryBase + o), memWord s.mem.dpa (granaryBase + o + 4)], s) := by
  have hfirst := bar2Dword_clean ho hs hk hlo hhi (by omega) hm
  have hsecond := bar2Dword_clean (o := o + 4) (s := s) (by omega) (sealedUnit_second h8 ▸ hs) (bankKept_second h8 ▸ hk)
    (bankOf_second h8 ▸ hlo) (bankOf_second h8 ▸ hhi) (by omega) hm4
  simp [bar2Dwords, hfirst, hsecond, Nat.add_assoc]

end Peek

section Maintenance
variable {s : State} {ring : BitVec 6} {p : Packet} (hr : Ready s ring p)
include hr

theorem exec_maintEcho (hop : p.opcode = 0x80) : exec (.maintEcho ring p) s =
    .next (answer (fetchedOf s ring p) (okWith (param p 8 12)) (fetch ring s)) := by
  change execMaintEcho ring p s = _
  rw [execMaintEcho, packetStep_ready (ofOp_of_eq hop) hr]
  rfl

theorem exec_maintCountersClear (hop : p.opcode = 0x83) : exec (.maintCountersClear ring p) s =
    .next (answer (fetchedOf s ring p) {} { fetch ring s with pwr := { (fetch ring s).pwr with
      wakes := 0, refusals := 0, stallSince := 0, stallStep := 0, browns := 0, onDie := [0, 0, 0, 0] } }) := by
  change execMaintCountersClear ring p s = _
  rw [execMaintCountersClear, packetStep_ready (ofOp_of_eq hop) hr]

theorem exec_maintPeek (hop : p.opcode = 0x81) : exec (.maintPeek ring p) s =
    .next (answer (fetchedOf s ring p)
      (okWith (((peek (param p 8 8) (fetch ring s)).1.getD 0 0).toNat +
        2 ^ 32 * ((peek (param p 8 8) (fetch ring s)).1.getD 1 0).toNat))
      (peek (param p 8 8) (fetch ring s)).2) := by
  change execMaintPeek ring p s = _
  rw [execMaintPeek, packetStep_ready (ofOp_of_eq hop) hr]
  rfl

theorem exec_maintErrInject (hop : p.opcode = 0x82) (hrec : s.pwr.recess = false) : exec (.maintErrInject ring p) s =
    .next (if injectOk s p = some 16 then answer (fetchedOf s ring p) (failWith 0x100 16) (fetch ring s)
      else wait_ (fetchedOf s ring p) .fallow { fetch ring s with mem := { (fetch ring s).mem with
        inject := (fetch ring s).mem.inject ++ [(p.params, ring, p.tag)] } }) := by
  have hno : deviceRefuses true false (fetch ring s) = none := by
    rw [deviceRefuses, show (fetch ring s).pwr.recess = false from hrec]; rfl
  change execMaintErrInject ring p s = _
  rw [execMaintErrInject, packetStep_ready (ofOp_of_eq hop) hr]
  simp only [hno]
  rfl

theorem exec_selftestRequest (hop : p.opcode = 0x18) : exec (.selftestRequest ring p) s =
    .next (if s.pwr.recess then answer (fetchedOf s ring p) (failWith 0x0201 0) (fetch ring s)
      else if param p 8 1 ≠ 2 ∧ testRetired s (testOf (fetchedOf s ring p) (fetch ring s)) = true then
        answer (fetchedOf s ring p) (okWith 3) (fetch ring s)
      else wait_ (fetchedOf s ring p) .selftest { fetch ring s with
        tests := s.tests ++ [testOf (fetchedOf s ring p) (fetch ring s)] }) := by
  change execSelftestRequest ring p s = _
  rw [execSelftestRequest, packetStep_ready (ofOp_of_eq hop) hr]
  have href : deviceRefuses true false (fetch ring s) = if s.pwr.recess then some (failWith 0x0201 0) else none := by
    simp only [deviceRefuses, Bool.true_and, Bool.false_and, Bool.false_eq_true, if_false]; rfl
  simp only [href]
  cases s.pwr.recess <;> rfl

theorem exec_serviceRestore (hop : p.opcode = 0x19) : exec (.serviceRestore ring p) s =
    .next (if s.flt.oos && restorable s.flt.oosCause then
      answer (fetchedOf s ring p) {} { fetch ring s with
        flt := { (fetch ring s).flt with oos := false, oosPending := false, resetSteps := [] } }
      else answer (fetchedOf s ring p) (failWith 0x200 0) (fetch ring s)) := by
  change execServiceRestore ring p s = _
  rw [execServiceRestore, packetStep_ready (ofOp_of_eq hop) hr]
  rfl

end Maintenance

theorem restorable_of_ne {c : BitVec 12} (h1 : c ≠ 0x108) (h2 : c ≠ 0x405) (h3 : c ≠ 0x105) : restorable c = true := by
  simp only [restorable, beq_false_of_ne h1, beq_false_of_ne h2, beq_false_of_ne h3, Bool.or_false, Bool.not_false]

/-- Settles O11. -/
theorem maintenanceSelftestAndRestore : Obligations.MaintenanceSelftestAndRestore := by
  unfold Obligations.MaintenanceSelftestAndRestore
  refine ⟨fun s ring p hr => ⟨exec_maintEcho hr, exec_maintCountersClear hr, fun hop o ho => ?_, fun hop hrec => ?_⟩,
    fun s ring p hr => ⟨fun hop => ?_, fun hop => ?_⟩⟩
  · obtain ⟨h8, hlt⟩ := hr.peekOffset hop
    rw [← ho] at h8 hlt
    rw [exec_maintPeek hr hop, ← ho]
    refine ⟨fun hk hs => ?_, fun hs => ?_, fun hk hs hlo hhi hm hm4 => ?_⟩
    · have hpeek : peek o (fetch ring s) = ([0, 0], fetch ring s) := by
        rw [peek, bar2Dwords_closed (s := fetch ring s) h8 (.inr hk), sealedUnit_fetch, hs]; rfl
      rw [hpeek]; rfl
    · have hpeek : peek o (fetch ring s) = ([0, 0], recordFault
          { code := 0x414, scope := 2, unit := unitCode 10 (bankOf o), body := leBytes 4 o } (fetch ring s)) := by
        rw [peek, bar2Dwords_closed (s := fetch ring s) h8 (.inl hs), sealedUnit_fetch, hs]; rfl
      rw [hpeek]; rfl
    · have hpeek := (bar2Dwords_clean (s := fetch ring s) h8 hlt hs hk hlo hhi hm hm4 :)
      rw [peek, hpeek, sealedUnit_fetch, hs]; rfl
  · rw [exec_maintErrInject hr hop hrec]
    refine ⟨fun h => by rw [if_pos h], fun h => ⟨_, congrArg _ (if_neg h), waits_wait _ _ _, rfl, rfl, rfl⟩⟩
  · rw [exec_selftestRequest hr hop]
    refine ⟨fun h => by rw [if_pos h], fun h hret => ?_, fun h hret => ?_⟩
    · rw [if_neg (ne_true_of_eq_false h), if_pos hret]
    · have hgo : ¬(param p 8 1 ≠ 2 ∧ testRetired s (testOf (fetchedOf s ring p) (fetch ring s)) = true) := by
        rintro ⟨h2, ht⟩
        rcases hret with h | h
        · exact h2 h
        · simp [h] at ht
      rw [if_neg (ne_true_of_eq_false h), if_neg hgo]
      exact ⟨_, _, rfl, waits_wait _ _ _, rfl, rfl, rfl, rfl, rfl, rfl⟩
  · rw [exec_serviceRestore hr hop]
    exact ⟨fun h h1 h2 h3 => by rw [h, restorable_of_ne h1 h2 h3]; rfl, fun h => by rw [h]; rfl⟩

end Sys2Proof.Machine

namespace Sys2Proof.Machine

/-! ## What a reply leaves as it is -/

section SameButReplies
variable {s t : State}

theorem SameButReplies.streams (h : SameButReplies s t) : t.streams = s.streams := by unfold SameButReplies at h; rw [h]
theorem SameButReplies.flow (h : SameButReplies s t) : t.flow = s.flow := by unfold SameButReplies at h; rw [h]
theorem SameButReplies.mem (h : SameButReplies s t) : t.mem = s.mem := by unfold SameButReplies at h; rw [h]
theorem SameButReplies.bell (h : SameButReplies s t) : t.bell = s.bell := by unfold SameButReplies at h; rw [h]
theorem SameButReplies.flt (h : SameButReplies s t) : t.flt = s.flt := by unfold SameButReplies at h; rw [h]
theorem SameButReplies.pwr (h : SameButReplies s t) : t.pwr = s.pwr := by unfold SameButReplies at h; rw [h]
theorem SameButReplies.ports (h : SameButReplies s t) : t.ports = s.ports := by unfold SameButReplies at h; rw [h]
theorem SameButReplies.pending (h : SameButReplies s t) : t.pending = s.pending := by unfold SameButReplies at h; rw [h]

end SameButReplies

section Answered
variable (f : Fetched) (r : Reply) (s : State)

@[simp] theorem answer_streams : (answer f r s).streams = s.streams := (sameButReplies_answer f r s).streams
@[simp] theorem answer_flow : (answer f r s).flow = s.flow := (sameButReplies_answer f r s).flow
@[simp] theorem answer_mem : (answer f r s).mem = s.mem := (sameButReplies_answer f r s).mem
@[simp] theorem answer_bell : (answer f r s).bell = s.bell := (sameButReplies_answer f r s).bell
@[simp] theorem answer_flt : (answer f r s).flt = s.flt := (sameButReplies_answer f r s).flt
@[simp] theorem answer_pwr : (answer f r s).pwr = s.pwr := (sameButReplies_answer f r s).pwr
@[simp] theorem answer_ports : (answer f r s).ports = s.ports := (sameButReplies_answer f r s).ports
@[simp] theorem answer_pending : (answer f r s).pending = s.pending := (sameButReplies_answer f r s).pending

@[simp] theorem streamAt_answer (c : Nat) : streamAt (answer f r s) c = streamAt s c := by simp [streamAt]
@[simp] theorem streamAt_fetch (ring : BitVec 6) (c : Nat) : streamAt (fetch ring s) c = streamAt s c := rfl

theorem streamAt_answer_setStream (c : Nat) (v : Stream) : streamAt (answer f r (setStream c v s)) c = v := by simp

end Answered

/-! ## STREAM_OPEN, SHED_RANK_SET, STREAM_CLOSE (R40, R47, R49, R79) -/

section OpenRankClose
variable {s : State} {ring : BitVec 6} {p : Packet} (hr : Ready s ring p)
include hr

theorem exec_streamOpen (hop : p.opcode = 0x08) : exec (.streamOpen ring p) s =
    .next (streamOpenBody (fetchedOf s ring p) (fetch ring s)) :=
  packetStep_ready (ofOp_of_eq hop) hr

theorem exec_shedRankSet (hop : p.opcode = 0x0F) : exec (.shedRankSet ring p) s =
    .next (shedRankBody (fetchedOf s ring p) (fetch ring s)) :=
  packetStep_ready (ofOp_of_eq hop) hr

theorem exec_streamClose (hop : p.opcode = 0x0A) : exec (.streamClose ring p) s =
    .next (streamCloseBody (fetchedOf s ring p) (fetch ring s)) :=
  packetStep_ready (ofOp_of_eq hop) hr

end OpenRankClose

section Bodies
variable {s : State} {f : Fetched}

theorem streamOpenBody_closed (h : (streamAt s (fCtx f)).state = .closed) : streamOpenBody f s =
    answer f {} (setStream (fCtx f) { state := .opened, op := openOf f.p, lastRound := s.bell.roundSeq } s) :=
  if_neg (not_not_intro h)

theorem streamOpenBody_refused (h : (streamAt s (fCtx f)).state ≠ .closed) :
    streamOpenBody f s = answer f (stState s (fCtx f)) s := if_pos h

theorem shedRankBody_set (h : (streamAt s (fCtx f)).state ≠ .closed) (hf : (streamAt s (fCtx f)).state ≠ .faulted) :
    ∃ v : Stream, shedRankBody f s = answer f {} (setStream (fCtx f) v s) ∧
      v.shedRank = BitVec.ofNat 16 (param f.p 8 2) ∧ v.state = (streamAt s (fCtx f)).state :=
  ⟨_, if_neg (not_or.2 ⟨h, hf⟩), rfl, rfl⟩

theorem shedRankBody_refused (h : (streamAt s (fCtx f)).state = .closed ∨ (streamAt s (fCtx f)).state = .faulted) :
    shedRankBody f s = answer f (stState s (fCtx f)) s := if_pos h

theorem streamCloseBody_closed (h : (streamAt s (fCtx f)).state = .closed) :
    streamCloseBody f s = answer f (failWith 0x0200 0) s := by
  rw [streamCloseBody]
  dsimp only
  rw [if_pos h, stState, h]
  rfl

theorem abortAdmission_none {c : Nat} (h : pendingAdmit s c = none) : abortAdmission c s = s := by
  rw [abortAdmission, h]

/-- A stream that holds a reservation is not CLOSED. -/
theorem not_closed_of_holds {st : StreamState} (h : holds st = true) : st ≠ .closed := by rintro rfl; cases h

/-- A close that waits for its boundary (R49). -/
theorem streamCloseBody_holds (hh : holds (streamAt s (fCtx f)).state = true)
    (hp : pendingAdmit s (fCtx f) = none) : streamCloseBody f s =
      addChange { kind := .close (BitVec.ofNat 12 (fCtx f)), cmd := some (f.ring, f.tag) } (wait_ f .boundary s) := by
  rw [streamCloseBody]
  dsimp only
  rw [if_neg (not_closed_of_holds hh), if_pos hh, abortAdmission_none hp]

end Bodies

/-- Settles O12. -/
theorem streamsOpenRankAndClose : Obligations.StreamsOpenRankAndClose := by
  unfold Obligations.StreamsOpenRankAndClose
  refine ⟨fun s ring p hr => ⟨fun hop => ?_, fun hop => ?_⟩, fun s ring p hr hop => ?_⟩
  · rw [exec_streamOpen hr hop]
    refine ⟨fun hc => ?_, fun hc => congrArg _ (streamOpenBody_refused hc)⟩
    rw [streamOpenBody_closed (f := fetchedOf s ring p) (s := fetch ring s) hc]
    have hat := streamAt_answer_setStream (fetchedOf s ring p) {} (fetch ring s) (fCtx (fetchedOf s ring p))
      { state := .opened, op := openOf p, lastRound := s.bell.roundSeq }
    exact ⟨_, rfl, congrArg Stream.state hat, congrArg (·.op.source) hat, congrArg (·.op.codec) hat,
      congrArg (·.op.ipv6) hat, congrArg (·.op.toRing) hat, congrArg (·.op.asUdp) hat, congrArg (·.op.mr) hat,
      congrArg (·.op.dstPort) hat, congrArg (·.op.ssrc) hat, congrArg (·.op.srcIp) hat, congrArg (·.op.dstIp) hat,
      fun d hd => (streamAt_answer ..).trans (streamAt_setStream_ne hd _ _), answer_flow .., answer_mem .., answer_bell ..⟩
  · rw [exec_shedRankSet hr hop]
    refine ⟨fun hc hf => ?_, fun hc => congrArg _ (shedRankBody_refused hc)⟩
    obtain ⟨v, hbody, hrank, hstate⟩ := shedRankBody_set (f := fetchedOf s ring p) (s := fetch ring s) hc hf
    rw [hbody]
    have hat := streamAt_answer_setStream (fetchedOf s ring p) {} (fetch ring s) (fCtx (fetchedOf s ring p)) v
    exact ⟨_, rfl, (congrArg Stream.shedRank hat).trans hrank, (congrArg Stream.state hat).trans hstate,
      fun d hd => (streamAt_answer ..).trans (streamAt_setStream_ne hd _ _), answer_bell .., answer_mem ..⟩
  · rw [exec_streamClose hr hop]
    refine ⟨fun hc => congrArg _ (streamCloseBody_closed hc), fun hh hp => ?_⟩
    rw [streamCloseBody_holds (f := fetchedOf s ring p) (s := fetch ring s) hh hp]
    exact ⟨_, rfl, rfl, rfl, waits_wait _ _ _, rfl, ⟨_, List.mem_append_right _ (List.mem_singleton.2 rfl), rfl, rfl⟩,
      rfl, rfl, fun _ _ => rfl⟩

end Sys2Proof.Machine

namespace Sys2Proof.Machine

/-! ## Page tables -/

/-- A record of SCOPE below 3 touches the fault recorder and the power states only. -/
theorem recordFault_low_eq {r : FaultRec} (h : r.scope.toNat < 3) (s : State) :
    ∃ flt pwr, recordFault r s = { s with flt, pwr } := by
  rw [recordFault]
  split
  · exact ⟨_, s.pwr, rfl⟩
  · dsimp only
    rw [if_neg (by omega)]
    obtain ⟨pwr, hlow⟩ := leaveLow_eq { s with flt := { s.flt with
      staging := s.flt.staging ++ [{ r with
        seq := s.flt.nextSeq
        fflags := r.fflags ||| (if s.flt.lostNext then 8 else 0)
        step := BitVec.ofNat 64 (mgmtStep s)
        round := s.bell.roundSeq
        roundFc := BitVec.ofNat 32 (roundFc s)
        d := BitVec.ofNat 32 s.bell.shift }]
      lastSeq := s.flt.nextSeq
      nextSeq := nextSeqAfter s.flt.nextSeq
      lostNext := false
      new_ := s.flt.new_ || decide (3 ≤ r.scope.toNat) } }
    exact ⟨_, pwr, hlow⟩

/-- A page-table write touches the entries, and the fault recorder where it is refused. -/
theorem ptePut_eq (x page : Nat) (e : BitVec 64) (s : State) :
    ∃ ptes flt pwr, ptePut x page e s = { s with mem := { s.mem with ptes }, flt, pwr } := by
  rw [ptePut]
  dsimp only
  split
  · obtain ⟨flt, pwr, h⟩ := recordFault_low_eq (r := { code := 0x412, scope := 0, unit := unitCode 10 22 }) (by decide) s
    exact ⟨_, flt, pwr, h⟩
  · exact ⟨_, s.flt, s.pwr, rfl⟩

theorem mapPages_eq (x bits : Nat) (pages : List Nat) (s : State) :
    ∃ ptes flt pwr, mapPages x bits pages s = { s with mem := { s.mem with ptes }, flt, pwr } := by
  rw [mapPages]
  split
  · exact ⟨_, s.flt, s.pwr, rfl⟩
  · generalize (List.range 4096).zip pages = l
    induction l generalizing s with
    | nil => exact ⟨_, s.flt, s.pwr, rfl⟩
    | cons e r ih =>
      obtain ⟨ptes, flt, pwr, h⟩ := ptePut_eq x e.1 (BitVec.ofNat 64 (e.2 * 2 ^ 21 + bits)) s
      rw [List.foldl_cons, h]
      exact ih _

/-! ## Pinned memory of a stream -/

/-- The pages of an earlier admission are free, unless an area still names their translation context. -/
theorem giveBack_eq (h : HeldPages) (s : State) : ∃ mem, giveBack h s = { s with mem } ∧
    mem.usedPages = if contextUsed s h.xctx then s.mem.usedPages else delNats h.pages s.mem.usedPages := by
  rw [giveBack]
  cases hu : contextUsed s h.xctx
  · exact ⟨_, by simp only [Bool.and_false, Bool.false_eq_true, if_false]; rfl, rfl⟩
  · cases hp : h.pages.isEmpty
    · exact ⟨_, rfl, rfl⟩
    · exact ⟨_, rfl, by simp [delNats, List.isEmpty_iff.1 hp]⟩

/-- The memory that a stream holds pinned. -/
def pinnedBy (st : Stream) : HeldPages :=
  { xctx := st.ad.xctx, pages := st.ad.pages, small := st.ad.granary4k, units := st.ad.units ++ st.ad.decUnits }

theorem freePinned_eq (c : Nat) (s : State) : ∃ mem v, freePinned c s = setStream c v { s with mem } ∧
    v.state = (streamAt s c).state ∧
    mem.usedPages = if contextUsed s (streamAt s c).ad.xctx then s.mem.usedPages
      else delNats (streamAt s c).ad.pages s.mem.usedPages := by
  obtain ⟨mem, h, hused⟩ := giveBack_eq (pinnedBy (streamAt s c)) s
  refine ⟨mem, { streamAt s c with ad := { (streamAt s c).ad with pages := [], granary4k := 0, units := [], decUnits := [] } },
    ?_, rfl, hused⟩
  rw [← h]
  rfl

/-! ## STREAM_ADMIT (R41, R69) -/

/-- The flow entry, the parameters and the memory of an admission are taken. -/
def takeAdmission (c : Nat) (ad : AdmitParams) (s : State) : State :=
  let st := streamAt s c
  setStream c { st with ad := ad, ring := replayOf ad } { s with
    flow := if st.op.source < 2 then
      (flowInsert (keyBits (flowKey st.op), BitVec.ofNat 12 c) s.flow).getD s.flow else s.flow
    mem := { s.mem with
      usedPages := insNats ad.pages s.mem.usedPages
      used4k := s.mem.used4k + ad.granary4k
      sealed := insNats (ad.units ++ ad.decUnits) s.mem.sealed } }

theorem beginAdmission_eq (f : Fetched) (ad : AdmitParams) (s : State) : beginAdmission f ad s =
    addChange { kind := .admission (BitVec.ofNat 12 (fCtx f)), cmd := some (f.ring, f.tag) }
      (wait_ f .boundary (mapPages ad.xctx 7 ad.pages (takeAdmission (fCtx f) ad (freePinned (fCtx f) s)))) := rfl

section Begin
variable (f : Fetched) (ad : AdmitParams) (s : State)

theorem beginAdmission_spec : ∃ v : Stream, v.state = (streamAt s (fCtx f)).state ∧ v.ad = ad ∧
    streamAt (beginAdmission f ad s) (fCtx f) = v ∧
    (∀ d, d ≠ fCtx f → streamAt (beginAdmission f ad s) d = streamAt s d) ∧
    (beginAdmission f ad s).out = s.out ∧
    (beginAdmission f ad s).mem.usedPages = insNats ad.pages (if contextUsed s (streamAt s (fCtx f)).ad.xctx
      then s.mem.usedPages else delNats (streamAt s (fCtx f)).ad.pages s.mem.usedPages) := by
  obtain ⟨mem, v, hfree, hstate, hused⟩ := freePinned_eq (fCtx f) s
  obtain ⟨ptes, flt, pwr, hmap⟩ := mapPages_eq ad.xctx 7 ad.pages (takeAdmission (fCtx f) ad (freePinned (fCtx f) s))
  have hv : streamAt (freePinned (fCtx f) s) (fCtx f) = v := by rw [hfree, streamAt_setStream]
  have hne : ∀ d, d ≠ fCtx f → streamAt (freePinned (fCtx f) s) d = streamAt s d := fun d hd => by
    rw [hfree, streamAt_setStream_ne hd]; rfl
  rw [beginAdmission_eq, hmap]
  refine ⟨{ v with ad := ad, ring := replayOf ad }, hstate, rfl, ?_, fun d hd => ?_, ?_, ?_⟩
  · rw [← hv]
    exact streamAt_setStream ..
  · exact (streamAt_setStream_ne hd ..).trans (hne d hd)
  · change (freePinned (fCtx f) s).out = s.out
    rw [hfree]; rfl
  · change insNats ad.pages (freePinned (fCtx f) s).mem.usedPages = _
    rw [hfree, ← hused]; rfl

theorem waits_beginAdmission : Waits (beginAdmission f ad s) f.ring f.tag .boundary := waits_wait _ _ _

theorem pendingAdmit_beginAdmission : (pendingAdmit (beginAdmission f ad s) (fCtx f)).isSome = true := by
  rw [pendingAdmit, List.find?_isSome]
  exact ⟨_, List.mem_append_right _ (List.mem_singleton.2 rfl), beq_self_eq_true _⟩

end Begin

section Admit
variable {s : State} {ring : BitVec 6} {p : Packet} {pages units : List Nat} (hr : Ready s ring p) (hop : p.opcode = 0x09)
include hr hop

theorem exec_streamAdmit : exec (.streamAdmit ring p pages units) s =
    .next (streamAdmitBody pages units (fetchedOf s ring p) (fetch ring s)) :=
  packetStep_ready (ofOp_of_eq hop) hr

end Admit

/-- What Roll Call says of the stream that a STREAM_ADMIT names (R69). -/
def admitVerdict (pages units : List Nat) (f : Fetched) (s : State) : Verdict :=
  rollCall s (loadsBut s (fCtx f)) { ctx := fCtx f, ad := placed s (fCtx f) f.p pages units, windows := none }
    (streamAt s (fCtx f)).op (networkEntries f.p)

/-- A stream in OPEN or SHED without a pending admission may be admitted (R41). -/
theorem admit_goes {s : State} {c : Nat} (hs : (streamAt s c).state = .opened ∨ (streamAt s c).state = .shed)
    (hp : pendingAdmit s c = none) :
    ¬(((streamAt s c).state ≠ .opened ∧ (streamAt s c).state ≠ .shed) ∨ (pendingAdmit s c).isSome = true) := by
  rw [hp]
  rcases hs with hs | hs <;> simp [hs]

section Body
variable {s : State} {f : Fetched} {pages units : List Nat}

theorem streamAdmitBody_refused {r : Reply} (h : deviceRefuses true true s = some r) :
    streamAdmitBody pages units f s = answer f r s := by
  rw [streamAdmitBody]
  dsimp only
  rw [h]

variable (h : deviceRefuses true true s = none)
include h

theorem streamAdmitBody_state (hs : (streamAt s (fCtx f)).state ≠ .opened ∧ (streamAt s (fCtx f)).state ≠ .shed) :
    streamAdmitBody pages units f s = answer f (stState s (fCtx f)) s := by
  rw [streamAdmitBody]
  dsimp only
  rw [h]
  exact if_pos (.inl hs)

variable (hs : (streamAt s (fCtx f)).state = .opened ∨ (streamAt s (fCtx f)).state = .shed)
  (hp : pendingAdmit s (fCtx f) = none) (hc : param f.p 20 1 / 16 = (streamAt s (fCtx f)).op.codec + 1)
include hs hp hc

theorem streamAdmitBody_refuse {d r : Nat} (hv : admitVerdict pages units f s = .refuse d r) :
    streamAdmitBody pages units f s =
      answer f { status := 0x300, detail := BitVec.ofNat 8 d, result := BitVec.ofNat 96 r } s := by
  have hgo := admit_goes hs hp
  rw [admitVerdict] at hv
  simp only [streamAdmitBody, h, if_neg hgo, if_neg (not_not_intro hc), hv]

theorem streamAdmitBody_pass {e : Nat} (hv : admitVerdict pages units f s = .pass e) :
    streamAdmitBody pages units f s =
      beginAdmission f { placed s (fCtx f) f.p pages units with engine := e } s := by
  have hgo := admit_goes hs hp
  rw [admitVerdict] at hv
  simp only [streamAdmitBody, h, if_neg hgo, if_neg (not_not_intro hc), hv]

end Body

/-- Settles O13. -/
theorem streamAdmitRunsRollCall : Obligations.StreamAdmitRunsRollCall := by
  unfold Obligations.StreamAdmitRunsRollCall
  intro s ring p pages units hr hop
  have hexec := exec_streamAdmit (pages := pages) (units := units) hr hop
  have hdev : deviceRefuses true true (fetch ring s) = if s.pwr.recess then some (failWith 0x0201 0)
      else if s.flt.oos then some (failWith 0x0202 0) else none := rfl
  refine ⟨fun hrec => ?_, fun hrec hoos => ?_, fun hrec hoos => ?_⟩
  · exact hexec.trans (congrArg _ (streamAdmitBody_refused (by rw [hdev, hrec]; rfl)))
  · exact hexec.trans (congrArg _ (streamAdmitBody_refused (by rw [hdev, hrec, hoos]; rfl)))
  · have hgo : deviceRefuses true true (fetch ring s) = none := by rw [hdev, hrec, hoos]; rfl
    refine ⟨fun ho hsh => hexec.trans (congrArg _ (streamAdmitBody_state hgo ⟨ho, hsh⟩)), fun hs hp hc => ?_⟩
    refine ⟨fun d r hv => hexec.trans (congrArg _ ?_), fun e hv => ?_⟩
    · exact streamAdmitBody_refuse (f := fetchedOf s ring p) hgo hs hp hc hv
    · have hpass := streamAdmitBody_pass (f := fetchedOf s ring p) hgo hs hp hc hv
      obtain ⟨v, hstate, had, hat, hne, hout, hused⟩ := beginAdmission_spec (fetchedOf s ring p)
        { placed (fetch ring s) (fCtx (fetchedOf s ring p)) p pages units with engine := e } (fetch ring s)
      refine ⟨_, hexec.trans (congrArg _ hpass), (congrArg Stream.state hat).trans hstate,
        pendingAdmit_beginAdmission .., (congrArg (·.ad.engine) (hat)).trans (congrArg (·.engine) had),
        waits_beginAdmission .., hout, fun hfree => ?_, fun hfree => ?_, hne⟩
      · exact hused.trans (congrArg _ (if_neg (ne_true_of_eq_false hfree)))
      · exact hused.trans (congrArg _ (if_pos hfree))

end Sys2Proof.Machine

namespace Sys2Proof.Machine

/-! ## What the device notes by the way

A fault record, an ECC report, the count of a pool and a reply leave the streams, the ports, the destinations, the frames and
the metadata rings as they are, and take back nothing that has been sent. -/

structure Noted (s t : State) : Prop where
  pending : t.pending = s.pending
  streams : t.streams = s.streams
  ports : t.ports = s.ports
  dests : t.dests = s.dests
  frames : t.frames = s.frames
  mr : t.cmd.mr = s.cmd.mr
  out : ∀ x ∈ s.out, x ∈ t.out

namespace Noted
variable {s t u : State}

/-- A change of other fields. -/
theorem quiet (pending : t.pending = s.pending := by rfl) (streams : t.streams = s.streams := by rfl)
    (ports : t.ports = s.ports := by rfl) (dests : t.dests = s.dests := by rfl) (frames : t.frames = s.frames := by rfl)
    (mr : t.cmd.mr = s.cmd.mr := by rfl) (out : ∀ x ∈ s.out, x ∈ t.out := by exact fun _ h => h) : Noted s t :=
  ⟨pending, streams, ports, dests, frames, mr, out⟩

theorem refl (s : State) : Noted s s := quiet

theorem trans (h : Noted s t) (k : Noted t u) : Noted s u :=
  ⟨k.pending.trans h.pending, k.streams.trans h.streams, k.ports.trans h.ports, k.dests.trans h.dests,
    k.frames.trans h.frames, k.mr.trans h.mr, fun x hx => k.out x (h.out x hx)⟩

theorem foldl {α : Type} {f : State → α → State} (hf : ∀ s a, Noted s (f s a)) (l : List α) (s : State) :
    Noted s (l.foldl f s) := by
  induction l generalizing s with
  | nil => exact refl s
  | cons a r ih => exact (hf s a).trans (ih _)

theorem streamAt (h : Noted s t) (c : Nat) : streamAt t c = Machine.streamAt s c := by
  rw [Machine.streamAt, h.streams, Machine.streamAt]
theorem destAt (h : Noted s t) (n : Nat) : destAt t n = Machine.destAt s n := by
  rw [Machine.destAt, h.dests, Machine.destAt]
theorem portAt (h : Noted s t) (n : Nat) : portAt t n = Machine.portAt s n := by
  rw [Machine.portAt, h.ports, Machine.portAt]
theorem mrAt (h : Noted s t) (n : Nat) : mrAt t n = Machine.mrAt s n := by
  rw [Machine.mrAt, h.mr, Machine.mrAt]

/-! ### The interrupt wire and the fault recorder -/

theorem send (o : Output) (s : State) : Noted s (send o s) := quiet (out := fun _ h => List.mem_cons_of_mem _ h)

theorem updateWire (s : State) : Noted s (updateWire s) :=
  quiet (by simp) (by simp) (by simp) (by obtain ⟨_, _, _, _, _, h⟩ := updateWire_eq s; rw [h])
    (by obtain ⟨_, _, _, _, _, h⟩ := updateWire_eq s; rw [h]) (by simp) (fun _ => mem_out_updateWire)

/-- A cause of GLB is raised. -/
theorem raised (h : Noted s t) : Noted s (Machine.updateWire t) := h.trans (updateWire t)

theorem leaveLow (s : State) : Noted s (leaveLow s) := by
  obtain ⟨_, h⟩ := leaveLow_eq s
  rw [h]
  exact quiet

theorem hwSet (o b : Nat) (s : State) : Noted s (hwSet o b s) := quiet

theorem pmeD3hot (s : State) : Noted s (pmeD3hot s) := by
  unfold Machine.pmeD3hot
  split
  · split
    · exact quiet
    · exact trans (quiet (out := fun _ h => List.mem_cons_of_mem _ h)) (leaveLow _)
  · exact refl s

theorem recordFault (r : FaultRec) (s : State) : Noted s (recordFault r s) := by
  unfold Machine.recordFault
  split
  · exact quiet
  · have hlow {t : State} (h : Noted s t) : Noted s (Machine.leaveLow t) := h.trans (leaveLow t)
    dsimp only
    split
    · exact (((hlow quiet).trans (hwSet _ _ _)).trans (pmeD3hot _)).raised
    · exact hlow quiet

/-! ### Memory errors (R281, R283) -/

theorem reportEcc (memory scope : Nat) (s : State) (e : EccEvent) : Noted s (reportEcc memory scope s e) := by
  have record {t : State} (h : Noted s t) (r : FaultRec) : Noted s (Machine.recordFault r t) := h.trans (recordFault r t)
  unfold Machine.reportEcc
  dsimp only
  split
  · exact refl s
  · exact quiet
  · have first (r : FaultRec) (t : State) (h : Noted s t) (p : Prop) [Decidable p] :
        Noted s (if p then Machine.recordFault r t else t) := by
      split
      · exact record h r
      · exact h
    exact first _ _ (first _ _ quiet _) _
  · split
    · exact quiet
    · exact record quiet _

theorem losePc (p : Nat) (s : State) : Noted s (losePc p s) := by
  unfold Machine.losePc
  split
  · split
    · exact refl s
    · dsimp only
      split
      · exact recordFault _ s
      · exact (recordFault _ s).trans quiet
  · exact (trans quiet (recordFault _ _)).raised

theorem notePcUe (a : Nat) (s : State) : Noted s (notePcUe a s) := by
  unfold Machine.notePcUe
  split
  · exact quiet
  · exact refl s

theorem reportDpa (scope : Nat) (es : List EccEvent) (s : State) : Noted s (reportDpa scope es s) := by
  refine foldl (fun s e => ?_) es s
  have hecc := reportEcc (dpaMemory e.addr) scope s e
  dsimp only
  split
  · split
    · exact (hecc.trans (notePcUe _ _)).trans (losePc _ _)
    · exact hecc.trans (notePcUe _ _)
  · exact hecc

theorem faultDpa (s : State) : Noted s (faultDpa s) := recordFault _ s

theorem dpaReads (scope a n : Nat) (s : State) : Noted s (dpaReads scope a n s).2 := by
  induction n generalizing a s with
  | zero => exact refl s
  | succ n ih =>
    unfold Machine.dpaReads
    refine trans ?_ (ih _ _)
    split
    · exact faultDpa s
    · split
      · exact refl s
      · exact trans quiet (reportDpa _ _ _)

theorem dpaReadBytes (a n : Nat) (s : State) : Noted s (dpaReadBytes a n s).2 := dpaReads ..

theorem dpaWrites (a : Nat) (l : List (Word × Bool)) (s : State) : Noted s (dpaWrites a l s) := by
  induction l generalizing a s with
  | nil => exact refl s
  | cons e r ih =>
    unfold Machine.dpaWrites
    refine trans ?_ (ih _ _)
    split
    · exact faultDpa s
    · exact quiet

theorem dpaStore (a : Nat) (l : List Byte) (s : State) : Noted s (dpaStore a l s) := dpaWrites ..

theorem dpaWriteBytes (a : Nat) (l : List (Byte × Bool)) (s : State) : Noted s (dpaWriteBytes a l s) := by
  refine foldl (fun s x => ?_) _ s
  split
  · exact faultDpa s
  · exact trans quiet (reportDpa _ _ _)

theorem writeSpans (spans : List (Nat × Nat)) (l : List (Byte × Bool)) (s : State) : Noted s (writeSpans spans l s) := by
  induction spans generalizing l s with
  | nil => exact refl s
  | cons e r ih => exact (dpaWriteBytes ..).trans (ih _ _)

/-- A loop that reads bytes into an accumulator. -/
theorem readLoop {α β : Type} {f : β × State → α → β × State} (hf : ∀ b s a, Noted s (f (b, s) a).2) (l : List α)
    (b : β) (s : State) : Noted s (l.foldl f (b, s)).2 := by
  induction l generalizing b s with
  | nil => exact refl s
  | cons a r ih => exact (hf b s a).trans (ih (f (b, s) a).1 (f (b, s) a).2)

theorem readIngest (blocks : List Nat) (n : Nat) (s : State) : Noted s (readIngest blocks n s).2 :=
  readLoop (fun _ _ _ => dpaReadBytes ..) _ _ _

theorem readPlaced (l : List Placed) (s : State) : Noted s (readPlaced l s).2 := by
  induction l generalizing s with
  | nil => exact refl s
  | cons p r ih => exact (readLoop (fun _ _ _ => dpaReadBytes ..) _ _ _).trans (ih _)

/-! ### Pools (R116 to R119) -/

theorem setPoolUsed (n : Nat) (used : List (Nat × Nat)) (s : State) : Noted s (setPoolUsed n used s) := by
  unfold Machine.setPoolUsed
  dsimp only
  split
  · exact raised quiet
  · exact quiet

theorem poolAlloc (n owner count : Nat) (s : State) : Noted s (poolAlloc n owner count s).2 := by
  unfold Machine.poolAlloc
  dsimp only
  split
  · exact setPoolUsed ..
  · exact quiet

theorem poolFree (n : Nat) (blocks : List Nat) (s : State) : Noted s (poolFree n blocks s) := by
  unfold Machine.poolFree
  refine trans ?_ (foldl (fun s _ => recordFault _ s) _ _)
  split
  · exact refl s
  · exact setPoolUsed ..

/-! ### Replies (R27, R28, R36) -/

theorem writeReply (n : Nat) (r : Reply) (s : State) : Noted s (writeReply n r s) := by
  unfold Machine.writeReply
  dsimp only
  split
  · exact raised (quiet (out := fun _ h => List.mem_cons_of_mem _ h))
  · exact quiet (out := fun _ h => List.mem_cons_of_mem _ h)

theorem drainReplies (n : Nat) (l : List Reply) (s : State) : Noted s (drainReplies n l s) := by
  induction l generalizing s with
  | nil => exact quiet
  | cons r rs ih =>
    unfold Machine.drainReplies
    split
    · exact (writeReply n r s).trans (ih _)
    · exact quiet

theorem releaseReplies (ring : BitVec 6) (l : List Outstanding) (b : Bool) (s : State) :
    Noted s (releaseReplies ring l b s) := by
  induction l generalizing b s with
  | nil => exact refl s
  | cons o os ih =>
    have kept (b : Bool) : Noted s (Machine.releaseReplies ring os b
        { s with cmd := { s.cmd with outstanding := s.cmd.outstanding ++ [o] } }) := trans quiet (ih _ _)
    unfold Machine.releaseReplies
    split
    · split
      · split
        · exact kept _
        · split
          · exact ih _ _
          · exact (drainReplies _ _ _).trans (ih _ _)
      · exact kept _
    · exact kept _

theorem finish (c : BitVec 6 × BitVec 16) (r : Reply) (s : State) : Noted s (finish c r s) :=
  trans quiet (releaseReplies _ _ _ _)

theorem answer (f : Fetched) (r : Reply) (s : State) : Noted s (answer f r s) :=
  trans quiet (releaseReplies _ _ _ _)

theorem lastRecordCheck (c : Nat) (s : State) : Noted s (lastRecordCheck c s) := by
  refine foldl (fun s o => ?_) _ s
  have answered (p : Prop) [Decidable p] (k : BitVec 6 × BitVec 16) (r : Reply) :
      Noted s (if p then s else Machine.finish k r s) := by
    split
    · exact refl s
    · exact finish _ _ s
  cases o.cause with
  | lastRecord r => exact answered _ _ _
  | _ => exact refl s

/-! ### Link and power -/

theorem reportLtr (before : Bool) (s : State) : Noted s (reportLtr before s) := by
  unfold Machine.reportLtr
  split
  · exact refl s
  · exact send _ s

theorem wakeDomain (d : Nat) (s : State) : Noted s (wakeDomain d s) := by
  unfold Machine.wakeDomain
  split
  · split
    · exact quiet
    · exact refl s
  · exact quiet

end Noted

end Sys2Proof.Machine

namespace Sys2Proof.Machine

/-! ## What records on their way to the host leave alone

A record that is counted, queued or dropped leaves the ports and the frames as they are, and of every stream its addressing,
its state, and what its last transition was. -/

structure Logged (s t : State) : Prop where
  pending : t.pending = s.pending
  ports : t.ports = s.ports
  frames : t.frames = s.frames
  op : ∀ c, (streamAt t c).op = (streamAt s c).op
  state : ∀ c, (streamAt t c).state = (streamAt s c).state
  event : ∀ c, (streamAt t c).lastEvent = (streamAt s c).lastEvent
  round : ∀ c, (streamAt t c).lastRound = (streamAt s c).lastRound

theorem Noted.logged {s t : State} (h : Noted s t) : Logged s t :=
  ⟨h.pending, h.ports, h.frames, fun c => by rw [h.streamAt], fun c => by rw [h.streamAt], fun c => by rw [h.streamAt],
    fun c => by rw [h.streamAt]⟩

namespace Logged
variable {s t u : State}

theorem quiet (pending : t.pending = s.pending := by rfl) (ports : t.ports = s.ports := by rfl)
    (frames : t.frames = s.frames := by rfl) (streams : ∀ c, streamAt t c = streamAt s c := by exact fun _ => rfl) :
    Logged s t :=
  ⟨pending, ports, frames, fun c => by rw [streams], fun c => by rw [streams], fun c => by rw [streams],
    fun c => by rw [streams]⟩

theorem refl (s : State) : Logged s s := quiet

theorem trans (h : Logged s t) (k : Logged t u) : Logged s u :=
  ⟨k.pending.trans h.pending, k.ports.trans h.ports, k.frames.trans h.frames, fun c => (k.op c).trans (h.op c),
    fun c => (k.state c).trans (h.state c), fun c => (k.event c).trans (h.event c), fun c => (k.round c).trans (h.round c)⟩

theorem noted (h : Logged s t) (k : Noted t u) : Logged s u := h.trans k.logged

/-- What holds of the stream that is written and of what stood there holds of every stream. -/
theorem setStream {c : Nat} {v : Stream} (op : v.op = (streamAt s c).op := by rfl)
    (state : v.state = (streamAt s c).state := by rfl) (event : v.lastEvent = (streamAt s c).lastEvent := by rfl)
    (round : v.lastRound = (streamAt s c).lastRound := by rfl) : Logged s (setStream c v s) := by
  have at_ {α : Type} (F : Stream → α) (h : F v = F (streamAt s c)) (d : Nat) :
      F (streamAt (Machine.setStream c v s) d) = F (streamAt s d) := by
    by_cases hd : d = c
    · rw [hd, streamAt_setStream, h]
    · rw [streamAt_setStream_ne hd]
  exact ⟨rfl, rfl, rfl, at_ Stream.op op, at_ Stream.state state, at_ Stream.lastEvent event, at_ Stream.lastRound round⟩

theorem dropRecord (c : Nat) (s : State) : Logged s (dropRecord c s) := setStream

theorem countRecord (q : QRec) (late : Bool) (s : State) : Logged s (countRecord q late s) := setStream

theorem storeRecord (bytes : List Byte) (ext : Option (List Byte)) (bs : List Nat) (s : State) :
    Logged s (storeRecord bytes ext bs s) := by
  unfold Machine.storeRecord
  dsimp only
  split
  · exact ((Noted.dpaStore ..).trans (Noted.dpaStore ..)).logged
  · exact (Noted.dpaStore ..).logged

theorem refreshMr (n : Nat) (s : State) : Logged s (refreshMr n s) := quiet

theorem enqueueRing (c : Nat) (bytes : List Byte) (born : Option Nat) (ext : Option (List Byte)) (s : State) :
    Logged s (enqueueRing c bytes born ext s) := by
  have halloc := (Noted.poolAlloc 1 c (if ext.isSome then 2 else 1) s).logged
  unfold Machine.enqueueRing
  dsimp only
  split
  · next heq => rw [heq] at halloc; exact halloc.trans (dropRecord ..)
  · next heq => rw [heq] at halloc; exact (halloc.trans (storeRecord ..)).trans (trans quiet (refreshMr ..))

theorem enqueueDatagram (c : Nat) (bytes : List Byte) (born : Option Nat) (ext : Option (List Byte)) (s : State) :
    Logged s (enqueueDatagram c bytes born ext s) := by
  have halloc := (Noted.poolAlloc 1 c (if ext.isSome then 2 else 1) s).logged
  unfold Machine.enqueueDatagram
  dsimp only
  split
  · next heq => rw [heq] at halloc; exact (halloc.trans (dropRecord ..)).trans quiet
  · next heq => rw [heq] at halloc; exact (halloc.trans (storeRecord ..)).trans quiet

theorem enqueueRecord (c : Nat) (bytes : List Byte) (born : Option Nat) (ext : Option (List Byte)) (s : State) :
    Logged s (enqueueRecord c bytes born ext s) := by
  have ring (p : Prop) [Decidable p] (b : List Byte) {t : State} (h : Logged s t) :
      Logged s (if p then Machine.enqueueRing c b born ext t else t) := by
    split
    · exact h.trans (enqueueRing ..)
    · exact h
  have datagram (p : Prop) [Decidable p] (b : List Byte) {t : State} (h : Logged s t) :
      Logged s (if p then Machine.enqueueDatagram c b born ext t else t) := by
    split
    · exact h.trans (enqueueDatagram ..)
    · exact h
  unfold Machine.enqueueRecord
  refine datagram _ _ (ring _ _ ?_)
  split
  · exact setStream
  · exact refl s

theorem streamEvent (c event detail data : Nat) (s : State) : Logged s (streamEvent c event detail data s) :=
  enqueueRecord ..

theorem supersede (c : Nat) (s : State) : Logged s (supersede c s) := by
  unfold Machine.supersede
  dsimp only
  split
  · exact refl s
  · exact noted quiet (Noted.poolFree ..)

theorem coverage (c : Nat) (s : State) : Logged s (coverage c s).2 := by
  unfold Machine.coverage
  dsimp only
  split
  · exact setStream
  · dsimp only
    split
    · exact trans setStream (streamEvent ..)
    · exact setStream

end Logged

/-- SHED and FAULTED raise the cause of streams in GLB. -/
theorem Logged.streamCause (s : State) :
    Logged s (updateWire (hwSet 0x10 3 { s with glb := { s.glb with streamCause := true } })) :=
  noted quiet (.updateWire _)

/-- A transition gives its stream the new state and the event, and no other stream another state. -/
theorem transition_spec (c : Nat) (dest : StreamState) (event detail faultSeq : Nat) (s : State) :
    let v := { streamAt s c with state := dest, lastEvent := BitVec.ofNat 8 event, lastRound := s.bell.roundSeq }
    Logged (setStream c v s) (transition c dest event detail faultSeq s) := by
  intro v
  have hrec (bytes : List Byte) : Logged (setStream c v s)
      (enqueueRecord c bytes none none (supersede c (reportLtr (anyHolds s) (setStream c v s)))) :=
    ((Noted.reportLtr _ _).logged.trans (Logged.supersede ..)).trans (Logged.enqueueRecord ..)
  unfold transition
  dsimp only
  split
  · exact (hrec _).trans (.streamCause _)
  · exact hrec _

/-! ## What the completion of access units leaves alone -/

/-- The ports are the same, and every stream keeps its source and addressing. -/
structure KeepsLine (s t : State) : Prop where
  pending : t.pending = s.pending
  ports : t.ports = s.ports
  op : ∀ c, (streamAt t c).op = (streamAt s c).op

theorem Logged.line {s t : State} (h : Logged s t) : KeepsLine s t := ⟨h.pending, h.ports, h.op⟩
theorem Noted.line {s t : State} (h : Noted s t) : KeepsLine s t := h.logged.line

namespace KeepsLine
variable {s t u : State}

theorem refl (s : State) : KeepsLine s s := (Logged.refl s).line

theorem trans (h : KeepsLine s t) (k : KeepsLine t u) : KeepsLine s u :=
  ⟨k.pending.trans h.pending, k.ports.trans h.ports, fun c => (k.op c).trans (h.op c)⟩

theorem quiet (pending : t.pending = s.pending := by rfl) (ports : t.ports = s.ports := by rfl)
    (streams : ∀ c, streamAt t c = streamAt s c := by exact fun _ => rfl) : KeepsLine s t :=
  ⟨pending, ports, fun c => by rw [streams]⟩

theorem foldl {α : Type} {f : State → α → State} (hf : ∀ s a, KeepsLine s (f s a)) (l : List α) (s : State) :
    KeepsLine s (l.foldl f s) := by
  induction l generalizing s with
  | nil => exact refl s
  | cons a r ih => exact (hf s a).trans (ih _)

theorem setStream {c : Nat} {v : Stream} (op : v.op = (streamAt s c).op := by rfl) :
    KeepsLine s (setStream c v s) := by
  refine ⟨rfl, rfl, fun d => ?_⟩
  by_cases hd : d = c
  · rw [hd, streamAt_setStream, op]
  · rw [streamAt_setStream_ne hd]

theorem transition (c : Nat) (dest : StreamState) (event detail faultSeq : Nat) (s : State) :
    KeepsLine s (transition c dest event detail faultSeq s) :=
  trans setStream (transition_spec ..).line

theorem runningNow (c : Nat) (s : State) : KeepsLine s (runningNow c s) := by
  unfold Machine.runningNow
  dsimp only
  split
  · exact transition ..
  · exact refl s

theorem replayWrite (c : Nat) (e : ReplayEntry) (data : List (Byte × Bool)) (s : State) :
    KeepsLine s (replayWrite c e data s) := trans setStream (Noted.writeSpans ..).line

theorem frames (h : KeepsLine s t) (l : List FrameRec) : KeepsLine s { t with frames := l } := h.trans quiet

theorem setDec (n : Nat) (v : VidEngine) (h : KeepsLine s t) : KeepsLine s (setDec n v t) := h.trans quiet

/-- The completion of an access unit up to its frame. -/
theorem written (c : Nat) (v : Stream) (hv : v.op = (streamAt s c).op) (e : ReplayEntry)
    (data : List (Byte × Bool)) :
    KeepsLine s (Machine.replayWrite c e data (Machine.runningNow c (coverage c (Machine.setStream c v s)).2)) :=
  (((setStream hv).trans (Logged.coverage ..).line).trans (runningNow ..)).trans (replayWrite ..)

theorem completeAu (c : Nat) (a : AccessUnit) (s : State) : KeepsLine s (completeAu c a s) := by
  unfold Machine.completeAu
  dsimp only
  split
  · exact (written c _ (by rfl) _ _).frames _
  · exact (((((written c _ (by rfl) _ _).trans (Noted.poolFree ..).line).trans (Noted.poolFree ..).line).trans
      setStream).setDec _ _).frames _

theorem takeAu (c : Nat) (base : BitVec 16) (a : AuSpan) (forced : Bool) (s : State) :
    KeepsLine s (takeAu c base a forced s) := by
  unfold Machine.takeAu
  exact ((trans setStream (Noted.poolFree ..).line).trans (Noted.readPlaced ..).line).trans (completeAu ..)

theorem flushAus (c fuel : Nat) (s : State) : KeepsLine s (flushAus c fuel s) := by
  induction fuel generalizing s with
  | zero => exact refl s
  | succ fuel ih =>
    unfold Machine.flushAus
    split
    · exact refl s
    · split
      · exact refl s
      · exact ((takeAu ..).trans setStream).trans (ih _)

theorem flushPort (n : Nat) (s : State) : KeepsLine s (flushPort n s) := foldl (fun _ _ => flushAus ..) _ _

end KeepsLine

/-- The frame of an access unit that completes. -/
theorem completeAu_frame (c : Nat) (a : AccessUnit) (s : State) : ∃ g ∈ (completeAu c a s).frames,
    g.ctx = BitVec.ofNat 12 c ∧ g.seq = (streamAt s c).cnt.frameSeq ∧ g.ts = a.ts ∧ g.flags = auFlags a := by
  unfold completeAu
  dsimp only
  split
  · exact ⟨_, List.mem_append_right _ (List.mem_singleton.2 rfl), rfl, rfl, rfl, rfl⟩
  · exact ⟨_, List.mem_append_right _ (List.mem_singleton.2 rfl), rfl, rfl, rfl, rfl⟩

end Sys2Proof.Machine

namespace Sys2Proof.Machine

/-! ## Transmission on the ports (R86, R87) -/

/-- What Bailiff's frames leave alone: all but what has been sent, and the frames that a port holds during a PAUSE. -/
structure Transmitted (s t : State) : Prop where
  rest : t = { s with ports := t.ports, out := t.out }
  port : ∀ m, portAt t m = { portAt s m with held := (portAt t m).held }

namespace Transmitted
variable {s t u : State}

theorem refl (s : State) : Transmitted s s := ⟨rfl, fun _ => rfl⟩

theorem trans (h : Transmitted s t) (k : Transmitted t u) : Transmitted s u :=
  ⟨by rw [k.rest, h.rest], fun m => by rw [k.port m, h.port m]⟩

theorem foldl {α : Type} {f : State → α → State} (hf : ∀ s a, Transmitted s (f s a)) (l : List α) (s : State) :
    Transmitted s (l.foldl f s) := by
  induction l generalizing s with
  | nil => exact refl s
  | cons a r ih => exact (hf s a).trans (ih _)

theorem sendControl (n : Nat) (k : ControlOut) (s : State) : Transmitted s (sendControl n k s) := by
  unfold Machine.sendControl
  dsimp only
  split
  · exact refl s
  · split
    · refine ⟨rfl, fun m => ?_⟩
      by_cases hm : m = n
      · rw [hm, portAt_setPort]
      · rw [portAt_setPort_ne hm]
    · exact ⟨rfl, fun _ => rfl⟩

theorem askNextHop (n : Nat) (s : State) : Transmitted s (askNextHop n s) := by
  unfold Machine.askNextHop
  dsimp only
  split
  · exact sendControl ..
  · exact refl s

theorem reportGroups (n : Nat) (v6 : Bool) (s : State) : Transmitted s (reportGroups n v6 s) :=
  foldl (fun _ _ => sendControl ..) _ _

theorem dests (h : Transmitted s t) : t.dests = s.dests := by rw [h.rest]
theorem streams (h : Transmitted s t) : t.streams = s.streams := by rw [h.rest]
theorem pending (h : Transmitted s t) : t.pending = s.pending := by rw [h.rest]

end Transmitted

/-! ## PORT_CONFIG (R87, R88, R335) -/

theorem param_lt (p : Packet) (o n : Nat) : param p o n < 2 ^ (8 * n) := Nat.mod_lt _ (Nat.two_pow_pos _)

/-- The selector byte of a PORT_CONFIG. -/
theorem kind_of_selector {p : Packet} {sel : Nat} (h : (p.opcode == 0x06 && selector p 0 0xFF == sel) = true) :
    param p 8 1 = sel := by
  have hlt : param p 8 1 < 2 ^ 8 := param_lt p 8 1
  have hsel := (Bool.and_eq_true_iff.1 h).2
  rw [selector_eq_param p (n := 1) le_rfl (by decide), beq_iff_eq, show (0xFF : Nat) = 2 ^ 8 - 1 from rfl,
    Nat.and_two_pow_sub_one_eq_mod, Nat.mod_eq_of_lt hlt] at hsel
  exact hsel

section PortConfig
variable {s : State} {ring : BitVec 6} {p : Packet} (hr : Ready s ring p)
include hr

theorem exec_portConfigPort (hw : wellFormed (.portConfigPort ring p) = true) : exec (.portConfigPort ring p) s =
    .next (portConfigBody (fetchedOf s ring p) (fetch ring s)) :=
  packetStep_ready (ofKind_of_selector (k := 0) le_rfl (by decide) hw) hr

theorem exec_portConfigDatagram (hw : wellFormed (.portConfigDatagram ring p) = true) :
    exec (.portConfigDatagram ring p) s = .next (portConfigBody (fetchedOf s ring p) (fetch ring s)) :=
  packetStep_ready (ofKind_of_selector (k := 0) le_rfl (by decide) hw) hr

end PortConfig

theorem portConfigBody_recess {f : Fetched} {s : State} (h : s.pwr.recess = true) : portConfigBody f s =
    answer f {} { s with pwr := { s.pwr with deferred := s.pwr.deferred ++ [f.p.params] } } := by
  rw [portConfigBody, if_pos h]

theorem portConfigBody_port {f : Fetched} {s : State} (h : s.pwr.recess = false) (hk : param f.p 8 1 = 0) :
    portConfigBody f s = answer f {} (configPort f.p s) := by
  rw [portConfigBody, if_neg (ne_true_of_eq_false h), configAny, if_pos hk]

theorem portConfigBody_dest {f : Fetched} {s : State} (h : s.pwr.recess = false) (hk : param f.p 8 1 = 1) :
    portConfigBody f s = answer f {} (configDest f.p s) := by
  rw [portConfigBody, if_neg (ne_true_of_eq_false h), configAny, if_neg (by omega)]

/-- A link that goes down: the port is marked, and the access units that its streams have begun complete (R105). -/
theorem setLink_down (n : Nat) (s : State) :
    (∀ c, (streamAt (setLink n false s) c).op = (streamAt s c).op) ∧ (setLink n false s).pending = s.pending ∧
    portAt (setLink n false s) n = if (portAt s n).linkUp then { portAt s n with linkUp := false, linkChange := true, held := [] }
      else portAt s n := by
  unfold setLink
  dsimp only
  cases hup : (portAt s n).linkUp
  · simp
  · have hdown := KeepsLine.flushPort n (updateWire (setPort n
      { portAt s n with linkUp := false, linkChange := true, held := [] } (hwSet (0x20000 + 0x1000 * n) 8 s)))
    refine ⟨fun c => (hdown.op c).trans ?_, hdown.pending.trans (updateWire_pending _), ?_⟩
    · rw [(Noted.updateWire _).streamAt]; rfl
    · change portAt (flushPort _ _) n = _
      rw [portAt, hdown.ports, updateWire_ports]
      exact portAt_setPort ..

/-- What PORT_CONFIG of KIND 0 sets. -/
theorem configPort_spec (p : Packet) (s : State) :
    let t := configPort p s
    let q := portAt t (param p 9 1)
    (q.mode = BitVec.ofNat 4 (param p 10 1) ∧ q.mtu = param p 12 2 ∧ q.vlan = BitVec.ofNat 16 (param p 14 2) ∧
      q.ipv4 = BitVec.ofNat 32 (param p 16 4) ∧ q.ipv6 = BitVec.ofNat 128 (param p 24 16) ∧ q.linkUp = false) ∧
    (∀ c, (streamAt t c).op = (streamAt s c).op) ∧ t.pending = s.pending := by
  intro t q
  obtain ⟨hop, hpending, hport⟩ := setLink_down (param p 9 1) s
  have hdown : (portAt (setLink (param p 9 1) false s) (param p 9 1)).linkUp = false := by
    rw [hport]
    cases hup : (portAt s (param p 9 1)).linkUp
    · exact hup
    · rfl
  let v : Port := { portAt (setLink (param p 9 1) false s) (param p 9 1) with
    mode := BitVec.ofNat 4 (param p 10 1), mtu := param p 12 2, vlan := BitVec.ofNat 16 (param p 14 2)
    ipv4 := BitVec.ofNat 32 (param p 16 4), prefix4 := param p 20 1, prefix6 := param p 21 1
    ipv6 := BitVec.ofNat 128 (param p 24 16), gateway4 := BitVec.ofNat 32 (param p 40 4) }
  have hwake : KeepsLine (setPort (param p 9 1) v (setLink (param p 9 1) false s)) t := by
    change KeepsLine _ (if _ then _ else _)
    split
    · exact .refl _
    · exact ((Noted.wakeDomain ..).trans (Noted.wakeDomain ..)).line
  have hq : q = v := by
    change portAt t _ = v
    rw [portAt, hwake.ports]
    exact portAt_setPort ..
  rw [hq]
  exact ⟨⟨rfl, rfl, rfl, rfl, rfl, hdown⟩, fun c => (hwake.op c).trans (hop c), hwake.pending.trans hpending⟩

/-- Datagram copies that are discarded leave the destinations as they are. -/
theorem discardCopies_dests (l : List QRec) (s : State) : (discardCopies l s).dests = s.dests := by
  rw [discardCopies]
  induction l generalizing s with
  | nil => rfl
  | cons q r ih =>
    rw [List.foldl_cons, ih, (Noted.lastRecordCheck ..).dests, (Noted.poolFree ..).dests]
    rfl

/-- What PORT_CONFIG of KIND 1 sets. -/
theorem configDest_spec (p : Packet) (s : State) :
    let old := destAt s (param p 10 1 % 64)
    let d := destAt (configDest p s) (param p 10 1 % 64)
    d.enable = (param p 11 1).testBit 1 ∧ d.port = BitVec.ofNat 1 (param p 9 1) ∧ d.resolved = false ∧
      d.dstPort = BitVec.ofNat 16 (param p 12 2) ∧ d.dstIp = BitVec.ofNat 128 (param p 16 16) ∧
      (d.enable = false → d.queue = []) ∧ (d.enable = true → ∀ q ∈ d.queue, q.waitFrom.isSome = true) ∧
      (d.enable = true → old.enable = false → d.seq = 0) := by
  intro old d
  have hd : d = destAt (configDest p s) (param p 10 1 % 64) := rfl
  rw [configDest] at hd
  dsimp only at hd
  cases hen : (param p 11 1).testBit 1
  · rw [if_neg (ne_true_of_eq_false hen), destAt, discardCopies_dests] at hd
    have hd := hd.trans (destAt_setDest ..)
    rw [hd]
    exact ⟨hen, rfl, rfl, rfl, rfl, fun _ => rfl, fun _ q hq => absurd hq List.not_mem_nil,
      fun h => absurd (hen.symm.trans h) Bool.false_ne_true⟩
  · rw [if_pos hen, destAt, (Transmitted.askNextHop ..).dests] at hd
    have hd := hd.trans (destAt_setDest ..)
    rw [hd]
    refine ⟨hen, rfl, rfl, rfl, rfl, fun h => absurd (hen.symm.trans h) Bool.noConfusion, fun _ q hq => ?_, fun _ hold => ?_⟩
    · obtain ⟨x, -, rfl⟩ := List.mem_map.1 hq
      rfl
    · have hnew : ((param p 11 1).testBit 1 && !(destAt s (param p 10 1 % 64)).enable) = true := by
        rw [hen, hold]; rfl
      exact if_pos hnew

/-! ## KEY_LOAD (R101, R102) -/

section KeyLoad
variable {s : State} {f : Fetched} {blob : HostRead (List Byte)}

theorem exec_keyLoad {ring : BitVec 6} {p : Packet} (hr : Ready s ring p) (hop : p.opcode = 0x0C) :
    exec (.keyLoad ring p blob) s = .next (keyLoadBody blob (fetchedOf s ring p) (fetch ring s)) :=
  packetStep_ready (ofOp_of_eq hop) hr

/-- A stream takes a key if it uses SRTP, in OPEN and while it holds a reservation (R101). -/
theorem takesKey_iff (st : Stream) : (st.op.srtp && (st.state == .opened || holds st.state)) = true ↔
    st.op.srtp = true ∧ (st.state = .opened ∨ holds st.state = true) := by
  simp

theorem keyLoadBody_refused
    (h : ¬((streamAt s (fCtx f)).op.srtp = true ∧
      ((streamAt s (fCtx f)).state = .opened ∨ holds (streamAt s (fCtx f)).state = true))) :
    keyLoadBody blob f s = answer f (stState s (fCtx f)) s := by
  rw [← takesKey_iff, Bool.not_eq_true] at h
  exact if_pos (by rw [h]; rfl)

section Taken
variable (h : (streamAt s (fCtx f)).op.srtp = true ∧
  ((streamAt s (fCtx f)).state = .opened ∨ holds (streamAt s (fCtx f)).state = true))
include h

theorem keyLoadBody_fault (x : Byte) : keyLoadBody (.fault x) f s = answer f (failWith 0x104 x.toNat) s := by
  rw [← takesKey_iff] at h
  exact if_neg (by rw [h]; exact Bool.false_ne_true)

theorem keyLoadBody_unauthentic {b : List Byte} (hu : unwrapKey f b = none) :
    keyLoadBody (.data b) f s = answer f (failWith 0x400 0) s := by
  rw [← takesKey_iff] at h
  simp only [keyLoadBody, h, hu, Bool.not_true, Bool.false_eq_true, if_false]

theorem keyLoadBody_loads {b m : List Byte} (hu : unwrapKey f b = some m) :
    keyLoadBody (.data b) f s = answer f {} (loadKey (fCtx f) (param f.p 9 1) {
      suite := param f.p 8 1, fromValid := (param f.p 10 1).testBit 0, fromIndex := param f.p 12 6
      roc := BitVec.ofNat 32 (param f.p 20 4), material := m } s) := by
  rw [← takesKey_iff] at h
  simp only [keyLoadBody, h, hu, Bool.not_true, Bool.false_eq_true, if_false]

end Taken

/-- A key that is loaded stands in its slot, and its stream keeps its state. -/
theorem loadKey_eq (c kslot : Nat) (k : KeySlot) (s : State) : ∃ v, loadKey c kslot k s = setStream c v s ∧
    findAt kslot v.keys = some k ∧ v.state = (streamAt s c).state := by
  unfold loadKey
  dsimp only
  refine ⟨_, rfl, ?_, ?_⟩
  all_goals cases k.fromValid
  · exact findAt_putAt_self ..
  · exact findAt_putAt_self ..
  · rfl
  · rfl

end KeyLoad

/-! ## AU_PUSH (R42, R109) -/

theorem freeBlocks_length (l : List (Nat × Nat)) (from_ n : Nat) : (freeBlocks l from_ n).length = n := by
  induction l generalizing from_ n with
  | nil => cases n <;> simp [freeBlocks]
  | cons e r ih =>
    cases n with
    | zero => rfl
    | succ n =>
      rw [freeBlocks, List.length_append, List.length_map, List.length_range, ih]
      · omega
      · exact Nat.succ_ne_zero n

/-- The blocks that an allocation gives, and what it leaves of the memories. -/
theorem poolAlloc_spec {n owner count : Nat} {s t : State} {bs : List Nat} (h : poolAlloc n owner count s = (some bs, t)) :
    bs.length = count ∧ t.mem = s.mem := by
  have hmem (used : List (Nat × Nat)) : (setPoolUsed n used s).mem = s.mem := by
    unfold setPoolUsed
    dsimp only
    split
    · exact updateWire_mem _
    · rfl
  unfold poolAlloc at h
  dsimp only at h
  split at h
  · obtain ⟨hbs, rfl⟩ := Prod.mk.inj h
    cases hbs
    exact ⟨freeBlocks_length _ _ _, hmem _⟩
  · cases h

section AuPush
variable {s : State} {f : Fetched}

theorem exec_auPush {ring : BitVec 6} {p : Packet} (hr : Ready s ring p) (hop : p.opcode = 0x40) :
    exec (.auPush ring p) s = .next (auPushBody (fetchedOf s ring p) (fetch ring s)) :=
  packetStep_ready (ofOp_of_eq hop) hr

theorem auPushBody_state (h : (streamAt s (fCtx f)).state = .closed ∨ (streamAt s (fCtx f)).state = .faulted) :
    auPushBody f s = answer f (stState s (fCtx f)) s := by
  have hstate : ((streamAt s (fCtx f)).state == .closed || (streamAt s (fCtx f)).state == .faulted) = true := by
    simpa using h
  exact if_pos hstate

theorem auPushBody_source (hc : (streamAt s (fCtx f)).state ≠ .closed) (hf : (streamAt s (fCtx f)).state ≠ .faulted)
    (h : (streamAt s (fCtx f)).op.source ≠ 2) : auPushBody f s = answer f (failWith 0x204 0) s := by
  simp only [auPushBody, beq_false_of_ne hc, beq_false_of_ne hf, Bool.or_false, Bool.false_eq_true, if_false]
  exact if_pos h

section Pushed
variable (hh : holds (streamAt s (fCtx f)).state = true) (h2 : (streamAt s (fCtx f)).op.source = 2)
  (hn : param f.p 16 4 ≤ (streamAt s (fCtx f)).ad.maxAu)
include hh h2 hn

theorem auPushBody_full {v : State} (ha : poolAlloc 3 (fCtx f) (ceilDiv (param f.p 16 4) 4096) s = (none, v)) :
    auPushBody f s = answer f (failWith 0x301 3) v := by
  have hc : ((streamAt s (fCtx f)).state == .closed || (streamAt s (fCtx f)).state == .faulted) = false := by
    cases hst : (streamAt s (fCtx f)).state <;> simp [hst, holds] at hh ⊢
  simp only [auPushBody, hc, hh, Bool.not_true, Bool.false_eq_true, if_false, if_neg (not_not_intro h2),
    if_neg (Nat.not_lt.2 hn), ha]

/-- The transfer of a pushed access unit starts behind those of its engine. -/
theorem auPushBody_starts {bs : List Nat} {v : State}
    (ha : poolAlloc 3 (fCtx f) (ceilDiv (param f.p 16 4) 4096) s = (some bs, v)) :
    ∃ (x : Transfer) (a : AuPush), auPushBody f s = noteAu (f.ring, f.tag) a (wait_ f .transfer { v with mem := { v.mem with
      host := putAt (pushEngine f.ring) (getAt [] (pushEngine f.ring) v.mem.host ++ [x]) v.mem.host } }) ∧
      x.cls = 3 ∧ x.done = 0 ∧ x.blocks = bs := by
  have hc : ((streamAt s (fCtx f)).state == .closed || (streamAt s (fCtx f)).state == .faulted) = false := by
    cases hst : (streamAt s (fCtx f)).state <;> simp [hst, holds] at hh ⊢
  simp only [auPushBody, hc, hh, Bool.not_true, Bool.false_eq_true, if_false, if_neg (not_not_intro h2),
    if_neg (Nat.not_lt.2 hn), ha]
  exact ⟨_, _, rfl, rfl, rfl, rfl⟩

end Pushed

/-- A command whose access unit is noted still waits. -/
theorem waits_noteAu {ring : BitVec 6} {tag : BitVec 16} {cause : WaitCause} (h : Waits s ring tag cause)
    (cmd : BitVec 6 × BitVec 16) (a : AuPush) : Waits (noteAu cmd a s) ring tag cause := by
  obtain ⟨o, ho, hring, htag, hcause⟩ := h
  refine ⟨_, List.mem_map_of_mem ho, ?_⟩
  split
  · exact ⟨hring, htag, hcause⟩
  · exact ⟨hring, htag, hcause⟩

end AuPush

theorem exec_auPushComplete {ring : BitVec 6} {tag : BitVec 16} {s : State} {x : Transfer} {o : Outstanding} {a : AuPush}
    (refFree : Bool)
    (hx : (getAt [] (pushEngine ring) s.mem.host).find? (fun t => t.cls == 3 &&
      t.owner.toNat == tag.toNat + 65536 * ring.toNat && decide (t.total ≤ t.done)) = some x)
    (ho : s.cmd.outstanding.find? (fun o => o.ring == ring && o.tag == tag && o.cause == .transfer && o.au.isSome) = some o)
    (ha : o.au = some a) : ∃ (u : AccessUnit) (v : State), exec (.auPushComplete ring tag refFree) s =
      .next (finish (ring, tag) {} (completeAu o.ctx.toNat u v)) ∧ u.ts = a.ts ∧ u.discontinuity = a.discontinuity ∧
      u.capture.isNone = (a.capture == 0) ∧ Noted s v := by
  change ∃ u v, execAuPushComplete ring tag refFree s = _ ∧ _
  simp only [execAuPushComplete, hx, ho, ha, Option.getD_some]
  refine ⟨_, _, rfl, rfl, rfl, ?_, Noted.trans .quiet (.readIngest ..)⟩
  cases a.capture == 0 <;> rfl

/-- Bits 2 and 3 of the flags of an access unit (R107). -/
theorem auFlags_bits (a : AccessUnit) :
    (auFlags a).getLsbD 2 = a.discontinuity ∧ (auFlags a).getLsbD 3 = a.capture.isNone := by
  unfold auFlags
  cases a.incomplete <;> cases a.oversize <;> cases a.discontinuity <;> cases a.capture.isNone <;> decide

/-- Settles O53. -/
theorem ingestCommands : Obligations.IngestCommands := by
  unfold Obligations.IngestCommands
  refine fun s ring => ⟨fun p hr => ⟨fun hw => ?_, fun hw hrec => ?_, fun hop blob => ?_, fun hop => ?_⟩,
    fun tag refFree x o a hx ho ha => ?_⟩
  · refine ⟨_, exec_portConfigPort hr hw, fun hrec => ?_, fun hrec => ?_⟩
    · rw [portConfigBody_recess (f := fetchedOf s ring p) (s := fetch ring s) hrec]
      exact ⟨by rw [answer_pwr]; rfl, by rw [answer_ports]; rfl⟩
    · rw [portConfigBody_port (f := fetchedOf s ring p) (s := fetch ring s) hrec (kind_of_selector hw)]
      have hans := Noted.answer (fetchedOf s ring p) {} (configPort p (fetch ring s))
      obtain ⟨⟨hmode, hmtu, hvlan, h4, h6, hlink⟩, hop, -⟩ := configPort_spec p (fetch ring s)
      intro q
      have hq : q = portAt (configPort p (fetch ring s)) (param p 9 1) := hans.portAt _
      rw [hq]
      exact ⟨hmode, hmtu, hvlan, h4, h6, hlink, fun e _ => (congrArg Stream.op (hans.streamAt _)).trans (hop _)⟩
  · refine ⟨_, exec_portConfigDatagram hr hw, ?_⟩
    rw [portConfigBody_dest (f := fetchedOf s ring p) (s := fetch ring s) hrec (kind_of_selector hw)]
    intro d
    have hd : d = destAt (configDest p (fetch ring s)) (param p 10 1 % 64) := (Noted.answer ..).destAt _
    rw [hd]
    exact configDest_spec p (fetch ring s)
  · have hexec := exec_keyLoad (blob := blob) hr hop
    refine ⟨fun h => hexec.trans (congrArg _ (keyLoadBody_refused h)), fun h x hx => ?_, fun h b hb => ⟨fun hu => ?_,
      fun m hu => ?_⟩⟩
    · rw [hexec, hx]
      exact congrArg _ (keyLoadBody_fault (s := fetch ring s) (f := fetchedOf s ring p) h x)
    · rw [hexec, hb]
      exact congrArg _ (keyLoadBody_unauthentic (s := fetch ring s) (f := fetchedOf s ring p) h hu)
    · rw [hexec, hb, keyLoadBody_loads (s := fetch ring s) (f := fetchedOf s ring p) h hu]
      obtain ⟨v, hload, hkey, hstate⟩ := loadKey_eq (fCtx (fetchedOf s ring p)) (param p 9 1) {
        suite := param p 8 1, fromValid := (param p 10 1).testBit 0, fromIndex := param p 12 6
        roc := BitVec.ofNat 32 (param p 20 4), material := m } (fetch ring s)
      have hat := (streamAt_answer (fetchedOf s ring p) {} _ (fCtx (fetchedOf s ring p))).trans
        ((congrArg (streamAt · (fCtx (fetchedOf s ring p))) hload).trans (streamAt_setStream ..))
      refine ⟨_, _, rfl, (congrArg (fun v => findAt (param p 9 1) v.keys) hat).trans hkey, rfl, rfl, rfl,
        (congrArg Stream.state hat).trans hstate, fun d hd => ?_⟩
      exact (streamAt_answer ..).trans ((congrArg (streamAt · d) hload).trans (streamAt_setStream_ne hd _ _))
  · have hexec := exec_auPush hr hop
    refine ⟨fun h => hexec.trans (congrArg _ (auPushBody_state h)),
      fun hc hf h2 => hexec.trans (congrArg _ (auPushBody_source hc hf h2)), fun hh h2 hn => ⟨fun v ha => ?_, fun bs v ha => ?_⟩⟩
    · exact hexec.trans (congrArg _ (auPushBody_full (s := fetch ring s) (f := fetchedOf s ring p) hh h2 hn ha))
    · obtain ⟨x, a, hbody, hcls, hdone, hblocks⟩ := auPushBody_starts (s := fetch ring s) (f := fetchedOf s ring p) hh h2 hn ha
      obtain ⟨hlen, hmem⟩ := poolAlloc_spec ha
      have hv := Noted.poolAlloc 3 (p.ctx.setWidth 12).toNat (ceilDiv (param p 16 4) 4096) (fetch ring s)
      rw [ha] at hv
      refine ⟨_, x, hexec.trans (congrArg _ hbody), waits_noteAu (waits_wait _ _ _) _ _, ?_, hcls, hdone, hblocks, hlen,
        hv.frames⟩
      change getAt [] _ (putAt _ (getAt [] _ v.mem.host ++ [x]) v.mem.host) = _
      rw [hmem]
      exact getAt_putAt_self ..
  · obtain ⟨u, v, hexec, hts, hdisc, hcap, hv⟩ := exec_auPushComplete refFree hx ho ha
    obtain ⟨g, hg, hctx, hseq, hgts, hflags⟩ := completeAu_frame o.ctx.toNat u v
    obtain ⟨h2, h3⟩ := auFlags_bits u
    refine ⟨_, g, hexec, (Noted.finish ..).frames.symm ▸ hg, by simpa using hctx, by rw [hseq, hv.streamAt],
      hgts.trans hts, ?_, ?_⟩
    · rw [hflags, h3, hcap]
    · rw [hflags, h2, hdisc]

end Sys2Proof.Machine

namespace Sys2Proof.Machine

/-! ## PAUSE (R86) -/

/-- A PAUSE of some quanta ends later than now. -/
theorem pauseUntil_gt {quanta : BitVec 16} (h : quanta ≠ 0) (now : Nat) (mode : BitVec 4) :
    now < now + ceilDiv (quanta.toNat * quantumFc10 mode) 10 := by
  have hpos : 0 < quanta.toNat := Nat.pos_of_ne_zero fun h0 => h (BitVec.eq_of_toNat_eq h0)
  have hfc : 10 ≤ quantumFc10 mode := by
    unfold quantumFc10
    split <;> decide
  have hmul : 1 * 10 ≤ quanta.toNat * quantumFc10 mode := Nat.mul_le_mul hpos hfc
  unfold ceilDiv
  omega

theorem exec_pauseFrame {s : State} {port : BitVec 1} (quanta : BitVec 16) (h : (portAt s port.toNat).linkUp = true) :
    exec (.pauseFrame port quanta) s = .next (releaseTx port.toNat (setPort port.toNat { portAt s port.toNat with
      pauseUntil := s.now + ceilDiv (quanta.toNat * quantumFc10 (portAt s port.toNat).mode) 10 } s)) := by
  have hup : ¬(!(portAt s port.toNat).linkUp) = true := by rw [h]; exact Bool.false_ne_true
  exact congrArg _ (if_neg hup)

/-- While a PAUSE lasts nothing is released. -/
theorem releaseTx_paused {s : State} {n : Nat} (h : s.now < (portAt s n).pauseUntil) : releaseTx n s = s :=
  releaseTx_of_idle (.inr h)

theorem foldl_sendControl_spec (l : List (TxHeader × ControlOut)) (s : State) :
    let t := l.foldl (fun s e => send (.control e.1 e.2) s) s
    (∀ m, portAt t m = portAt s m) ∧ (∀ x ∈ s.out, x ∈ t.out) ∧ ∀ e ∈ l, Output.control e.1 e.2 ∈ t.out := by
  induction l generalizing s with
  | nil => exact ⟨fun _ => rfl, fun _ h => h, nofun⟩
  | cons e r ih =>
    obtain ⟨hports, hout, hsent⟩ := ih (send (.control e.1 e.2) s)
    refine ⟨hports, fun x hx => hout x (List.mem_cons_of_mem _ hx), fun d hd => ?_⟩
    rcases List.mem_cons.1 hd with rfl | hd
    · exact hout _ List.mem_cons_self
    · exact hsent d hd

/-- The end of a PAUSE sends the frames that waited. -/
theorem releaseTx_spec {s : State} {n : Nat} (h : (portAt s n).pauseUntil ≤ s.now) :
    (portAt (releaseTx n s) n).pauseUntil = (portAt s n).pauseUntil ∧ (portAt (releaseTx n s) n).held = [] ∧
    ∀ e ∈ (portAt s n).held, Output.control e.1 e.2 ∈ (releaseTx n s).out := by
  have hfree : txPaused s n = false := decide_eq_false (by omega)
  rw [releaseTx]
  rw [hfree, Bool.false_or]
  split
  · next hempty =>
    rw [List.isEmpty_iff.1 hempty]
    exact ⟨rfl, rfl, nofun⟩
  · obtain ⟨hports, -, hsent⟩ := foldl_sendControl_spec (portAt s n).held (setPort n { portAt s n with held := [] } s)
    have hport := (hports n).trans (portAt_setPort n { portAt s n with held := [] } s)
    exact ⟨(congrArg Port.pauseUntil hport :), (congrArg Port.held hport :), hsent⟩

/-! ## Control packets (R87, R90) -/

section Control
variable {s : State} {port : BitVec 1} (h : (portAt s port.toNat).linkUp = true)

/-- Control packets that have reached Bailiff in this second, before this one. -/
def controlSeen (s : State) (n : Nat) : Nat :=
  if (portAt s n).controlSecond = s.now / 1250000000 then (portAt s n).controlCount else 0

/-- The port once a control packet is counted. -/
def controlCounted (s : State) (n : Nat) : Port :=
  { portAt s n with controlSecond := s.now / 1250000000, controlCount := controlSeen s n + 1 }

theorem controlCounted_ipv4 (s : State) (n : Nat) : (controlCounted s n).ipv4 = (portAt s n).ipv4 := rfl

include h

theorem exec_controlPacket_dropped (k : ControlKind) (hc : 10000 ≤ controlSeen s port.toNat) :
    exec (.controlPacket port k) s = .next (setPort port.toNat { portAt s port.toNat with
      dropControl := satAdd (portAt s port.toNat).dropControl 1 } s) := by
  have hup : ¬(!(portAt s port.toNat).linkUp) = true := by rw [h]; exact Bool.false_ne_true
  exact congrArg _ ((if_neg hup).trans (if_pos hc))

theorem exec_controlPacket_seen (k : ControlKind) (hc : controlSeen s port.toNat < 10000) :
    exec (.controlPacket port k) s =
      .next (controlBody port.toNat k (setPort port.toNat (controlCounted s port.toNat) s)) := by
  have hup : ¬(!(portAt s port.toNat).linkUp) = true := by rw [h]; exact Bool.false_ne_true
  exact congrArg _ ((if_neg hup).trans (if_neg (Nat.not_le.2 hc)))

end Control

theorem answerIf_transmitted (own : Bool) (n : Nat) (k : ControlKind) (s : State) : Transmitted s (answerIf own n k s) := by
  unfold answerIf
  split
  · exact .sendControl ..
  · exact .refl s

/-- What Bailiff does with a control packet: it notes what the packet says of the network, and transmits. -/
theorem controlBody_spec (n : Nat) (k : ControlKind) (s : State) : ∃ u, Transmitted u (controlBody n k s) ∧
    u.streams = s.streams ∧ (portAt u n).controlCount = (portAt s n).controlCount ∧
    (portAt u n).dropControl = (portAt s n).dropControl ∧ ∀ r, k = .routerAdvert r → (portAt u n).router6 = r := by
  have noted (v : Port) (hc : v.controlCount = (portAt s n).controlCount) (hd : v.dropControl = (portAt s n).dropControl)
      (p : Prop) [Decidable p] : (if p then setPort n v s else s).streams = s.streams ∧
      (portAt (if p then setPort n v s else s) n).controlCount = (portAt s n).controlCount ∧
      (portAt (if p then setPort n v s else s) n).dropControl = (portAt s n).dropControl := by
    split
    · exact ⟨rfl, by rw [portAt_setPort, hc], by rw [portAt_setPort, hd]⟩
    · exact ⟨rfl, rfl, rfl⟩
  cases k with
  | routerAdvert r =>
    refine ⟨setPort n { portAt s n with router6 := r } s, .foldl (fun _ _ => .askNextHop ..) _ _, rfl, ?_⟩
    rw [portAt_setPort]
    exact ⟨rfl, rfl, fun _ hk => ControlKind.routerAdvert.inj hk⟩
  | igmpQuery v =>
    obtain ⟨hs, hc, hd⟩ := noted { portAt s n with igmpV2Until := s.now + querierFc } rfl rfl (v < 3)
    exact ⟨_, .reportGroups .., hs, hc, hd, nofun⟩
  | mldQuery v =>
    obtain ⟨hs, hc, hd⟩ := noted { portAt s n with mldV1Until := s.now + querierFc } rfl rfl (v < 2)
    exact ⟨_, .reportGroups .., hs, hc, hd, nofun⟩
  | other => exact ⟨s, .refl s, rfl, rfl, rfl, nofun⟩
  | _ => exact ⟨s, answerIf_transmitted .., rfl, rfl, rfl, nofun⟩

section Answers
variable {s : State} {n : Nat} (k : ControlOut) (hup : (portAt s n).linkUp = true)
include hup

/-- During a PAUSE a frame waits on its port. -/
theorem sendControl_paused (h : s.now < (portAt s n).pauseUntil) : sendControl n k s =
    setPort n { portAt s n with held := (portAt s n).held ++ [({ port := n, vlan := portVlan s n }, k)] } s := by
  have hpause : txPaused s n = true := decide_eq_true h
  have hlink : ¬(!(portAt s n).linkUp) = true := by rw [hup]; exact Bool.false_ne_true
  exact (if_neg hlink).trans (if_pos hpause)

/-- Otherwise it is sent at once. -/
theorem sendControl_free (h : (portAt s n).pauseUntil ≤ s.now) :
    sendControl n k s = send (.control { port := n, vlan := portVlan s n } k) s := by
  have hfree : ¬txPaused s n = true := by rw [txPaused, decide_eq_true_iff]; omega
  have hlink : ¬(!(portAt s n).linkUp) = true := by rw [hup]; exact Bool.false_ne_true
  exact (if_neg hlink).trans (if_neg hfree)

end Answers

/-- An ARP request or an ICMP echo for the port's own address is answered, under the port's VLAN tag. -/
theorem controlBody_answers {s : State} {n : Nat} {k : ControlKind} {a : BitVec 32} (hk : k = .arpRequest a ∨ k = .icmpEcho a) :
    controlBody n k s = answerIf ((portAt s n).ipv4 != 0 && a == (portAt s n).ipv4) n k s := by
  rcases hk with rfl | rfl <;> rfl

theorem own_iff (p : Port) (a : BitVec 32) : (p.ipv4 != 0 && a == p.ipv4) = true ↔ p.ipv4 ≠ 0 ∧ a = p.ipv4 := by simp

/-! ## Links (R105, R120) -/

theorem intCause_linkChange (s : State) :
    (intCause s).getLsbD 5 = ((portAt s 0).linkChange || (portAt s 1).linkChange) := by
  have h0 := b2n_le_one (s.glb.cqCause != 0)
  have h1 := b2n_le_one (s.glb.mrCause != 0)
  have h2 := b2n_le_one (cmdErrAny s)
  have h3 := b2n_le_one s.glb.streamCause
  have h4 := b2n_le_one s.glb.poolCause
  have h5 := b2n_le_one ((portAt s 0).linkChange || (portAt s 1).linkChange)
  rw [intCause, BitVec.getLsbD_ofNat,
    testBit_of_digit (b := (portAt s 0).linkChange || (portAt s 1).linkChange) (by omega)]
  rfl

theorem intCause_of_linkChange {s : State} (port : BitVec 1) (h : (portAt s port.toNat).linkChange = true) :
    (intCause s).getLsbD 5 = true := by
  rw [intCause_linkChange]
  have hlt : port.toNat < 2 := port.isLt
  rcases (by omega : port.toNat = 0 ∨ port.toNat = 1) with h0 | h1
  · rw [← h0, h, Bool.true_or]
  · rw [← h1, h, Bool.or_true]

/-- A link that changes: LINK_UP, LINK_CHANGE and the mode of its port. -/
theorem setLink_spec (n : Nat) (up : Bool) (s : State) (h : (portAt s n).linkUp ≠ up) :
    (portAt (setLink n up s) n).linkUp = up ∧ (portAt (setLink n up s) n).linkChange = true ∧
      (portAt (setLink n up s) n).mode = (portAt s n).mode := by
  cases up with
  | false =>
    obtain ⟨-, -, hport⟩ := setLink_down n s
    rw [hport, if_pos (by simpa using h)]
    exact ⟨rfl, rfl, rfl⟩
  | true =>
    let v : Port := { portAt s n with linkUp := true, linkChange := true, held := [] }
    let u := updateWire (setPort n v (hwSet (0x20000 + 0x1000 * n) 8 s))
    have hu : portAt u n = v := (portAt_updateWire _ _).trans (portAt_setPort ..)
    have hset : setLink n true s = ((u.dests.filter fun e => e.2.port.toNat == n).map (·.1)).foldl
        (fun s m => askNextHop m s) (reportGroups n true (reportGroups n false u)) := if_neg h
    have hsent : Transmitted u (setLink n true s) := by
      rw [hset]
      exact ((Transmitted.reportGroups ..).trans (.reportGroups ..)).trans (.foldl (fun _ _ => .askNextHop ..) _ _)
    rw [hsent.port n, hu]
    exact ⟨rfl, rfl, rfl⟩

theorem exec_portLinkChange {s : State} {port : BitVec 1} (up : Bool) (hon : s.pwr.on.contains (264 + port.toNat) = true)
    (hm : (portAt s port.toNat).mode ≠ 0) : exec (.portLinkChange port up) s = .next (setLink port.toNat up s) := by
  have hgo : (s.pwr.on.contains (264 + port.toNat) && (portAt s port.toNat).mode != 0) = true := by
    rw [hon, Bool.true_and, bne_iff_ne]
    exact hm
  exact congrArg _ (if_pos hgo)

/-! ## Streams and pools (R47, R99, R118) -/

theorem exec_truantTimeout {s : State} {ctx : BitVec 12}
    (h : (streamAt s ctx.toNat).state = .running ∨ (streamAt s ctx.toNat).state = .admitted)
    (ht : 1250000000000 * (streamAt s ctx.toNat).ad.truantFrames ≤
      (s.now - (streamAt s ctx.toNat).clk.lastDone) * (streamAt s ctx.toNat).ad.frameRate) :
    exec (.truantTimeout ctx) s =
      .next (transition ctx.toNat .truant 2 (streamAt s ctx.toNat).ad.truantFrames 0 s) := by
  refine congrArg _ (if_pos ?_)
  rw [decide_eq_true ht, Bool.and_true]
  simpa using h

theorem exec_truantTimeout_idle {s : State} {ctx : BitVec 12} (h : holds (streamAt s ctx.toNat).state = false) :
    exec (.truantTimeout ctx) s = .next s := by
  refine congrArg _ (if_neg ?_)
  cases hst : (streamAt s ctx.toNat).state <;> simp [hst, holds] at h ⊢

/-- One stash move (R99). -/
def stashMove (t : FlowTable) (e : FlowEntry) : FlowTable :=
  if (findAt (flowSlot 0 e.1) t.way0).isNone then
    setWay 0 (flowSlot 0 e.1) e { t with stash := t.stash.filter fun x => x != e }
  else if (findAt (flowSlot 1 e.1) t.way1).isNone then
    setWay 1 (flowSlot 1 e.1) e { t with stash := t.stash.filter fun x => x != e }
  else t

theorem stashMoves_eq (t : FlowTable) : stashMoves t = t.stash.foldl stashMove { t with moveDue := false } := rfl

theorem stashMove_spec (t : FlowTable) (e : FlowEntry) :
    (stashMove t e).moveDue = t.moveDue ∧ (stashMove t e).stash.Sublist t.stash := by
  unfold stashMove
  split
  · exact ⟨rfl, List.filter_sublist⟩
  · split
    · exact ⟨rfl, List.filter_sublist⟩
    · exact ⟨rfl, .refl _⟩

/-- The stash moves take entries out of the stash only. -/
theorem stashMoves_spec (t : FlowTable) :
    (stashMoves t).moveDue = false ∧ (stashMoves t).stash.Sublist t.stash := by
  have moves (l : List FlowEntry) (u : FlowTable) :
      (l.foldl stashMove u).moveDue = u.moveDue ∧ (l.foldl stashMove u).stash.Sublist u.stash := by
    induction l generalizing u with
    | nil => exact ⟨rfl, .refl _⟩
    | cons e r ih =>
      obtain ⟨hdue, hsub⟩ := stashMove_spec u e
      exact ⟨(ih _).1.trans hdue, (ih _).2.trans hsub⟩
  exact moves t.stash { t with moveDue := false }

theorem exec_stashMove {s : State} (h : s.flow.moveDue = true) :
    exec .stashMove s = .next { s with flow := stashMoves s.flow } :=
  congrArg Host.Outcome.next (if_pos h)

section Stage3
variable {s : State}

theorem exec_poolStage3Shed_idle (h : maxStage s < 3 ∨ s.bell.stageShed = some (mgmtStep s)) :
    exec .poolStage3Shed s = .next s := by
  refine congrArg _ (if_pos ?_)
  simpa using h

theorem exec_poolStage3Shed {c : Nat} (h3 : 3 ≤ maxStage s) (hs : s.bell.stageShed ≠ some (mgmtStep s))
    (hc : stage3Stream s = some c) : exec .poolStage3Shed s = .next { s with bell := { s.bell with
      shedDue := s.bell.shedDue ++ [(BitVec.ofNat 12 c, 3)], stageShed := some (mgmtStep s) } } := by
  have hgo : ¬(decide (maxStage s < 3) || s.bell.stageShed == some (mgmtStep s)) = true := by
    simp [hs, h3]
  refine congrArg _ ((if_neg hgo).trans ?_)
  rw [hc]

end Stage3

/-- Settles O52. -/
theorem portAndStreamEvents : Obligations.PortAndStreamEvents := by
  unfold Obligations.PortAndStreamEvents
  refine fun s port ctx => ⟨fun quanta hup => ⟨fun hq => ?_, fun hq => ?_⟩, fun k hup => ⟨fun hc => ?_, fun hc => ?_⟩,
    fun up hon hm => ⟨fun he => ?_, fun hne => ?_⟩, fun hst ht => ?_, exec_truantTimeout_idle, fun hd => ?_, fun hd => ?_,
    exec_poolStage3Shed_idle, fun c h3 hs hc => ?_⟩
  · rw [exec_pauseFrame quanta hup, releaseTx_paused]
    rw [portAt_setPort]
    exact pauseUntil_gt hq _ _
  · have hnow : s.now + ceilDiv (quanta.toNat * quantumFc10 (portAt s port.toNat).mode) 10 = s.now := by
      rw [hq]; simp [ceilDiv]
    rw [exec_pauseFrame quanta hup, hnow]
    obtain ⟨huntil, hheld, hsent⟩ := releaseTx_spec (n := port.toNat)
      (s := setPort port.toNat { portAt s port.toNat with pauseUntil := s.now } s) (by rw [portAt_setPort]; exact le_rfl)
    rw [portAt_setPort] at huntil hsent
    exact ⟨_, rfl, huntil, hheld, hsent⟩
  · exact exec_controlPacket_dropped hup k hc
  · refine ⟨_, exec_controlPacket_seen hup k hc, ?_⟩
    obtain ⟨u, hsent, hstreams, hcount, hdrop, hrouter⟩ :=
      controlBody_spec port.toNat k (setPort port.toNat (controlCounted s port.toNat) s)
    rw [portAt_setPort] at hcount hdrop
    have hport := hsent.port port.toNat
    refine ⟨(congrArg Port.controlCount hport).trans hcount, (congrArg Port.dropControl hport).trans hdrop,
      hsent.streams.trans hstreams, fun a hk => ?_, fun r hk => (congrArg Port.router6 hport).trans (hrouter r hk)⟩
    have hat : portAt (setPort port.toNat (controlCounted s port.toNat) s) port.toNat = controlCounted s port.toNat :=
      portAt_setPort ..
    have hvlan : portVlan (setPort port.toNat (controlCounted s port.toNat) s) port.toNat = portVlan s port.toNat := by
      rw [portVlan, hat]; rfl
    rw [controlBody_answers hk, hat, controlCounted_ipv4]
    refine ⟨fun hown hp => ?_, fun hown hp => ?_, fun hown => ?_⟩
    · rw [answerIf, if_pos ((own_iff _ _).2 hown), sendControl_paused _ (by rw [hat]; exact hup) (by rw [hat]; exact hp),
        hvlan, hat, portAt_setPort]
      exact ⟨rfl, rfl⟩
    · rw [answerIf, if_pos ((own_iff _ _).2 hown), sendControl_free _ (by rw [hat]; exact hup) (by rw [hat]; exact hp),
        hvlan]
      rfl
    · rw [answerIf, if_neg fun h => hown ((own_iff _ _).1 h)]
      rfl
  · rw [exec_portLinkChange up hon hm, setLink, he]
    exact congrArg _ (if_pos rfl)
  · obtain ⟨hlink, hchange, hmode⟩ := setLink_spec port.toNat up s hne
    exact ⟨_, exec_portLinkChange up hon hm, hlink, hchange, intCause_of_linkChange port hchange, hmode⟩
  · have hlog := transition_spec ctx.toNat .truant 2 (streamAt s ctx.toNat).ad.truantFrames 0 s
    refine ⟨_, exec_truantTimeout hst ht, (hlog.state _).trans ?_, (hlog.event _).trans ?_, (hlog.round _).trans ?_,
      fun d hd => (hlog.state d).trans ?_⟩
    · rw [streamAt_setStream]
    · rw [streamAt_setStream]; rfl
    · rw [streamAt_setStream]
    · rw [streamAt_setStream_ne hd]
  · exact congrArg _ (if_neg (ne_true_of_eq_false hd))
  · obtain ⟨hdue, hsub⟩ := stashMoves_spec s.flow
    exact ⟨_, exec_stashMove hd, rfl, hdue, hsub.length_le, fun e he => hsub.subset he⟩
  · exact ⟨_, exec_poolStage3Shed h3 hs hc, rfl, rfl, rfl⟩

end Sys2Proof.Machine

namespace Sys2Proof.Machine

/-! ## Queues of records (R52, R247) -/

/-- Credits that a record needs: one for each 64 bytes. -/
abbrev creditsFor (q : QRec) : Nat := if q.ext.isSome then 2 else 1

theorem takeDatagram_cons (s : State) (q : QRec) (r : List QRec) (room : Nat) : takeDatagram s (q :: r) room =
    if !mayLeave s q then ((takeDatagram s r room).1, q :: (takeDatagram s r room).2)
    else if decide (creditsFor q ≤ room) && egressDue s q then
      (q :: (takeDatagram s r (room - creditsFor q)).1, (takeDatagram s r (room - creditsFor q)).2)
    else ([], q :: r) := rfl

theorem waitRecords_bytes (now avail : Nat) (l : List QRec) :
    (waitRecords now avail l).1.map (·.bytes) = l.map (·.bytes) := by
  induction l generalizing avail with
  | nil => rfl
  | cons q r ih =>
    unfold waitRecords
    dsimp only
    generalize (if q.ext.isSome then 2 else 1) = need
    cases hw : q.waitFrom <;> by_cases hn : need ≤ avail <;> simp [hn, ih]

/-- No record of a queue may leave. -/
theorem takeRecord_none {s : State} {l : List QRec} (h : takeRecord s l = none) : ∀ x ∈ l, mayLeave s x = false := by
  induction l with
  | nil => exact nofun
  | cons q r ih =>
    rw [takeRecord] at h
    split at h
    · cases h
    · next hq =>
      rw [Option.map_eq_none_iff] at h
      intro x hx
      rcases List.mem_cons.1 hx with rfl | hx
      · exact eq_false_of_ne_true hq
      · exact ih h x hx

/-- The record that leaves is the oldest that may. -/
theorem takeRecord_some {s : State} {l rest : List QRec} {q : QRec} (h : takeRecord s l = some (q, rest)) :
    ∃ a b, l = a ++ q :: b ∧ rest = a ++ b ∧ mayLeave s q = true ∧ ∀ x ∈ a, mayLeave s x = false := by
  induction l generalizing rest with
  | nil => cases h
  | cons x r ih =>
    rw [takeRecord] at h
    split at h
    · next hx =>
      obtain ⟨rfl, rfl⟩ := Prod.mk.inj (Option.some.inj h)
      exact ⟨[], r, rfl, rfl, hx, nofun⟩
    · next hx =>
      obtain ⟨⟨y, r'⟩, hy, he⟩ := Option.map_eq_some_iff.1 h
      obtain ⟨rfl, rfl⟩ := Prod.mk.inj he
      obtain ⟨a, b, hl, hr, hq, ha⟩ := ih hy
      refine ⟨x :: a, b, congrArg _ hl, congrArg _ hr, hq, fun z hz => ?_⟩
      rcases List.mem_cons.1 hz with rfl | hz
      · exact eq_false_of_ne_true hx
      · exact ha z hz

/-- The records of a datagram and those that stay are those of the queue. -/
theorem takeDatagram_perm (s : State) (l : List QRec) (room : Nat) :
    ((takeDatagram s l room).1 ++ (takeDatagram s l room).2).Perm l := by
  induction l generalizing room with
  | nil => exact .refl _
  | cons q r ih =>
    rw [takeDatagram_cons]
    generalize creditsFor q = need
    split
    · exact List.perm_middle.trans ((ih room).cons q)
    · split
      · exact (ih _).cons q
      · exact .refl _

/-- Where no record is held back, they keep their order. -/
theorem takeDatagram_append {s : State} {l : List QRec} (h : ∀ x ∈ l, mayLeave s x = true) (room : Nat) :
    (takeDatagram s l room).1 ++ (takeDatagram s l room).2 = l := by
  induction l generalizing room with
  | nil => rfl
  | cons q r ih =>
    have hq := h q List.mem_cons_self
    rw [takeDatagram_cons, hq, if_neg (by exact Bool.false_ne_true)]
    generalize creditsFor q = need
    split
    · exact congrArg _ (ih (fun x hx => h x (List.mem_cons_of_mem _ hx)) _)
    · rfl

/-! ## Metadata rings (R27, R52, R247) -/

/-- A metadata ring once an entry has been written at its tail: one credit is used. -/
def entryWritten (m : MetaRing) : MetaRing := { m with
  tail := if decide (m.tail + 1 = ringSize m.sizeLog2) then 0 else m.tail + 1
  phase := if decide (m.tail + 1 = ringSize m.sizeLog2) then !m.phase else m.phase
  credit := m.credit - 1 }

theorem entryWritten_tail {m : MetaRing} (h : m.tail < ringSize m.sizeLog2) :
    (entryWritten m).tail = (m.tail + 1) % ringSize m.sizeLog2 := by
  by_cases hw : m.tail + 1 = ringSize m.sizeLog2
  · simp [entryWritten, hw]
  · simp only [entryWritten, hw, decide_false, Bool.false_eq_true, if_false]
    exact (Nat.mod_eq_of_lt (by omega)).symm

/-- Beside its ring, an entry changes what has been sent, the link and the interrupt wire. -/
theorem writeMrEntry_noted (n : Nat) (bytes : List Byte) (s : State) :
    Noted (setMr n (entryWritten (mrAt s n)) (hostWrite ((mrAt s n).base.toNat + 64 * (mrAt s n).tail) bytes s))
      (writeMrEntry n bytes s) := by
  unfold writeMrEntry
  dsimp only
  split
  · exact .raised .quiet
  · exact .refl _

section Entry
variable (n : Nat) (bytes : List Byte) (s : State)

theorem mrAt_writeMrEntry : mrAt (writeMrEntry n bytes s) n = entryWritten (mrAt s n) :=
  ((writeMrEntry_noted n bytes s).mrAt n).trans (mrAt_setMr ..)

theorem mrAt_writeMrEntry_ne {k : Nat} (h : k ≠ n) : mrAt (writeMrEntry n bytes s) k = mrAt s k :=
  ((writeMrEntry_noted n bytes s).mrAt k).trans (mrAt_setMr_ne h ..)

theorem writeMrEntry_streams : (writeMrEntry n bytes s).streams = s.streams := (writeMrEntry_noted n bytes s).streams

theorem mem_out_writeMrEntry :
    .hostWrite (BitVec.ofNat 64 ((mrAt s n).base.toNat + 64 * (mrAt s n).tail)) bytes ∈ (writeMrEntry n bytes s).out :=
  (writeMrEntry_noted n bytes s).out _ List.mem_cons_self

theorem out_writeMrEntry {x : Output} (h : x ∈ s.out) : x ∈ (writeMrEntry n bytes s).out :=
  (writeMrEntry_noted n bytes s).out _ (List.mem_cons_of_mem _ h)

end Entry

/-- The entries of one record: itself, and its extension where it has one (R247). -/
def writeRecord (n : Nat) (q : QRec) (s : State) : State :=
  match q.ext with
  | some (e, _) => writeMrEntry n (setByteAt e 1 (BitVec.ofNat 8
      (b2n (mrAt (writeMrEntry n (finalRecord s q (mrAt s n).phase) s) n).phase)))
      (writeMrEntry n (finalRecord s q (mrAt s n).phase) s)
  | none => writeMrEntry n (finalRecord s q (mrAt s n).phase) s

/-- The blocks of one record. -/
abbrev recordBlocks (q : QRec) : List Nat := q.block :: (match q.ext with | some (_, b) => [b] | none => [])

/-- A record that has been written leaves its queue and its blocks, and counts for its stream. -/
def recordGone (n : Nat) (q : QRec) (rest : List QRec) (late : Bool) (s : State) : State :=
  refreshMr n (lastRecordCheck q.ctx.toNat (countRecord q late
    (poolFree 1 (recordBlocks q) (setMr n { mrAt s n with queue := rest } s))))

/-- The oldest record that may leave, once the ring has the credits it needs. -/
def egressStep (n : Nat) (s : State) : State :=
  match takeRecord s (mrAt s n).queue with
  | none => s
  | some (q, rest) =>
    if mrUsable s n < creditsFor q || !egressDue s q then s
    else recordGone n q rest (recordLate s q) (writeRecord n q s)

theorem exec_recordEgress (mr : BitVec 6) (s : State) :
    exec (.recordEgress mr) s = .next (egressStep mr.toNat (refreshMr mr.toNat s)) := rfl

section Egress
variable {s : State} {n : Nat}

theorem egressStep_held (h : takeRecord s (mrAt s n).queue = none) : egressStep n s = s := by
  rw [egressStep, h]

variable {q : QRec} {rest : List QRec} (h : takeRecord s (mrAt s n).queue = some (q, rest))
include h

theorem egressStep_waits (hw : mrUsable s n < creditsFor q ∨ egressDue s q = false) : egressStep n s = s := by
  have hgo : (decide (mrUsable s n < creditsFor q) || !egressDue s q) = true := by simpa using hw
  rw [egressStep, h]
  exact if_pos hgo

theorem egressStep_leaves (hc : creditsFor q ≤ mrUsable s n) (he : egressDue s q = true) :
    egressStep n s = recordGone n q rest (recordLate s q) (writeRecord n q s) := by
  have hgo : ¬(decide (mrUsable s n < creditsFor q) || !egressDue s q) = true := by
    rw [he, decide_eq_false (Nat.not_lt.2 hc)]
    exact Bool.false_ne_true
  rw [egressStep, h]
  exact if_neg hgo

end Egress

theorem mrUsable_le (s : State) (n : Nat) : mrUsable s n ≤ (mrAt s n).credit := by
  unfold mrUsable
  dsimp only
  split
  · exact le_rfl
  · exact Nat.zero_le _

/-- What the entries of a record leave of the rings. -/
theorem writeRecord_spec {n : Nat} {q : QRec} {s : State} (hc : creditsFor q ≤ (mrAt s n).credit)
    (ht : (mrAt s n).tail < ringSize (mrAt s n).sizeLog2) :
    (mrAt (writeRecord n q s) n).credit + creditsFor q = (mrAt s n).credit ∧
    (mrAt (writeRecord n q s) n).tail = ((mrAt s n).tail + creditsFor q) % ringSize (mrAt s n).sizeLog2 ∧
    (∀ k, k ≠ n → mrAt (writeRecord n q s) k = mrAt s k) ∧ (writeRecord n q s).streams = s.streams ∧
    .hostWrite (BitVec.ofNat 64 ((mrAt s n).base.toNat + 64 * (mrAt s n).tail)) (finalRecord s q (mrAt s n).phase) ∈
      (writeRecord n q s).out := by
  have htail := entryWritten_tail ht
  unfold writeRecord
  cases hx : q.ext with
  | none =>
    simp only [creditsFor, hx, Option.isSome_none, Bool.false_eq_true, if_false] at hc ⊢
    refine ⟨?_, ?_, fun k hk => mrAt_writeMrEntry_ne _ _ _ hk, writeMrEntry_streams .., mem_out_writeMrEntry ..⟩
    · rw [mrAt_writeMrEntry]
      exact Nat.sub_add_cancel hc
    · rw [mrAt_writeMrEntry, htail]
  | some e =>
    simp only [creditsFor, hx, Option.isSome_some, if_true] at hc ⊢
    refine ⟨?_, ?_, fun k hk => (mrAt_writeMrEntry_ne _ _ _ hk).trans (mrAt_writeMrEntry_ne _ _ _ hk),
      (writeMrEntry_streams ..).trans (writeMrEntry_streams ..), out_writeMrEntry _ _ _ (mem_out_writeMrEntry ..)⟩
    · rw [mrAt_writeMrEntry, mrAt_writeMrEntry]
      change (mrAt s n).credit - 1 - 1 + 2 = _
      omega
    · rw [mrAt_writeMrEntry, mrAt_writeMrEntry, entryWritten_tail, htail]
      · exact Nat.mod_add_mod ..
      · rw [htail]
        exact Nat.mod_lt _ (by omega)

/-- What the end of its egress leaves of the rings, the streams and what has been sent. -/
theorem recordGone_spec (n : Nat) (q : QRec) (rest : List QRec) (late : Bool) (s : State) :
    let t := recordGone n q rest late s
    (mrAt t n).credit = (mrAt s n).credit ∧ (mrAt t n).tail = (mrAt s n).tail ∧
    (mrAt t n).queue.map (·.bytes) = rest.map (·.bytes) ∧ (∀ k, k ≠ n → mrAt t k = mrAt s k) ∧
    (streamAt t q.ctx.toNat).cnt.records = (streamAt s q.ctx.toNat).cnt.records + 1 ∧ ∀ x ∈ s.out, x ∈ t.out := by
  intro t
  let u := setMr n { mrAt s n with queue := rest } s
  let v := poolFree 1 (recordBlocks q) u
  let w := lastRecordCheck q.ctx.toNat (countRecord q late v)
  have hv : Noted u v := .poolFree ..
  have hw : Noted (countRecord q late v) w := .lastRecordCheck ..
  have hmr (k : Nat) : mrAt w k = mrAt u k := (hw.mrAt k).trans (hv.mrAt k)
  have hn : mrAt w n = { mrAt s n with queue := rest } := (hmr n).trans (mrAt_setMr ..)
  have ht : mrAt t n = { mrAt w n with
      queue := (waitRecords w.now (mrUsable w n) (mrAt w n).queue).1
      stall := satAdd (mrAt w n).stall (waitRecords w.now (mrUsable w n) (mrAt w n).queue).2 } := mrAt_setMr ..
  rw [ht, hn]
  refine ⟨rfl, rfl, waitRecords_bytes .., fun k hk => ?_, ?_, fun x hx => hw.out _ (hv.out _ hx)⟩
  · exact ((mrAt_setMr_ne hk ..).trans (hmr k)).trans (mrAt_setMr_ne hk ..)
  · change (streamAt w _).cnt.records = _
    rw [hw.streamAt]
    change (streamAt (setStream q.ctx.toNat _ v) q.ctx.toNat).cnt.records = _
    rw [streamAt_setStream, hv.streamAt]
    rfl

/-! ## Datagrams (R88, R252) -/

/-- A record that a datagram has taken leaves its blocks, and counts for its stream. -/
def datagramGone (s z : State) (q : QRec) : State :=
  lastRecordCheck q.ctx.toNat (countRecord q (recordLate s q) (poolFree 1 (recordBlocks q) z))

theorem datagramGone_foldl (s : State) (l : List QRec) (z : State) :
    (l.foldl (datagramGone s) z).dests = z.dests ∧ ∀ x ∈ z.out, x ∈ (l.foldl (datagramGone s) z).out := by
  induction l generalizing z with
  | nil => exact ⟨rfl, fun _ h => h⟩
  | cons q r ih =>
    have hfree := Noted.poolFree 1 (recordBlocks q) z
    have hcheck := Noted.lastRecordCheck q.ctx.toNat (countRecord q (recordLate s q) (poolFree 1 (recordBlocks q) z))
    obtain ⟨hdests, hout⟩ := ih (datagramGone s z q)
    exact ⟨hdests.trans (hcheck.dests.trans hfree.dests), fun x hx => hout x (hcheck.out x (hfree.out x hx))⟩

/-- What the next datagram of a destination takes of its queue, and what it leaves. -/
abbrev nextDatagram (s : State) (n : Nat) : List QRec × List QRec :=
  takeDatagram s (destAt s n).queue (datagramCap s (destAt s n))

/-- The bytes of a datagram (R252). -/
def datagramBytes (s : State) (n : Nat) (l : List QRec) : List Byte :=
  leBytes 2 0x564B ++ [1, BitVec.ofNat 8 ((l.map creditsFor).foldl (· + ·) 0)] ++ leBytes 4 (destAt s n).seq.toNat
    ++ [BitVec.ofNat 8 n, 0] ++ leBytes 2 (min (destAt s n).lost 65535) ++ [0, 0, 0, 0]
    ++ l.flatMap fun q => finalRecord s q false ++ (match q.ext with | some (e, _) => e | none => [])

theorem datagramBytes_head (s : State) (n : Nat) (l : List QRec) :
    (datagramBytes s n l).take 3 = [0x4B, 0x56, 1] ∧ numAt (datagramBytes s n l) 4 4 = (destAt s n).seq.toNat := by
  have hseq := (destAt s n).seq.isLt
  have hbytes : ∃ x rest, datagramBytes s n l = 0x4B :: 0x56 :: 1 :: x :: (leBytes 4 (destAt s n).seq.toNat ++ rest) := by
    rw [datagramBytes, show leBytes 2 0x564B = [0x4B, 0x56] by decide]
    simp only [List.append_assoc, List.cons_append, List.nil_append]
    exact ⟨_, _, rfl⟩
  obtain ⟨x, rest, hbytes⟩ := hbytes
  rw [hbytes]
  refine ⟨rfl, ?_⟩
  rw [numAt]
  change leNat ((leBytes 4 (destAt s n).seq.toNat ++ rest).take 4) = _
  rw [List.take_left' (leBytes_length ..), leNat_leBytes, Nat.mod_eq_of_lt (hseq.trans_eq (by norm_num))]

/-- The state after a datagram. -/
def datagramSent (s : State) (n : Nat) : State :=
  (nextDatagram s n).1.foldl (datagramGone s)
    (setDest n { destAt s n with queue := (nextDatagram s n).2, seq := (destAt s n).seq + 1, lost := 0 }
      (send (.datagram (txHeader s (destAt s n).port.toNat (destAt s n).ipv6 (destAt s n).dstIp) (destAt s n).dstIp
        (destAt s n).dstPort (destAt s n).srcPort (destAt s n).dscp (datagramBytes s n (nextDatagram s n).1)) s))

theorem datagramSent_spec (s : State) (n : Nat) :
    destAt (datagramSent s n) n =
      { destAt s n with queue := (nextDatagram s n).2, seq := (destAt s n).seq + 1, lost := 0 } ∧
    (∀ k, k ≠ n → destAt (datagramSent s n) k = destAt s k) ∧
    .datagram (txHeader s (destAt s n).port.toNat (destAt s n).ipv6 (destAt s n).dstIp) (destAt s n).dstIp
      (destAt s n).dstPort (destAt s n).srcPort (destAt s n).dscp (datagramBytes s n (nextDatagram s n).1) ∈
      (datagramSent s n).out := by
  obtain ⟨hdests, hout⟩ := datagramGone_foldl s (nextDatagram s n).1 (setDest n _ _)
  refine ⟨?_, fun k hk => ?_, hout _ List.mem_cons_self⟩
  · rw [destAt, datagramSent, hdests]
    exact destAt_setDest ..
  · rw [destAt, datagramSent, hdests]
    exact getAt_putAt_ne _ _ hk _

section Send
variable {s : State} {mr : BitVec 6}

/-- A datagram may be sent now: the destination is enabled and resolved, and its port's link is up and not paused. -/
abbrev mayTransmit (s : State) (n : Nat) : Prop :=
  (destAt s n).enable = true ∧ (destAt s n).resolved = true ∧ (portAt s (destAt s n).port.toNat).linkUp = true ∧
    (portAt s (destAt s n).port.toNat).pauseUntil ≤ s.now

theorem mayTransmit_iff (s : State) (n : Nat) : (!(destAt s n).enable || !(destAt s n).resolved ||
    !(portAt s (destAt s n).port.toNat).linkUp || txPaused s (destAt s n).port.toNat) = true ↔ ¬ mayTransmit s n := by
  simp only [Bool.or_eq_true, Bool.not_eq_true', mayTransmit, txPaused, decide_eq_true_iff, not_and_or, not_le,
    Bool.not_eq_true, or_assoc]

theorem exec_datagramSend (mr : BitVec 6) (s : State) : exec (.datagramSend mr) s = .next (
    if !(destAt s mr.toNat).enable || !(destAt s mr.toNat).resolved ||
      !(portAt s (destAt s mr.toNat).port.toNat).linkUp || txPaused s (destAt s mr.toNat).port.toNat then s
    else match (nextDatagram s mr.toNat).1 with
      | [] => s
      | q :: _ =>
        if !(windowPassed s q.made || !(nextDatagram s mr.toNat).2.isEmpty) then s else datagramSent s mr.toNat) := rfl

theorem exec_datagramSend_held (h : ¬ mayTransmit s mr.toNat) : exec (.datagramSend mr) s = .next s :=
  (exec_datagramSend mr s).trans (congrArg _ (if_pos ((mayTransmit_iff ..).2 h)))

theorem exec_datagramSend_empty (h : (nextDatagram s mr.toNat).1 = []) : exec (.datagramSend mr) s = .next s := by
  rw [exec_datagramSend, h]
  exact congrArg _ (ite_self _)

variable {q : QRec} {r : List QRec} (h : mayTransmit s mr.toNat) (hq : (nextDatagram s mr.toNat).1 = q :: r)
include h hq

theorem exec_datagramSend_waits (hw : windowPassed s q.made = false) (he : (nextDatagram s mr.toNat).2 = []) :
    exec (.datagramSend mr) s = .next s := by
  rw [exec_datagramSend, if_neg fun hb => (mayTransmit_iff ..).1 hb h, hq, he]
  exact congrArg _ (if_pos (by rw [hw]; rfl))

theorem exec_datagramSend_sends (hw : windowPassed s q.made = true ∨ (nextDatagram s mr.toNat).2 ≠ []) :
    exec (.datagramSend mr) s = .next (datagramSent s mr.toNat) := by
  have hgo : ¬(!(windowPassed s q.made || !(nextDatagram s mr.toNat).2.isEmpty)) = true := by
    rcases hw with hw | hw <;> simp [hw]
  rw [exec_datagramSend, if_neg fun hb => (mayTransmit_iff ..).1 hb h, hq]
  exact congrArg _ (if_neg hgo)

end Send

/-! ## Next hops (R88) -/

section NextHop
variable {s : State} {mr : BitVec 6}

/-- The wait of a record for its next hop ends. -/
def waitOver (now : Nat) (q : QRec) : QRec :=
  match q.waitFrom with
  | some w => { q with waited := q.waited + (now - w), waitFrom := none }
  | none => q

theorem waitOver_spec (now : Nat) (q : QRec) : (waitOver now q).waitFrom = none ∧ (waitOver now q).bytes = q.bytes := by
  unfold waitOver
  split
  · exact ⟨rfl, rfl⟩
  · next h => exact ⟨h, rfl⟩

theorem exec_nextHopResolved (mr : BitVec 6) (s : State) : exec (.nextHopResolved mr) s = .next (
    if (destAt s mr.toNat).enable && !(destAt s mr.toNat).resolved &&
      nextHop s (destAt s mr.toNat).port.toNat (destAt s mr.toNat).ipv6 (destAt s mr.toNat).dstIp != 0 then
      setDest mr.toNat { destAt s mr.toNat with
        resolved := true, queue := (destAt s mr.toNat).queue.map (waitOver s.now) } s
    else s) := rfl

end NextHop

/-- Settles O35. -/
theorem recordsLeaveByRingAndDatagram : Obligations.RecordsLeaveByRingAndDatagram := by
  unfold Obligations.RecordsLeaveByRingAndDatagram
  intro s mr n
  refine ⟨⟨fun h => ?_, fun q rest h => ⟨takeRecord_some h, fun hw => ?_, fun hc he ht => ?_⟩⟩,
    ⟨fun h => ?_, fun q r hen hres hup hp hq => ⟨(takeDatagram_perm ..).count_eq, fun hall => takeDatagram_append hall _,
      fun hw he => ?_, fun hw => ?_⟩⟩, fun h => ?_, fun hen hres hhop => ?_⟩
  · exact ⟨(exec_recordEgress mr s).trans (congrArg _ (egressStep_held h)), takeRecord_none h⟩
  · exact (exec_recordEgress mr s).trans (congrArg _ (egressStep_waits h hw))
  · obtain ⟨hcredit, htail, hne, hstreams, hsent⟩ := writeRecord_spec (hc.trans (mrUsable_le _ _)) ht
    obtain ⟨hcredit', htail', hqueue, hne', hcount, hout⟩ := recordGone_spec n q rest (recordLate (refreshMr n s) q)
      (writeRecord n q (refreshMr n s))
    refine ⟨_, (exec_recordEgress mr s).trans (congrArg _ (egressStep_leaves h hc he)), ?_, hqueue, htail'.trans htail,
      hout _ hsent, hcount.trans ?_, fun k hk => (hne' k hk).trans ((hne k hk).trans (mrAt_setMr_ne hk ..))⟩
    · rw [hcredit', hcredit]
    · rw [streamAt, hstreams]; rfl
  · by_cases hempty : (nextDatagram s n).1 = []
    · exact exec_datagramSend_empty hempty
    · refine exec_datagramSend_held fun hm => ?_
      obtain ⟨hen, hres, hup, hp⟩ := hm
      rcases h with h | h | h | h | h
      · exact absurd (hen.symm.trans h) Bool.noConfusion
      · exact absurd (hres.symm.trans h) Bool.noConfusion
      · exact absurd (hup.symm.trans h) Bool.noConfusion
      · exact absurd h (Nat.not_lt.2 hp)
      · exact hempty h
  · exact exec_datagramSend_waits ⟨hen, hres, hup, hp⟩ hq hw he
  · obtain ⟨hdest, hne, hsent⟩ := datagramSent_spec s n
    obtain ⟨hmagic, hseq⟩ := datagramBytes_head s n (nextDatagram s n).1
    refine ⟨_, _, exec_datagramSend_sends ⟨hen, hres, hup, hp⟩ hq hw, hsent, hmagic, hseq, ?_, ?_, ?_, hne⟩
    all_goals rw [hdest]
  · rw [exec_nextHopResolved]
    refine congrArg _ (if_neg fun hb => ?_)
    simp only [Bool.and_eq_true, Bool.not_eq_true', bne_iff_ne] at hb
    obtain ⟨⟨hen, hres⟩, hhop⟩ := hb
    rcases h with h | h | h
    · exact absurd (hen.symm.trans h) Bool.noConfusion
    · exact absurd (hres.symm.trans h) Bool.noConfusion
    · exact hhop h
  · have hgo : ((destAt s n).enable && !(destAt s n).resolved &&
        nextHop s (destAt s n).port.toNat (destAt s n).ipv6 (destAt s n).dstIp != 0) = true := by
      rw [hen, hres, Bool.not_false, Bool.true_and, Bool.true_and, bne_iff_ne]
      exact hhop
    refine ⟨_, (exec_nextHopResolved mr s).trans (congrArg _ (if_pos hgo)), rfl, ?_, ?_, ?_, fun k hk => ?_⟩
    · rw [destAt_setDest]
    · rw [destAt_setDest, List.map_map]
      exact List.map_congr_left fun q _ => (waitOver_spec s.now q).2
    · rw [destAt_setDest]
      intro q hq
      obtain ⟨x, -, rfl⟩ := List.mem_map.1 hq
      exact (waitOver_spec s.now x).1
    · exact getAt_putAt_ne _ _ hk _

end Sys2Proof.Machine

namespace Sys2Proof.Machine

/-! ## The functions of the model leave the queue alone (O58)

One lemma for each function that takes a state, in the order of the model's files; a lemma rests on those of the
functions called, which `simp` finds. -/

@[simp] theorem pending_ite (p : Prop) [Decidable p] (s t : State) :
    (if p then s else t).pending = if p then s.pending else t.pending := apply_ite ..

@[simp] theorem snd_pending_ite {β : Type} (p : Prop) [Decidable p] (x y : β × State) :
    (if p then x else y).2.pending = if p then x.2.pending else y.2.pending :=
  apply_ite (fun x : β × State => x.2.pending) ..

@[simp] theorem foldl_pending {α : Type} {f : State → α → State} (hf : ∀ s a, (f s a).pending = s.pending)
    (l : List α) (s : State) : (l.foldl f s).pending = s.pending := by
  induction l generalizing s with
  | nil => rfl
  | cons a r ih => rw [List.foldl_cons, ih, hf]

@[simp] theorem foldl_snd_pending {α β : Type} {f : β × State → α → β × State}
    (hf : ∀ x a, (f x a).2.pending = x.2.pending) (l : List α) (x : β × State) :
    (l.foldl f x).2.pending = x.2.pending := by
  induction l generalizing x with
  | nil => rfl
  | cons a r ih => rw [List.foldl_cons, ih, hf]

@[simp] theorem foldl_snd_snd_pending {α β γ : Type} {f : β × γ × State → α → β × γ × State}
    (hf : ∀ x a, (f x a).2.2.pending = x.2.2.pending) (l : List α) (x : β × γ × State) :
    (l.foldl f x).2.2.pending = x.2.2.pending := by
  induction l generalizing x with
  | nil => rfl
  | cons a r ih => rw [List.foldl_cons, ih, hf]

/-- A state that a result names is the one the result carries. -/
theorem pending_of_pair {β : Type} {x : β × State} {b : β} {s t : State} (h : x = (b, t))
    (hx : x.2.pending = s.pending) : t.pending = s.pending := by rw [← hx, h]

theorem pending_of_triple {β γ : Type} {x : β × γ × State} {b : β} {c : γ} {s t : State} (h : x = (b, c, t))
    (hx : x.2.2.pending = s.pending) : t.pending = s.pending := by rw [← hx, h]

/-! ### Machine/Flags -/

@[simp] theorem hwSet_pending (o b : Nat) (s : State) :
    (hwSet o b s).pending = s.pending :=
  (Noted.hwSet ..).pending

@[simp] theorem hwPeak_pending (o v : Nat) (s : State) :
    (hwPeak o v s).pending = s.pending := by simp [hwPeak]

@[simp] theorem dropWire_pending (s : State) :
    (dropWire s).pending = s.pending := by simp [dropWire]

@[simp] theorem restoreWire_pending (s : State) :
    (restoreWire s).pending = s.pending := by simp [restoreWire]

/-! ### Machine/Ops -/

@[simp] theorem setSq_pending (n : Nat) (v : SubRing) (s : State) :
    (setSq n v s).pending = s.pending := by simp [setSq]

@[simp] theorem setCq_pending (n : Nat) (v : ComRing) (s : State) :
    (setCq n v s).pending = s.pending := by simp [setCq]

@[simp] theorem setMr_pending (n : Nat) (v : MetaRing) (s : State) :
    (setMr n v s).pending = s.pending := by simp [setMr]

@[simp] theorem setDec_pending (n : Nat) (v : VidEngine) (s : State) :
    (setDec n v s).pending = s.pending := by simp [setDec]

@[simp] theorem setPrep_pending (n : Nat) (v : VidEngine) (s : State) :
    (setPrep n v s).pending = s.pending := by simp [setPrep]

@[simp] theorem setEnc_pending (n : Nat) (v : EncEngine) (s : State) :
    (setEnc n v s).pending = s.pending := by simp [setEnc]

@[simp] theorem setPort_pending (n : Nat) (v : Port) (s : State) :
    (setPort n v s).pending = s.pending := by simp [setPort]

@[simp] theorem setDest_pending (n : Nat) (v : DgDest) (s : State) :
    (setDest n v s).pending = s.pending := by simp [setDest]

@[simp] theorem setNet_pending (n : Nat) (v : Network) (s : State) :
    (setNet n v s).pending = s.pending := by simp [setNet]

@[simp] theorem setWc_pending (n : Nat) (v : WorkCounter) (s : State) :
    (setWc n v s).pending = s.pending := by simp [setWc]

@[simp] theorem send_pending (o : Output) (s : State) :
    (send o s).pending = s.pending :=
  (Noted.send ..).pending

@[simp] theorem hostWrite_pending (addr : Nat) (bytes : List Byte) (s : State) :
    (hostWrite addr bytes s).pending = s.pending := by simp [hostWrite]

@[simp] theorem hostWrites_pending (addr : Nat) (bytes : List Byte) (s : State) :
    (hostWrites addr bytes s).pending = s.pending := by simp [hostWrites]

@[simp] theorem leaveLow_pending (s : State) :
    (leaveLow s).pending = s.pending :=
  (Noted.leaveLow ..).pending

@[simp] theorem enterLow_pending (s : State) :
    (enterLow s).pending = s.pending := by simp [enterLow]

@[simp] theorem pmeD3hot_pending (s : State) :
    (pmeD3hot s).pending = s.pending := by simp [pmeD3hot]

@[simp] theorem recordFault_pending (r : FaultRec) (s : State) :
    (recordFault r s).pending = s.pending :=
  (Noted.recordFault ..).pending

@[simp] theorem faultSimple_pending (code scope : Nat) (s : State) :
    (faultSimple code scope s).pending = s.pending := by simp [faultSimple]

@[simp] theorem reportEcc_pending (memory : Nat) (scope : Nat) (s : State) (e : EccEvent) :
    (reportEcc memory scope s e).pending = s.pending :=
  (Noted.reportEcc ..).pending

@[simp] theorem reportEccs_pending (memory scope : Nat) (es : List EccEvent) (s : State) :
    (reportEccs memory scope es s).pending = s.pending := by simp [reportEccs]

@[simp] theorem notePcUe_pending (a : Nat) (s : State) :
    (notePcUe a s).pending = s.pending :=
  (Noted.notePcUe ..).pending

@[simp] theorem losePc_pending (p : Nat) (s : State) :
    (losePc p s).pending = s.pending :=
  (Noted.losePc ..).pending

@[simp] theorem reportDpa_pending (scope : Nat) (es : List EccEvent) (s : State) :
    (reportDpa scope es s).pending = s.pending :=
  (Noted.reportDpa ..).pending

@[simp] theorem faultDpa_pending (s : State) :
    (faultDpa s).pending = s.pending :=
  (Noted.faultDpa ..).pending

@[simp] theorem dpaReads_pending (scope a n : Nat) (s : State) : (dpaReads scope a n s).2.pending = s.pending :=
  (Noted.dpaReads ..).pending

@[simp] theorem dpaWrites_pending (a : Nat) (l : List (Word × Bool)) (s : State) :
    (dpaWrites a l s).pending = s.pending := (Noted.dpaWrites ..).pending

@[simp] theorem dpaBytes_pending (scope a n : Nat) (s : State) : (dpaBytes scope a n s).2.2.pending = s.pending :=
  dpaReads_pending ..

@[simp] theorem dpaStore_pending (a : Nat) (l : List Byte) (s : State) :
    (dpaStore a l s).pending = s.pending :=
  (Noted.dpaStore ..).pending

@[simp] theorem noteEntry_pending (s : State) :
    (noteEntry s).pending = s.pending := by simp [noteEntry]

@[simp] theorem writeReply_pending (n : Nat) (r : Reply) (s : State) :
    (writeReply n r s).pending = s.pending :=
  (Noted.writeReply ..).pending

@[simp] theorem drainReplies_pending (n : Nat) (l : List Reply) (s : State) :
    (drainReplies n l s).pending = s.pending := (Noted.drainReplies ..).pending

@[simp] theorem flushCq_pending (n : Nat) (s : State) :
    (flushCq n s).pending = s.pending := by simp [flushCq]

@[simp] theorem pushReply_pending (r : Reply) (s : State) :
    (pushReply r s).pending = s.pending := by simp [pushReply]

@[simp] theorem flushAllCq_pending (s : State) :
    (flushAllCq s).pending = s.pending := by simp [flushAllCq]

@[simp] theorem releaseReplies_pending (ring : BitVec 6) (l : List Outstanding) (b : Bool) (s : State) :
    (releaseReplies ring l b s).pending = s.pending := (Noted.releaseReplies ..).pending

@[simp] theorem releaseRing_pending (ring : BitVec 6) (s : State) :
    (releaseRing ring s).pending = s.pending := by simp [releaseRing]

@[simp] theorem finish_pending (cmd : BitVec 6 × BitVec 16) (r : Reply) (s : State) :
    (finish cmd r s).pending = s.pending :=
  (Noted.finish ..).pending

@[simp] theorem finishAll_pending (cmds : List (BitVec 6 × BitVec 16)) (r : Reply) (s : State) :
    (finishAll cmds r s).pending = s.pending := by simp [finishAll]

@[simp] theorem finishCause_pending (w : WaitCause) (r : Reply) (s : State) :
    (finishCause w r s).pending = s.pending := by simp [finishCause]

@[simp] theorem enterOos_pending (code : Nat) (s : State) :
    (enterOos code s).pending = s.pending := by simp [enterOos]

@[simp] theorem wakeDomain_pending (d : Nat) (s : State) :
    (wakeDomain d s).pending = s.pending :=
  (Noted.wakeDomain ..).pending

@[simp] theorem drawFree_pending (s : State) :
    (drawFree s).2.pending = s.pending := by simp [drawFree]

@[simp] theorem setLevel_pending (p v : Nat) (s : State) :
    (setLevel p v s).pending = s.pending := by simp [setLevel]

@[simp] theorem sendControl_pending (n : Nat) (k : ControlOut) (s : State) :
    (sendControl n k s).pending = s.pending := by simp [sendControl]

@[simp] theorem releaseTx_pending (n : Nat) (s : State) :
    (releaseTx n s).pending = s.pending := by simp [releaseTx]

@[simp] theorem psramStore_pending (a : Nat) (l : List Byte) (s : State) :
    (psramStore a l s).pending = s.pending := by simp [psramStore]

@[simp] theorem back_pending (s : State) :
    (back s).pending = s.pending := by simp [back]

@[simp] theorem meetPoison_pending (u : UnitId) (b : Bool) (s : State) :
    (meetPoison u b s).pending = s.pending := by simp [meetPoison]

/-! ### Machine/Operands -/

@[simp] theorem fetch_pending (ring : BitVec 6) (s : State) :
    (fetch ring s).pending = s.pending := by simp [fetch]

@[simp] theorem wait_pending (f : Fetched) (cause : WaitCause) (s : State) :
    (wait_ f cause s).pending = s.pending := by simp [wait_]

@[simp] theorem answerWrite_pending (f : Fetched) (r : Reply) (addr : Nat) (bytes : List Byte) (s : State) :
    (answerWrite f r addr bytes s).pending = s.pending := by simp [answerWrite]

/-! ### Machine/Streams -/

@[simp] theorem setPoolUsed_pending (n : Nat) (used : List (Nat × Nat)) (s : State) :
    (setPoolUsed n used s).pending = s.pending :=
  (Noted.setPoolUsed ..).pending

@[simp] theorem poolAlloc_pending (n : Nat) (owner : Nat) (count : Nat) (s : State) :
    (poolAlloc n owner count s).2.pending = s.pending := (Noted.poolAlloc ..).pending

@[simp] theorem poolFree_pending (n : Nat) (blocks : List Nat) (s : State) :
    (poolFree n blocks s).pending = s.pending :=
  (Noted.poolFree ..).pending

@[simp] theorem refreshMr_pending (n : Nat) (s : State) :
    (refreshMr n s).pending = s.pending := by simp [refreshMr]

@[simp] theorem refreshAllMr_pending (s : State) :
    (refreshAllMr s).pending = s.pending := by simp [refreshAllMr]

@[simp] theorem dropRecord_pending (c : Nat) (s : State) :
    (dropRecord c s).pending = s.pending := by simp [dropRecord]

@[simp] theorem storeRecord_pending (bytes : List Byte) (ext : Option (List Byte)) (bs : List Nat) (s : State) :
    (storeRecord bytes ext bs s).pending = s.pending := by
  unfold storeRecord
  split <;> simp

@[simp] theorem enqueueRing_pending (c : Nat) (bytes : List Byte) (born : Option Nat) (ext : Option (List Byte))
    (s : State) : (enqueueRing c bytes born ext s).pending = s.pending := (Logged.enqueueRing ..).pending

@[simp] theorem enqueueDatagram_pending (c : Nat) (bytes : List Byte) (born : Option Nat) (ext : Option (List Byte))
    (s : State) : (enqueueDatagram c bytes born ext s).pending = s.pending := (Logged.enqueueDatagram ..).pending

@[simp] theorem enqueueRecord_pending (c : Nat) (bytes : List Byte) (born : Option Nat)
    (ext : Option (List Byte)) (s : State) :
    (enqueueRecord c bytes born ext s).pending = s.pending := by simp [enqueueRecord]

@[simp] theorem streamEvent_pending (c event detail data : Nat) (s : State) :
    (streamEvent c event detail data s).pending = s.pending := by simp [streamEvent]

@[simp] theorem reportLtr_pending (before : Bool) (s : State) :
    (reportLtr before s).pending = s.pending :=
  (Noted.reportLtr ..).pending

@[simp] theorem supersede_pending (c : Nat) (s : State) :
    (supersede c s).pending = s.pending := by simp [supersede]

@[simp] theorem transition_pending (c : Nat) (dest : StreamState) (event detail faultSeq : Nat) (s : State) :
    (transition c dest event detail faultSeq s).pending = s.pending := by simp [transition]

@[simp] theorem transitionByReply_pending (c : Nat) (dest : StreamState) (s : State) :
    (transitionByReply c dest s).pending = s.pending := by simp [transitionByReply]

@[simp] theorem setClip_pending (k : Clip) (s : State) :
    (setClip k s).pending = s.pending := by simp [setClip]

@[simp] theorem killTransfers_pending (p : Transfer → Bool) (pr : ParkRecord → Bool) (s : State) :
    (killTransfers p pr s).pending = s.pending := by simp [killTransfers]

@[simp] theorem clipSweep_pending (num : Nat) (s : State) :
    (clipSweep num s).pending = s.pending := by
  unfold clipSweep
  split <;> simp

@[simp] theorem endClip_pending (num : BitVec 16) (outcome detail : Nat) (s : State) :
    (endClip num outcome detail s).pending = s.pending := by
  unfold endClip
  repeat' split
  all_goals simp

@[simp] theorem endClipsOf_pending (c outcome : Nat) (s : State) :
    (endClipsOf c outcome s).pending = s.pending := by simp [endClipsOf]

@[simp] theorem removeFlow_pending (c : Nat) (s : State) :
    (removeFlow c s).pending = s.pending := by simp [removeFlow]

@[simp] theorem leaveGroup_pending (c : Nat) (s : State) :
    (leaveGroup c s).pending = s.pending := by simp [leaveGroup]

@[simp] theorem dropWindow_pending (c : Nat) (s : State) :
    (dropWindow c s).pending = s.pending := by simp [dropWindow]

@[simp] theorem dropPushes_pending (c : Nat) (s : State) :
    (dropPushes c s).pending = s.pending := by simp [dropPushes]

@[simp] theorem leaveSheaf_pending (c : Nat) (s : State) :
    (leaveSheaf c s).pending = s.pending := by
  unfold leaveSheaf
  split <;> simp

@[simp] theorem sheafBoundary_pending (s : State) : (sheafBoundary s).pending = s.pending := by
  refine (foldl_pending (fun s e => ?_) _ _).trans rfl
  dsimp only
  split
  · simp
  · simp

@[simp] theorem unmapHeld_pending (h : HeldPages) (s : State) :
    (unmapHeld h s).pending = s.pending := by simp [unmapHeld]

@[simp] theorem giveBack_pending (h : HeldPages) (s : State) :
    (giveBack h s).pending = s.pending := by simp [giveBack]

@[simp] theorem releaseHeld_pending (s : State) :
    (releaseHeld s).pending = s.pending := by simp [releaseHeld]

@[simp] theorem freePinned_pending (c : Nat) (s : State) :
    (freePinned c s).pending = s.pending := by simp [freePinned]

@[simp] theorem giveUp_pending (held : Bool) (c : Nat) (s : State) :
    (giveUp held c s).pending = s.pending := by simp [giveUp]

@[simp] theorem shedStream_pending (c detail : Nat) (s : State) :
    (shedStream c detail s).pending = s.pending := by simp [shedStream]

@[simp] theorem faultStream_pending (c : Nat) (r : FaultRec) (s : State) :
    (faultStream c r s).pending = s.pending := by simp [faultStream]

/-! ### Machine/Rings -/

@[simp] theorem errCfg_pending (k : RingKind) (r : BitVec 6) (s : State) :
    (errCfg k r s).pending = s.pending := by simp [errCfg]

@[simp] theorem errSize_pending (k : RingKind) (r : BitVec 6) (s : State) :
    (errSize k r s).pending = s.pending := by simp [errSize]

@[simp] theorem errDoorbell_pending (r : BitVec 6) (s : State) :
    (errDoorbell r s).pending = s.pending := by simp [errDoorbell]

@[simp] theorem errBusy_pending (k : RingKind) (r : BitVec 6) (s : State) :
    (errBusy k r s).pending = s.pending := by simp [errBusy]

@[simp] theorem doorbell_pending (n : BitVec 6) (tail : Nat) (s : State) :
    (doorbell n tail s).pending = s.pending := by simp [doorbell]

@[simp] theorem cfgSq_pending (n : BitVec 6) (w : Word) (s : State) :
    (cfgSq n w s).pending = s.pending := by simp [cfgSq]

@[simp] theorem cfgCq_pending (n : BitVec 6) (w : Word) (s : State) : (cfgCq n w s).pending = s.pending := by
  unfold cfgCq
  dsimp only
  split_ifs <;> simp

@[simp] theorem cfgMr_pending (n : BitVec 6) (w : Word) (s : State) :
    (cfgMr n w s).pending = s.pending := by simp [cfgMr]

@[simp] theorem cfgWrite_pending (k : RingKind) (n : BitVec 6) (w : Word) (s : State) :
    (cfgWrite k n w s).pending = s.pending := by
  unfold cfgWrite
  split <;> simp

@[simp] theorem ringCreditBody_pending (f : Fetched) (s : State) :
    (ringCreditBody f s).pending = s.pending := by simp [ringCreditBody]

@[simp] theorem writeMrEntry_pending (n : Nat) (bytes : List Byte) (s : State) :
    (writeMrEntry n bytes s).pending = s.pending := by simp [writeMrEntry]

@[simp] theorem countRecord_pending (q : QRec) (late : Bool) (s : State) :
    (countRecord q late s).pending = s.pending := by simp [countRecord]

@[simp] theorem lastRecordCheck_pending (c : Nat) (s : State) :
    (lastRecordCheck c s).pending = s.pending :=
  (Noted.lastRecordCheck ..).pending

@[simp] theorem lastRecordSweep_pending (s : State) :
    (lastRecordSweep s).pending = s.pending := by simp [lastRecordSweep]

@[simp] theorem hostReturned_pending (s : State) :
    (hostReturned s).pending = s.pending := by simp [hostReturned]

/-! ### Machine/Resets -/

@[simp] theorem powerOnReset_pending (s : State) :
    (powerOnReset s).pending = s.pending := by simp [powerOnReset]

@[simp] theorem functionReset_pending (s : State) :
    (functionReset s).pending = s.pending := by simp [functionReset]

@[simp] theorem retireCore_pending (n : Nat) (s : State) :
    (retireCore n s).pending = s.pending := by simp [retireCore]

@[simp] theorem postFail_pending (f : PostFail) (s : State) :
    (postFail f s).pending = s.pending := by
  unfold postFail
  repeat' split
  all_goals simp

@[simp] theorem classCheck_pending (s : State) :
    (classCheck s).pending = s.pending := by simp [classCheck]

@[simp] theorem startRounds_pending (s : State) :
    (startRounds s).pending = s.pending := by simp [startRounds]

@[simp] theorem becomeReady_pending (s : State) :
    (becomeReady s).pending = s.pending := by simp [becomeReady]

/-! ### Machine/Recovery -/

@[simp] theorem corePowerOn_pending (n : Nat) (s : State) :
    (corePowerOn n s).pending = s.pending := by simp [corePowerOn]

@[simp] theorem corePowerOff_pending (n : Nat) (s : State) :
    (corePowerOff n s).pending = s.pending := by simp [corePowerOff]

@[simp] theorem coreLoad_pending (n : Nat) (s : State) :
    (coreLoad n s).2.pending = s.pending := by simp [coreLoad]

@[simp] theorem captureOne_pending (bulk : Bool) (n : Nat) (s : State) :
    (captureOne bulk n s).pending = s.pending := by
  unfold captureOne
  dsimp only
  split <;> rfl

@[simp] theorem captureTransfers_pending (s : State) :
    (captureTransfers s).pending = s.pending := by simp [captureTransfers]

@[simp] theorem resumeTransfer_pending (p : ParkRecord) (s : State) :
    (resumeTransfer p s).pending = s.pending := by simp [resumeTransfer]

@[simp] theorem resumeCaptured_pending (s : State) :
    (resumeCaptured s).pending = s.pending := by simp [resumeCaptured]

@[simp] theorem endJob_pending (ring : BitVec 6) (tag : BitVec 16) (r : Reply) (s : State) :
    (endJob ring tag r s).pending = s.pending := by
  unfold endJob
  split <;> simp

@[simp] theorem endJobs_pending (r : Reply) (s : State) :
    (endJobs r s).pending = s.pending := by simp [endJobs]

@[simp] theorem abortUnits_pending (s : State) :
    (abortUnits s).pending = s.pending := by simp [abortUnits]

@[simp] theorem startReset_pending (r : FaultRec) (sus : List Suspect) (s : State) :
    (startReset r sus s).pending = s.pending := by
  unfold startReset
  repeat' split
  all_goals simp

@[simp] theorem eccReset_pending (unit : BitVec 16) (before : Word) (sus : List Suspect) (s : State) :
    (eccReset unit before sus s).pending = s.pending := by simp [eccReset]

@[simp] theorem dropFrame_pending (c seq : Nat) (s : State) :
    (dropFrame c seq s).pending = s.pending := by simp [dropFrame]

@[simp] theorem loseList_pending (s : State) : (loseList s).pending = s.pending := by
  change (List.foldl _ s _).pending = s.pending
  exact foldl_pending (fun _ _ => by rfl) _ _

@[simp] theorem testGroups_pending (cores : List Nat) (s : State) :
    (testGroups cores s).pending = s.pending := by simp [testGroups]

@[simp] theorem refault_pending (x y : Suspect) (s : State) : (refault x y s).pending = s.pending := by
  unfold refault
  split
  case h_5 =>
    dsimp only
    split
    · rw [foldl_pending (fun _ _ => by simp)]
      split <;> simp
    · simp
  all_goals simp

@[simp] theorem endReplay_pending (x : Suspect) (s : State) :
    (endReplay x s).pending = s.pending := by simp [endReplay]

@[simp] theorem countReset_pending (step : Nat) (seq : Word) (s : State) :
    (countReset step seq s).pending = s.pending := by simp [countReset]

@[simp] theorem writeShift_pending (q : Word) (d : Nat) (s : State) :
    (writeShift q d s).pending = s.pending := by simp [writeShift]

@[simp] theorem restartEngines_pending (s : State) :
    (restartEngines s).pending = s.pending := by simp [restartEngines]

@[simp] theorem restoreCores_pending (s : State) :
    (restoreCores s).pending = s.pending := by simp [restoreCores]

@[simp] theorem completeReset_pending (rs : Reset) (s : State) :
    (completeReset rs s).pending = s.pending := by simp [completeReset]

@[simp] theorem copyRecords_pending (s : State) :
    (copyRecords s).pending = s.pending := by simp [copyRecords]

/-! ### Machine/Parks -/

@[simp] theorem clipComplete_pending (num : Nat) (s : State) :
    (clipComplete num s).pending = s.pending := by
  unfold clipComplete
  split <;> simp

@[simp] theorem clipFault_pending (num : Nat) (cause : Byte) (s : State) :
    (clipFault num cause s).pending = s.pending := by
  unfold clipFault
  split <;> simp

@[simp] theorem killReport_pending (cls : Nat) (owner : Word) (cause : Byte) (blocks : List Nat) (s : State) :
    (killReport cls owner cause blocks s).pending = s.pending := by
  unfold killReport
  split <;> simp

@[simp] theorem parkTransfer_pending (bulk : Bool) (n : Nat) (t : Transfer) (cause : Byte)
    (faultAddr retries : Nat) (s : State) :
    (parkTransfer bulk n t cause faultAddr retries s).pending = s.pending := by
  unfold parkTransfer
  dsimp only
  split <;> simp

@[simp] theorem freezeRecord_pending (bulk : Bool) (n : Nat) (t : Transfer) (s : State) :
    (freezeRecord bulk n t s).pending = s.pending := by
  unfold freezeRecord
  split <;> simp

@[simp] theorem freezeOne_pending (bulk : Bool) (n : Nat) (t : Transfer) (s : State) :
    (freezeOne bulk n t s).pending = s.pending := by simp [freezeOne]

@[simp] theorem freezeJob_pending (ring : BitVec 6) (tag : BitVec 16) (s : State) :
    (freezeJob ring tag s).pending = s.pending := by simp [freezeJob]

@[simp] theorem thawOne_pending (i : Nat) (p : ParkRecord) (s : State) : (thawOne i p s).pending = s.pending := by
  unfold thawOne
  dsimp only
  split
  · next heq => simp [pending_of_pair heq (poolAlloc_pending ..)]
  · next heq => simp [pending_of_pair heq (poolAlloc_pending ..)]

@[simp] theorem thawJob_pending (ring : BitVec 6) (tag : BitVec 16) (s : State) :
    (thawJob ring tag s).pending = s.pending := by simp [thawJob]

@[simp] theorem parkAction_pending (i : Nat) (p : ParkRecord) (s : State) :
    (parkAction i p s).pending = s.pending := by
  unfold parkAction
  repeat' split
  all_goals simp

/-! ### Machine/RollCall -/

@[simp] theorem nextClassDown_pending (s : State) : (nextClassDown s).pending = s.pending :=
  foldl_pending (fun _ _ => by rfl) _ _

/-! ### Machine/Crop -/

@[simp] theorem dpaGather_pending (ws : List Nat) (s : State) :
    (dpaGather ws s).2.pending = s.pending := by simp [dpaGather]

@[simp] theorem countEv_pending (n : Nat) (e : Ev) (s : State) :
    (countEv n e s).pending = s.pending := by simp [countEv]

@[simp] theorem cropWords_pending (x : Nat) (r : CropRec) (n : Nat) (box geom : List Byte) (s : State) :
    (cropWords x r n box geom s).2.2.pending = s.pending := by simp [cropWords]

@[simp] theorem listEntry_pending (r : CropRec) (cap n e : Nat) (s : State) :
    (listEntry r cap n e s).2.2.2.pending = s.pending := by simp [listEntry]

@[simp] theorem regionOf_pending (x : Nat) (r : CropRec) (cap n e : Nat) (s : State) :
    (regionOf x r cap n e s).2.2.pending = s.pending := by
  unfold regionOf
  dsimp only
  split <;> simp

@[simp] theorem cropAll_pending (x : Nat) (r : CropRec) (ns : List Nat) (s : State) :
    (cropAll x r ns s).2.2.pending = s.pending := by
  refine foldl_snd_snd_pending (fun a ne => ?_) _ _
  dsimp only
  split <;> simp

/-! ### Machine/Bell -/

@[simp] theorem noteHang_pending (kind index cores slot : Nat) (s : State) :
    (noteHang kind index cores slot s).pending = s.pending := by simp [noteHang]

@[simp] theorem missedLayer_pending (s : State) :
    (missedLayer s).1.pending = s.pending := by
  unfold missedLayer
  repeat' split
  all_goals simp

@[simp] theorem tileMissing_pending (n : Nat) (s : State) :
    (tileMissing n s).pending = s.pending := by simp [tileMissing]

@[simp] theorem markPoison_pending (s : State) :
    (markPoison s).pending = s.pending := by simp [markPoison]

@[simp] theorem storeRowMap_pending (b : Nat) (rows : List Row) (s : State) :
    (storeRowMap b rows s).pending = s.pending := by simp [storeRowMap]

@[simp] theorem closeLayer_pending (s : State) :
    (closeLayer s).pending = s.pending := by
  unfold closeLayer
  dsimp only
  split <;> simp

@[simp] theorem markFrames_pending (ids : List Nat) (s : State) :
    (markFrames ids s).pending = s.pending := by simp [markFrames]

@[simp] theorem writeRows_pending (w : BitVec 4096) (s : State) :
    (writeRows w s).pending = s.pending := by
  unfold writeRows
  dsimp only
  repeat' split
  all_goals simp

@[simp] theorem runCore_pending (n entry arg : Nat) (s : State) :
    (runCore n entry arg s).pending = s.pending := by simp [runCore]

@[simp] theorem sleepCore_pending (n : Nat) (s : State) :
    (sleepCore n s).pending = s.pending := by simp [sleepCore]

@[simp] theorem addAction_pending (a : Action) (s : State) :
    (addAction a s).pending = s.pending := by simp [addAction]

@[simp] theorem queueTimed_pending (c : Nat) (t : Transfer) (s : State) :
    (queueTimed c t s).pending = s.pending := by simp [queueTimed]

@[simp] theorem slotActions_pending (phys : Nat → Nat) (b : BeBase) (i : Nat) (job : Option (BitVec 6 × BitVec 16))
    (w : BitVec 4096) (s : State) : (slotActions phys b i job w s).pending = s.pending := by
  unfold slotActions
  dsimp only
  have folded {t : State} (ht : t.pending = s.pending) (p : Prop) [Decidable p] (a : Action) :
      (if p then t else addAction a (wakeDomain 269 { t with trk := { t.trk with busy := true } })).pending =
        s.pending := by
    split_ifs
    · exact ht
    · simpa using ht
  refine folded ?_ _ _
  rw [foldl_pending, foldl_pending, foldl_pending, foldl_pending]
  · simp
  · intro s g
    refine foldl_pending (fun s j => ?_) _ _
    split <;> simp
  · simp
  · simp

@[simp] theorem wakeGroups_pending (phys : Nat → Nat) (i : Nat) (w : BitVec 4096) (s : State) :
    (wakeGroups phys i w s).pending = s.pending := by simp [wakeGroups]

@[simp] theorem preempt_pending (s : State) :
    (preempt s).pending = s.pending := by simp [preempt]

@[simp] theorem startInput_pending (j : Job) (s : State) : (startInput j s).pending = s.pending := by
  unfold startInput
  dsimp only
  split_ifs
  · rfl
  · rfl
  all_goals
    split
    · next heq => simp [pending_of_pair heq (poolAlloc_pending ..)]
    · next heq => simpa using pending_of_pair heq (poolAlloc_pending ..)

@[simp] theorem startInputs_pending (s : State) :
    (startInputs s).pending = s.pending := by simp [startInputs]

@[simp] theorem stopGap_pending (g : Gap) (s : State) :
    (stopGap g s).pending = s.pending := by simp [stopGap]

@[simp] theorem placeLayer_pending (g : Gap) (s : State) :
    (placeLayer g s).pending = s.pending := by
  unfold placeLayer
  repeat' split
  all_goals simp

@[simp] theorem issueSlot_pending (i : Nat) (w : BitVec 4096) (s : State) :
    (issueSlot i w s).pending = s.pending := by
  unfold issueSlot
  dsimp only
  split <;> simp

@[simp] theorem issueGapSlot_pending (g : Gap) (w : BitVec 4096) (rest : List (BitVec 4096)) (s : State) :
    (issueGapSlot g w rest s).pending = s.pending := by
  unfold issueGapSlot
  split <;> simp

@[simp] theorem retryInputs_pending (s : State) :
    (retryInputs s).pending = s.pending := by
  unfold retryInputs
  dsimp only
  split <;> simp

@[simp] theorem fetchSlot_pending (i : Nat) (w : BitVec 4096) {body : State → State}
    (hb : ∀ s, (body s).pending = s.pending) (s : State) : (fetchSlot i w body s).pending = s.pending := by
  unfold fetchSlot
  dsimp only
  split_ifs <;> simp [hb]

@[simp] theorem startOutput_pending (j : Job) (s : State) :
    (startOutput j s).pending = s.pending := by simp [startOutput]

@[simp] theorem jobAdvance_pending (k : BitVec 6 × BitVec 16) (ran : Nat) (s : State) :
    (jobAdvance k ran s).pending = s.pending := by
  unfold jobAdvance
  split <;> simp

@[simp] theorem finishLayer_pending (g : Gap) (k : BitVec 6 × BitVec 16) (s : State) :
    (finishLayer g k s).pending = s.pending := by simp [finishLayer]

@[simp] theorem cropFinish_pending (core : Nat) (a : Action) (s : State) :
    (cropFinish core a s).2.pending = s.pending := by simp [cropFinish]

@[simp] theorem unitEnds_pending (a : Action) (s : State) : (unitEnds a s).2.pending = s.pending := by
  unfold unitEnds
  split
  case h_4 =>
    refine foldl_pending (fun s x => ?_) _ _
    cases x <;> simp
  all_goals simp

/-! ### Machine/Tile -/

@[simp] theorem coreEvents_pending (n memory : Nat) (es : List EccEvent) (s : State) :
    (coreEvents n memory es s).pending = s.pending := by simp [coreEvents]

@[simp] theorem coreReads_pending (n : Nat) (wgt : Bool) (a k : Nat) (s : State) :
    (coreReads n wgt a k s).2.pending = s.pending := by simp [coreReads]

@[simp] theorem coreWrites_pending (n : Nat) (wgt : Bool) (a : Nat) (l : List (Word × Bool)) (s : State) :
    (coreWrites n wgt a l s).pending = s.pending := by simp [coreWrites]

@[simp] theorem coreBytes_pending (n : Nat) (wgt : Bool) (a k : Nat) (s : State) :
    (coreBytes n wgt a k s).2.2.pending = s.pending := by simp [coreBytes]

@[simp] theorem coreStore_pending (n a : Nat) (l : List Byte) (poison : Bool) (s : State) :
    (coreStore n a l poison s).pending = s.pending := by simp [coreStore]

@[simp] theorem coreWord_pending (n memory off : Nat) (raw : Word) (put : Word → Core → Core) (scope : Nat)
    (s : State) :
    (coreWord n memory off raw put scope s).2.2.pending = s.pending := by
  unfold coreWord
  dsimp only
  split <;> simp

@[simp] theorem accFix_pending (n i : Nat) (l : List Nat) (s : State) : (accFix n i l s).pending = s.pending := by
  induction l generalizing s with
  | nil => rfl
  | cons k ks ih => simp [accFix, ih]

@[simp] theorem accRead_pending (n i : Nat) (s : State) :
    (accRead n i s).2.pending = s.pending := by simp [accRead]

@[simp] theorem accWrite_pending (n i : Nat) (r : AccRow) (s : State) :
    (accWrite n i r s).pending = s.pending := by simp [accWrite]

@[simp] theorem scaleRead_pending (n b : Nat) (s : State) :
    (scaleRead n b s).2.2.pending = s.pending := by simp [scaleRead]

@[simp] theorem progWord_pending (scope n a : Nat) (s : State) : (progWord scope n a s).2.2.pending = s.pending :=
  foldl_snd_snd_pending (fun _ _ => by simp) _ _

@[simp] theorem fetchInsn_pending (n a : Nat) (s : State) :
    (fetchInsn n a s).2.2.pending = s.pending := by simp [fetchInsn]

@[simp] theorem insnFault_pending (n op res amount : Nat) (s : State) :
    (insnFault n op res amount s).pending = s.pending := by simp [insnFault]

@[simp] theorem advance_pending (n : Nat) (s : State) :
    (advance n s).pending = s.pending := by simp [advance]

@[simp] theorem loadTile_pending (n w : Nat) (s : State) :
    (loadTile n w s).pending = s.pending := by simp [loadTile]

@[simp] theorem scaleWord_pending (n wd : Nat) (l : List (Option (Byte × Bool))) (s : State) :
    (scaleWord n wd l s).pending = s.pending := by simp [scaleWord]

@[simp] theorem loadScales_pending (n w : Nat) (s : State) :
    (loadScales n w s).pending = s.pending := by simp [loadScales]

@[simp] theorem endProgram_pending (n a : Nat) (s : State) : (endProgram n a s).pending = s.pending := rfl

@[simp] theorem setSteps_pending (n w : Nat) (s : State) :
    (setSteps n w s).pending = s.pending := by simp [setSteps]

@[simp] theorem setMark_pending (n w : Nat) (s : State) :
    (setMark n w s).pending = s.pending := by simp [setMark]

@[simp] theorem setParam_pending (n w : Nat) (s : State) :
    (setParam n w s).pending = s.pending := by simp [setParam]

@[simp] theorem claimLimit_pending (w : Nat) (s : State) :
    (claimLimit w s).2.2.pending = s.pending := by
  unfold claimLimit
  dsimp only
  repeat' split
  all_goals simp

@[simp] theorem latchClaim_pending (w : Nat) (s : State) :
    (latchClaim w s).pending = s.pending := by simp [latchClaim]

@[simp] theorem claimTile_pending (n w : Nat) (s : State) :
    (claimTile n w s).pending = s.pending := by simp [claimTile]

@[simp] theorem issueDma_pending (n w : Nat) (s : State) :
    (issueDma n w s).pending = s.pending := by simp [issueDma]

/-! ### Machine/Array -/

@[simp] theorem runVector_pending (n w j row : Nat) (acts : List Nat) (poison : Bool) (s : State) :
    (runVector n w j row acts poison s).pending = s.pending := by simp [runVector]

@[simp] theorem coreGather_pending (n : Nat) (ws : List Nat) (s : State) :
    (coreGather n ws s).2.pending = s.pending := by simp [coreGather]

@[simp] theorem countStalls_pending (n : Nat) (s : State) :
    (countStalls n s).pending = s.pending := by simp [countStalls]

@[simp] theorem runPass_pending (n w : Nat) (src : State → Nat → Nat → Nat → BlockSrc) (s : State) :
    (runPass n w src s).pending = s.pending := by simp [runPass]

@[simp] theorem runMatmul_pending (n w : Nat) (s : State) :
    (runMatmul n w s).pending = s.pending := by simp [runMatmul]

@[simp] theorem withProg_pending (n a k : Nat) {body : State → State} (hb : ∀ s, (body s).pending = s.pending)
    (s : State) :
    (withProg n a k body s).pending = s.pending := by
  unfold withProg
  dsimp only
  split_ifs <;> simp [hb]

@[simp] theorem runConv_pending (n w : Nat) (s : State) :
    (runConv n w s).pending = s.pending := by simp [runConv]

@[simp] theorem poolTile_pending (n w : Nat) (s : State) :
    (poolTile n w s).pending = s.pending := by simp [poolTile]

@[simp] theorem runCrop_pending (n w : Nat) (s : State) :
    (runCrop n w s).pending = s.pending := by
  unfold runCrop
  dsimp only
  split <;> simp

/-! ### Machine/Vector -/

@[simp] theorem flatRead_pending (n : Nat) (f : Fmt) (base k : Nat) (s : State) :
    (flatRead n f base k s).2.pending = s.pending := by simp [flatRead]

@[simp] theorem flatWrite_pending (n : Nat) (f : Fmt) (base : Nat) (l : List (Nat × Bool)) (s : State) :
    (flatWrite n f base l s).pending = s.pending := by simp [flatWrite]

end Sys2Proof.Machine

namespace Sys2Proof.Machine

/-! ## The queue, from the vector unit to admission (O58) -/

/-! ### Machine/Vector -/

@[simp] theorem readA_pending (n w : Nat) (s : State) :
    (readA n w s).2.pending = s.pending := by simp [readA]

@[simp] theorem runLanes_pending (op : LaneOp) (n w : Nat) (s : State) :
    (runLanes op n w s).pending = s.pending := by simp [runLanes]

@[simp] theorem scaleRow_pending (n w : Nat) (s : State) :
    (scaleRow n w s).2.pending = s.pending := by simp [scaleRow]

@[simp] theorem biasRow_pending (n w : Nat) (s : State) :
    (biasRow n w s).2.pending = s.pending := by simp [biasRow]

@[simp] theorem requantise_pending (n w : Nat) (s : State) :
    (requantise n w s).pending = s.pending := by simp [requantise]

@[simp] theorem runNormal_pending (f : List Fp → List (Fp × Ev)) (n w : Nat) (s : State) :
    (runNormal f n w s).pending = s.pending := by simp [runNormal]

@[simp] theorem runReduce_pending (f : Line → List (Nat × Ev)) (n w : Nat) (s : State) :
    (runReduce f n w s).pending = s.pending := by simp [runReduce]

@[simp] theorem readPart_pending (n base : Nat) (d : Dims) (rows cols : List Nat) (s : State) :
    (readPart n base d rows cols s).2.pending = s.pending := by simp [readPart]

@[simp] theorem readTensor_pending (n base : Nat) (d : Dims) (s : State) :
    (readTensor n base d s).2.pending = s.pending := by simp [readTensor]

@[simp] theorem writeTensor_pending (n base : Nat) (d : Dims) (f : Nat → Nat → Nat → (Nat × Bool) × Ev)
    (s : State) :
    (writeTensor n base d f s).pending = s.pending := by simp [writeTensor]

@[simp] theorem depthwise_pending (n w : Nat) (s : State) : (depthwise n w s).pending = s.pending := by
  unfold depthwise
  extract_lets g di dd fw m dst rows cols x k sc bi int sample
  rw [writeTensor_pending]
  exact (biasRow_pending ..).trans ((scaleRow_pending ..).trans
    ((flatRead_pending ..).trans (readPart_pending ..)))

@[simp] theorem resample_pending (n w : Nat) (s : State) : (resample n w s).pending = s.pending := by
  unfold resample
  dsimp only
  simp only [writeTensor_pending, readTensor_pending]

@[simp] theorem repack_pending (n w : Nat) (s : State) :
    (repack n w s).pending = s.pending := by simp [repack]

@[simp] theorem transposeHW_pending (n w : Nat) (s : State) :
    (transposeHW n w s).pending = s.pending := by simp [transposeHW]

@[simp] theorem concat_pending (n w : Nat) (s : State) :
    (concat n w s).pending = s.pending := by simp [concat]

@[simp] theorem splitTensor_pending (n w : Nat) (s : State) :
    (splitTensor n w s).pending = s.pending := by simp [splitTensor]

@[simp] theorem readList_pending (n a : Nat) (s : State) :
    (readList n a s).2.2.2.pending = s.pending := by simp [readList]

@[simp] theorem writeList_pending (n a : Nat) (header : List Byte) (entries : List (List Byte))
    (dropped : Nat) (sorted poison : Bool) (s : State) :
    (writeList n a header entries dropped sorted poison s).pending = s.pending := by simp [writeList]

@[simp] theorem decodeBoxes_pending (n w : Nat) (s : State) :
    (decodeBoxes n w s).pending = s.pending := by simp [decodeBoxes]

@[simp] theorem suppress_pending (n w : Nat) (s : State) :
    (suppress n w s).pending = s.pending := by simp [suppress]

/-! ### Machine/Tracking -/

@[simp] theorem rowsOp_pending (arg : Nat) (s : State) :
    (rowsOp arg s).pending = s.pending := by simp [rowsOp]

@[simp] theorem storeEntry_pending (l : RecList) (j : Nat) (e : BoxEntry) (s : State) :
    (storeEntry l j e s).pending = s.pending := by
  unfold storeEntry
  split <;> simp

@[simp] theorem editEntry_pending (n i j : Nat) (f : BoxEntry → BoxEntry) (s : State) :
    (editEntry n i j f s).pending = s.pending := by
  refine foldl_pending (fun s l => ?_) _ _
  split <;> simp

@[simp] theorem addFree_pending (c : Nat) (k : Int) (s : State) :
    (addFree c k s).pending = s.pending := by simp [addFree]

@[simp] theorem leaveTrack_pending (id : Nat) (s : State) :
    (leaveTrack id s).pending = s.pending := by
  unfold leaveTrack
  split <;> simp

@[simp] theorem missTrack_pending (matched : Bool) (maxMiss seq id : Nat) (s : State) :
    (missTrack matched maxMiss seq id s).pending = s.pending := by
  unfold missTrack
  split <;> simp

@[simp] theorem growTrack_pending (a : TrackParams) (seq : Nat) (p : Pair) (d : BoxEntry) (s : State) :
    (growTrack a seq p d s).pending = s.pending := by
  unfold growTrack
  split <;> simp

@[simp] theorem joinEntry_pending (a : TrackParams) (n i j : Nat) (f : FrameRec) (d : BoxEntry) (s : State) :
    (joinEntry a n i j f d s).pending = s.pending := by
  unfold joinEntry
  dsimp only
  split <;> simp

@[simp] theorem applyStep_pending (net : List RoundMatch) (q : Nat) (s : State) :
    (applyStep net q s).pending = s.pending := by
  unfold applyStep
  dsimp only
  rw [foldl_pending, foldl_pending, foldl_pending, foldl_pending, foldl_pending]
  · intro s x
    exact foldl_pending (fun s p => by split_ifs <;> simp) _ _
  · intro s x
    split_ifs <;> rfl
  · intro s x
    exact foldl_pending (fun _ _ => by simp) _ _
  · intro s g
    split <;> simp
  · intro s x
    exact foldl_pending (fun s p => by split_ifs <;> simp) _ _

@[simp] theorem applyOp_pending (predicted : List Predicted) (s : State) :
    (applyOp predicted s).pending = s.pending := by simp [applyOp]

@[simp] theorem dropTracks_pending (c : Nat) (s : State) :
    (dropTracks c s).pending = s.pending := by simp [dropTracks]

@[simp] theorem refreshHeadroom_pending (s : State) :
    (refreshHeadroom s).pending = s.pending := by simp [refreshHeadroom]

@[simp] theorem emitFrame_pending (i : Nat) (f : FrameRec) (s : State) :
    (emitFrame i f s).pending = s.pending := by simp [emitFrame]

@[simp] theorem emitAll_pending (s : State) :
    (emitAll s).pending = s.pending := by simp [emitAll]

/-! ### Machine/Boundary -/

@[simp] theorem failArea_pending (area : BitVec 2) (rule slot : Nat) (s : State) :
    (failArea area rule slot s).pending = s.pending := by simp [failArea]

@[simp] theorem dropNext_pending (s : State) :
    (dropNext s).pending = s.pending := by simp [dropNext]

@[simp] theorem dropStandby_pending (s : State) :
    (dropStandby s).pending = s.pending := by simp [dropStandby]

@[simp] theorem addChange_pending (c : Change) (s : State) :
    (addChange c s).pending = s.pending := by simp [addChange]

@[simp] theorem dropChanges_pending (p : Change → Bool) (s : State) :
    (dropChanges p s).pending = s.pending := by simp [dropChanges]

@[simp] theorem waitLast_pending (cmd : BitVec 6 × BitVec 16) (s : State) :
    (waitLast cmd s).pending = s.pending := by simp [waitLast]

@[simp] theorem markOld_pending (c : Nat) (s : State) :
    (markOld c s).pending = s.pending := by simp [markOld]

@[simp] theorem joinGroup_pending (c : Nat) (s : State) :
    (joinGroup c s).pending = s.pending := by simp [joinGroup]

@[simp] theorem wakeEngines_pending (c : Nat) (s : State) :
    (wakeEngines c s).pending = s.pending := by simp [wakeEngines]

@[simp] theorem admitNow_pending (c : Nat) (cmd : Option (BitVec 6 × BitVec 16)) (s : State) :
    (admitNow c cmd s).pending = s.pending := by
  unfold admitNow
  split <;> simp

@[simp] theorem closeNow_pending (c : Nat) (cmd : Option (BitVec 6 × BitVec 16)) (s : State) :
    (closeNow c cmd s).pending = s.pending := by
  unfold closeNow
  split <;> simp

@[simp] theorem answerChange_pending (cmd : Option (BitVec 6 × BitVec 16)) (s : State) :
    (answerChange cmd s).pending = s.pending := by
  unfold answerChange
  split <;> simp

@[simp] theorem applyChange_pending (c : Change) (s : State) : (applyChange c s).pending = s.pending := by
  unfold applyChange
  split
  case h_4 =>
    dsimp only
    split_ifs
    · split <;> simp
    · exact (answerChange_pending ..).trans (foldl_pending (fun _ _ => by rfl) _ _)
  case h_10 => split <;> rfl
  all_goals simp

@[simp] theorem applyChanges_pending (s : State) :
    (applyChanges s).pending = s.pending := by simp [applyChanges]

@[simp] theorem undoAdmit_pending (c : Nat) (s : State) :
    (undoAdmit c s).pending = s.pending := by simp [undoAdmit]

@[simp] theorem refuseAdmission_pending (c : Nat) (cmd : Option (BitVec 6 × BitVec 16)) (r : Reply) (s : State) :
    (refuseAdmission c cmd r s).pending = s.pending := by
  unfold refuseAdmission
  split <;> simp

@[simp] theorem recheckAdmissions_pending (s : State) :
    (recheckAdmissions s).pending = s.pending := by simp [recheckAdmissions]

@[simp] theorem fuseSheaves_pending (listed : List FrameRec) (s : State) :
    (fuseSheaves listed s).pending = s.pending := by simp [fuseSheaves]

@[simp] theorem makeFrameList_pending (held : List FrameRec) (left : List Nat) (s : State) :
    (makeFrameList held left s).pending = s.pending := by
  unfold makeFrameList
  dsimp only
  rw [fuseSheaves_pending]
  refine (foldl_pending (fun _ _ => by rfl) _ _).trans ?_
  rw [poolFree_pending, poolFree_pending]

@[simp] theorem reloadCores_pending (s : State) :
    (reloadCores s).pending = s.pending := by simp [reloadCores]

@[simp] theorem applyCoreRetire_pending (s : State) :
    (applyCoreRetire s).pending = s.pending := by simp [applyCoreRetire]

@[simp] theorem recheckReady_pending (s : State) :
    (recheckReady s).pending = s.pending := by
  unfold recheckReady
  dsimp only
  repeat' split
  all_goals simp

@[simp] theorem shedAll_pending (l : List Nat) (detail : Nat) (s : State) :
    (shedAll l detail s).pending = s.pending := by simp [shedAll]

@[simp] theorem swapAreas_pending (s : State) :
    (swapAreas s).1.pending = s.pending := by
  unfold swapAreas
  dsimp only
  split_ifs <;> simp

@[simp] theorem oosBoundary_pending (s : State) : (oosBoundary s).1.pending = s.pending := by
  unfold oosBoundary
  split
  · rfl
  · dsimp only
    refine (foldl_pending (fun s c => ?_) _ _).trans ?_
    · split <;> split <;> simp
    · rw [dropChanges_pending, foldl_pending (fun _ _ => endClip_pending ..), endJobs_pending, shedAll_pending]

@[simp] theorem softSheds_pending (s : State) :
    (softSheds s).pending = s.pending := by simp [softSheds]

@[simp] theorem wholeTests_pending (s : State) :
    (wholeTests s).pending = s.pending := by simp [wholeTests]

@[simp] theorem newRound_pending (s : State) :
    (newRound s).pending = s.pending := by simp [newRound]

@[simp] theorem leaveTracks_pending (s : State) :
    (leaveTracks s).pending = s.pending := by simp [leaveTracks]

@[simp] theorem substBoundary_pending (s : State) :
    (substBoundary s).pending = s.pending := by simp [substBoundary]

@[simp] theorem switchBoundary_pending (s : State) :
    (switchBoundary s).pending = s.pending := by simp [switchBoundary]

@[simp] theorem releaseLeft_pending (s : State) :
    (releaseLeft s).pending = s.pending := by simp [releaseLeft]

@[simp] theorem boundary_pending (s : State) :
    (boundary s).pending = s.pending := by simp [boundary]

@[simp] theorem decideCore_pending (n : Nat) (s : State) :
    (decideCore n s).pending = s.pending := by simp [decideCore]

@[simp] theorem decideEngine_pending (kind : VideoKind) (i : Nat) (s : State) :
    (decideEngine kind i s).pending = s.pending := by
  unfold decideEngine
  split <;> simp

@[simp] theorem rebindPending_pending (kind : VideoKind) (i : Nat) (ks : List ChangeKind) (s : State) :
    (rebindPending kind i ks s).pending = s.pending := by
  refine foldl_pending (fun s p => ?_) _ _
  dsimp only
  split_ifs
  · rfl
  · split <;> simp

@[simp] theorem scrub_pending (s : State) :
    (scrub s).pending = s.pending := by simp [scrub]

@[simp] theorem injectCore_pending (n m a : Nat) (y : BitVec 7) (mask : Word) (marker : Bool) (s : State) :
    (injectCore n m a y mask marker s).pending = s.pending := by
  unfold injectCore
  split <;> simp

@[simp] theorem inject_pending (p : Packet) (s : State) :
    (inject p s).pending = s.pending := by simp [inject]

@[simp] theorem injections_pending (s : State) : (injections s).pending = s.pending := by
  refine (foldl_pending (fun s e => ?_) _ _).trans rfl
  dsimp only
  split <;> simp

@[simp] theorem setFailed_pending (b : Bool) (k : VideoKind) (i : Nat) (s : State) :
    (setFailed b k i s).pending = s.pending := by
  unfold setFailed
  split <;> simp

/-! ### Machine/Dma -/

@[simp] theorem dpaReadBytes_pending (a n : Nat) (s : State) :
    (dpaReadBytes a n s).2.pending = s.pending :=
  (Noted.dpaReadBytes ..).pending

@[simp] theorem dpaWriteBytes_pending (a : Nat) (l : List (Byte × Bool)) (s : State) :
    (dpaWriteBytes a l s).pending = s.pending :=
  (Noted.dpaWriteBytes ..).pending

@[simp] theorem coreReadBytes_pending (n : Nat) (wgt : Bool) (a k : Nat) (s : State) :
    (coreReadBytes n wgt a k s).2.pending = s.pending := by simp [coreReadBytes]

@[simp] theorem coreWriteBytes_pending (n : Nat) (wgt : Bool) (a : Nat) (l : List (Byte × Bool)) (s : State) :
    (coreWriteBytes n wgt a l s).pending = s.pending := by simp [coreWriteBytes]

@[simp] theorem pteRead_pending (xctx page : Nat) (s : State) :
    (pteRead xctx page s).2.2.pending = s.pending := by simp [pteRead]

@[simp] theorem translateEntry_pending (e : DmaEngine) (xctx page : Nat) (s : State) :
    (translateEntry e xctx page s).2.2.pending = s.pending := by
  unfold translateEntry
  dsimp only
  repeat' split
  all_goals simp

@[simp] theorem translate_pending (e : DmaEngine) (timed write : Bool) (xctx dva : Nat) (s : State) :
    (translate e timed write xctx dva s).2.2.pending = s.pending := by
  unfold translate
  dsimp only
  split_ifs <;> simp

@[simp] theorem spansOf_pending (e : DmaEngine) (timed write : Bool) (xctx dva len : Nat) (s : State) :
    (spansOf e timed write xctx dva len s).2.2.pending = s.pending := by
  unfold spansOf
  dsimp only
  split
  · next h => exact pending_of_triple h (translate_pending ..)
  · next h =>
    have hfirst := pending_of_triple h (translate_pending ..)
    split_ifs
    · exact hfirst
    · split
      · next h => exact (pending_of_triple h (translate_pending ..)).trans hfirst
      · next h => exact (pending_of_triple h (translate_pending ..)).trans hfirst

@[simp] theorem boundaryFlush_pending (e : DmaEngine) (s : State) :
    (boundaryFlush e s).pending = s.pending := by simp [boundaryFlush]

@[simp] theorem invalidate_pending (value : Word) (s : State) :
    (invalidate_ value s).pending = s.pending := by simp [invalidate_]

@[simp] theorem ptePut_pending (xctx page : Nat) (e : BitVec 64) (s : State) :
    (ptePut xctx page e s).pending = s.pending := by simp [ptePut]

@[simp] theorem readGranule_pending (e : DmaEngine) (timed : Bool) (t : Transfer) (k : Nat) (s : State) :
    (readGranule e timed t k s).2.pending = s.pending := by
  unfold readGranule
  dsimp only
  split
  · split_ifs <;> simp
  · split
    · next h => exact pending_of_triple h (spansOf_pending ..)
    · next h => simpa using pending_of_triple h (spansOf_pending ..)
  · simp
  · rfl

@[simp] theorem writeSpans_pending (spans : List (Nat × Nat)) (l : List (Byte × Bool)) (s : State) :
    (writeSpans spans l s).pending = s.pending := (Noted.writeSpans ..).pending

@[simp] theorem writeGranule_pending (e : DmaEngine) (timed : Bool) (t : Transfer) (k : Nat) (l : List (Byte × Bool))
    (s : State) : (writeGranule e timed t k l s).2.2.pending = s.pending := by
  unfold writeGranule
  dsimp only
  split
  · simp
  · split
    · next h => exact pending_of_triple h (spansOf_pending ..)
    · next h => simpa using pending_of_triple h (spansOf_pending ..)
  · split_ifs <;> simp
  · simp
  · rfl

@[simp] theorem putTransfer_pending (bulk : Bool) (n : Nat) (old : Transfer) (new : List Transfer) (s : State) :
    (putTransfer bulk n old new s).pending = s.pending := by simp [putTransfer]

@[simp] theorem completeTransfer_pending (bulk : Bool) (n : Nat) (t : Transfer) (s : State) :
    (completeTransfer bulk n t s).pending = s.pending := by
  unfold completeTransfer
  split <;> simp

@[simp] theorem settle_pending (bulk : Bool) (n : Nat) (t : Transfer) (s : State) :
    (settle bulk n t s).pending = s.pending := by
  unfold settle
  split <;> simp

@[simp] theorem stepTransfer_pending (bulk : Bool) (n : Nat) (old new : Transfer) (s : State) :
    (stepTransfer bulk n old new s).pending = s.pending := by simp [stepTransfer]

@[simp] theorem parkFetch_pending (n : Nat) (cause : Byte) (s : State) :
    (parkFetch n cause s).pending = s.pending := by
  unfold parkFetch
  split <;> simp

@[simp] theorem hostPiece_pending (n : Nat) (old t : Transfer) (k : Nat) (bytes : List Byte) (s : State) :
    (hostPiece n old t k bytes s).pending = s.pending := by simp [hostPiece]

@[simp] theorem hostResponse_pending (engine : BitVec 3) (granule : Nat) (cause : Byte) (bytes : List Byte)
    (s : State) :
    (hostResponse engine granule cause bytes s).pending = s.pending := by
  unfold hostResponse
  dsimp only
  split <;> simp

@[simp] theorem holdIssue_pending (s : State) : (holdIssue s).pending = s.pending := by
  refine foldl_pending (fun s e => ?_) _ _
  split <;> simp

@[simp] theorem parkHostLink_pending (s : State) :
    (parkHostLink s).pending = s.pending := by simp [parkHostLink]

@[simp] theorem timedStop_pending (c : Nat) (t : Transfer) (cause : Byte) (addr : Nat) (s : State) :
    (timedStop c t cause addr s).pending = s.pending := by simp [timedStop]

@[simp] theorem commitTag_pending (t : Transfer) (s : State) :
    (commitTag t s).pending = s.pending := by
  unfold commitTag
  split <;> simp

@[simp] theorem raiseMark_pending (t : Transfer) (k : Nat) (s : State) :
    (raiseMark t k s).pending = s.pending := by
  unfold raiseMark
  split <;> simp

@[simp] theorem putTimed_pending (c : Nat) (old new : Transfer) (s : State) :
    (putTimed c old new s).pending = s.pending := by simp [putTimed]

@[simp] theorem timedGranule_pending (c : BitVec 4) (k : Nat) (t : Transfer) (s : State) :
    (timedGranule c k t s).pending = s.pending := by
  unfold timedGranule
  dsimp only
  split_ifs
  · rfl
  · simp
  all_goals
    split
    · rfl
    · next h => simp [pending_of_pair h (readGranule_pending ..)]
    · next h => simp [pending_of_pair h (readGranule_pending ..)]

@[simp] theorem freeGranule_pending (bulk : Bool) (n : Nat) (e : DmaEngine) (k : Nat) (old : Transfer) (s : State) :
    (freeGranule bulk n e k old s).pending = s.pending := by
  unfold freeGranule
  dsimp only
  split_ifs
  · rfl
  · split
    · rfl
    · next h => simp [pending_of_pair h (readGranule_pending ..)]
    · next h => simp [pending_of_pair h (readGranule_pending ..)]

@[simp] theorem copyGranule_pending (s : State) (a : Nat) :
    (copyGranule s a).pending = s.pending := by
  unfold copyGranule
  split <;> simp

@[simp] theorem bar2Dword_pending (o : Nat) (s : State) :
    (bar2Dword o s).2.pending = s.pending := by simp [bar2Dword]

@[simp] theorem bar2Dwords_pending (n o : Nat) (s : State) : (bar2Dwords n o s).2.pending = s.pending := by
  induction n generalizing o s with
  | zero => rfl
  | succ n ih => simp [bar2Dwords, ih]

/-! ### Machine/Query -/

@[simp] theorem stallRead_pending (s : State) :
    (stallRead s).pending = s.pending := by simp [stallRead]

@[simp] theorem readRecords_pending (f : Fetched) (s : State) :
    (readRecords f s).pending = s.pending := by simp [readRecords]

@[simp] theorem readCapture_pending (f : Fetched) (s : State) :
    (readCapture f s).pending = s.pending := by
  unfold readCapture
  dsimp only
  repeat' split
  all_goals simp

@[simp] theorem peek_pending (o : Nat) (s : State) :
    (peek o s).2.pending = s.pending := by simp [peek]

/-! ### Machine/Ingest -/

@[simp] theorem coverage_pending (c : Nat) (s : State) : (coverage c s).2.pending = s.pending :=
  (Logged.coverage ..).pending

@[simp] theorem replayWrite_pending (c : Nat) (e : ReplayEntry) (data : List (Byte × Bool)) (s : State) :
    (replayWrite c e data s).pending = s.pending := by simp [replayWrite]

@[simp] theorem runningNow_pending (c : Nat) (s : State) :
    (runningNow c s).pending = s.pending := by simp [runningNow]

@[simp] theorem completeAu_pending (c : Nat) (a : AccessUnit) (s : State) :
    (completeAu c a s).pending = s.pending := by simp [completeAu]

@[simp] theorem senderReport_pending (c : Nat) (ntp : BitVec 64) (ts : Word) (s : State) :
    (senderReport c ntp ts s).pending = s.pending := by simp [senderReport]

@[simp] theorem readPlaced_pending (l : List Placed) (s : State) : (readPlaced l s).2.pending = s.pending :=
  (Noted.readPlaced ..).pending

@[simp] theorem takeAu_pending (c : Nat) (base : BitVec 16) (a : AuSpan) (forced : Bool) (s : State) :
    (takeAu c base a forced s).pending = s.pending := by simp [takeAu]

@[simp] theorem scanAus_pending (c fuel : Nat) (s : State) : (scanAus c fuel s).pending = s.pending := by
  induction fuel generalizing s with
  | zero => rfl
  | succ fuel ih =>
    unfold scanAus
    split
    · rfl
    · split
      · rfl
      · split_ifs
        · simp [ih]
        · rfl

@[simp] theorem flushAus_pending (c fuel : Nat) (s : State) : (flushAus c fuel s).pending = s.pending :=
  (KeepsLine.flushAus ..).pending

@[simp] theorem flushAll_pending (c : Nat) (s : State) :
    (flushAll c s).pending = s.pending := by simp [flushAll]

@[simp] theorem storePacket_pending (c port : Nat) (k : RtpPacket) (s : State) :
    (storePacket c port k s).2.pending = s.pending := by
  unfold storePacket
  dsimp only
  split_ifs
  · simp
  · split
    · next h => simp [pending_of_pair h (poolAlloc_pending ..)]
    · next h => simp [pending_of_pair h (poolAlloc_pending ..)]

@[simp] theorem putPlaced_pending (c : Nat) (base : BitVec 16) (p : Placed) (s : State) :
    (putPlaced c base p s).pending = s.pending := by simp [putPlaced]

@[simp] theorem countDrop_pending (c : Nat) (f : StreamCounts → StreamCounts) (s : State) :
    (countDrop c f s).pending = s.pending := by simp [countDrop]

@[simp] theorem dropCandidate_pending (c : Nat) (s : State) :
    (dropCandidate c s).pending = s.pending := by
  unfold dropCandidate
  dsimp only
  split <;> simp

@[simp] theorem resync_pending (c port : Nat) (held : Placed) (k : RtpPacket) (s : State) :
    (resync c port held k s).pending = s.pending := by simp [resync]

@[simp] theorem lateAfterFlush_pending (c d : Nat) (s : State) :
    (placePacket.lateAfterFlush c d s).pending = s.pending := by
  simp [placePacket.lateAfterFlush]

@[simp] theorem place_pending (c port : Nat) (k : RtpPacket) (d : Nat) (base : BitVec 16) (far : Bool) (s : State) :
    (placePacket.place c port k d base far s).pending = s.pending := by
  unfold placePacket.place
  dsimp only
  split_ifs
  · split
    · next h => exact pending_of_pair h (storePacket_pending ..)
    · next h => simpa using pending_of_pair h (storePacket_pending ..)
  all_goals simp

@[simp] theorem placePacket_pending (c port : Nat) (k : RtpPacket) (s : State) :
    (placePacket c port k s).pending = s.pending := by
  unfold placePacket
  dsimp only
  split
  · split_ifs <;> simp
  · simp

@[simp] theorem unprotect_pending (c : Nat) (rtcp : Bool) (index : Nat) (payload : List Byte) (s : State) :
    (unprotect c rtcp index payload s).2.pending = s.pending := by
  unfold unprotect
  dsimp only
  repeat' split
  all_goals simp

@[simp] theorem rtcpPacket_pending (c : Nat) (f : Frame) (s : State) : (rtcpPacket c f s).pending = s.pending := by
  unfold rtcpPacket
  split
  · next h => exact pending_of_pair h (unprotect_pending ..)
  · next h => simp [pending_of_pair h (unprotect_pending ..)]

@[simp] theorem rtpPacket_pending (c port : Nat) (f : Frame) (s : State) :
    (rtpPacket c port f s).pending = s.pending := by
  unfold rtpPacket
  dsimp only
  split
  · simp
  · split
    · next h => exact pending_of_pair h (unprotect_pending ..)
    · next h =>
      have hs := pending_of_pair h (unprotect_pending ..)
      split
      · simpa using hs
      · simpa using hs

@[simp] theorem answerIf_pending (own : Bool) (n : Nat) (k : ControlKind) (s : State) :
    (answerIf own n k s).pending = s.pending := by simp [answerIf]

@[simp] theorem reportGroups_pending (n : Nat) (v6 : Bool) (s : State) :
    (reportGroups n v6 s).pending = s.pending := by simp [reportGroups]

@[simp] theorem askNextHop_pending (n : Nat) (s : State) :
    (askNextHop n s).pending = s.pending := by simp [askNextHop]

@[simp] theorem controlBody_pending (n : Nat) (k : ControlKind) (s : State) :
    (controlBody n k s).pending = s.pending := by
  unfold controlBody
  split <;> simp

@[simp] theorem flushPort_pending (n : Nat) (s : State) :
    (flushPort n s).pending = s.pending := by simp [flushPort]

@[simp] theorem setLink_pending (n : Nat) (up : Bool) (s : State) :
    (setLink n up s).pending = s.pending := by simp [setLink]

@[simp] theorem configPort_pending (p : Packet) (s : State) :
    (configPort p s).pending = s.pending := by simp [configPort]

@[simp] theorem discardCopies_pending (l : List QRec) (s : State) :
    (discardCopies l s).pending = s.pending := by simp [discardCopies]

@[simp] theorem configDest_pending (p : Packet) (s : State) :
    (configDest p s).pending = s.pending := by simp [configDest]

@[simp] theorem configAny_pending (p : Packet) (s : State) :
    (configAny p s).pending = s.pending := by simp [configAny]

@[simp] theorem portConfigBody_pending (f : Fetched) (s : State) :
    (portConfigBody f s).pending = s.pending := by simp [portConfigBody]

@[simp] theorem applyDeferred_pending (s : State) :
    (applyDeferred s).pending = s.pending := by simp [applyDeferred]

@[simp] theorem loadKey_pending (c kslot : Nat) (k : KeySlot) (s : State) :
    (loadKey c kslot k s).pending = s.pending := by simp [loadKey]

@[simp] theorem keyLoadBody_pending (blob : HostRead (List Byte)) (f : Fetched) (s : State) :
    (keyLoadBody blob f s).pending = s.pending := by
  unfold keyLoadBody
  repeat' split
  all_goals simp

@[simp] theorem noteAu_pending (cmd : BitVec 6 × BitVec 16) (a : AuPush) (s : State) :
    (noteAu cmd a s).pending = s.pending := by simp [noteAu]

@[simp] theorem auPushBody_pending (f : Fetched) (s : State) : (auPushBody f s).pending = s.pending := by
  unfold auPushBody
  dsimp only
  split_ifs
  · simp
  · simp
  · simp
  · simp
  · split
    · next h => simp [pending_of_pair h (poolAlloc_pending ..)]
    · next h => simp [pending_of_pair h (poolAlloc_pending ..)]

@[simp] theorem readIngest_pending (blocks : List Nat) (n : Nat) (s : State) :
    (readIngest blocks n s).2.pending = s.pending :=
  (Noted.readIngest ..).pending

/-! ### Machine/Admission -/

@[simp] theorem streamOpenBody_pending (f : Fetched) (s : State) :
    (streamOpenBody f s).pending = s.pending := by simp [streamOpenBody]

@[simp] theorem mapPages_pending (x bits : Nat) (pages : List Nat) (s : State) :
    (mapPages x bits pages s).pending = s.pending := by simp [mapPages]

@[simp] theorem beginAdmission_pending (f : Fetched) (ad : AdmitParams) (s : State) :
    (beginAdmission f ad s).pending = s.pending := by simp [beginAdmission]

@[simp] theorem streamAdmitBody_pending (pages units : List Nat) (f : Fetched) (s : State) :
    (streamAdmitBody pages units f s).pending = s.pending := by
  unfold streamAdmitBody
  dsimp only
  repeat' split
  all_goals simp

@[simp] theorem abortAdmission_pending (c : Nat) (s : State) :
    (abortAdmission c s).pending = s.pending := by
  unfold abortAdmission
  repeat' split
  all_goals simp

@[simp] theorem streamCloseBody_pending (f : Fetched) (s : State) :
    (streamCloseBody f s).pending = s.pending := by simp [streamCloseBody]

@[simp] theorem shedRankBody_pending (f : Fetched) (s : State) :
    (shedRankBody f s).pending = s.pending := by simp [shedRankBody]

@[simp] theorem sheafDefineBody_pending (f : Fetched) (s : State) :
    (sheafDefineBody f s).pending = s.pending := by
  unfold sheafDefineBody
  dsimp only
  repeat' split
  all_goals simp

@[simp] theorem changeOrNow_pending (f : Fetched) (k : ChangeKind) (s : State) :
    (changeOrNow f k s).pending = s.pending := by simp [changeOrNow]

@[simp] theorem sheafDissolveBody_pending (f : Fetched) (s : State) :
    (sheafDissolveBody f s).pending = s.pending := by simp [sheafDissolveBody]

@[simp] theorem roundConfigBody_pending (f : Fetched) (s : State) :
    (roundConfigBody f s).pending = s.pending := by
  unfold roundConfigBody
  split <;> simp

end Sys2Proof.Machine

namespace Sys2Proof.Machine

/-! ## The queue, from the loading of networks on (O58) -/

/-! ### Machine/NetLoad -/

/-- What `storeWeights` does for one page. -/
def storePage (weights : List Byte) (s : State) (e : Nat × Nat) : State :=
  dpaStore (e.2 * 0x200000) ((weights.drop (e.1 * 0x200000)).take 0x200000) s

theorem storeWeights_eq (pages : List Nat) (weights : List Byte) (s : State) :
    storeWeights pages weights s = ((List.range pages.length).zip pages).foldl (storePage weights) s := rfl

@[simp] theorem storeWeights_pending (pages : List Nat) (weights : List Byte) (s : State) :
    (storeWeights pages weights s).pending = s.pending := by
  rw [storeWeights_eq, foldl_pending]
  exact fun _ _ => dpaStore_pending ..

@[simp] theorem loadImage_pending (n : Nat) (v : Network) (w m units : List Nat) (weights : List Byte) (s : State) :
    (loadImage n v w m units weights s).pending = s.pending := by simp [loadImage]

@[simp] theorem networkLoadBody_pending (image : HostRead (List Byte)) (pages : List Nat) (f : Fetched)
    (s : State) :
    (networkLoadBody image pages f s).pending = s.pending := by
  unfold networkLoadBody
  dsimp only
  repeat' split
  all_goals simp

@[simp] theorem unloadImage_pending (n : Nat) (v : Network) (s : State) :
    (unloadImage n v s).pending = s.pending := by simp [unloadImage]

@[simp] theorem networkUnloadBody_pending (f : Fetched) (s : State) :
    (networkUnloadBody f s).pending = s.pending := by
  unfold networkUnloadBody
  dsimp only
  repeat' split
  all_goals simp

/-! ### Machine/Assembly -/

@[simp] theorem storeImages_pending (c : AreaContent) (s : State) :
    (storeImages c s).pending = s.pending := by simp [storeImages]

@[simp] theorem cleanArea_pending (a : Nat) (s : State) :
    (cleanArea a s).pending = s.pending := by simp [cleanArea]

/-! ### Machine/Video -/

@[simp] theorem readWords_pending (ad : AdmitParams) (off n : Nat) (s : State) :
    (readWords ad off n s).2.pending = s.pending := by
  induction n generalizing off s with
  | zero => rfl
  | succ n ih =>
    rw [readWords]
    have h := dpaReads_pending 0 (streamDpa ad off) 1 s
    generalize dpaReads 0 (streamDpa ad off) 1 s = r at h ⊢
    exact (ih ..).trans h

theorem writeWords_cons (ad : AdmitParams) (off : Nat) (w : Word × Bool) (r : List (Word × Bool)) (s : State) :
    writeWords ad off (w :: r) s = writeWords ad (off + 4) r (dpaWrites (streamDpa ad off) [w] s) := by
  delta writeWords
  rfl

@[simp] theorem writeWords_pending (ad : AdmitParams) (off : Nat) (l : List (Word × Bool)) (s : State) :
    (writeWords ad off l s).pending = s.pending := by
  induction l generalizing off s with
  | nil => rfl
  | cons w r ih => rw [writeWords_cons, ih, dpaWrites_pending]

@[simp] theorem storeRows_pending (ad : AdmitParams) (off pitch : Nat) (rows : List (List Byte)) (s : State) :
    (storeRows ad off pitch rows s).pending = s.pending := foldl_pending (fun _ _ => writeWords_pending ..) _ _

@[simp] theorem concealBlock_pending (ad : AdmitParams) (a : ParamSet) (src : Option Nat) (dst i : Nat)
    (s : State) :
    (concealBlock ad a src dst i s).2.pending = s.pending := by
  refine foldl_snd_pending (fun r e => ?_) _ _
  cases src <;> simp

@[simp] theorem readBlock_pending (ad : AdmitParams) (a : ParamSet) (src i : Nat) (s : State) :
    (readBlock ad a src i s).2.pending = s.pending := by simp [readBlock]

@[simp] theorem fetchRefs_pending (ad : AdmitParams) (a : ParamSet) (refs : List RefPic) (blocks : List BlockFacts)
    (s : State) : (fetchRefs ad a refs blocks s).2.pending = s.pending := by
  refine foldl_snd_pending (fun r e => ?_) _ _
  refine foldl_snd_pending (fun t x => ?_) _ _
  split <;> simp

@[simp] theorem readPlane_pending (ad : AdmitParams) (off pitch b w h : Nat) (s : State) :
    (readPlane ad off pitch b w h s).2.pending = s.pending := by simp [readPlane]

@[simp] theorem storeSamples_pending (ad : AdmitParams) (off pitch b : Nat) (rows : List (List (Nat × Bool)))
    (s : State) : (storeSamples ad off pitch b rows s).pending = s.pending :=
  foldl_pending (fun _ _ => writeWords_pending ..) _ _

@[simp] theorem writeCopy_pending (ad : AdmitParams) (a : ParamSet) (src k : Nat) (s : State) :
    (writeCopy ad a src k s).2.pending = s.pending := by simp [writeCopy]

@[simp] theorem writePicture_pending (ad : AdmitParams) (a : ParamSet) (p : PicFacts) (refs : List RefPic)
    (gone : List Nat) (buffer : Nat) (s : State) :
    (writePicture ad a p refs gone buffer s).2.pending = s.pending := by simp [writePicture]

@[simp] theorem writeDecoder_pending (ad : AdmitParams) (off : Nat) (l : List Byte) (s : State) :
    (writeDecoder ad off l s).pending = s.pending := by simp [writeDecoder]

@[simp] theorem decodeEnded_pending (f : FrameRec) (g : FrameRec) (s : State) :
    (decodeEnded f g s).pending = s.pending := by
  unfold decodeEnded
  dsimp only
  repeat' split
  all_goals simp

@[simp] theorem countDecode_pending (n outcome cycles : Nat) (ctx : BitVec 12) (s : State) :
    (countDecode n outcome cycles ctx s).pending = s.pending := by simp [countDecode]

@[simp] theorem countRefusal_pending (c : Nat) (counts : Bool) (s : State) :
    (countRefusal c counts s).pending = s.pending := by simp [countRefusal]

@[simp] theorem refusePicture_pending (n outcome : Nat) (p : PicFacts) (f : FrameRec) (s : State) :
    (refusePicture n outcome p f s).pending = s.pending := by simp [refusePicture]

@[simp] theorem readAu_pending (f : FrameRec) (s : State) :
    (readAu f s).2.pending = s.pending := by simp [readAu]

@[simp] theorem decodeFrame_pending (st : Stream) (a : ParamSet) (short disc : Bool) (p : PicFacts)
    (refs : List RefPic) (seq buffer : Nat) (s : State) :
    (decodeFrame st a short disc p refs seq buffer s).2.2.pending = s.pending := by simp [decodeFrame]

@[simp] theorem decodeHidden_pending (c : Nat) (a : ParamSet) (short disc : Bool) (p : PicFacts) (seq : Nat)
    (l : List HiddenFrame) (i : Nat) (refs : List RefPic) (s : State) :
    (decodeHidden c a short disc p seq l i refs s).2.pending = s.pending := by
  induction l generalizing i refs s with
  | nil => rfl
  | cons h r ih => simp [decodeHidden, ih]

@[simp] theorem decodeOne_pending (n : Nat) (a : ParamSet) (p : PicFacts) (f : FrameRec) (s : State) :
    (decodeOne n a p f s).pending = s.pending :=
  (countDecode_pending ..).trans ((decodeEnded_pending ..).trans ((setStream_pending ..).trans
    ((writeDecoder_pending ..).trans ((writeCopy_pending ..).trans ((decodeFrame_pending ..).trans
      ((decodeHidden_pending ..).trans (readAu_pending ..)))))))

@[simp] theorem noPicture_pending (n : Nat) (f : FrameRec) (s : State) :
    (noPicture n f s).pending = s.pending := by simp [noPicture]

@[simp] theorem decodeStep_pending (n : Nat) (p : PicFacts) (f : FrameRec) (s : State) :
    (decodeStep n p f s).pending = s.pending := by
  unfold decodeStep
  dsimp only
  repeat' split
  all_goals simp

@[simp] theorem writeInput_pending (ad : AdmitParams) (off : Nat) (l : List (Word × Bool)) (s : State) :
    (writeInput ad off l s).pending = s.pending := by
  induction l generalizing off s with
  | nil => rfl
  | cons w r ih => simp [writeInput, ih]

@[simp] theorem readSource_pending (f : FrameRec) (s : State) :
    (readSource f s).2.pending = s.pending := by simp [readSource]

@[simp] theorem prepare_pending (f : FrameRec) (d : InputDesc) (k : Nat) (s : State) :
    (prepare f d k s).2.pending = s.pending := by
  unfold prepare
  dsimp only
  rw [writeInput_pending, foldl_snd_pending (fun _ _ => writeInput_pending ..), readSource_pending]

@[simp] theorem inputDone_pending (j : Nat) (f : FrameRec) (late : Bool) (i k cycles : Nat) (sat : Bool)
    (s : State) :
    (inputDone j f late i k cycles sat s).pending = s.pending := by simp [inputDone]

/-! ### Machine/Clips -/

@[simp] theorem clipRequestBody_pending (lists : HostRead ClipLists) (f : Fetched) (s : State) :
    (clipRequestBody lists f s).pending = s.pending := by
  unfold clipRequestBody
  dsimp only
  repeat' split
  all_goals simp

@[simp] theorem clipCancelBody_pending (f : Fetched) (s : State) :
    (clipCancelBody f s).pending = s.pending := by
  unfold clipCancelBody
  split <;> simp

@[simp] theorem startSource_pending (num : BitVec 16) (s : State) : (startSource num s).pending = s.pending := by
  unfold startSource
  split
  · rfl
  · dsimp only
    split_ifs
    · rfl
    · split
      · rfl
      · split
        · next h => exact pending_of_pair h (poolAlloc_pending ..)
        · next h => simpa using pending_of_pair h (poolAlloc_pending ..)

@[simp] theorem dropSource_pending (num : BitVec 16) (blocks : List Nat) (s : State) :
    (dropSource num blocks s).pending = s.pending := by simp [dropSource]

@[simp] theorem giveEncoder_pending (k : Clip) (p : ClipPic) (s : State) :
    (giveEncoder k p s).pending = s.pending := by
  unfold giveEncoder
  split <;> simp

@[simp] theorem clipDecoded_pending (e : Nat) (k : Clip) (p : PicFacts) (len : Nat) (flags : BitVec 4)
    (ts : Word) (cap : BitVec 64) (s : State) :
    (clipDecoded e k p len flags ts cap s).pending = s.pending := by
  unfold clipDecoded
  dsimp only
  repeat' split
  all_goals simp

@[simp] theorem stageBytes_pending (blocks : List Nat) (l : List Byte) (s : State) :
    (stageBytes blocks l s).pending = s.pending := by simp [stageBytes]

@[simp] theorem emitPicture_pending (k : Clip) (p : ClipPic) (unit stream : List Byte)
    (hostBlocks rtpBlocks : List Nat) (s : State) :
    (emitPicture k p unit stream hostBlocks rtpBlocks s).2.pending = s.pending := by simp [emitPicture]

@[simp] theorem clipBoundary_pending (k : Clip) (full : Bool) (s : State) :
    (clipBoundary k full s).pending = s.pending := by
  unfold clipBoundary
  split <;> simp

@[simp] theorem encodeStep_pending (k : Clip) (e : Nat) (p : ClipPic) (mode : RateMode) (stream : List Byte)
    (s : State) :
    (encodeStep k e p mode stream s).pending = s.pending := by
  unfold encodeStep
  dsimp only
  split_ifs
  · simp
  all_goals
    split
    · next h => simp [pending_of_pair h (poolAlloc_pending ..)]
    · next h => simp [pending_of_pair h (poolAlloc_pending ..)]

@[simp] theorem segmentWait_pending (k : Clip) (s : State) :
    (segmentWait k s).pending = s.pending := by simp [segmentWait]

/-! ### Machine/Fw -/

@[simp] theorem fwEvent_pending (bit : Nat) (w : Fw) (s : State) :
    (fwEvent bit w s).pending = s.pending := by simp [fwEvent]

@[simp] theorem spoilTarget_pending (kind : Nat) (s : State) :
    (spoilTarget kind s).pending = s.pending := by simp [spoilTarget]

@[simp] theorem storeImage_pending (kind : Nat) (m : FwImage) (s : State) :
    (storeImage kind m s).pending = s.pending := by simp [storeImage]

@[simp] theorem fwStageBody_pending (kind : Nat) (image : HostRead (List Byte)) (programmed : Bool)
    (f : Fetched) (s : State) :
    (fwStageBody kind image programmed f s).pending = s.pending := by
  unfold fwStageBody
  dsimp only
  repeat' split
  all_goals simp

@[simp] theorem fwArmBailiffBody_pending (f : Fetched) (s : State) :
    (fwArmBailiffBody f s).pending = s.pending := by simp [fwArmBailiffBody]

@[simp] theorem fwArmPatchBody_pending (f : Fetched) (s : State) :
    (fwArmPatchBody f s).pending = s.pending := by
  unfold fwArmPatchBody
  split <;> simp

@[simp] theorem beginSwitch_pending (cmd : Option (BitVec 6 × BitVec 16)) (s : State) :
    (beginSwitch cmd s).pending = s.pending := by simp [beginSwitch]

@[simp] theorem fwActivateBody_pending (f : Fetched) (s : State) :
    (fwActivateBody f s).pending = s.pending := by
  unfold fwActivateBody
  split <;> simp

@[simp] theorem fwDisarmBody_pending (f : Fetched) (s : State) :
    (fwDisarmBody f s).pending = s.pending := by
  unfold fwDisarmBody
  split <;> simp

@[simp] theorem fwFallback_pending (s : State) :
    (fwFallback s).pending = s.pending := by simp [fwFallback]

@[simp] theorem bailiffRestart_pending (reason : Nat) (s : State) :
    (bailiffRestart reason s).pending = s.pending := by simp [bailiffRestart]

@[simp] theorem fwCtrl_pending (value : Word) (s : State) :
    (fwCtrl value s).pending = s.pending := by simp [fwCtrl]

@[simp] theorem doeRespond_pending (bytes : List Byte) (s : State) :
    (doeRespond bytes s).pending = s.pending := by simp [doeRespond]

@[simp] theorem spdmStep_pending (need : Nat) (bytes : List Byte) (s : State) :
    (spdmStep need bytes s).pending = s.pending := by simp [spdmStep]

@[simp] theorem setSpdm_pending (n : Nat) (s : State) :
    (setSpdm n s).pending = s.pending := by simp [setSpdm]

@[simp] theorem spdmNonce_pending (s : State) :
    (spdmNonce s).2.pending = s.pending := by simp [spdmNonce]

/-! ### Machine/Power -/

@[simp] theorem idleAgain_pending (d : Nat) (s : State) :
    (idleAgain d s).pending = s.pending := by
  unfold idleAgain
  split <;> simp

@[simp] theorem powerUp_pending (d : Nat) (s : State) :
    (powerUp d s).pending = s.pending := by simp [powerUp]

@[simp] theorem clearBank_pending (b : Nat) (s : State) :
    (clearBank b s).pending = s.pending := by simp [clearBank]

@[simp] theorem switchOff_pending (d : Nat) (mode : BitVec 2) (s : State) :
    (switchOff d mode s).pending = s.pending := by simp [switchOff]

@[simp] theorem recessEnterBody_pending (f : Fetched) (s : State) :
    (recessEnterBody f s).pending = s.pending := by
  unfold recessEnterBody
  repeat' split
  all_goals simp

@[simp] theorem recessReached_pending (e : RecessEntry) (s : State) :
    (recessReached e s).pending = s.pending := by simp [recessReached]

@[simp] theorem entryStep_pending (d : Nat) (s : State) :
    (entryStep d s).pending = s.pending := by
  unfold entryStep
  split <;> simp

@[simp] theorem refuseBy_pending (d reason : Nat) (s : State) :
    (refuseBy d reason s).pending = s.pending := by
  unfold refuseBy
  dsimp only
  split <;> simp

@[simp] theorem askOff_pending (d : Nat) (mode : BitVec 2) (s : State) :
    (askOff d mode s).pending = s.pending := by simp [askOff]

@[simp] theorem requestWake_pending (d : Nat) (s : State) :
    (requestWake d s).pending = s.pending := by simp [requestWake]

@[simp] theorem touchDomain_pending (d : Nat) (s : State) :
    (touchDomain d s).pending = s.pending := by simp [touchDomain]

@[simp] theorem hostWake_pending (d : Nat) (stallUs : BitVec 16) (s : State) :
    (hostWake d stallUs s).pending = s.pending := by simp [hostWake]

@[simp] theorem recessExitBody_pending (f : Fetched) (s : State) :
    (recessExitBody f s).pending = s.pending := by simp [recessExitBody]

@[simp] theorem exitCore_pending (n : Nat) (s : State) :
    (exitCore n s).pending = s.pending := by simp [exitCore]

@[simp] theorem recessReset_pending (banksOff : Bool) (s : State) :
    (recessReset banksOff s).pending = s.pending := by simp [recessReset]

@[simp] theorem finishExit_pending (cmd : BitVec 6 × BitVec 16) (s : State) :
    (finishExit cmd s).pending = s.pending := by simp [finishExit]

/-! ### Machine/Fallow -/

@[simp] theorem testHangs_pending (r : FallowResult) (cores : List Nat) (s : State) :
    (testHangs r cores s).pending = s.pending := by simp [testHangs]

@[simp] theorem testHang_pending (r : FallowResult) (k : VideoKind) (i : Nat) (s : State) :
    (testHang r k i s).pending = s.pending := by simp [testHang]

@[simp] theorem testedCore_pending (n : Nat) (s : State) :
    (testedCore n s).pending = s.pending := by simp [testedCore]

@[simp] theorem coreResult_pending (fail : Bool) (n : Nat) (s : State) :
    (coreResult fail n s).pending = s.pending := by simp [coreResult]

@[simp] theorem testGroup_pending (g : Nat) (r : FallowResult) (s : State) :
    (testGroup g r s).pending = s.pending := by simp [testGroup]

@[simp] theorem testVideo_pending (r : FallowResult) (s : State) :
    (testVideo r s).pending = s.pending := by simp [testVideo]

@[simp] theorem noteTrained_pending (g : Nat) (fail : Bool) (s : State) :
    (noteTrained g fail s).pending = s.pending := by simp [noteTrained]

@[simp] theorem trainGroup_pending (g : Nat) (fail : Bool) (s : State) :
    (trainGroup g fail s).pending = s.pending := by simp [trainGroup]

@[simp] theorem runSegment_pending (r : FallowResult) (t : TestReq) (s : State) :
    (runSegment r t s).2.pending = s.pending := by
  unfold runSegment
  repeat' split
  all_goals simp

@[simp] theorem runSegments_pending (r : FallowResult) (k : Nat) (t : TestReq) (s : State) :
    (runSegments r k t s).2.pending = s.pending := by
  induction k generalizing t s with
  | zero => rfl
  | succ k ih => simp [runSegments, ih]

@[simp] theorem requestedTest_pending (r : FallowResult) (s : State) : (requestedTest r s).2.pending = s.pending := by
  unfold requestedTest
  split
  · rfl
  · dsimp only
    split_ifs <;> simp

/-! ### Machine/Host -/

@[simp] theorem configOn_pending (s : State) :
    (configOn s).pending = s.pending := by simp [configOn]

@[simp] theorem removalCause_pending (c : BitVec 3) (s : State) :
    (removalCause c s).pending = s.pending := by simp [removalCause]

@[simp] theorem surprise_pending (c : BitVec 3) (s : State) :
    (surprise c s).pending = s.pending := by simp [surprise]

@[simp] theorem linkGone_pending (s : State) :
    (linkGone s).pending = s.pending := by simp [linkGone]

@[simp] theorem cardWake_pending (s : State) :
    (cardWake s).pending = s.pending := by simp [cardWake]

@[simp] theorem outOfReset_pending (s : State) :
    (outOfReset s).pending = s.pending := by simp [outOfReset]

@[simp] theorem thermalShed_pending (s : State) :
    (thermalShed s).pending = s.pending := by
  unfold thermalShed
  split <;> simp

@[simp] theorem emergency_pending (entered : Bool) (s : State) :
    (emergency entered s).pending = s.pending := by simp [emergency]

/-! ### Machine/Jobs -/

@[simp] theorem jobSubmitBody_pending (f : Fetched) (s : State) :
    (jobSubmitBody f s).pending = s.pending := by
  unfold jobSubmitBody
  repeat' split
  all_goals simp

@[simp] theorem jobCancelBody_pending (f : Fetched) (s : State) :
    (jobCancelBody f s).pending = s.pending := by
  unfold jobCancelBody
  dsimp only
  split <;> simp

/-! ### Machine/Regs -/

@[simp] theorem glbWrite_pending (o : Nat) (v : Word) (be : BitVec 4) (s : State) :
    (glbWrite o v be s).pending = s.pending := by
  unfold glbWrite
  split <;> simp

@[simp] theorem cmdClear_pending (o : Nat) (s : State) :
    (cmdClear o s).pending = s.pending := by
  unfold cmdClear
  split <;> simp

@[simp] theorem setBase_pending (k : RingKind) (n : Nat) (b : BitVec 64) (s : State) :
    (setBase k n b s).pending = s.pending := by
  unfold setBase
  split <;> simp

@[simp] theorem baseWrite_pending (k : RingKind) (n : Nat) (lo hi : Word) (s : State) :
    (baseWrite k n lo hi s).pending = s.pending := by simp [baseWrite]

@[simp] theorem ringWrite_pending (k : RingKind) (n o : Nat) (v : Word) (be : BitVec 4) (s : State) :
    (ringWrite k n o v be s).pending = s.pending := by
  unfold ringWrite
  split <;> simp

@[simp] theorem cmdWrite_pending (o : Nat) (v : Word) (be : BitVec 4) (s : State) :
    (cmdWrite o v be s).pending = s.pending := by
  unfold cmdWrite
  repeat' split
  all_goals simp

@[simp] theorem portClear_pending (n o : Nat) (s : State) :
    (portClear n o s).pending = s.pending := by
  unfold portClear
  split <;> simp

@[simp] theorem ingClear_pending (o : Nat) (s : State) :
    (ingClear o s).pending = s.pending := by simp [ingClear]

@[simp] theorem ingWrite_pending (o : Nat) (v : Word) (be : BitVec 4) (s : State) :
    (ingWrite o v be s).pending = s.pending := by simp [ingWrite]

@[simp] theorem poolClear_pending (o : Nat) (s : State) :
    (poolClear o s).pending = s.pending := by
  unfold poolClear
  repeat' split
  all_goals simp

@[simp] theorem decClear_pending (o : Nat) (s : State) :
    (decClear o s).pending = s.pending := by
  unfold decClear
  split <;> simp

@[simp] theorem decWrite_pending (o : Nat) (v : Word) (be : BitVec 4) (s : State) :
    (decWrite o v be s).pending = s.pending := by simp [decWrite]

@[simp] theorem encClear_pending (o : Nat) (s : State) :
    (encClear o s).pending = s.pending := by
  unfold encClear
  repeat' split
  all_goals simp

@[simp] theorem prepClear_pending (o : Nat) (s : State) :
    (prepClear o s).pending = s.pending := by
  unfold prepClear
  repeat' split
  all_goals simp

@[simp] theorem bellClear_pending (o : Nat) (s : State) :
    (bellClear o s).pending = s.pending := by
  unfold bellClear
  split <;> simp

@[simp] theorem bellWrite_pending (o : Nat) (v : Word) (be : BitVec 4) (s : State) :
    (bellWrite o v be s).pending = s.pending := by
  unfold bellWrite
  split <;> simp

@[simp] theorem furrowClear_pending (o : Nat) (s : State) :
    (furrowClear o s).pending = s.pending := by
  unfold furrowClear
  split <;> simp

@[simp] theorem furrowWrite_pending (o : Nat) (v : Word) (be : BitVec 4) (s : State) :
    (furrowWrite o v be s).pending = s.pending := by
  unfold furrowWrite
  split <;> simp

@[simp] theorem trkClear_pending (o : Nat) (s : State) :
    (trkClear o s).pending = s.pending := by
  unfold trkClear
  split <;> simp

@[simp] theorem memClear_pending (o : Nat) (s : State) :
    (memClear o s).pending = s.pending := by
  unfold memClear
  split <;> simp

@[simp] theorem memRegWrite_pending (o : Nat) (v : Word) (be : BitVec 4) (s : State) :
    (memRegWrite o v be s).pending = s.pending := by
  unfold memRegWrite
  split <;> simp

@[simp] theorem pwrClear_pending (o : Nat) (s : State) :
    (pwrClear o s).pending = s.pending := by
  unfold pwrClear
  split <;> simp

@[simp] theorem pwrWrite_pending (o : Nat) (v : Word) (be : BitVec 4) (s : State) :
    (pwrWrite o v be s).pending = s.pending := by
  unfold pwrWrite
  split <;> simp

@[simp] theorem telClear_pending (o : Nat) (s : State) :
    (telClear o s).pending = s.pending := by simp [telClear]

@[simp] theorem telWrite_pending (o : Nat) (v : Word) (be : BitVec 4) (s : State) :
    (telWrite o v be s).pending = s.pending := by simp [telWrite]

@[simp] theorem fltClear_pending (o : Nat) (s : State) :
    (fltClear o s).pending = s.pending := by
  unfold fltClear
  split <;> simp

@[simp] theorem fltWrite_pending (o : Nat) (v : Word) (be : BitVec 4) (s : State) :
    (fltWrite o v be s).pending = s.pending := by simp [fltWrite]

@[simp] theorem slotClear_pending (o : Nat) (s : State) :
    (slotClear o s).pending = s.pending := by simp [slotClear]

@[simp] theorem slotWrite_pending (o : Nat) (v : Word) (be : BitVec 4) (s : State) :
    (slotWrite o v be s).pending = s.pending := by
  unfold slotWrite
  split <;> simp

@[simp] theorem fwmClear_pending (o : Nat) (s : State) :
    (fwmClear o s).pending = s.pending := by simp [fwmClear]

@[simp] theorem fwmWrite_pending (o : Nat) (v : Word) (be : BitVec 4) (s : State) :
    (fwmWrite o v be s).pending = s.pending := by
  unfold fwmWrite
  split <;> simp

@[simp] theorem regClear_pending (o : Nat) (s : State) :
    (regClear o s).pending = s.pending := by
  unfold regClear
  split <;> simp

@[simp] theorem readDone_pending (o : Nat) (s : State) :
    (readDone o s).pending = s.pending := by simp [readDone]

@[simp] theorem regWrite_pending (o : Nat) (v : Word) (be : BitVec 4) (s : State) :
    (regWrite o v be s).pending = s.pending := by
  unfold regWrite
  split <;> simp

@[simp] theorem wakeFor_pending (d : Nat) (s : State) :
    (wakeFor d s).pending = s.pending := by simp [wakeFor]

@[simp] theorem regAccess_pending (offset : BitVec 24) {work : Nat → State → State}
    (hw : ∀ o s, (work o s).pending = s.pending) (s : State) : (regAccess offset work s).pending = s.pending := by
  unfold regAccess
  dsimp only
  split_ifs <;> simp [hw]

@[simp] theorem writeDword_pending (offset : BitVec 24) (value : Word) (be : BitVec 4) (s : State) :
    (writeDword offset value be s).pending = s.pending := by simp [writeDword]

end Sys2Proof.Machine

namespace Sys2Proof.Machine

/-! ## Every row of the opcode table leaves the queue alone (O58) -/

/-- A result that, where it is a next state, leaves the queue as it stands in `s`. -/
def KeepsQueue (r : Res) (s : State) : Prop := ∀ t, r = .next t → t.pending = s.pending

@[simp] theorem keepsQueue_next {s t : State} : KeepsQueue (.next t) s ↔ t.pending = s.pending :=
  ⟨fun h => h t rfl, fun h _ e => Host.Outcome.next.inj e ▸ h⟩

@[simp] theorem keepsQueue_fault (e : Fault) (s : State) : KeepsQueue (.fault e) s := fun _ h => nomatch h

@[simp] theorem keepsQueue_ite (p : Prop) [Decidable p] (x y : Res) (s : State) :
    KeepsQueue (if p then x else y) s ↔ if p then KeepsQueue x s else KeepsQueue y s := by
  split_ifs <;> rfl

/-- A packet is fetched, queued or answered, and its body runs: none of them touches the queue. -/
theorem packetStep_keepsQueue {mine : Packet → Bool} {ring : BitVec 6} {p : Packet}
    {body : Fetched → State → State}
    (hb : ∀ f s, (body f s).pending = s.pending) (s : State) : KeepsQueue (packetStep mine ring p body s) s := by
  unfold packetStep
  dsimp only
  repeat' split
  all_goals simp [hb]

/-- An instruction of a tile program faults, waits or runs its body. -/
theorem tileStep_keepsQueue {mine : Nat → Bool} {checks : List Check} {ready : State → Nat → Nat → Bool}
    {body : Nat → Nat → State → State} (hb : ∀ n w s, (body n w s).pending = s.pending) (core : BitVec 7)
    (w : BitVec 128) (s : State) : KeepsQueue (tileStep mine checks ready body core w s) s := by
  unfold tileStep
  dsimp only
  split
  · simp
  · rw [keepsQueue_next]
    repeat' split
    all_goals simp [hb]

theorem vecStep_keepsQueue {func : Nat} {body : Nat → Nat → State → State}
    (hb : ∀ n w s, (body n w s).pending = s.pending) (core : BitVec 7) (w : BitVec 128) (s : State) :
    KeepsQueue (vecStep func body core w s) s :=
  tileStep_keepsQueue (fun n w s => withProg_pending _ _ _ (hb n w) s) core w s

/-! ### Commands of Machine/Rings -/

theorem execDoorbellWrite_keepsQueue (offset : BitVec 16) (value : Word) (s : State) :
    KeepsQueue (execDoorbellWrite offset value s) s := by
  simp [execDoorbellWrite]

theorem execRingEnable_keepsQueue (kind : RingKind) (ring : BitVec 6) (cfg : Word) (s : State) :
    KeepsQueue (execRingEnable kind ring cfg s) s := by
  simp [execRingEnable]

theorem execRingDisable_keepsQueue (kind : RingKind) (ring : BitVec 6) (cfg : Word) (s : State) :
    KeepsQueue (execRingDisable kind ring cfg s) s := by
  simp [execRingDisable]

theorem execRingCredit_keepsQueue (ring : BitVec 6) (p : Packet) (s : State) :
    KeepsQueue (execRingCredit ring p s) s :=
  packetStep_keepsQueue (fun _ _ => by simp) s

theorem execReplyDeadline_keepsQueue (ring : BitVec 6) (tag : BitVec 16) (s : State) :
    KeepsQueue (execReplyDeadline ring tag s) s := by
  unfold execReplyDeadline
  split <;> simp

theorem execRecordEgress_keepsQueue (mr : BitVec 6) (s : State) :
    KeepsQueue (execRecordEgress mr s) s := by
  rw [execRecordEgress, keepsQueue_next]
  repeat' split
  all_goals simp

theorem execDatagramSend_keepsQueue (mr : BitVec 6) (s : State) :
    KeepsQueue (execDatagramSend mr s) s := by
  rw [execDatagramSend, keepsQueue_next]
  dsimp only
  repeat' split
  all_goals simp

theorem execNextHopResolved_keepsQueue (mr : BitVec 6) (s : State) :
    KeepsQueue (execNextHopResolved mr s) s := by
  simp [execNextHopResolved]

theorem execIntCoalTimer_keepsQueue (s : State) :
    KeepsQueue (execIntCoalTimer s) s := by
  unfold execIntCoalTimer
  split <;> simp

theorem execInterruptDisableWrite_keepsQueue (command : BitVec 16) (s : State) :
    KeepsQueue (execInterruptDisableWrite command s) s := by
  simp [execInterruptDisableWrite]

/-! ### Commands of Machine/Recovery -/

theorem execComputeResetComplete_keepsQueue (s : State) :
    KeepsQueue (execComputeResetComplete s) s := by
  unfold execComputeResetComplete
  split <;> simp

theorem execResetTimeout_keepsQueue (s : State) :
    KeepsQueue (execResetTimeout s) s := by
  unfold execResetTimeout
  split <;> simp

theorem execFabricError_keepsQueue (index : BitVec 12) (s : State) :
    KeepsQueue (execFabricError index s) s := by
  simp [execFabricError]

theorem execFaultLogCopy_keepsQueue (s : State) :
    KeepsQueue (execFaultLogCopy s) s := by
  simp [execFaultLogCopy]

/-! ### Commands of Machine/Parks -/

theorem execParkRecordAction_keepsQueue (index : BitVec 10) (s : State) :
    KeepsQueue (execParkRecordAction index s) s := by
  unfold execParkRecordAction
  split <;> simp

/-! ### Commands of Machine/Bell -/

theorem execSlotIssue_keepsQueue (s : State) :
    KeepsQueue (execSlotIssue s) s := by
  rw [execSlotIssue, keepsQueue_next]
  dsimp only
  repeat' split
  all_goals simp

theorem execUnitFinish_keepsQueue (u : UnitId) (poisonRows : List Nat) (s : State) :
    KeepsQueue (execUnitFinish u poisonRows s) s := by
  rw [execUnitFinish, keepsQueue_next]
  dsimp only
  repeat' split
  all_goals simp

theorem execCoreReady_keepsQueue (core : BitVec 7) (s : State) :
    KeepsQueue (execCoreReady core s) s := by
  simp [execCoreReady]

theorem execWakeTimeout_keepsQueue (core : BitVec 7) (s : State) : KeepsQueue (execWakeTimeout core s) s := by
  unfold execWakeTimeout
  dsimp only
  rw [keepsQueue_next]
  split
  · rfl
  · split
    · rfl
    · rw [startReset_pending, testGroups_pending, foldl_pending (fun _ _ => setCore_pending ..), noteHang_pending]

theorem execActionHang_keepsQueue (u : UnitId) (s : State) :
    KeepsQueue (execActionHang u s) s := by
  unfold execActionHang
  split <;> simp

/-! ### Commands of Machine/Tile -/

theorem execWloadWeights_keepsQueue (core : BitVec 7) (w : BitVec 128) (s : State) :
    KeepsQueue (execWloadWeights core w s) s :=
  tileStep_keepsQueue (fun _ _ _ => by simp) core w s

theorem execWloadScales_keepsQueue (core : BitVec 7) (w : BitVec 128) (s : State) :
    KeepsQueue (execWloadScales core w s) s :=
  tileStep_keepsQueue (fun _ _ _ => by simp) core w s

theorem execSyncEnd_keepsQueue (core : BitVec 7) (w : BitVec 128) (s : State) :
    KeepsQueue (execSyncEnd core w s) s :=
  tileStep_keepsQueue (fun _ _ _ => by simp) core w s

theorem execSyncSteps_keepsQueue (core : BitVec 7) (w : BitVec 128) (s : State) :
    KeepsQueue (execSyncSteps core w s) s :=
  tileStep_keepsQueue (fun _ _ _ => by simp) core w s

theorem execSyncQuiet_keepsQueue (core : BitVec 7) (w : BitVec 128) (s : State) :
    KeepsQueue (execSyncQuiet core w s) s :=
  tileStep_keepsQueue (fun _ _ _ => by simp) core w s

theorem execSyncMarks_keepsQueue (core : BitVec 7) (w : BitVec 128) (s : State) :
    KeepsQueue (execSyncMarks core w s) s :=
  tileStep_keepsQueue (fun _ _ _ => by simp) core w s

theorem execSyncParam_keepsQueue (core : BitVec 7) (w : BitVec 128) (s : State) :
    KeepsQueue (execSyncParam core w s) s :=
  tileStep_keepsQueue (fun _ _ _ => by simp) core w s

theorem execClaim_keepsQueue (core : BitVec 7) (w : BitVec 128) (s : State) :
    KeepsQueue (execClaim core w s) s :=
  tileStep_keepsQueue (fun _ _ _ => by simp) core w s

theorem execDmaIn_keepsQueue (core : BitVec 7) (w : BitVec 128) (s : State) :
    KeepsQueue (execDmaIn core w s) s :=
  tileStep_keepsQueue (fun _ _ _ => by simp) core w s

theorem execDmaOut_keepsQueue (core : BitVec 7) (w : BitVec 128) (s : State) :
    KeepsQueue (execDmaOut core w s) s :=
  tileStep_keepsQueue (fun _ _ _ => by simp) core w s

/-! ### Commands of Machine/Array -/

theorem execMatmul_keepsQueue (core : BitVec 7) (w : BitVec 128) (s : State) :
    KeepsQueue (execMatmul core w s) s :=
  tileStep_keepsQueue (fun _ _ _ => by simp) core w s

theorem execConv_keepsQueue (core : BitVec 7) (w : BitVec 128) (s : State) :
    KeepsQueue (execConv core w s) s :=
  tileStep_keepsQueue (fun _ _ _ => by simp) core w s

theorem execPool_keepsQueue (core : BitVec 7) (w : BitVec 128) (s : State) :
    KeepsQueue (execPool core w s) s :=
  tileStep_keepsQueue (fun _ _ _ => by simp) core w s

theorem execCrop_keepsQueue (core : BitVec 7) (w : BitVec 128) (s : State) :
    KeepsQueue (execCrop core w s) s :=
  tileStep_keepsQueue (fun _ _ _ => by simp) core w s

/-! ### Commands of Machine/Vector -/

theorem execVecRequantise_keepsQueue (core : BitVec 7) (w : BitVec 128) (s : State) :
    KeepsQueue (execVecRequantise core w s) s :=
  vecStep_keepsQueue (fun _ _ _ => by simp) core w s

theorem execVecAdd_keepsQueue (core : BitVec 7) (w : BitVec 128) (s : State) :
    KeepsQueue (execVecAdd core w s) s :=
  vecStep_keepsQueue (fun _ _ _ => by simp) core w s

theorem execVecSubtract_keepsQueue (core : BitVec 7) (w : BitVec 128) (s : State) :
    KeepsQueue (execVecSubtract core w s) s :=
  vecStep_keepsQueue (fun _ _ _ => by simp) core w s

theorem execVecMultiply_keepsQueue (core : BitVec 7) (w : BitVec 128) (s : State) :
    KeepsQueue (execVecMultiply core w s) s :=
  vecStep_keepsQueue (fun _ _ _ => by simp) core w s

theorem execVecFusedMultiplyAdd_keepsQueue (core : BitVec 7) (w : BitVec 128) (s : State) :
    KeepsQueue (execVecFusedMultiplyAdd core w s) s :=
  vecStep_keepsQueue (fun _ _ _ => by simp) core w s

theorem execVecMinimum_keepsQueue (core : BitVec 7) (w : BitVec 128) (s : State) :
    KeepsQueue (execVecMinimum core w s) s :=
  vecStep_keepsQueue (fun _ _ _ => by simp) core w s

theorem execVecMaximum_keepsQueue (core : BitVec 7) (w : BitVec 128) (s : State) :
    KeepsQueue (execVecMaximum core w s) s :=
  vecStep_keepsQueue (fun _ _ _ => by simp) core w s

theorem execVecCompare_keepsQueue (core : BitVec 7) (w : BitVec 128) (s : State) :
    KeepsQueue (execVecCompare core w s) s :=
  vecStep_keepsQueue (fun _ _ _ => by simp) core w s

theorem execVecSelect_keepsQueue (core : BitVec 7) (w : BitVec 128) (s : State) :
    KeepsQueue (execVecSelect core w s) s :=
  vecStep_keepsQueue (fun _ _ _ => by simp) core w s

theorem execVecRelu_keepsQueue (core : BitVec 7) (w : BitVec 128) (s : State) :
    KeepsQueue (execVecRelu core w s) s :=
  vecStep_keepsQueue (fun _ _ _ => by simp) core w s

theorem execVecClip_keepsQueue (core : BitVec 7) (w : BitVec 128) (s : State) :
    KeepsQueue (execVecClip core w s) s :=
  vecStep_keepsQueue (fun _ _ _ => by simp) core w s

theorem execVecLeakyRelu_keepsQueue (core : BitVec 7) (w : BitVec 128) (s : State) :
    KeepsQueue (execVecLeakyRelu core w s) s :=
  vecStep_keepsQueue (fun _ _ _ => by simp) core w s

theorem execVecShift_keepsQueue (core : BitVec 7) (w : BitVec 128) (s : State) :
    KeepsQueue (execVecShift core w s) s :=
  vecStep_keepsQueue (fun _ _ _ => by simp) core w s

theorem execVecConversion_keepsQueue (core : BitVec 7) (w : BitVec 128) (s : State) :
    KeepsQueue (execVecConversion core w s) s :=
  vecStep_keepsQueue (fun _ _ _ => by simp) core w s

theorem execVecDivide_keepsQueue (core : BitVec 7) (w : BitVec 128) (s : State) :
    KeepsQueue (execVecDivide core w s) s :=
  vecStep_keepsQueue (fun _ _ _ => by simp) core w s

theorem execVecReciprocal_keepsQueue (core : BitVec 7) (w : BitVec 128) (s : State) :
    KeepsQueue (execVecReciprocal core w s) s :=
  vecStep_keepsQueue (fun _ _ _ => by simp) core w s

theorem execVecSquareRoot_keepsQueue (core : BitVec 7) (w : BitVec 128) (s : State) :
    KeepsQueue (execVecSquareRoot core w s) s :=
  vecStep_keepsQueue (fun _ _ _ => by simp) core w s

theorem execVecReciprocalSquareRoot_keepsQueue (core : BitVec 7) (w : BitVec 128) (s : State) :
    KeepsQueue (execVecReciprocalSquareRoot core w s) s :=
  vecStep_keepsQueue (fun _ _ _ => by simp) core w s

theorem execVecExp_keepsQueue (core : BitVec 7) (w : BitVec 128) (s : State) :
    KeepsQueue (execVecExp core w s) s :=
  vecStep_keepsQueue (fun _ _ _ => by simp) core w s

theorem execVecExp2_keepsQueue (core : BitVec 7) (w : BitVec 128) (s : State) :
    KeepsQueue (execVecExp2 core w s) s :=
  vecStep_keepsQueue (fun _ _ _ => by simp) core w s

theorem execVecLog_keepsQueue (core : BitVec 7) (w : BitVec 128) (s : State) :
    KeepsQueue (execVecLog core w s) s :=
  vecStep_keepsQueue (fun _ _ _ => by simp) core w s

theorem execVecLog2_keepsQueue (core : BitVec 7) (w : BitVec 128) (s : State) :
    KeepsQueue (execVecLog2 core w s) s :=
  vecStep_keepsQueue (fun _ _ _ => by simp) core w s

theorem execVecSigmoid_keepsQueue (core : BitVec 7) (w : BitVec 128) (s : State) :
    KeepsQueue (execVecSigmoid core w s) s :=
  vecStep_keepsQueue (fun _ _ _ => by simp) core w s

theorem execVecTanh_keepsQueue (core : BitVec 7) (w : BitVec 128) (s : State) :
    KeepsQueue (execVecTanh core w s) s :=
  vecStep_keepsQueue (fun _ _ _ => by simp) core w s

theorem execVecSoftplus_keepsQueue (core : BitVec 7) (w : BitVec 128) (s : State) :
    KeepsQueue (execVecSoftplus core w s) s :=
  vecStep_keepsQueue (fun _ _ _ => by simp) core w s

theorem execVecSilu_keepsQueue (core : BitVec 7) (w : BitVec 128) (s : State) :
    KeepsQueue (execVecSilu core w s) s :=
  vecStep_keepsQueue (fun _ _ _ => by simp) core w s

theorem execVecGelu_keepsQueue (core : BitVec 7) (w : BitVec 128) (s : State) :
    KeepsQueue (execVecGelu core w s) s :=
  vecStep_keepsQueue (fun _ _ _ => by simp) core w s

theorem execVecSoftmax_keepsQueue (core : BitVec 7) (w : BitVec 128) (s : State) :
    KeepsQueue (execVecSoftmax core w s) s :=
  vecStep_keepsQueue (fun _ _ _ => by simp) core w s

theorem execVecLayerNormalisation_keepsQueue (core : BitVec 7) (w : BitVec 128) (s : State) :
    KeepsQueue (execVecLayerNormalisation core w s) s :=
  vecStep_keepsQueue (fun _ _ _ => by simp) core w s

theorem execVecSum_keepsQueue (core : BitVec 7) (w : BitVec 128) (s : State) :
    KeepsQueue (execVecSum core w s) s :=
  vecStep_keepsQueue (fun _ _ _ => by simp) core w s

theorem execVecAxisMaximum_keepsQueue (core : BitVec 7) (w : BitVec 128) (s : State) :
    KeepsQueue (execVecAxisMaximum core w s) s :=
  vecStep_keepsQueue (fun _ _ _ => by simp) core w s

theorem execVecAxisMinimum_keepsQueue (core : BitVec 7) (w : BitVec 128) (s : State) :
    KeepsQueue (execVecAxisMinimum core w s) s :=
  vecStep_keepsQueue (fun _ _ _ => by simp) core w s

theorem execVecArgmax_keepsQueue (core : BitVec 7) (w : BitVec 128) (s : State) :
    KeepsQueue (execVecArgmax core w s) s :=
  vecStep_keepsQueue (fun _ _ _ => by simp) core w s

theorem execVecTopK_keepsQueue (core : BitVec 7) (w : BitVec 128) (s : State) :
    KeepsQueue (execVecTopK core w s) s :=
  vecStep_keepsQueue (fun _ _ _ => by simp) core w s

theorem execVecDepthwiseConvolution_keepsQueue (core : BitVec 7) (w : BitVec 128) (s : State) :
    KeepsQueue (execVecDepthwiseConvolution core w s) s :=
  vecStep_keepsQueue (fun _ _ _ => by simp) core w s

theorem execVecResampling_keepsQueue (core : BitVec 7) (w : BitVec 128) (s : State) :
    KeepsQueue (execVecResampling core w s) s :=
  vecStep_keepsQueue (fun _ _ _ => by simp) core w s

theorem execVecRepacking_keepsQueue (core : BitVec 7) (w : BitVec 128) (s : State) :
    KeepsQueue (execVecRepacking core w s) s :=
  vecStep_keepsQueue (fun _ _ _ => by simp) core w s

theorem execVecTranspose_keepsQueue (core : BitVec 7) (w : BitVec 128) (s : State) :
    KeepsQueue (execVecTranspose core w s) s :=
  vecStep_keepsQueue (fun _ _ _ => by simp) core w s

theorem execVecConcatenation_keepsQueue (core : BitVec 7) (w : BitVec 128) (s : State) :
    KeepsQueue (execVecConcatenation core w s) s :=
  vecStep_keepsQueue (fun _ _ _ => by simp) core w s

theorem execVecSplit_keepsQueue (core : BitVec 7) (w : BitVec 128) (s : State) :
    KeepsQueue (execVecSplit core w s) s :=
  vecStep_keepsQueue (fun _ _ _ => by simp) core w s

theorem execVecBoxDecoding_keepsQueue (core : BitVec 7) (w : BitVec 128) (s : State) :
    KeepsQueue (execVecBoxDecoding core w s) s :=
  vecStep_keepsQueue (fun _ _ _ => by simp) core w s

theorem execVecNonMaximumSuppression_keepsQueue (core : BitVec 7) (w : BitVec 128) (s : State) :
    KeepsQueue (execVecNonMaximumSuppression core w s) s :=
  vecStep_keepsQueue (fun _ _ _ => by simp) core w s

/-! ### Commands of Machine/Tracking -/

theorem execRows_keepsQueue (lists : List RecList) (s : State) :
    KeepsQueue (execRows lists s) s := by
  unfold execRows
  split <;> simp

theorem execApply_keepsQueue (lists : List RecList) (predicted : List Predicted) (s : State) :
    KeepsQueue (execApply lists predicted s) s := by
  unfold execApply
  split <;> simp

theorem execEmit_keepsQueue (lists : List RecList) (s : State) :
    KeepsQueue (execEmit lists s) s := by
  unfold execEmit
  split <;> simp

/-! ### Commands of Machine/Boundary -/

theorem execTimetableCheckComplete_keepsQueue (standby : Bool) (s : State) :
    KeepsQueue (execTimetableCheckComplete standby s) s := by
  rw [execTimetableCheckComplete, keepsQueue_next]
  repeat' split
  all_goals simp

theorem execStandbyRebuild_keepsQueue (s : State) :
    KeepsQueue (execStandbyRebuild s) s := by
  simp [execStandbyRebuild]

theorem execRoundBoundary_keepsQueue (s : State) :
    KeepsQueue (execRoundBoundary s) s := by
  rw [execRoundBoundary, keepsQueue_next]
  repeat' split
  all_goals simp

theorem execEngineRebind_keepsQueue (kind : VideoKind) (index : BitVec 5) (s : State) :
    KeepsQueue (execEngineRebind kind index s) s := by
  simp [execEngineRebind]

/-! ### Commands of Machine/Dma -/

theorem execTlbInvalidate_keepsQueue (value : Word) (s : State) :
    KeepsQueue (execTlbInvalidate value s) s := by
  simp [execTlbInvalidate]

theorem execHostReadCompletion_keepsQueue (engine : BitVec 3) (granule : Nat) (c : Cpl) (s : State) :
    KeepsQueue (execHostReadCompletion engine granule c s) s := by
  simp [execHostReadCompletion]

theorem execCompletionTimeout_keepsQueue (engine : BitVec 3) (granule : Nat) (s : State) :
    KeepsQueue (execCompletionTimeout engine granule s) s := by
  simp [execCompletionTimeout]

theorem execDmaGranuleLand_keepsQueue (engine : DmaEngine) (granule : Nat) (s : State) :
    KeepsQueue (execDmaGranuleLand engine granule s) s := by
  rw [execDmaGranuleLand, keepsQueue_next]
  dsimp only
  repeat' split
  all_goals simp

theorem execHbmRefresh_keepsQueue (pc : BitVec 7) (ports : RefreshPorts) (s : State) :
    KeepsQueue (execHbmRefresh pc ports s) s := by
  simp [execHbmRefresh]

theorem execPatrolScrub_keepsQueue (addr : BitVec 40) (s : State) :
    KeepsQueue (execPatrolScrub addr s) s := by
  simp [execPatrolScrub]

theorem execSubstituteCopy_keepsQueue (granules : List Nat) (s : State) :
    KeepsQueue (execSubstituteCopy granules s) s := by
  simp [execSubstituteCopy]

theorem execBar2Read_keepsQueue (offset : BitVec 29) (dwords : Nat) (s : State) :
    KeepsQueue (execBar2Read offset dwords s) s := by
  rw [execBar2Read, keepsQueue_next]
  repeat' split
  all_goals simp

theorem execBar2Write_keepsQueue (offset : BitVec 29) (bytes : List Byte) (s : State) :
    KeepsQueue (execBar2Write offset bytes s) s := by
  simp [execBar2Write]

/-! ### Commands of Machine/Query -/

theorem execIdentify_keepsQueue (ring : BitVec 6) (p : Packet) (s : State) :
    KeepsQueue (execIdentify ring p s) s :=
  packetStep_keepsQueue (fun _ _ => by simp) s

theorem execTelemetryRead_keepsQueue (ring : BitVec 6) (p : Packet) (m : PowerSample) (s : State) :
    KeepsQueue (execTelemetryRead ring p m s) s :=
  packetStep_keepsQueue (fun _ _ => by simp) s

theorem execFaultLogRead_keepsQueue (ring : BitVec 6) (p : Packet) (s : State) :
    KeepsQueue (execFaultLogRead ring p s) s :=
  packetStep_keepsQueue (fun _ _ => by simp) s

theorem execStreamQuery_keepsQueue (ring : BitVec 6) (p : Packet) (s : State) :
    KeepsQueue (execStreamQuery ring p s) s :=
  packetStep_keepsQueue (fun _ _ => by simp) s

theorem execMaintEcho_keepsQueue (ring : BitVec 6) (p : Packet) (s : State) :
    KeepsQueue (execMaintEcho ring p s) s :=
  packetStep_keepsQueue (fun _ _ => by simp) s

theorem execMaintPeek_keepsQueue (ring : BitVec 6) (p : Packet) (s : State) :
    KeepsQueue (execMaintPeek ring p s) s :=
  packetStep_keepsQueue (fun _ _ => by simp) s

theorem execMaintErrInject_keepsQueue (ring : BitVec 6) (p : Packet) (s : State) :
    KeepsQueue (execMaintErrInject ring p s) s := by
  refine packetStep_keepsQueue (fun f s => ?_) s
  split
  · simp
  · split_ifs <;> simp

theorem execMaintCountersClear_keepsQueue (ring : BitVec 6) (p : Packet) (s : State) :
    KeepsQueue (execMaintCountersClear ring p s) s :=
  packetStep_keepsQueue (fun _ _ => by simp) s

theorem execSelftestRequest_keepsQueue (ring : BitVec 6) (p : Packet) (s : State) :
    KeepsQueue (execSelftestRequest ring p s) s := by
  refine packetStep_keepsQueue (fun f s => ?_) s
  dsimp only
  split
  · simp
  · split_ifs <;> simp

theorem execServiceRestore_keepsQueue (ring : BitVec 6) (p : Packet) (s : State) :
    KeepsQueue (execServiceRestore ring p s) s :=
  packetStep_keepsQueue (fun _ _ => by simp) s

/-! ### Commands of Machine/Ingest -/

theorem execFrameReceive_keepsQueue (port : BitVec 1) (f : Frame) (s : State) :
    KeepsQueue (execFrameReceive port f s) s := by
  rw [execFrameReceive, keepsQueue_next]
  dsimp only
  repeat' split
  all_goals simp

theorem execPauseFrame_keepsQueue (port : BitVec 1) (quanta : BitVec 16) (s : State) :
    KeepsQueue (execPauseFrame port quanta s) s := by
  simp [execPauseFrame]

theorem execControlPacket_keepsQueue (port : BitVec 1) (k : ControlKind) (s : State) :
    KeepsQueue (execControlPacket port k s) s := by
  simp [execControlPacket]

theorem execReorderWaitExpiry_keepsQueue (ctx : BitVec 12) (s : State) :
    KeepsQueue (execReorderWaitExpiry ctx s) s := by
  rw [execReorderWaitExpiry, keepsQueue_next]
  repeat' split
  all_goals simp

theorem execPortLinkChange_keepsQueue (port : BitVec 1) (up : Bool) (s : State) :
    KeepsQueue (execPortLinkChange port up s) s := by
  simp [execPortLinkChange]

theorem execTruantTimeout_keepsQueue (ctx : BitVec 12) (s : State) :
    KeepsQueue (execTruantTimeout ctx s) s := by
  simp [execTruantTimeout]

theorem execStashMove_keepsQueue (s : State) :
    KeepsQueue (execStashMove s) s := by
  simp [execStashMove]

theorem execPoolStage3Shed_keepsQueue (s : State) :
    KeepsQueue (execPoolStage3Shed s) s := by
  rw [execPoolStage3Shed, keepsQueue_next]
  repeat' split
  all_goals simp

theorem execPortConfigPort_keepsQueue (ring : BitVec 6) (p : Packet) (s : State) :
    KeepsQueue (execPortConfigPort ring p s) s :=
  packetStep_keepsQueue (fun _ _ => by simp) s

theorem execPortConfigDatagram_keepsQueue (ring : BitVec 6) (p : Packet) (s : State) :
    KeepsQueue (execPortConfigDatagram ring p s) s :=
  packetStep_keepsQueue (fun _ _ => by simp) s

theorem execKeyLoad_keepsQueue (ring : BitVec 6) (p : Packet) (blob : HostRead (List Byte)) (s : State) :
    KeepsQueue (execKeyLoad ring p blob s) s :=
  packetStep_keepsQueue (fun _ _ => by simp) s

theorem execAuPush_keepsQueue (ring : BitVec 6) (p : Packet) (s : State) :
    KeepsQueue (execAuPush ring p s) s :=
  packetStep_keepsQueue (fun _ _ => by simp) s

theorem execAuPushComplete_keepsQueue (ring : BitVec 6) (tag : BitVec 16) (refFree : Bool) (s : State) :
    KeepsQueue (execAuPushComplete ring tag refFree s) s := by
  rw [execAuPushComplete, keepsQueue_next]
  split <;> simp

/-! ### Commands of Machine/Admission -/

theorem execStreamOpen_keepsQueue (ring : BitVec 6) (p : Packet) (s : State) :
    KeepsQueue (execStreamOpen ring p s) s :=
  packetStep_keepsQueue (fun _ _ => by simp) s

theorem execStreamAdmit_keepsQueue (ring : BitVec 6) (p : Packet) (pages units : List Nat) (s : State) :
    KeepsQueue (execStreamAdmit ring p pages units s) s :=
  packetStep_keepsQueue (fun _ _ => by simp) s

theorem execStreamClose_keepsQueue (ring : BitVec 6) (p : Packet) (s : State) :
    KeepsQueue (execStreamClose ring p s) s :=
  packetStep_keepsQueue (fun _ _ => by simp) s

theorem execShedRankSet_keepsQueue (ring : BitVec 6) (p : Packet) (s : State) :
    KeepsQueue (execShedRankSet ring p s) s :=
  packetStep_keepsQueue (fun _ _ => by simp) s

theorem execSheafDefine_keepsQueue (ring : BitVec 6) (p : Packet) (s : State) :
    KeepsQueue (execSheafDefine ring p s) s :=
  packetStep_keepsQueue (fun _ _ => by simp) s

theorem execSheafDissolve_keepsQueue (ring : BitVec 6) (p : Packet) (s : State) :
    KeepsQueue (execSheafDissolve ring p s) s :=
  packetStep_keepsQueue (fun _ _ => by simp) s

theorem execRoundConfig_keepsQueue (ring : BitVec 6) (p : Packet) (s : State) :
    KeepsQueue (execRoundConfig ring p s) s :=
  packetStep_keepsQueue (fun _ _ => by simp) s

theorem execSlipRollCall_keepsQueue (ctx : BitVec 12) (s : State) :
    KeepsQueue (execSlipRollCall ctx s) s := by
  simp [execSlipRollCall]

theorem execRelockRollCall_keepsQueue (ctx : BitVec 12) (s : State) :
    KeepsQueue (execRelockRollCall ctx s) s := by
  rw [execRelockRollCall, keepsQueue_next]
  repeat' split
  all_goals simp

/-! ### Commands of Machine/NetLoad -/

theorem execNetworkLoad_keepsQueue (ring : BitVec 6) (p : Packet) (image : HostRead (List Byte))
    (pages : List Nat) (s : State) :
    KeepsQueue (execNetworkLoad ring p image pages s) s :=
  packetStep_keepsQueue (fun _ _ => by simp) s

theorem execNetworkUnload_keepsQueue (ring : BitVec 6) (p : Packet) (s : State) :
    KeepsQueue (execNetworkUnload ring p s) s :=
  packetStep_keepsQueue (fun _ _ => by simp) s

/-! ### Commands of Machine/Assembly -/

theorem execTimetableMarkComplete_keepsQueue (standby : Bool) (area : BitVec 2) (w : AreaWrite) (s : State) :
    KeepsQueue (execTimetableMarkComplete standby area w s) s := by
  simp [execTimetableMarkComplete]

/-! ### Commands of Machine/Video -/

theorem execDecodePicture_keepsQueue (engine : BitVec 5) (f : PicFacts) (s : State) :
    KeepsQueue (execDecodePicture engine f s) s := by
  unfold execDecodePicture
  split <;> simp

theorem execDecodeWatchdog_keepsQueue (engine : BitVec 5) (s : State) :
    KeepsQueue (execDecodeWatchdog engine s) s := by
  rw [execDecodeWatchdog, keepsQueue_next]
  split <;> simp

theorem execPrepareInput_keepsQueue (engine : BitVec 4) (ctx : BitVec 12) (seq : Word) (input cycles : Nat)
    (s : State) :
    KeepsQueue (execPrepareInput engine ctx seq input cycles s) s := by
  rw [execPrepareInput, keepsQueue_next]
  repeat' split
  all_goals simp

theorem execPrepWatchdog_keepsQueue (engine : BitVec 4) (s : State) :
    KeepsQueue (execPrepWatchdog engine s) s := by
  rw [execPrepWatchdog, keepsQueue_next]
  split <;> simp

/-! ### Commands of Machine/Clips -/

theorem execClipRequest_keepsQueue (ring : BitVec 6) (p : Packet) (lists : HostRead ClipLists) (s : State) :
    KeepsQueue (execClipRequest ring p lists s) s :=
  packetStep_keepsQueue (fun _ _ => by simp) s

theorem execClipCancel_keepsQueue (ring : BitVec 6) (p : Packet) (s : State) :
    KeepsQueue (execClipCancel ring p s) s :=
  packetStep_keepsQueue (fun _ _ => by simp) s

theorem execClipStart_keepsQueue (s : State) :
    KeepsQueue (execClipStart s) s := by
  rw [execClipStart, keepsQueue_next]
  repeat' split
  all_goals simp

theorem execClipDecodePicture_keepsQueue (clip : BitVec 16) (f : PicFacts) (s : State) :
    KeepsQueue (execClipDecodePicture clip f s) s := by
  rw [execClipDecodePicture, keepsQueue_next]
  repeat' split
  all_goals simp

theorem execClipEncodePicture_keepsQueue (clip : BitVec 16) (header : Nat) (rowBits : List (Nat × Nat × Nat))
    (stream : List Byte) (s : State) :
    KeepsQueue (execClipEncodePicture clip header rowBits stream s) s := by
  rw [execClipEncodePicture, keepsQueue_next]
  repeat' split
  all_goals simp

theorem execClipPacketSend_keepsQueue (clip : BitVec 16) (s : State) :
    KeepsQueue (execClipPacketSend clip s) s := by
  rw [execClipPacketSend, keepsQueue_next]
  repeat' split
  all_goals simp

theorem execEncWatchdog_keepsQueue (engine : BitVec 3) (s : State) :
    KeepsQueue (execEncWatchdog engine s) s := by
  rw [execEncWatchdog, keepsQueue_next]
  repeat' split
  all_goals simp

/-! ### Commands of Machine/Fw -/

theorem execFwStageBailiff_keepsQueue (ring : BitVec 6) (p : Packet) (image : HostRead (List Byte))
    (programmed : Bool) (s : State) :
    KeepsQueue (execFwStageBailiff ring p image programmed s) s :=
  packetStep_keepsQueue (fun _ _ => by simp) s

theorem execFwStagePatch_keepsQueue (ring : BitVec 6) (p : Packet) (image : HostRead (List Byte))
    (programmed : Bool) (s : State) :
    KeepsQueue (execFwStagePatch ring p image programmed s) s :=
  packetStep_keepsQueue (fun _ _ => by simp) s

theorem execFwArmBailiff_keepsQueue (ring : BitVec 6) (p : Packet) (s : State) :
    KeepsQueue (execFwArmBailiff ring p s) s :=
  packetStep_keepsQueue (fun _ _ => by simp) s

theorem execFwArmPatch_keepsQueue (ring : BitVec 6) (p : Packet) (s : State) :
    KeepsQueue (execFwArmPatch ring p s) s :=
  packetStep_keepsQueue (fun _ _ => by simp) s

theorem execFwActivate_keepsQueue (ring : BitVec 6) (p : Packet) (s : State) :
    KeepsQueue (execFwActivate ring p s) s :=
  packetStep_keepsQueue (fun _ _ => by simp) s

theorem execFwDisarm_keepsQueue (ring : BitVec 6) (p : Packet) (s : State) :
    KeepsQueue (execFwDisarm ring p s) s :=
  packetStep_keepsQueue (fun _ _ => by simp) s

theorem execQuiesceTimeout_keepsQueue (s : State) :
    KeepsQueue (execQuiesceTimeout s) s := by
  simp [execQuiesceTimeout]

theorem execBootLoadComplete_keepsQueue (blocksOk : Bool) (s : State) :
    KeepsQueue (execBootLoadComplete blocksOk s) s := by
  simp [execBootLoadComplete]

theorem execRemainingBlockLoad_keepsQueue (block : Nat) (ok : Bool) (s : State) :
    KeepsQueue (execRemainingBlockLoad block ok s) s := by
  simp [execRemainingBlockLoad]

theorem execSyncInEdge_keepsQueue (s : State) :
    KeepsQueue (execSyncInEdge s) s := by
  simp [execSyncInEdge]

theorem execConfirmRequest_keepsQueue (s : State) :
    KeepsQueue (execConfirmRequest s) s := by
  simp [execConfirmRequest]

theorem execTrialTimeout_keepsQueue (s : State) :
    KeepsQueue (execTrialTimeout s) s := by
  simp [execTrialTimeout]

theorem execAliveTimeout_keepsQueue (s : State) :
    KeepsQueue (execAliveTimeout s) s := by
  simp [execAliveTimeout]

theorem execFirewallBlock_keepsQueue (_write : Bool) (s : State) :
    KeepsQueue (execFirewallBlock _write s) s := by
  simp [execFirewallBlock]

theorem execMgmtSramError_keepsQueue (s : State) :
    KeepsQueue (execMgmtSramError s) s := by
  simp [execMgmtSramError]

theorem execFwConfirm_keepsQueue (value : Word) (s : State) :
    KeepsQueue (execFwConfirm value s) s := by
  simp [execFwConfirm]

theorem execFwReject_keepsQueue (value : Word) (s : State) :
    KeepsQueue (execFwReject value s) s := by
  simp [execFwReject]

theorem execGetVersion_keepsQueue (s : State) :
    KeepsQueue (execGetVersion s) s := by
  simp [execGetVersion]

theorem execGetCapabilities_keepsQueue (s : State) :
    KeepsQueue (execGetCapabilities s) s := by
  simp [execGetCapabilities]

theorem execNegotiateAlgorithms_keepsQueue (s : State) :
    KeepsQueue (execNegotiateAlgorithms s) s := by
  simp [execNegotiateAlgorithms]

theorem execGetDigests_keepsQueue (s : State) :
    KeepsQueue (execGetDigests s) s := by
  simp [execGetDigests]

theorem execGetCertificate_keepsQueue (slot offset length : Nat) (s : State) :
    KeepsQueue (execGetCertificate slot offset length s) s := by
  simp [execGetCertificate]

theorem execChallenge_keepsQueue (slot : Nat) (nonce : List Byte) (s : State) :
    KeepsQueue (execChallenge slot nonce s) s := by
  simp [execChallenge]

theorem execGetMeasurements_keepsQueue (nonce : List Byte) (s : State) :
    KeepsQueue (execGetMeasurements nonce s) s := by
  simp [execGetMeasurements]

theorem execSpdmUnsupportedRequest_keepsQueue (code : Byte) (s : State) :
    KeepsQueue (execSpdmUnsupportedRequest code s) s := by
  simp [execSpdmUnsupportedRequest]

theorem execDoeAbort_keepsQueue (s : State) :
    KeepsQueue (execDoeAbort s) s := by
  simp [execDoeAbort]

/-! ### Commands of Machine/Power -/

theorem execRecessEnter_keepsQueue (ring : BitVec 6) (p : Packet) (s : State) :
    KeepsQueue (execRecessEnter ring p s) s :=
  packetStep_keepsQueue (fun _ _ => by simp) s

theorem execEngineIdleOff_keepsQueue (kind : VideoKind) (index : BitVec 5) (s : State) :
    KeepsQueue (execEngineIdleOff kind index s) s := by
  simp [execEngineIdleOff]

theorem execOffReq_keepsQueue (domain : BitVec 9) (mode : BitVec 2) (s : State) :
    KeepsQueue (execOffReq domain mode s) s := by
  simp [execOffReq]

theorem execAck_keepsQueue (domain : BitVec 9) (s : State) :
    KeepsQueue (execAck domain s) s := by
  rw [execAck, keepsQueue_next]
  split <;> simp

theorem execDelay_keepsQueue (domain : BitVec 9) (reason : Byte) (us : Nat) (s : State) :
    KeepsQueue (execDelay domain reason us s) s := by
  rw [execDelay, keepsQueue_next]
  split <;> simp

theorem execRefuse_keepsQueue (domain : BitVec 9) (reason : Byte) (s : State) :
    KeepsQueue (execRefuse domain reason s) s := by
  rw [execRefuse, keepsQueue_next]
  split <;> simp

theorem execDelayExpired_keepsQueue (domain : BitVec 9) (s : State) :
    KeepsQueue (execDelayExpired domain s) s := by
  rw [execDelayExpired, keepsQueue_next]
  split <;> simp

theorem execWakeReq_keepsQueue (domain : BitVec 9) (s : State) :
    KeepsQueue (execWakeReq domain s) s := by
  simp [execWakeReq]

theorem execReady_keepsQueue (domain : BitVec 9) (s : State) :
    KeepsQueue (execReady domain s) s := by
  simp [execReady]

theorem execHostAccessWake_keepsQueue (offset : BitVec 24) (stallUs : BitVec 16) (s : State) :
    KeepsQueue (execHostAccessWake offset stallUs s) s := by
  simp [execHostAccessWake]

theorem execRecessDomainRevert_keepsQueue (domain : BitVec 9) (s : State) :
    KeepsQueue (execRecessDomainRevert domain s) s := by
  rw [execRecessDomainRevert, keepsQueue_next]
  repeat' split
  all_goals simp

theorem execRecessExit_keepsQueue (ring : BitVec 6) (p : Packet) (s : State) :
    KeepsQueue (execRecessExit ring p s) s :=
  packetStep_keepsQueue (fun _ _ => by simp) s

theorem execRecessExitRoundStart_keepsQueue (s : State) :
    KeepsQueue (execRecessExitRoundStart s) s := by
  unfold execRecessExitRoundStart
  split <;> simp

theorem execAonFullReached_keepsQueue (s : State) :
    KeepsQueue (execAonFullReached s) s := by
  unfold execAonFullReached
  split <;> simp

theorem execClkreqLinkExit_keepsQueue (s : State) :
    KeepsQueue (execClkreqLinkExit s) s := by
  simp [execClkreqLinkExit]

theorem execBrownout_keepsQueue (s : State) :
    KeepsQueue (execBrownout s) s := by
  simp [execBrownout]

theorem execBrownoutRecovery_keepsQueue (s : State) :
    KeepsQueue (execBrownoutRecovery s) s := by
  simp [execBrownoutRecovery]

/-! ### Commands of Machine/Fallow -/

theorem execFallowSlot_keepsQueue (r : FallowResult) (s : State) :
    KeepsQueue (execFallowSlot r s) s := by
  simp [execFallowSlot]

/-! ### Commands of Machine/Host -/

theorem execLinkLoss_keepsQueue (s : State) :
    KeepsQueue (execLinkLoss s) s := by
  simp [execLinkLoss]

theorem execRefclkLost_keepsQueue (s : State) :
    KeepsQueue (execRefclkLost s) s := by
  simp [execRefclkLost]

theorem execRefclkReturn_keepsQueue (s : State) :
    KeepsQueue (execRefclkReturn s) s := by
  simp [execRefclkReturn]

theorem execLinkReturnL0_keepsQueue (s : State) :
    KeepsQueue (execLinkReturnL0 s) s := by
  simp [execLinkReturnL0]

theorem execL0sEntry_keepsQueue (transmit : Bool) (s : State) :
    KeepsQueue (execL0sEntry transmit s) s := by
  simp [execL0sEntry]

theorem execL1Request_keepsQueue (substate : Bool) (s : State) :
    KeepsQueue (execL1Request substate s) s := by
  simp [execL1Request]

theorem execD3hotEntry_keepsQueue (pmcsr : BitVec 16) (s : State) :
    KeepsQueue (execD3hotEntry pmcsr s) s := by
  simp [execD3hotEntry]

theorem execD0Return_keepsQueue (pmcsr : BitVec 16) (s : State) :
    KeepsQueue (execD0Return pmcsr s) s := by
  simp [execD0Return]

theorem execPmeTurnOff_keepsQueue (s : State) :
    KeepsQueue (execPmeTurnOff s) s := by
  simp [execPmeTurnOff]

theorem execFlr_keepsQueue (s : State) :
    KeepsQueue (execFlr s) s := by
  simp [execFlr]

theorem execFlrComplete_keepsQueue (s : State) :
    KeepsQueue (execFlrComplete s) s := by
  simp [execFlrComplete]

theorem execPresenceLost_keepsQueue (s : State) :
    KeepsQueue (execPresenceLost s) s := by
  simp [execPresenceLost]

theorem execPresenceRestored_keepsQueue (s : State) :
    KeepsQueue (execPresenceRestored s) s := by
  simp [execPresenceRestored]

theorem execAttnBtnPress_keepsQueue (s : State) :
    KeepsQueue (execAttnBtnPress s) s := by
  simp [execAttnBtnPress]

theorem execPerstAssert_keepsQueue (s : State) :
    KeepsQueue (execPerstAssert s) s := by
  simp [execPerstAssert]

theorem execPerstDeassert_keepsQueue (fails : List PostFail) (s : State) :
    KeepsQueue (execPerstDeassert fails s) s := by
  simp [execPerstDeassert]

theorem execBootComplete_keepsQueue (s : State) :
    KeepsQueue (execBootComplete s) s := by
  simp [execBootComplete]

theorem execMainPwrgdRise_keepsQueue (s : State) :
    KeepsQueue (execMainPwrgdRise s) s := by
  simp [execMainPwrgdRise]

theorem execMainPwrgdFall_keepsQueue (s : State) :
    KeepsQueue (execMainPwrgdFall s) s := by
  simp [execMainPwrgdFall]

theorem execAonPowerUp_keepsQueue (s : State) :
    KeepsQueue (execAonPowerUp s) s := by
  simp [execAonPowerUp]

theorem execRailFault_keepsQueue (rails : List (BitVec 4)) (s : State) :
    KeepsQueue (execRailFault rails s) s := by
  unfold execRailFault
  split <;> simp

theorem execThermalSample_keepsQueue (t : Temps) (s : State) :
    KeepsQueue (execThermalSample t s) s := by
  simp [execThermalSample]

theorem execThermalShedTimer_keepsQueue (s : State) :
    KeepsQueue (execThermalShedTimer s) s := by
  unfold execThermalShedTimer
  split <;> simp

theorem execThermalTrip_keepsQueue (s : State) :
    KeepsQueue (execThermalTrip s) s := by
  simp [execThermalTrip]

theorem execPcieRequestUnsupported_keepsQueue (r : BadRequest) (s : State) :
    KeepsQueue (execPcieRequestUnsupported r s) s := by
  unfold execPcieRequestUnsupported
  dsimp only
  repeat' split
  all_goals simp

theorem execPoisonedWrite_keepsQueue (bar : Nat) (offset : BitVec 29) (s : State) :
    KeepsQueue (execPoisonedWrite bar offset s) s := by
  simp [execPoisonedWrite]

/-! ### Commands of Machine/Jobs -/

theorem execJobSubmit_keepsQueue (ring : BitVec 6) (p : Packet) (s : State) :
    KeepsQueue (execJobSubmit ring p s) s :=
  packetStep_keepsQueue (fun _ _ => by simp) s

theorem execJobCancel_keepsQueue (ring : BitVec 6) (p : Packet) (s : State) :
    KeepsQueue (execJobCancel ring p s) s :=
  packetStep_keepsQueue (fun _ _ => by simp) s

/-! ### Commands of Machine/Regs -/

theorem execRegisterWrite_keepsQueue (offset : BitVec 24) (value : BitVec 64) (be : BitVec 8) (s : State) :
    KeepsQueue (execRegisterWrite offset value be s) s := by
  simp [execRegisterWrite]

theorem execRegisterReadClear_keepsQueue (r : RegRead) (s : State) :
    KeepsQueue (execRegisterReadClear r s) s := by
  simp [execRegisterReadClear]

end Sys2Proof.Machine

namespace Sys2Proof.Machine

/-! ## A step takes exactly one command -/

/-- No command touches the queue: one lemma for each row of the opcode table. -/
theorem exec_keepsQueue (c : Instr) (s : State) : KeepsQueue (exec c s) s := by
  cases c with
  | identify ring p => exact execIdentify_keepsQueue ring p s
  | telemetryRead ring p m => exact execTelemetryRead_keepsQueue ring p m s
  | faultLogRead ring p => exact execFaultLogRead_keepsQueue ring p s
  | portConfigPort ring p => exact execPortConfigPort_keepsQueue ring p s
  | portConfigDatagram ring p => exact execPortConfigDatagram_keepsQueue ring p s
  | streamOpen ring p => exact execStreamOpen_keepsQueue ring p s
  | streamAdmit ring p pages units => exact execStreamAdmit_keepsQueue ring p pages units s
  | streamClose ring p => exact execStreamClose_keepsQueue ring p s
  | streamQuery ring p => exact execStreamQuery_keepsQueue ring p s
  | keyLoad ring p blob => exact execKeyLoad_keepsQueue ring p blob s
  | sheafDefine ring p => exact execSheafDefine_keepsQueue ring p s
  | sheafDissolve ring p => exact execSheafDissolve_keepsQueue ring p s
  | shedRankSet ring p => exact execShedRankSet_keepsQueue ring p s
  | networkLoad ring p image pages => exact execNetworkLoad_keepsQueue ring p image pages s
  | networkUnload ring p => exact execNetworkUnload_keepsQueue ring p s
  | roundConfig ring p => exact execRoundConfig_keepsQueue ring p s
  | clipRequest ring p lists => exact execClipRequest_keepsQueue ring p lists s
  | clipCancel ring p => exact execClipCancel_keepsQueue ring p s
  | selftestRequest ring p => exact execSelftestRequest_keepsQueue ring p s
  | serviceRestore ring p => exact execServiceRestore_keepsQueue ring p s
  | recessEnter ring p => exact execRecessEnter_keepsQueue ring p s
  | recessExit ring p => exact execRecessExit_keepsQueue ring p s
  | recessExitRoundStart => exact execRecessExitRoundStart_keepsQueue s
  | fwStageBailiff ring p image programmed => exact execFwStageBailiff_keepsQueue ring p image programmed s
  | fwStagePatch ring p image programmed => exact execFwStagePatch_keepsQueue ring p image programmed s
  | fwArmBailiff ring p => exact execFwArmBailiff_keepsQueue ring p s
  | fwArmPatch ring p => exact execFwArmPatch_keepsQueue ring p s
  | fwActivate ring p => exact execFwActivate_keepsQueue ring p s
  | fwDisarm ring p => exact execFwDisarm_keepsQueue ring p s
  | quiesceTimeout => exact execQuiesceTimeout_keepsQueue s
  | bootLoadComplete blocksOk => exact execBootLoadComplete_keepsQueue blocksOk s
  | auPush ring p => exact execAuPush_keepsQueue ring p s
  | auPushComplete ring tag refFree => exact execAuPushComplete_keepsQueue ring tag refFree s
  | jobSubmit ring p => exact execJobSubmit_keepsQueue ring p s
  | jobCancel ring p => exact execJobCancel_keepsQueue ring p s
  | ringCredit ring p => exact execRingCredit_keepsQueue ring p s
  | maintEcho ring p => exact execMaintEcho_keepsQueue ring p s
  | maintPeek ring p => exact execMaintPeek_keepsQueue ring p s
  | maintErrInject ring p => exact execMaintErrInject_keepsQueue ring p s
  | maintCountersClear ring p => exact execMaintCountersClear_keepsQueue ring p s
  | replyDeadline ring tag => exact execReplyDeadline_keepsQueue ring tag s
  | doorbellWrite offset value => exact execDoorbellWrite_keepsQueue offset value s
  | ringEnable kind ring cfg => exact execRingEnable_keepsQueue kind ring cfg s
  | ringDisable kind ring cfg => exact execRingDisable_keepsQueue kind ring cfg s
  | registerWrite offset value be => exact execRegisterWrite_keepsQueue offset value be s
  | registerReadClear offset => exact execRegisterReadClear_keepsQueue offset s
  | hostAccessWake offset stallUs => exact execHostAccessWake_keepsQueue offset stallUs s
  | recessDomainRevert domain => exact execRecessDomainRevert_keepsQueue domain s
  | tlbInvalidate value => exact execTlbInvalidate_keepsQueue value s
  | fwConfirm value => exact execFwConfirm_keepsQueue value s
  | fwReject value => exact execFwReject_keepsQueue value s
  | bar2Read offset dwords => exact execBar2Read_keepsQueue offset dwords s
  | bar2Write offset bytes => exact execBar2Write_keepsQueue offset bytes s
  | pcieRequestUnsupported r => exact execPcieRequestUnsupported_keepsQueue r s
  | poisonedWrite bar offset => exact execPoisonedWrite_keepsQueue bar offset s
  | hostReadCompletion engine granule c => exact execHostReadCompletion_keepsQueue engine granule c s
  | completionTimeout engine granule => exact execCompletionTimeout_keepsQueue engine granule s
  | parkRecordAction index => exact execParkRecordAction_keepsQueue index s
  | dmaGranuleLand engine granule => exact execDmaGranuleLand_keepsQueue engine granule s
  | intCoalTimer => exact execIntCoalTimer_keepsQueue s
  | interruptDisableWrite command => exact execInterruptDisableWrite_keepsQueue command s
  | flr => exact execFlr_keepsQueue s
  | flrComplete => exact execFlrComplete_keepsQueue s
  | d3hotEntry pmcsr => exact execD3hotEntry_keepsQueue pmcsr s
  | d0Return pmcsr => exact execD0Return_keepsQueue pmcsr s
  | pmeTurnOff => exact execPmeTurnOff_keepsQueue s
  | l0sEntry transmit => exact execL0sEntry_keepsQueue transmit s
  | l1Request substate => exact execL1Request_keepsQueue substate s
  | linkLoss => exact execLinkLoss_keepsQueue s
  | linkReturnL0 => exact execLinkReturnL0_keepsQueue s
  | refclkLost => exact execRefclkLost_keepsQueue s
  | perstAssert => exact execPerstAssert_keepsQueue s
  | perstDeassert fails => exact execPerstDeassert_keepsQueue fails s
  | bootComplete => exact execBootComplete_keepsQueue s
  | presenceLost => exact execPresenceLost_keepsQueue s
  | presenceRestored => exact execPresenceRestored_keepsQueue s
  | attnBtnPress => exact execAttnBtnPress_keepsQueue s
  | mainPwrgdRise => exact execMainPwrgdRise_keepsQueue s
  | mainPwrgdFall => exact execMainPwrgdFall_keepsQueue s
  | aonPowerUp => exact execAonPowerUp_keepsQueue s
  | railFault rails => exact execRailFault_keepsQueue rails s
  | brownout => exact execBrownout_keepsQueue s
  | aonFullReached => exact execAonFullReached_keepsQueue s
  | syncInEdge => exact execSyncInEdge_keepsQueue s
  | thermalSample t => exact execThermalSample_keepsQueue t s
  | thermalShedTimer => exact execThermalShedTimer_keepsQueue s
  | thermalTrip => exact execThermalTrip_keepsQueue s
  | frameReceive port f => exact execFrameReceive_keepsQueue port f s
  | pauseFrame port quanta => exact execPauseFrame_keepsQueue port quanta s
  | controlPacket port k => exact execControlPacket_keepsQueue port k s
  | reorderWaitExpiry ctx => exact execReorderWaitExpiry_keepsQueue ctx s
  | portLinkChange port up => exact execPortLinkChange_keepsQueue port up s
  | truantTimeout ctx => exact execTruantTimeout_keepsQueue ctx s
  | slipRollCall ctx => exact execSlipRollCall_keepsQueue ctx s
  | relockRollCall ctx => exact execRelockRollCall_keepsQueue ctx s
  | stashMove => exact execStashMove_keepsQueue s
  | poolStage3Shed => exact execPoolStage3Shed_keepsQueue s
  | decodePicture engine f => exact execDecodePicture_keepsQueue engine f s
  | decodeWatchdog engine => exact execDecodeWatchdog_keepsQueue engine s
  | prepareInput engine ctx seq input cycles => exact execPrepareInput_keepsQueue engine ctx seq input cycles s
  | prepWatchdog engine => exact execPrepWatchdog_keepsQueue engine s
  | slotIssue => exact execSlotIssue_keepsQueue s
  | coreReady core => exact execCoreReady_keepsQueue core s
  | unitFinish u poisonRows => exact execUnitFinish_keepsQueue u poisonRows s
  | actionHang u => exact execActionHang_keepsQueue u s
  | wakeTimeout core => exact execWakeTimeout_keepsQueue core s
  | roundBoundary => exact execRoundBoundary_keepsQueue s
  | fallowSlot r => exact execFallowSlot_keepsQueue r s
  | hbmRefresh pc ports => exact execHbmRefresh_keepsQueue pc ports s
  | patrolScrub addr => exact execPatrolScrub_keepsQueue addr s
  | substituteCopy granules => exact execSubstituteCopy_keepsQueue granules s
  | timetableMarkComplete standby area c => exact execTimetableMarkComplete_keepsQueue standby area c s
  | timetableCheckComplete standby => exact execTimetableCheckComplete_keepsQueue standby s
  | standbyRebuild => exact execStandbyRebuild_keepsQueue s
  | engineRebind kind index => exact execEngineRebind_keepsQueue kind index s
  | rows lists => exact execRows_keepsQueue lists s
  | apply lists predicted => exact execApply_keepsQueue lists predicted s
  | emit lists => exact execEmit_keepsQueue lists s
  | recordEgress mr => exact execRecordEgress_keepsQueue mr s
  | datagramSend mr => exact execDatagramSend_keepsQueue mr s
  | nextHopResolved mr => exact execNextHopResolved_keepsQueue mr s
  | wloadWeights core w => exact execWloadWeights_keepsQueue core w s
  | wloadScales core w => exact execWloadScales_keepsQueue core w s
  | matmul core w => exact execMatmul_keepsQueue core w s
  | conv core w => exact execConv_keepsQueue core w s
  | pool core w => exact execPool_keepsQueue core w s
  | crop core w => exact execCrop_keepsQueue core w s
  | vecRequantise core w => exact execVecRequantise_keepsQueue core w s
  | vecAdd core w => exact execVecAdd_keepsQueue core w s
  | vecSubtract core w => exact execVecSubtract_keepsQueue core w s
  | vecMultiply core w => exact execVecMultiply_keepsQueue core w s
  | vecFusedMultiplyAdd core w => exact execVecFusedMultiplyAdd_keepsQueue core w s
  | vecMinimum core w => exact execVecMinimum_keepsQueue core w s
  | vecMaximum core w => exact execVecMaximum_keepsQueue core w s
  | vecCompare core w => exact execVecCompare_keepsQueue core w s
  | vecSelect core w => exact execVecSelect_keepsQueue core w s
  | vecRelu core w => exact execVecRelu_keepsQueue core w s
  | vecClip core w => exact execVecClip_keepsQueue core w s
  | vecLeakyRelu core w => exact execVecLeakyRelu_keepsQueue core w s
  | vecShift core w => exact execVecShift_keepsQueue core w s
  | vecConversion core w => exact execVecConversion_keepsQueue core w s
  | vecDivide core w => exact execVecDivide_keepsQueue core w s
  | vecReciprocal core w => exact execVecReciprocal_keepsQueue core w s
  | vecSquareRoot core w => exact execVecSquareRoot_keepsQueue core w s
  | vecReciprocalSquareRoot core w => exact execVecReciprocalSquareRoot_keepsQueue core w s
  | vecExp core w => exact execVecExp_keepsQueue core w s
  | vecExp2 core w => exact execVecExp2_keepsQueue core w s
  | vecLog core w => exact execVecLog_keepsQueue core w s
  | vecLog2 core w => exact execVecLog2_keepsQueue core w s
  | vecSigmoid core w => exact execVecSigmoid_keepsQueue core w s
  | vecTanh core w => exact execVecTanh_keepsQueue core w s
  | vecSoftplus core w => exact execVecSoftplus_keepsQueue core w s
  | vecSilu core w => exact execVecSilu_keepsQueue core w s
  | vecGelu core w => exact execVecGelu_keepsQueue core w s
  | vecSoftmax core w => exact execVecSoftmax_keepsQueue core w s
  | vecLayerNormalisation core w => exact execVecLayerNormalisation_keepsQueue core w s
  | vecSum core w => exact execVecSum_keepsQueue core w s
  | vecAxisMaximum core w => exact execVecAxisMaximum_keepsQueue core w s
  | vecAxisMinimum core w => exact execVecAxisMinimum_keepsQueue core w s
  | vecArgmax core w => exact execVecArgmax_keepsQueue core w s
  | vecTopK core w => exact execVecTopK_keepsQueue core w s
  | vecDepthwiseConvolution core w => exact execVecDepthwiseConvolution_keepsQueue core w s
  | vecResampling core w => exact execVecResampling_keepsQueue core w s
  | vecRepacking core w => exact execVecRepacking_keepsQueue core w s
  | vecTranspose core w => exact execVecTranspose_keepsQueue core w s
  | vecConcatenation core w => exact execVecConcatenation_keepsQueue core w s
  | vecSplit core w => exact execVecSplit_keepsQueue core w s
  | vecBoxDecoding core w => exact execVecBoxDecoding_keepsQueue core w s
  | vecNonMaximumSuppression core w => exact execVecNonMaximumSuppression_keepsQueue core w s
  | syncEnd core w => exact execSyncEnd_keepsQueue core w s
  | syncSteps core w => exact execSyncSteps_keepsQueue core w s
  | syncQuiet core w => exact execSyncQuiet_keepsQueue core w s
  | syncMarks core w => exact execSyncMarks_keepsQueue core w s
  | syncParam core w => exact execSyncParam_keepsQueue core w s
  | claim core w => exact execClaim_keepsQueue core w s
  | dmaIn core w => exact execDmaIn_keepsQueue core w s
  | dmaOut core w => exact execDmaOut_keepsQueue core w s
  | fabricError index => exact execFabricError_keepsQueue index s
  | computeResetComplete => exact execComputeResetComplete_keepsQueue s
  | resetTimeout => exact execResetTimeout_keepsQueue s
  | faultLogCopy => exact execFaultLogCopy_keepsQueue s
  | engineIdleOff kind index => exact execEngineIdleOff_keepsQueue kind index s
  | offReq domain mode => exact execOffReq_keepsQueue domain mode s
  | wakeReq domain => exact execWakeReq_keepsQueue domain s
  | ack domain => exact execAck_keepsQueue domain s
  | delay domain reason us => exact execDelay_keepsQueue domain reason us s
  | refuse domain reason => exact execRefuse_keepsQueue domain reason s
  | ready domain => exact execReady_keepsQueue domain s
  | delayExpired domain => exact execDelayExpired_keepsQueue domain s
  | clipStart => exact execClipStart_keepsQueue s
  | clipDecodePicture clip f => exact execClipDecodePicture_keepsQueue clip f s
  | clipEncodePicture clip header rowBits stream => exact execClipEncodePicture_keepsQueue clip header rowBits stream s
  | clipPacketSend clip => exact execClipPacketSend_keepsQueue clip s
  | encWatchdog engine => exact execEncWatchdog_keepsQueue engine s
  | aliveTimeout => exact execAliveTimeout_keepsQueue s
  | firewallBlock write => exact execFirewallBlock_keepsQueue write s
  | mgmtSramError => exact execMgmtSramError_keepsQueue s
  | confirmRequest => exact execConfirmRequest_keepsQueue s
  | trialTimeout => exact execTrialTimeout_keepsQueue s
  | getVersion => exact execGetVersion_keepsQueue s
  | getCapabilities => exact execGetCapabilities_keepsQueue s
  | negotiateAlgorithms => exact execNegotiateAlgorithms_keepsQueue s
  | getDigests => exact execGetDigests_keepsQueue s
  | getCertificate slot offset length => exact execGetCertificate_keepsQueue slot offset length s
  | challenge slot nonce => exact execChallenge_keepsQueue slot nonce s
  | getMeasurements nonce => exact execGetMeasurements_keepsQueue nonce s
  | spdmUnsupportedRequest code => exact execSpdmUnsupportedRequest_keepsQueue code s
  | doeAbort => exact execDoeAbort_keepsQueue s
  | clkreqLinkExit => exact execClkreqLinkExit_keepsQueue s
  | refclkReturn => exact execRefclkReturn_keepsQueue s
  | brownoutRecovery => exact execBrownoutRecovery_keepsQueue s
  | remainingBlockLoad block ok => exact execRemainingBlockLoad_keepsQueue block ok s

/-- Settles O58. -/
theorem stepsTakeExactlyOneCommand : Obligations.StepsTakeExactlyOneCommand :=
  ⟨fun c s t h => exec_keepsQueue c s t h, fun c rest s t hp h =>
    exec_keepsQueue c { s with pending := rest } t (step_of_pending hp ▸ h)⟩

end Sys2Proof.Machine

namespace Sys2Proof.Machine

/-! ## What reports change

A reply, a fault record and a power management event touch the rings, the wire, what has been sent, the link, the recorder,
the power states and what R11 notes of this fc. -/

def SameButReports (s t : State) : Prop :=
  t = { s with cmd := t.cmd, glb := t.glb, out := t.out, link := t.link, cyc := t.cyc, flt := t.flt, pwr := t.pwr }

section Reports
variable {s t u : State}

theorem SameButReports.refl (s : State) : SameButReports s s := rfl

theorem SameButReports.trans (h : SameButReports s t) (k : SameButReports t u) : SameButReports s u := by
  unfold SameButReports at *
  rw [h] at k
  exact k

theorem SameButReplies.reports (h : SameButReplies s t) : SameButReports s t := by
  unfold SameButReplies at h
  rw [h]
  rfl

theorem SameButReports.now (h : SameButReports s t) : t.now = s.now := by unfold SameButReports at h; rw [h]
theorem SameButReports.bell (h : SameButReports s t) : t.bell = s.bell := by unfold SameButReports at h; rw [h]
theorem SameButReports.mem (h : SameButReports s t) : t.mem = s.mem := by unfold SameButReports at h; rw [h]
theorem SameButReports.slot (h : SameButReports s t) : t.slot = s.slot := by unfold SameButReports at h; rw [h]
theorem SameButReports.tel (h : SameButReports s t) : t.tel = s.tel := by unfold SameButReports at h; rw [h]
theorem SameButReports.board (h : SameButReports s t) : t.board = s.board := by unfold SameButReports at h; rw [h]

theorem SameButReports.leaveLow (h : SameButReports s t) : SameButReports s (leaveLow t) := by
  obtain ⟨_, hlow⟩ := leaveLow_eq t
  rw [hlow]
  exact h.trans rfl

theorem SameButReports.hwSet (o b : Nat) (h : SameButReports s t) : SameButReports s (hwSet o b t) := h.trans rfl

theorem SameButReports.pmeD3hot (h : SameButReports s t) : SameButReports s (pmeD3hot t) := by
  obtain ⟨_, _, _, hpme⟩ := pmeD3hot_eq t
  rw [hpme]
  exact h.trans rfl

theorem SameButReports.updateWire (h : SameButReports s t) : SameButReports s (updateWire t) :=
  h.trans (sameButReplies_updateWire t).reports

end Reports

theorem sameButReports_recordFault (r : FaultRec) (s : State) : SameButReports s (recordFault r s) := by
  unfold recordFault
  split
  · rfl
  · dsimp only
    split
    · exact .updateWire (.pmeD3hot (.hwSet _ _ (.leaveLow (by rfl))))
    · exact .leaveLow (by rfl)

/-- A record of SCOPE 5 is held behind those held before (R300, R302). -/
theorem faultSimple_platform (code : Nat) (s : State) : ∃ r : FaultRec, r.code = BitVec.ofNat 16 code ∧ r.scope = 5 ∧
    (faultSimple code 5 s).flt.staging = s.flt.staging ++ [r] := by
  obtain ⟨r, hstaging, hcode, hscope, -⟩ :=
    records_recordFault (r := { code := BitVec.ofNat 16 code, scope := BitVec.ofNat 8 5 }) (show (5 : Byte) ≠ 0 by decide) s
  exact ⟨r, hcode, hscope, hstaging⟩

theorem SameButReplies.foldl {α : Type} {f : State → α → State} (hf : ∀ s a, SameButReplies s (f s a)) (l : List α)
    (s : State) : SameButReplies s (l.foldl f s) := by
  induction l generalizing s with
  | nil => exact .refl s
  | cons a r ih => exact (hf s a).trans (ih _)

/-- Replies and records that waited for the host touch rings only. -/
theorem sameButReplies_hostReturned (s : State) : SameButReplies s (hostReturned s) :=
  (SameButReplies.foldl (fun s n => sameButReplies_drainReplies n _ s) _ s).trans
    (.foldl (fun s n => sameButReplies_refreshMr n s) _ _)

/-- Requests in flight are marked in the engines' transfers only. -/
theorem holdIssue_eq (s : State) : ∃ mem, holdIssue s = { s with mem } := by
  unfold holdIssue
  generalize s.mem.host = l
  induction l generalizing s with
  | nil => exact ⟨s.mem, rfl⟩
  | cons e r ih =>
    rw [List.foldl_cons]
    split
    · obtain ⟨mem, h⟩ := ih (putTransfer false e.1 _ [refill _] s)
      exact ⟨mem, h⟩
    · exact ih s

@[simp] theorem holdIssue_slot (s : State) : (holdIssue s).slot = s.slot := by obtain ⟨_, h⟩ := holdIssue_eq s; rw [h]
@[simp] theorem holdIssue_bell (s : State) : (holdIssue s).bell = s.bell := by obtain ⟨_, h⟩ := holdIssue_eq s; rw [h]
@[simp] theorem holdIssue_link (s : State) : (holdIssue s).link = s.link := by obtain ⟨_, h⟩ := holdIssue_eq s; rw [h]

/-! ## Slot assist (R353, R355) -/

theorem pmeD3hot_link (s : State) : (pmeD3hot s).link.d3coldOrderly = s.link.d3coldOrderly ∧
    (pmeD3hot s).link.narrow = s.link.narrow := by
  unfold pmeD3hot
  split
  · split
    · exact ⟨rfl, rfl⟩
    · obtain ⟨_, hlow⟩ := leaveLow_eq { s with
        link := { s.link with pmeStatus := true, state := .l0 }, out := .pmPme :: s.out }
      rw [hlow]
      exact ⟨rfl, rfl⟩
  · exact ⟨rfl, rfl⟩

/-- A wake event leaves the reset pins and how the link was left as they are. -/
theorem cardWake_spec (s : State) : ∃ pwr link out b,
    cardWake s = { s with pwr, link, out, board := { s.board with wakeN := b } } ∧
      link.d3coldOrderly = s.link.d3coldOrderly ∧ link.narrow = s.link.narrow := by
  unfold cardWake
  split
  · obtain ⟨pwr, link, out, h⟩ := pmeD3hot_eq s
    have hlink := pmeD3hot_link s
    rw [h] at hlink ⊢
    exact ⟨pwr, link, out, s.board.wakeN, rfl, hlink⟩
  · split
    · exact ⟨s.pwr, _, _, true, rfl, rfl, rfl⟩
    · exact ⟨s.pwr, s.link, s.out, s.board.wakeN, rfl, rfl, rfl⟩

theorem isSurprise_cardWake (s : State) : isSurprise (cardWake s) = isSurprise s := by
  obtain ⟨pwr, link, out, b, h, hcold, hnarrow⟩ := cardWake_spec s
  rw [h, isSurprise, isSurprise, hcold, hnarrow]

theorem inReset_cardWake (s : State) : inReset (cardWake s) = inReset s := by
  obtain ⟨pwr, link, out, b, h, -⟩ := cardWake_spec s
  rw [h]
  rfl

/-- A surprise removal is recorded at once, under its cause (R357). -/
theorem surprise_spec (c : BitVec 3) (s : State) : (surprise c s).slot.present = s.slot.present ∧
    (surprise c s).slot.presentChanged = s.slot.presentChanged ∧ (surprise c s).bell = s.bell ∧
    (isSurprise s = true → (surprise c s).slot.cause = c ∧
      ∃ r ∈ (surprise c s).flt.staging, r.code = 0x503 ∧ r.scope = 5) := by
  unfold surprise
  split
  · have hrep : SameButReports (removalCause c s) (faultSimple 0x503 5 (removalCause c s)) :=
      sameButReports_recordFault _ _
    obtain ⟨r, hcode, hscope, hstaging⟩ := faultSimple_platform 0x503 (removalCause c s)
    rw [hrep.slot, hrep.bell, hstaging]
    exact ⟨rfl, rfl, rfl, fun _ => ⟨rfl, r, List.mem_append_right _ (List.mem_singleton.2 rfl), hcode, hscope⟩⟩
  · next h => exact ⟨rfl, rfl, rfl, fun hs => absurd hs h⟩


section Presence
variable {s : State}

/-- PRSNT_N has been counted, and no reset hides it: the device stops or resumes its requests to the host. -/
def presenceNoted (present : Bool) (s : State) : State :=
  let w := cardWake { s with slot := { s.slot with present := present } }
  hwSet 0x260000 1 { w with slot := { w.slot with presentChanged := true } }

theorem presenceNoted_spec (present : Bool) (s : State) : (presenceNoted present s).slot.present = present ∧
    (presenceNoted present s).slot.presentChanged = true ∧ (presenceNoted present s).bell = s.bell ∧
    isSurprise (presenceNoted present s) = isSurprise s := by
  have hsurprise := isSurprise_cardWake { s with slot := { s.slot with present := present } }
  obtain ⟨pwr, link, out, b, h, -⟩ := cardWake_spec { s with slot := { s.slot with present := present } }
  have hslot : (presenceNoted present s).slot.present = present := by rw [presenceNoted, h]; rfl
  have hbell : (presenceNoted present s).bell = s.bell := by rw [presenceNoted, h]; rfl
  exact ⟨hslot, rfl, hbell, hsurprise⟩

theorem exec_presenceLost (hp : s.slot.present = true) (hr : inReset s = false) :
    exec .presenceLost s = .next (surprise 4 (updateWire (holdIssue (presenceNoted false s)))) := by
  have hreset : inReset (cardWake { s with slot := { s.slot with present := false } }) = false :=
    (inReset_cardWake _).trans hr
  refine congrArg Host.Outcome.next ((if_neg ?_).trans (if_neg ?_))
  · simp [hp]
  · rw [hreset]; decide

theorem exec_presenceRestored (hp : s.slot.present = false) (hr : inReset s = false) :
    exec .presenceRestored s = .next (hostReturned (updateWire (presenceNoted true s))) := by
  have hreset : inReset (cardWake { s with slot := { s.slot with present := true } }) = false :=
    (inReset_cardWake _).trans hr
  refine congrArg Host.Outcome.next ((if_neg ?_).trans (if_neg ?_))
  · simp [hp]
  · rw [hreset]; decide

theorem presenceLost_spec (hp : s.slot.present = true) (hr : inReset s = false) :
    ∃ t, exec .presenceLost s = .next t ∧ t.slot.present = false ∧ t.slot.presentChanged = true ∧ t.bell = s.bell ∧
      (isSurprise s = true → t.slot.cause = 4 ∧ ∃ r ∈ t.flt.staging, r.code = 0x503 ∧ r.scope = 5) := by
  obtain ⟨hpresent, hchanged, hbell, hsurprise⟩ := presenceNoted_spec false s
  have hsur : isSurprise (updateWire (holdIssue (presenceNoted false s))) = isSurprise s := by
    simpa [isSurprise] using hsurprise
  obtain ⟨hp', hc', hb', hcause⟩ := surprise_spec 4 (updateWire (holdIssue (presenceNoted false s)))
  simp only [updateWire_slot, updateWire_bell, holdIssue_slot, holdIssue_bell] at hp' hc' hb'
  rw [hsur] at hcause
  exact ⟨_, exec_presenceLost hp hr, hp'.trans hpresent, hc'.trans hchanged, hb'.trans hbell, hcause⟩

theorem presenceRestored_spec (hp : s.slot.present = false) (hr : inReset s = false) :
    ∃ t, exec .presenceRestored s = .next t ∧ t.slot.present = true ∧ t.slot.presentChanged = true ∧ t.bell = s.bell := by
  obtain ⟨hpresent, hchanged, hbell, -⟩ := presenceNoted_spec true s
  have hrep : SameButReports (presenceNoted true s) (hostReturned (updateWire (presenceNoted true s))) :=
    (SameButReports.updateWire (.refl _)).trans (sameButReplies_hostReturned _).reports
  refine ⟨_, exec_presenceRestored hp hr, ?_⟩
  rw [hrep.slot, hrep.bell]
  exact ⟨hpresent, hchanged, hbell⟩

end Presence

/-! ### The attention button -/

section Button
variable {s : State}

/-- The press wakes the card and the regulator. -/
def buttonWoken (s : State) : State := leaveLow (cardWake { s with slot := { s.slot with btnDown := true } })

theorem inReset_buttonWoken (s : State) : inReset (buttonWoken s) = inReset s := by
  obtain ⟨_, hlow⟩ := leaveLow_eq (cardWake { s with slot := { s.slot with btnDown := true } })
  rw [buttonWoken, hlow]
  exact inReset_cardWake _

theorem buttonWoken_spec (s : State) : (buttonWoken s).slot.btnDown = true ∧ (buttonWoken s).bell = s.bell ∧
    (buttonWoken s).cmd = s.cmd := by
  obtain ⟨_, hlow⟩ := leaveLow_eq (cardWake { s with slot := { s.slot with btnDown := true } })
  obtain ⟨pwr, link, out, b, h, -⟩ := cardWake_spec { s with slot := { s.slot with btnDown := true } }
  rw [buttonWoken, hlow, h]
  exact ⟨rfl, rfl, rfl⟩

theorem exec_attnBtnPress_reset (hr : inReset s = true) : exec .attnBtnPress s = .next (buttonWoken s) :=
  congrArg Host.Outcome.next (if_pos ((inReset_buttonWoken s).trans hr))

theorem exec_attnBtnPress_live (hr : inReset s = false) : exec .attnBtnPress s = .next (updateWire (hwSet 0x260000 2
    { buttonWoken s with slot := { (buttonWoken s).slot with btnPressed := true } })) :=
  congrArg Host.Outcome.next (if_neg (ne_true_of_eq_false ((inReset_buttonWoken s).trans hr)))

/-- A PME from D3hot while the link can carry its message (R353). -/
theorem pmeD3hot_sent (hd : s.link.d3hot = true) (hl : linkSpeaks s = true) :
    .pmPme ∈ (pmeD3hot s).out ∧ (pmeD3hot s).link.pmeStatus = true := by
  have hup : ¬(s.link.state = .detect ∨ s.link.state = .l2) := by
    rintro (h | h) <;> simp [linkSpeaks, h] at hl
  obtain ⟨_, hlow⟩ := leaveLow_eq { s with
    link := { s.link with pmeStatus := true, state := .l0 }, out := .pmPme :: s.out }
  rw [pmeD3hot, if_pos hd, if_neg hup, hlow]
  exact ⟨List.mem_cons_self, rfl⟩

theorem buttonWoken_pme (hr : inReset s = false) (hd : s.link.d3hot = true) (hl : linkSpeaks s = true) :
    .pmPme ∈ (buttonWoken s).out ∧ (buttonWoken s).link.pmeStatus = true := by
  have hwake : cardWake { s with slot := { s.slot with btnDown := true } } =
      pmeD3hot { s with slot := { s.slot with btnDown := true } } :=
    if_pos (Bool.and_eq_true_iff.2 ⟨hd, by rw [← Bool.not_false, ← hr]; rfl⟩)
  obtain ⟨_, hlow⟩ := leaveLow_eq (pmeD3hot { s with slot := { s.slot with btnDown := true } })
  rw [buttonWoken, hwake, hlow]
  exact pmeD3hot_sent (s := { s with slot := { s.slot with btnDown := true } }) hd hl

/-- WAKE# from D3cold (R353). -/
theorem buttonWoken_wake (hp : s.board.pwrgd = false) (he : s.link.pmeEn = true) :
    .wakeN true ∈ (buttonWoken s).out ∧ (buttonWoken s).board.wakeN = true := by
  have hwake : cardWake { s with slot := { s.slot with btnDown := true } } = send (.wakeN true) { s with
      slot := { s.slot with btnDown := true }, board := { s.board with wakeN := true },
      link := { s.link with pmeStatus := true } } := by
    refine (if_neg ?_).trans (if_pos ?_)
    · simp [inReset, hp]
    · simp [inD3cold, hp, he]
  obtain ⟨_, hlow⟩ := leaveLow_eq (send (.wakeN true) { s with
    slot := { s.slot with btnDown := true }, board := { s.board with wakeN := true },
    link := { s.link with pmeStatus := true } })
  rw [buttonWoken, hwake, hlow]
  exact ⟨List.mem_cons_self, rfl⟩

theorem attnBtnPress_spec (s : State) : ∃ t, exec .attnBtnPress s = .next t ∧ t.slot.btnDown = true ∧ t.bell = s.bell ∧
    t.cmd = s.cmd ∧ (inReset s = false → t.slot.btnPressed = true) ∧
    (inReset s = false → s.link.d3hot = true → linkSpeaks s = true → .pmPme ∈ t.out ∧ t.link.pmeStatus = true) ∧
    (s.board.pwrgd = false → s.link.pmeEn = true → .wakeN true ∈ t.out ∧ t.board.wakeN = true) := by
  obtain ⟨hdown, hbell, hcmd⟩ := buttonWoken_spec s
  cases hr : inReset s
  · have hpwr : s.board.pwrgd ≠ false := by rintro hp; simp [inReset, hp] at hr
    refine ⟨_, exec_attnBtnPress_live hr, ?_⟩
    simp only [updateWire_slot, updateWire_bell, updateWire_cmd, updateWire_link]
    refine ⟨hdown, hbell, hcmd, fun _ => rfl, fun _ hd hl => ?_, fun hp => absurd hp hpwr⟩
    obtain ⟨hout, hpme⟩ := buttonWoken_pme hr hd hl
    exact ⟨mem_out_updateWire hout, hpme⟩
  · exact ⟨_, exec_attnBtnPress_reset hr, hdown, hbell, hcmd, nofun, nofun, buttonWoken_wake⟩

end Button

/-! ## Thermal levels (R82, R397, R398) -/

/-- Some sensor has come to `die`, or one of a stack to `stack`, in 0.1 °C. -/
def Reaches (x : Temps) (die stack : Int) : Prop :=
  die ≤ x.compute ∨ die ≤ x.base ∨ ∃ v ∈ [x.hbm0, x.hbm1, x.hbm2, x.hbm3], stack ≤ v

theorem any_sensors_iff (x : Temps) (at_ : Bool → Int) :
    (∃ e ∈ sensors x, at_ e.2 ≤ e.1) ↔ Reaches x (at_ false) (at_ true) := by
  simp [sensors, Reaches]

theorem reachedBy_isSome_iff (level : Nat) (x : Temps) :
    (reachedBy level x).isSome = true ↔ Reaches x (threshold level false) (threshold level true) := by
  rw [reachedBy, List.findIdx?_isSome, List.any_eq_true, ← any_sensors_iff x (threshold level)]
  simp only [decide_eq_true_eq]

theorem notLeft_iff (level : Nat) (x : Temps) :
    notLeft level x = true ↔ Reaches x (threshold level false - 49) (threshold level true - 49) := by
  rw [notLeft, List.any_eq_true, ← any_sensors_iff x fun stack => threshold level stack - 49]
  simp only [decide_eq_true_eq]
  exact exists_congr fun e => and_congr_right fun _ => by omega

theorem Reaches.weaken {x : Temps} {die stack die' stack' : Int} (h : Reaches x die stack) (hd : die' ≤ die)
    (hs : stack' ≤ stack) : Reaches x die' stack' := by
  rcases h with h | h | ⟨v, hv, h⟩
  · exact .inl (hd.trans h)
  · exact .inr (.inl (hd.trans h))
  · exact .inr (.inr ⟨v, hv, hs.trans h⟩)

theorem levelAfter_emergency {x : Temps} {before : Nat}
    (h : Reaches x 1000 950 ∨ (2 ≤ before ∧ Reaches x 951 901)) : levelAfter x before = 2 := by
  refine if_pos ?_
  simp only [Bool.or_eq_true, Bool.and_eq_true, decide_eq_true_eq, reachedBy_isSome_iff, notLeft_iff]
  exact h

theorem levelAfter_below {x : Temps} {before : Nat} (h : ¬(Reaches x 1000 950 ∨ (2 ≤ before ∧ Reaches x 951 901))) :
    levelAfter x before < 2 := by
  have hne : ¬((reachedBy 2 x).isSome || (decide (2 ≤ before) && notLeft 2 x)) = true := by
    simp only [Bool.or_eq_true, Bool.and_eq_true, decide_eq_true_eq, reachedBy_isSome_iff, notLeft_iff]
    exact h
  rw [levelAfter, if_neg hne]
  split
  · exact Nat.one_lt_two
  · exact Nat.two_pos

theorem levelAfter_warning {x : Temps} {before : Nat} (h2 : ¬ Reaches x 1000 950) (hb : before < 2)
    (h1 : Reaches x 950 900) : levelAfter x before = 1 := by
  refine (if_neg ?_).trans (if_pos ?_)
  all_goals simp only [Bool.or_eq_true, Bool.and_eq_true, decide_eq_true_eq, reachedBy_isSome_iff]
  · rintro (h | ⟨h, -⟩)
    · exact h2 h
    · omega
  · exact .inl h1

theorem levelAfter_normal {x : Temps} (h : ¬ Reaches x 950 900) : levelAfter x 0 = 0 := by
  have h2 : ¬ Reaches x 1000 950 := fun h2 => h (h2.weaken (by decide) (by decide))
  refine (if_neg ?_).trans (if_neg ?_)
  all_goals simp only [Bool.or_eq_true, Bool.and_eq_true, decide_eq_true_eq, reachedBy_isSome_iff]
  · rintro (h' | ⟨h', -⟩)
    · exact h2 h'
    · omega
  · rintro (h' | ⟨h', -⟩)
    · exact h h'
    · omega

section Sample
variable {s : State} {x : Temps}

/-- LEVEL and the event bits after a sample, with SOURCE and the time of the last shed. -/
def sampled (x : Temps) (s : State) : State :=
  let before := s.tel.level.toNat
  let level := levelAfter x before
  let warned := decide (before < 1) && decide (1 ≤ level)
  let entered := decide (before < 2) && decide (2 ≤ level)
  { s with tel := { s.tel with
    temps := x
    level := BitVec.ofNat 2 level
    warnEvent := s.tel.warnEvent || warned
    emergEvent := s.tel.emergEvent || entered
    source := match reachedBy level x with
      | some i => if warned || entered then BitVec.ofNat 4 i else s.tel.source
      | none => s.tel.source
    shedAt := if level < 2 then none else s.tel.shedAt } }

/-- The warning level is entered with this sample. -/
def warns (x : Temps) (s : State) : Bool :=
  decide (s.tel.level.toNat < 1) && decide (1 ≤ levelAfter x s.tel.level.toNat)
/-- The emergency level is entered with this sample. -/
def enters (x : Temps) (s : State) : Bool :=
  decide (s.tel.level.toNat < 2) && decide (2 ≤ levelAfter x s.tel.level.toNat)

/-- The events of a sample, and the record of the entry to the emergency level. -/
def sampleNoted (x : Temps) (s : State) : State :=
  let u := if warns x s then hwSet 0x280010 2 (sampled x s) else sampled x s
  if enters x s then faultSimple 0x501 5 (hwSet 0x280010 3 u) else u

theorem exec_thermalSample (hr : inReset s = false) : exec (.thermalSample x) s =
    .next (if levelAfter x s.tel.level.toNat < 2 then sampleNoted x s else emergency (enters x s) (sampleNoted x s)) :=
  congrArg Host.Outcome.next (if_neg (ne_true_of_eq_false hr))

theorem sameButReports_sampleNoted (x : Temps) (s : State) : SameButReports (sampled x s) (sampleNoted x s) := by
  have hwarn : SameButReports (sampled x s) (if warns x s then hwSet 0x280010 2 (sampled x s) else sampled x s) := by
    split
    · rfl
    · rfl
  rw [sampleNoted]
  split
  · exact (hwarn.hwSet _ _).trans (sameButReports_recordFault _ _)
  · exact hwarn

/-- The entry to the emergency level is recorded (R397). -/
theorem sampleNoted_entry (h : enters x s = true) :
    ∃ r ∈ (sampleNoted x s).flt.staging, r.code = 0x501 ∧ r.scope = 5 := by
  rw [sampleNoted, if_pos h]
  obtain ⟨r, hcode, hscope, hstaging⟩ := faultSimple_platform 0x501
    (hwSet 0x280010 3 (if warns x s then hwSet 0x280010 2 (sampled x s) else sampled x s))
  rw [hstaging]
  exact ⟨r, List.mem_append_right _ (List.mem_singleton.2 rfl), hcode, hscope⟩

end Sample

theorem enterOos_spec (code : Nat) (s : State) : (enterOos code s).flt.oos = true ∧ (enterOos code s).tel = s.tel ∧
    (enterOos code s).flt.staging = s.flt.staging := by
  unfold enterOos
  split
  · next h => exact ⟨h, rfl, rfl⟩
  · exact ⟨rfl, rfl, rfl⟩

theorem thermalShed_spec (s : State) : (thermalShed s).flt = s.flt ∧ (thermalShed s).tel.temps = s.tel.temps ∧
    (thermalShed s).tel.level = s.tel.level ∧ (thermalShed s).tel.emergEvent = s.tel.emergEvent := by
  unfold thermalShed
  split
  · exact ⟨rfl, rfl, rfl, rfl⟩
  · exact ⟨rfl, rfl, rfl, rfl⟩

/-- Shedding has come to its end: the record of the emergency level is written where this sample has not written it. -/
def shedEnded (entered : Bool) (s : State) : State :=
  let u := { s with tel := { s.tel with shedAt := none } }
  if entered then u else faultSimple 0x501 5 u

theorem shedEnded_spec (entered : Bool) (s : State) : (shedEnded entered s).tel = { s.tel with shedAt := none } ∧
    ∀ r ∈ s.flt.staging, r ∈ (shedEnded entered s).flt.staging := by
  rw [shedEnded]
  split
  · exact ⟨rfl, fun _ h => h⟩
  · have hrep : SameButReports { s with tel := { s.tel with shedAt := none } }
      (faultSimple 0x501 5 { s with tel := { s.tel with shedAt := none } }) := sameButReports_recordFault _ _
    obtain ⟨r, -, -, happend⟩ := faultSimple_platform 0x501 { s with tel := { s.tel with shedAt := none } }
    rw [happend]
    exact ⟨hrep.tel, fun _ h => List.mem_append_left _ h⟩

theorem emergency_shedding {s : State} (entered : Bool) (h : anyHolds s = true) :
    emergency entered s = if s.flt.reset.isSome || s.tel.shedAt.isSome then s else thermalShed s := if_pos h

theorem emergency_alone {s : State} (entered : Bool) (h : anyHolds s = false) : emergency entered s =
    if s.flt.oos then { s with tel := { s.tel with shedAt := none } } else enterOos 0x501 (shedEnded entered s) :=
  if_neg (ne_true_of_eq_false h)

/-- At the emergency level the readings and the records stay, and with no stream left to shed the device is out of
service. -/
theorem emergency_spec (entered : Bool) (s : State) : (emergency entered s).tel.temps = s.tel.temps ∧
    (emergency entered s).tel.level = s.tel.level ∧ (emergency entered s).tel.emergEvent = s.tel.emergEvent ∧
    (∀ r ∈ s.flt.staging, r ∈ (emergency entered s).flt.staging) ∧
    (anyHolds s = false → (emergency entered s).flt.oos = true) := by
  cases hh : anyHolds s
  · rw [emergency_alone entered hh]
    split
    · next hoos => exact ⟨rfl, rfl, rfl, fun _ h => h, fun _ => hoos⟩
    · obtain ⟨hoos, htel, hstaging⟩ := enterOos_spec 0x501 (shedEnded entered s)
      obtain ⟨htel', hkept⟩ := shedEnded_spec entered s
      rw [htel, hstaging, htel']
      exact ⟨rfl, rfl, rfl, hkept, fun _ => hoos⟩
  · rw [emergency_shedding entered hh]
    split
    · exact ⟨rfl, rfl, rfl, fun _ h => h, nofun⟩
    · obtain ⟨hflt, htemps, hlevel, hevent⟩ := thermalShed_spec s
      exact ⟨htemps, hlevel, hevent, fun _ h => hflt ▸ h, nofun⟩

/-- LEVEL 2, its event and its record, and OUT_OF_SERVICE with no stream left (R82, R397). -/
theorem thermalSample_emergency {s : State} {x : Temps} (hr : inReset s = false)
    (h : levelAfter x s.tel.level.toNat = 2) : ∃ t, exec (.thermalSample x) s = .next t ∧ t.tel.temps = x ∧
      t.tel.level = 2 ∧ (s.tel.level.toNat < 2 → t.tel.emergEvent = true ∧
        ∃ r ∈ t.flt.staging, r.code = 0x501 ∧ r.scope = 5) ∧ (anyHolds s = false → t.flt.oos = true) := by
  have hrep := sameButReports_sampleNoted x s
  have hholds : anyHolds (sampleNoted x s) = anyHolds s := by unfold SameButReports at hrep; rw [hrep]; rfl
  obtain ⟨htemps, hlevel, hevent, hkept, hoos⟩ := emergency_spec (enters x s) (sampleNoted x s)
  rw [hrep.tel] at htemps hlevel hevent
  refine ⟨_, (exec_thermalSample hr).trans (congrArg _ (if_neg (by omega))), htemps, hlevel.trans ?_, fun hlt => ?_,
    fun hnone => hoos (hholds.trans hnone)⟩
  · exact congrArg (BitVec.ofNat 2) h
  · have hent : enters x s = true := by simp [enters, h, hlt]
    obtain ⟨r, hmem, hcode, hscope⟩ := sampleNoted_entry hent
    refine ⟨hevent.trans ?_, r, hkept r hmem, hcode, hscope⟩
    exact (congrArg (s.tel.emergEvent || ·) hent).trans (Bool.or_true _)

theorem thermalSample_calm {s : State} {x : Temps} (hr : inReset s = false)
    (h : levelAfter x s.tel.level.toNat < 2) : exec (.thermalSample x) s =
      .next (if warns x s then hwSet 0x280010 2 (sampled x s) else sampled x s) := by
  have hent : enters x s = false := by simp [enters]; omega
  refine (exec_thermalSample hr).trans (congrArg _ ((if_pos h).trans ?_))
  exact if_neg (ne_true_of_eq_false hent)

/-- LEVEL 1 and its event; no record and no change in the rounds. -/
theorem thermalSample_warning {s : State} {x : Temps} (hr : inReset s = false)
    (h : levelAfter x s.tel.level.toNat = 1) : ∃ t, exec (.thermalSample x) s = .next t ∧ t.tel.temps = x ∧
      t.tel.level = 1 ∧ (s.tel.level = 0 → t.tel.warnEvent = true) ∧ t.flt = s.flt ∧ t.bell = s.bell := by
  have hlevel : (sampled x s).tel.level = 1 := congrArg (BitVec.ofNat 2) h
  have hevent (h0 : s.tel.level = 0) : (sampled x s).tel.warnEvent = true := by
    have h' : levelAfter x 0 = 1 := by simpa [h0] using h
    simp [sampled, h0, h']
  refine ⟨_, thermalSample_calm hr (by omega), ?_⟩
  split
  · exact ⟨rfl, hlevel, hevent, rfl, rfl⟩
  · exact ⟨rfl, hlevel, hevent, rfl, rfl⟩

/-- LEVEL stays 0, and nothing else happens. -/
theorem thermalSample_normal {s : State} {x : Temps} (hr : inReset s = false)
    (h : levelAfter x s.tel.level.toNat = 0) : ∃ t, exec (.thermalSample x) s = .next t ∧ t.tel.temps = x ∧
      t.tel.level = 0 ∧ t = { s with tel := t.tel } ∧ t.tel.warnEvent = s.tel.warnEvent := by
  have hwarns : warns x s = false := by simp [warns, h]
  have hevent : (sampled x s).tel.warnEvent = s.tel.warnEvent :=
    (congrArg (s.tel.warnEvent || ·) hwarns).trans (Bool.or_false _)
  refine ⟨sampled x s, (thermalSample_calm hr (by omega)).trans (congrArg _ (if_neg (ne_true_of_eq_false hwarns))), rfl,
    congrArg (BitVec.ofNat 2) h, rfl, hevent⟩

/-- A sample at a level kept between its two thresholds. -/
theorem thermalSample_temps {s : State} {x : Temps} (hr : inReset s = false)
    (h : levelAfter x s.tel.level.toNat < 2) : ∃ t, exec (.thermalSample x) s = .next t ∧ t.tel.temps = x := by
  refine ⟨_, thermalSample_calm hr h, ?_⟩
  split
  · rfl
  · rfl

/-- What R82, R397 and R398 say of a sample, by the level it comes to. -/
theorem thermalSample_spec {s : State} (hr : inReset s = false) (x : Temps) :
    ∃ t, exec (.thermalSample x) s = .next t ∧ t.tel.temps = x ∧
      (Reaches x 1000 950 → t.tel.level = 2) ∧
      (Reaches x 1000 950 → s.tel.level.toNat < 2 → t.tel.emergEvent = true ∧
        ∃ r ∈ t.flt.staging, r.code = 0x501 ∧ r.scope = 5) ∧
      (Reaches x 1000 950 → anyHolds s = false → t.flt.oos = true) ∧
      (¬ Reaches x 1000 950 → Reaches x 950 900 → s.tel.level.toNat < 2 → t.tel.level = 1 ∧
        (s.tel.level = 0 → t.tel.warnEvent = true) ∧ t.flt = s.flt ∧ t.bell = s.bell) ∧
      (s.tel.level = 2 → Reaches x 951 901 → t.tel.level = 2) ∧
      (¬ Reaches x 950 900 → s.tel.level = 0 → t.tel.level = 0 ∧ t = { s with tel := t.tel } ∧
        t.tel.warnEvent = s.tel.warnEvent) := by
  have hlow : s.tel.level = 0 → s.tel.level.toNat < 2 := fun h => by rw [h]; decide
  by_cases h2 : Reaches x 1000 950 ∨ (2 ≤ s.tel.level.toNat ∧ Reaches x 951 901)
  · obtain ⟨t, hrun, htemps, hlevel, hentry, hoos⟩ := thermalSample_emergency hr (levelAfter_emergency h2)
    refine ⟨t, hrun, htemps, fun _ => hlevel, fun _ => hentry, fun _ => hoos, fun hn _ hlt => ?_, fun _ _ => hlevel,
      fun hn h0 => ?_⟩
    · rcases h2 with h2 | ⟨hge, -⟩
      · exact absurd h2 hn
      · omega
    · rcases h2 with h2 | ⟨hge, -⟩
      · exact absurd (h2.weaken (by decide) (by decide)) hn
      · exact absurd (hlow h0) (by omega)
  · have hn2 : ¬ Reaches x 1000 950 := fun h => h2 (.inl h)
    have hnot : s.tel.level = 2 → Reaches x 951 901 → False := fun hl h => h2 (.inr ⟨by rw [hl]; decide, h⟩)
    by_cases h1 : Reaches x 950 900
    · by_cases hlt : s.tel.level.toNat < 2
      · obtain ⟨t, hrun, htemps, hspec⟩ := thermalSample_warning hr (levelAfter_warning hn2 hlt h1)
        exact ⟨t, hrun, htemps, fun h => absurd h hn2, fun h => absurd h hn2, fun h => absurd h hn2, fun _ _ _ => hspec,
          fun hl h => (hnot hl h).elim, fun h => absurd h1 h⟩
      · obtain ⟨t, hrun, htemps⟩ := thermalSample_temps hr (levelAfter_below h2)
        exact ⟨t, hrun, htemps, fun h => absurd h hn2, fun h => absurd h hn2, fun h => absurd h hn2,
          fun _ _ h => absurd h hlt, fun hl h => (hnot hl h).elim, fun h => absurd h1 h⟩
    · by_cases h0 : s.tel.level = 0
      · obtain ⟨t, hrun, htemps, hspec⟩ := thermalSample_normal hr (by rw [h0]; exact levelAfter_normal h1)
        exact ⟨t, hrun, htemps, fun h => absurd h hn2, fun h => absurd h hn2, fun h => absurd h hn2, fun _ h => absurd h h1,
          fun hl h => (hnot hl h).elim, fun _ _ => hspec⟩
      · obtain ⟨t, hrun, htemps⟩ := thermalSample_temps hr (levelAfter_below h2)
        exact ⟨t, hrun, htemps, fun h => absurd h hn2, fun h => absurd h hn2, fun h => absurd h hn2, fun _ h => absurd h h1,
          fun hl h => (hnot hl h).elim, fun _ h => absurd h h0⟩

/-! ### Shedding goes on (R82) -/

section Shed
variable {s : State}

theorem exec_thermalShedTimer_idle (h : s.tel.shedAt = none) : exec .thermalShedTimer s = .next s := by
  change Host.Outcome.next _ = _
  rw [h]

/-- One stream more is due at the next boundary; its state stays until then. -/
theorem thermalShedTimer_due {last : Nat} {e : Nat × Stream} (hat : s.tel.shedAt = some last) (hlevel : s.tel.level = 2)
    (hreset : s.flt.reset = none) (hdue : last + 125000000 ≤ s.now) (hholds : anyHolds s = true)
    (hfirst : firstToShed ((holders s).filter fun e => !s.bell.shedDue.any fun d => d.1.toNat == e.1) = some e) :
    ∃ t, exec .thermalShedTimer s = .next t ∧ t.bell.shedDue = s.bell.shedDue ++ [(BitVec.ofNat 12 e.1, 2)] ∧
      t.tel.shed = satAddW s.tel.shed 1 ∧ t.tel.shedAt = some s.now ∧ t.streams = s.streams := by
  have hrun : exec .thermalShedTimer s = .next (thermalShed s) := by
    change Host.Outcome.next _ = _
    rw [hat]
    exact congrArg _ (if_pos ⟨hlevel, hreset, hholds, hdue⟩)
  refine ⟨_, hrun, ?_⟩
  rw [thermalShed, hfirst]
  exact ⟨rfl, rfl, rfl, rfl⟩

end Shed

/-- At the trip the board's pin is told and every domain but the always-on domain is as after power-on (R398). -/
theorem exec_thermalTrip {s : State} (ht : s.board.thermTrip = false) (hp : s.board.pwrgd = true)
    (h : Reaches s.tel.temps 1150 1050) : exec .thermalTrip s =
      .next (powerOnReset (send (.thermTripN true) { s with board := { s.board with thermTrip := true } })) := by
  have hsome : (reachedBy 3 s.tel.temps).isSome = true := (reachedBy_isSome_iff 3 _).2 h
  refine congrArg Host.Outcome.next (if_neg ?_)
  rw [ht, hp, ← Option.not_isSome, hsome]
  decide

/-- Settles O50. Presence and the button: the wake event leaves the pins alone, so the reset test is that of the state
before. The thermal levels: a sample comes to the emergency level, the warning level or neither, and each clause of the
statement speaks of one of the three. -/
theorem slotAssistAndThermalLevels : Obligations.SlotAssistAndThermalLevels := by
  unfold Obligations.SlotAssistAndThermalLevels
  intro s
  refine ⟨fun hp => ?_, presenceLost_spec, fun hp => ?_, presenceRestored_spec, attnBtnPress_spec s,
    fun x => ⟨fun hr => congrArg Host.Outcome.next (if_pos hr), fun hr => ?_⟩, exec_thermalShedTimer_idle,
    fun last e hat hlevel hreset hdue hholds hfirst => thermalShedTimer_due hat hlevel hreset hdue hholds hfirst,
    fun ht hp hx => ⟨_, exec_thermalTrip ht hp ?_, rfl, List.mem_cons_self, rfl, rfl, rfl⟩⟩
  · exact congrArg Host.Outcome.next (if_pos (by simp [hp]))
  · exact congrArg Host.Outcome.next (if_pos (by simp [hp]))
  · exact thermalSample_spec hr x
  · simpa [Reaches] using hx

end Sys2Proof.Machine

namespace Sys2Proof.Machine

/-! ## What the device does beside the rounds

Replies, records, memory accesses and the pools change neither the clock, nor Bell's state, nor the jobs, nor what waits
for the fallow slot. -/

structure Steady (s t : State) : Prop where
  now : t.now = s.now
  bell : t.bell = s.bell
  jobs : t.jobs = s.jobs
  inject : t.mem.inject = s.mem.inject
  owed : t.mem.owed = s.mem.owed

/-- What `Steady` keeps, side by side: a change of other fields leaves it as it is by computation. -/
def roundView (s : State) : Nat × Bell × List Job × List (BitVec 448 × BitVec 6 × BitVec 16) × SMap Nat :=
  (s.now, s.bell, s.jobs, s.mem.inject, s.mem.owed)

theorem SameButReports.steady {s t : State} (h : SameButReports s t) : Steady s t := by
  unfold SameButReports at h
  rw [h]
  exact ⟨rfl, rfl, rfl, rfl, rfl⟩

theorem SameButReplies.steady {s t : State} (h : SameButReplies s t) : Steady s t := h.reports.steady

namespace Steady
variable {s t u : State}

/-- A change of other fields. -/
theorem quiet (h : roundView t = roundView s) : Steady s t := by
  simp only [roundView, Prod.mk.injEq] at h
  obtain ⟨now, bell, jobs, inject, owed⟩ := h
  exact ⟨now, bell, jobs, inject, owed⟩

theorem refl (s : State) : Steady s s := quiet (by rfl)

theorem trans (h : Steady s t) (k : Steady t u) : Steady s u :=
  ⟨k.now.trans h.now, k.bell.trans h.bell, k.jobs.trans h.jobs, k.inject.trans h.inject, k.owed.trans h.owed⟩

theorem foldl {α : Type} {f : State → α → State} (hf : ∀ s a, Steady s (f s a)) (l : List α) (s : State) :
    Steady s (l.foldl f s) := by
  induction l generalizing s with
  | nil => exact refl s
  | cons a r ih => exact (hf s a).trans (ih _)

/-- A step taken only where a test holds. -/
theorem ite (p : Prop) [Decidable p] (h : Steady s t) : Steady s (if p then t else s) := by
  split
  · exact h
  · exact refl s

theorem iteNot (p : Prop) [Decidable p] (h : Steady s t) : Steady s (if p then s else t) := by
  split
  · exact refl s
  · exact h

/-! ### Records and replies -/

theorem updateWire (s : State) : Steady s (updateWire s) := (sameButReplies_updateWire s).steady
theorem recordFault (r : FaultRec) (s : State) : Steady s (recordFault r s) := (sameButReports_recordFault r s).steady
theorem finish (c : BitVec 6 × BitVec 16) (r : Reply) (s : State) : Steady s (finish c r s) :=
  (sameButReplies_finish c r s).steady
theorem finishCause (w : WaitCause) (r : Reply) (s : State) : Steady s (finishCause w r s) :=
  foldl (fun _ _ => finish ..) _ _

/-! ### Memory (R281, R283) -/

theorem reportEcc (memory scope : Nat) (s : State) (e : EccEvent) : Steady s (reportEcc memory scope s e) := by
  have first (p : Prop) [Decidable p] (r : FaultRec) {t : State} (h : Steady s t) :
      Steady s (if p then Machine.recordFault r t else t) := h.trans (ite p (recordFault r t))
  unfold Machine.reportEcc
  dsimp only
  split
  · exact refl s
  · exact quiet (by rfl)
  · exact first _ _ (first _ _ (quiet (by rfl)))
  · split
    · exact quiet (by rfl)
    · exact trans (quiet (by rfl)) (recordFault _ _)

theorem losePc (p : Nat) (s : State) : Steady s (losePc p s) := by
  unfold Machine.losePc
  split
  · split
    · exact refl s
    · dsimp only
      split
      · exact recordFault _ s
      · exact (recordFault _ s).trans (quiet (by rfl))
  · exact (trans (quiet (by rfl)) (recordFault _ _)).trans (updateWire _)

theorem notePcUe (a : Nat) (s : State) : Steady s (notePcUe a s) := by
  unfold Machine.notePcUe
  split
  · exact quiet (by rfl)
  · exact refl s

theorem reportDpa (scope : Nat) (es : List EccEvent) (s : State) : Steady s (reportDpa scope es s) := by
  refine foldl (fun s e => ?_) es s
  have hecc := reportEcc (dpaMemory e.addr) scope s e
  dsimp only
  split
  · exact (hecc.trans (notePcUe _ _)).trans (ite _ (losePc _ _))
  · exact hecc

theorem faultDpa (s : State) : Steady s (faultDpa s) := recordFault _ s

theorem dpaReads (scope a n : Nat) (s : State) : Steady s (dpaReads scope a n s).2 := by
  induction n generalizing a s with
  | zero => exact refl s
  | succ n ih =>
    unfold Machine.dpaReads
    refine trans ?_ (ih _ _)
    split
    · exact faultDpa s
    · split
      · exact refl s
      · exact trans (quiet (by rfl)) (reportDpa _ _ _)

theorem dpaWrites (a : Nat) (l : List (Word × Bool)) (s : State) : Steady s (dpaWrites a l s) := by
  induction l generalizing a s with
  | nil => exact refl s
  | cons e r ih =>
    unfold Machine.dpaWrites
    refine trans ?_ (ih _ _)
    split
    · exact faultDpa s
    · exact quiet (by rfl)

theorem dpaStore (a : Nat) (l : List Byte) (s : State) : Steady s (dpaStore a l s) := dpaWrites ..

theorem dpaBytes (scope a n : Nat) (s : State) : Steady s (dpaBytes scope a n s).2.2 := dpaReads ..

theorem setCore (h : Steady s t) (n : Nat) (c : Core) : Steady s (setCore n c t) :=
  ⟨h.now, h.bell, h.jobs, h.inject, h.owed⟩

/-! ### Pools (R116 to R119) -/

theorem setPoolUsed (n : Nat) (used : List (Nat × Nat)) (s : State) : Steady s (setPoolUsed n used s) := by
  unfold Machine.setPoolUsed
  dsimp only
  split
  · exact trans (quiet (by rfl)) (updateWire _)
  · exact quiet (by rfl)

theorem poolAlloc (n owner count : Nat) (s : State) : Steady s (poolAlloc n owner count s).2 := by
  unfold Machine.poolAlloc
  dsimp only
  split
  · exact setPoolUsed ..
  · exact quiet (by rfl)

theorem poolFree (n : Nat) (blocks : List Nat) (s : State) : Steady s (poolFree n blocks s) := by
  unfold Machine.poolFree
  refine trans ?_ (foldl (fun s _ => recordFault _ s) _ _)
  split
  · exact refl s
  · exact setPoolUsed ..

theorem killTransfers (p : Transfer → Bool) (pr : ParkRecord → Bool) (s : State) : Steady s (killTransfers p pr s) :=
  trans (quiet (by rfl)) (poolFree ..)

/-! ### Records on their way (R247, R248) -/

theorem storeRecord (bytes : List Byte) (ext : Option (List Byte)) (bs : List Nat) (s : State) :
    Steady s (storeRecord bytes ext bs s) := by
  unfold Machine.storeRecord
  dsimp only
  split
  · exact (dpaStore ..).trans (dpaStore ..)
  · exact dpaStore ..

theorem enqueueRing (c : Nat) (bytes : List Byte) (born : Option Nat) (ext : Option (List Byte)) (s : State) :
    Steady s (enqueueRing c bytes born ext s) := by
  have halloc := poolAlloc 1 c (if ext.isSome then 2 else 1) s
  unfold Machine.enqueueRing
  dsimp only
  split
  · next heq => rw [heq] at halloc; exact halloc.trans (quiet (by rfl))
  · next heq => rw [heq] at halloc; exact (halloc.trans (storeRecord ..)).trans (quiet (by rfl))

theorem enqueueDatagram (c : Nat) (bytes : List Byte) (born : Option Nat) (ext : Option (List Byte)) (s : State) :
    Steady s (enqueueDatagram c bytes born ext s) := by
  have halloc := poolAlloc 1 c (if ext.isSome then 2 else 1) s
  unfold Machine.enqueueDatagram
  dsimp only
  split
  · next heq => rw [heq] at halloc; exact halloc.trans (quiet (by rfl))
  · next heq => rw [heq] at halloc; exact (halloc.trans (storeRecord ..)).trans (quiet (by rfl))

theorem enqueueRecord (c : Nat) (bytes : List Byte) (born : Option Nat) (ext : Option (List Byte)) (s : State) :
    Steady s (enqueueRecord c bytes born ext s) :=
  trans (trans (ite _ (quiet (by rfl))) (ite _ (enqueueRing ..))) (ite _ (enqueueDatagram ..))

theorem streamEvent (c event detail data : Nat) (s : State) : Steady s (streamEvent c event detail data s) :=
  enqueueRecord ..

theorem supersede (c : Nat) (s : State) : Steady s (supersede c s) := by
  unfold Machine.supersede
  dsimp only
  split
  · exact refl s
  · exact trans (quiet (by rfl)) (poolFree ..)

theorem reportLtr (before : Bool) (s : State) : Steady s (reportLtr before s) := by
  unfold Machine.reportLtr
  split
  · exact refl s
  · exact quiet (by rfl)

/-- SHED and FAULTED raise the cause of streams in GLB. -/
theorem streamCause (s : State) :
    Steady s (Machine.updateWire (hwSet 0x10 3 { s with glb := { s.glb with streamCause := true } })) :=
  trans (quiet (by rfl)) (updateWire _)

theorem transition (c : Nat) (dest : StreamState) (event detail faultSeq : Nat) (s : State) :
    Steady s (transition c dest event detail faultSeq s) := by
  have hrec (bytes : List Byte) (t : State) (ht : Steady s t) :
      Steady s (Machine.enqueueRecord c bytes none none (Machine.supersede c (Machine.reportLtr (anyHolds s) t))) :=
    ((ht.trans (reportLtr _ _)).trans (supersede ..)).trans (enqueueRecord ..)
  unfold Machine.transition
  dsimp only
  split
  · exact (hrec _ _ (quiet (by rfl))).trans (streamCause _)
  · exact hrec _ _ (quiet (by rfl))

theorem transitionByReply (c : Nat) (dest : StreamState) (s : State) : Steady s (transitionByReply c dest s) :=
  trans (quiet (by rfl)) (reportLtr ..)

theorem lastRecordCheck (c : Nat) (s : State) : Steady s (lastRecordCheck c s) := by
  refine foldl (fun s o => ?_) _ s
  cases o.cause with
  | lastRecord r => exact iteNot _ (finish ..)
  | _ => exact refl s

theorem lastRecordSweep (s : State) : Steady s (lastRecordSweep s) := foldl (fun _ _ => lastRecordCheck ..) _ _

/-! ### Clips (R266, R267) -/

theorem clipSweep (num : Nat) (s : State) : Steady s (clipSweep num s) := by
  unfold Machine.clipSweep
  split
  · exact refl s
  · split
    · exact refl s
    · exact trans (quiet (by rfl)) (poolFree ..)

theorem endClip (num : BitVec 16) (outcome detail : Nat) (s : State) : Steady s (endClip num outcome detail s) := by
  have ended (n : Nat) (w : WaitCause) (k : Clip) (a : Nat) (f : Flt) {t : State} (h : Steady s t) :
      Steady s (Machine.finishCause w {} (Machine.clipSweep n (setClip k { t with clipAreaUsed := a, flt := f }))) :=
    ((h.trans (quiet (by rfl))).trans (clipSweep ..)).trans (finishCause ..)
  unfold Machine.endClip
  split
  · exact refl s
  · refine ended _ _ _ _ _ (trans ?_ (killTransfers ..))
    split
    · exact (enqueueRecord ..).trans (quiet (by rfl))
    · exact enqueueRecord ..

theorem endClipsOf (c outcome : Nat) (s : State) : Steady s (endClipsOf c outcome s) := foldl (fun _ _ => endClip ..) _ _

/-! ### Giving up a reservation -/

theorem removeFlow (c : Nat) (s : State) : Steady s (removeFlow c s) := quiet (by rfl)

theorem sendControl (n : Nat) (k : ControlOut) (s : State) : Steady s (sendControl n k s) := by
  have h := (Transmitted.sendControl n k s).rest
  rw [h]
  exact quiet (by rfl)

theorem leaveGroup (c : Nat) (s : State) : Steady s (leaveGroup c s) := by
  unfold Machine.leaveGroup
  dsimp only
  split
  · split
    · exact refl s
    · exact trans (quiet (by rfl)) (sendControl ..)
  · exact refl s

theorem dropWindow (c : Nat) (s : State) : Steady s (dropWindow c s) := trans (quiet (by rfl)) (poolFree ..)

theorem dropPushes (c : Nat) (s : State) : Steady s (dropPushes c s) :=
  foldl (fun _ _ => (killTransfers ..).trans (finish ..)) _ _

theorem giveBack (h : HeldPages) (s : State) : Steady s (giveBack h s) := by
  unfold Machine.giveBack
  split
  · exact quiet (by rfl)
  · exact quiet (by rfl)

theorem freePinned (c : Nat) (s : State) : Steady s (freePinned c s) := (giveBack ..).trans (quiet (by rfl))

theorem releaseHeld (s : State) : Steady s (releaseHeld s) :=
  trans (quiet (by rfl)) (foldl (fun _ _ => quiet (by rfl)) _ _)

theorem wakeDomain (d : Nat) (s : State) : Steady s (wakeDomain d s) := by
  unfold Machine.wakeDomain
  split
  · split
    · exact quiet (by rfl)
    · exact refl s
  · exact quiet (by rfl)

theorem wakeEngines (c : Nat) (s : State) : Steady s (wakeEngines c s) := (wakeDomain ..).trans (wakeDomain ..)

/-! ### Changes and areas (R40, R91, R200) -/

theorem joinGroup (c : Nat) (s : State) : Steady s (joinGroup c s) := by
  unfold Machine.joinGroup
  dsimp only
  split
  · split
    · exact refl s
    · exact trans (quiet (by rfl)) (sendControl ..)
  · exact refl s

theorem markOld (c : Nat) (s : State) : Steady s (markOld c s) :=
  trans (iteNot _ (quiet (by rfl))) (iteNot _ (quiet (by rfl)))

theorem waitLast (k : BitVec 6 × BitVec 16) (s : State) : Steady s (waitLast k s) := quiet (by rfl)

theorem coreLoad (n : Nat) (s : State) : Steady s (coreLoad n s).2 := by
  unfold Machine.coreLoad
  extract_lets c keep e r
  have hread : Steady s r.2.2 := dpaBytes ..
  clear_value r
  obtain ⟨bytes, bad, t⟩ := r
  split
  · exact quiet (by rfl)
  · split
    · exact hread
    · exact hread.setCore ..

theorem reloadCores (s : State) : Steady s (reloadCores s) := by
  refine foldl (fun s n => ?_) _ s
  dsimp only
  split
  · exact coreLoad n s
  · exact (coreLoad n s).setCore ..

end Steady

end Sys2Proof.Machine

namespace Sys2Proof.Machine

/-! ## What keeps the place in the round

The work of a boundary and of the fallow slot moves streams, jobs, areas and cores; the round that runs, the position in
it, and the area it runs from stay, and so does what waits for the fallow slot. -/

/-- The round, the position in it, and the area it runs from. -/
def Bell.place (b : Bell) : Word × Bool × Nat × Nat × Nat × List Action × Bool × BitVec 2 × Byte :=
  (b.roundSeq, b.running, b.roundStart, b.shift, b.slot, b.actions, b.fallowDone, b.active, b.repeats)

structure KeepsRound (s t : State) : Prop where
  now : t.now = s.now
  place : t.bell.place = s.bell.place
  inject : t.mem.inject = s.mem.inject
  owed : t.mem.owed = s.mem.owed

/-- What `KeepsRound` keeps, side by side. -/
def placeView (s : State) : Nat × (Word × Bool × Nat × Nat × Nat × List Action × Bool × BitVec 2 × Byte) ×
    List (BitVec 448 × BitVec 6 × BitVec 16) × SMap Nat := (s.now, s.bell.place, s.mem.inject, s.mem.owed)

theorem Steady.round {s t : State} (h : Steady s t) : KeepsRound s t := ⟨h.now, by rw [h.bell], h.inject, h.owed⟩

namespace KeepsRound
variable {s t u : State}

/-- A change of other fields. -/
theorem quiet (h : placeView t = placeView s) : KeepsRound s t := by
  simp only [placeView, Prod.mk.injEq] at h
  obtain ⟨now, place, inject, owed⟩ := h
  exact ⟨now, place, inject, owed⟩

theorem refl (s : State) : KeepsRound s s := quiet (by rfl)

theorem trans (h : KeepsRound s t) (k : KeepsRound t u) : KeepsRound s u :=
  ⟨k.now.trans h.now, k.place.trans h.place, k.inject.trans h.inject, k.owed.trans h.owed⟩

theorem steady (h : KeepsRound s t) (k : Steady t u) : KeepsRound s u := h.trans k.round

theorem foldl {α : Type} {f : State → α → State} (hf : ∀ s a, KeepsRound s (f s a)) (l : List α) (s : State) :
    KeepsRound s (l.foldl f s) := by
  induction l generalizing s with
  | nil => exact refl s
  | cons a r ih => exact (hf s a).trans (ih _)

theorem ite (p : Prop) [Decidable p] (h : KeepsRound s t) : KeepsRound s (if p then t else s) := by
  split
  · exact h
  · exact refl s

theorem iteNot (p : Prop) [Decidable p] (h : KeepsRound s t) : KeepsRound s (if p then s else t) := by
  split
  · exact refl s
  · exact h

theorem bell (h : KeepsRound s t) {b : Bell} (hb : b.place = s.bell.place) : KeepsRound s { t with bell := b } :=
  ⟨h.now, hb, h.inject, h.owed⟩

theorem setStream (h : KeepsRound s t) (c : Nat) (v : Stream) : KeepsRound s (setStream c v t) :=
  ⟨h.now, h.place, h.inject, h.owed⟩

theorem sheaves (h : KeepsRound s t) (l : SMap Sheaf) : KeepsRound s { t with sheaves := l } :=
  ⟨h.now, h.place, h.inject, h.owed⟩

/-- Outside a retirement, Bell may run rounds of FALLOW and END only. -/
theorem fallowOnly (h : KeepsRound s t) (b : Bool) : KeepsRound s { t with bell := { t.bell with fallowOnly := b } } :=
  ⟨h.now, h.place, h.inject, h.owed⟩

theorem dropChanges (h : KeepsRound s t) (p : Change → Bool) : KeepsRound s (Machine.dropChanges p t) :=
  ⟨h.now, h.place, h.inject, h.owed⟩

/-- The answer of a command that waits, where there is one. -/
theorem answered (h : KeepsRound s t) (cmd : Option (BitVec 6 × BitVec 16)) (r : Reply) :
    KeepsRound s (match cmd with | some k => finish k r t | none => t) := by
  cases cmd with
  | some k => exact h.steady (.finish ..)
  | none => exact h

/-! ### Streams and jobs -/

theorem leaveSheaf (c : Nat) (s : State) : KeepsRound s (leaveSheaf c s) := by
  unfold Machine.leaveSheaf
  split
  · exact refl s
  · exact quiet (by rfl)

theorem giveUp (held : Bool) (c : Nat) (s : State) : KeepsRound s (giveUp held c s) := by
  have h := ((Steady.ite (held = true) (.leaveGroup c s)).trans (.dropPushes c _)).trans (.dropWindow c _)
  exact (h.round.trans (leaveSheaf ..)).setStream ..

theorem shedStream (c detail : Nat) (s : State) : KeepsRound s (shedStream c detail s) :=
  ite _ ((((Steady.endClipsOf ..).trans (.removeFlow ..)).trans (.transition ..)).round.trans (giveUp ..))

theorem shedAll (l : List Nat) (detail : Nat) (s : State) : KeepsRound s (shedAll l detail s) :=
  foldl (fun _ _ => shedStream ..) _ _

theorem endJob (ring : BitVec 6) (tag : BitVec 16) (r : Reply) (s : State) : KeepsRound s (endJob ring tag r s) := by
  unfold Machine.endJob
  split
  · exact refl s
  · have h (p : Transfer → Bool) (q : ParkRecord → Bool) (l : List Nat) :
        KeepsRound s (poolFree 3 l (killTransfers p q s)) := ((Steady.killTransfers ..).trans (.poolFree ..)).round
    exact (((h _ _ _).trans (quiet (by rfl))).steady (.finish ..)).steady (.finishCause ..)

theorem endJobs (r : Reply) (s : State) : KeepsRound s (endJobs r s) := foldl (fun _ _ => endJob ..) _ _

/-! ### Capacity (R80, R314, R318) -/

theorem enterOos (code : Nat) (s : State) : KeepsRound s (enterOos code s) := iteNot _ (quiet (by rfl))

theorem classCheck (s : State) : KeepsRound s (classCheck s) :=
  ite _ ((Steady.recordFault _ s).round.trans (enterOos _ _))

theorem applyCoreRetire (s : State) : KeepsRound s (applyCoreRetire s) :=
  iteNot _ ((trans (quiet (by rfl)) (foldl (fun _ _ => quiet (by rfl)) _ _)).trans (classCheck _))

theorem failArea (area : BitVec 2) (rule slot : Nat) (s : State) : KeepsRound s (failArea area rule slot s) :=
  ((Steady.recordFault _ s).round.trans (quiet (by rfl))).steady (.updateWire _)

theorem dropNext (s : State) : KeepsRound s (dropNext s) := quiet (by rfl)

theorem dropStandby (s : State) : KeepsRound s (dropStandby s) := quiet (by rfl)

theorem recheckReady (s : State) : KeepsRound s (recheckReady s) := by
  have next (o : Option Nat) : KeepsRound s (match o with
      | some i => Machine.dropNext (Machine.failArea s.bell.next.area 6 i s)
      | none => s) := by
    cases o with
    | some i => exact (failArea ..).trans (dropNext _)
    | none => exact refl s
  unfold Machine.recheckReady
  dsimp only
  split
  · exact (next _).trans ((failArea ..).trans (dropStandby _))
  · exact next _

theorem refuseAdmission (c : Nat) (cmd : Option (BitVec 6 × BitVec 16)) (r : Reply) (s : State) :
    KeepsRound s (refuseAdmission c cmd r s) := by
  have h (p : Change → Bool) : KeepsRound s (undoAdmit c (Machine.dropChanges p s)) :=
    trans (quiet (by rfl)) ((Steady.removeFlow ..).trans (.freePinned ..)).round
  exact answered (h _) cmd r

theorem recheckAdmissions (s : State) : KeepsRound s (recheckAdmissions s) :=
  foldl (fun _ _ => iteNot _ (refuseAdmission ..)) _ _

/-! ### Changes (R21, R40, R49) -/

theorem admitNow (c : Nat) (cmd : Option (BitVec 6 × BitVec 16)) (s : State) : KeepsRound s (admitNow c cmd s) := by
  have begun (v : Stream) (n : Nat) : KeepsRound s (Machine.joinGroup c (transitionByReply c .admitted
      { wakeEngines c (Machine.setStream c v s) with bell := { s.bell with admitCount := n } })) :=
    ((((refl s).setStream c v).steady (.wakeEngines c _)).bell (b := { s.bell with admitCount := n }) rfl).steady
      ((Steady.transitionByReply ..).trans (.joinGroup ..))
  unfold Machine.admitNow
  dsimp only
  split
  · exact (begun _ _).steady (((Steady.markOld ..).trans (.waitLast ..)).trans (.lastRecordCheck ..))
  · exact begun _ _

theorem closeNow (c : Nat) (cmd : Option (BitVec 6 × BitVec 16)) (s : State) : KeepsRound s (closeNow c cmd s) := by
  have left : KeepsRound s (Machine.giveUp (holds (streamAt s c).state) c
      (transitionByReply c .closed (removeFlow c (endClipsOf c 3 s)))) :=
    (((Steady.endClipsOf ..).trans (.removeFlow ..)).trans (.transitionByReply ..)).round.trans (giveUp ..)
  unfold Machine.closeNow
  dsimp only
  split
  · exact (left.setStream ..).steady ((Steady.waitLast ..).trans (.lastRecordCheck ..))
  · exact left.setStream ..

theorem applyChange (c : Change) (s : State) : KeepsRound s (applyChange c s) := by
  obtain ⟨kind, cmd, included⟩ := c
  cases kind with
  | admission x => exact admitNow ..
  | close x => exact closeNow ..
  | shed x => exact shedStream ..
  | sheafDefine n =>
    unfold Machine.applyChange
    dsimp only
    split
    · exact answered (quiet (by rfl)) _ _
    · exact answered (trans (quiet (by rfl)) (foldl (fun _ _ => quiet (by rfl)) _ _)) _ _
  | sheafDissolve n =>
    exact answered (sheaves (foldl (fun _ _ => ite _ ((refl _).setStream ..)) _ s) _) _ _
  | round len res lock jit => exact answered (quiet (by rfl)) _ _
  | windows x w => exact ite _ (quiet (by rfl))
  | unlocked x => exact quiet (by rfl)
  | rebind x e => exact trans (quiet (by rfl)) (Steady.wakeEngines ..).round
  | retire kind i =>
    cases kind with
    | decode => exact quiet (by rfl)
    | prep => exact quiet (by rfl)
    | encode => exact quiet (by rfl)

theorem applyChanges (s : State) : KeepsRound s (applyChanges s) :=
  trans (quiet (by rfl)) (foldl (fun _ _ => applyChange ..) _ _)

end KeepsRound
end Sys2Proof.Machine

namespace Sys2Proof.Machine
namespace KeepsRound
variable {s t u : State}

/-! ### The boundary (R203) -/

theorem softSheds (s : State) : KeepsRound s (softSheds s) :=
  trans (quiet (by rfl)) (foldl (fun _ _ => shedStream ..) _ _)

/-- What a waiting change had placed is given up where the change is refused. -/
theorem oosRefuse (c : Change) (s : State) : KeepsRound s (match c.kind with
    | .admission x => undoAdmit x.toNat s
    | .sheafDefine n => { s with sheaves := dropAt n s.sheaves }
    | _ => s) := by
  cases c.kind with
  | admission x => exact ((Steady.removeFlow ..).trans (.freePinned ..)).round
  | sheafDefine n => exact quiet (by rfl)
  | _ => exact refl s

theorem oosBoundary (s : State) : KeepsRound s (oosBoundary s).1 := by
  have ended (l : List Nat) (f : Flt) :
      KeepsRound s (Machine.endJobs (failWith 0x202 0) (Machine.shedAll l 4 { s with flt := f })) :=
    trans (quiet (by rfl)) ((shedAll ..).trans (endJobs ..))
  unfold Machine.oosBoundary
  split
  · exact refl s
  · refine fallowOnly ?_ _
    refine trans ?_ (foldl (fun t c => answered (oosRefuse c t) _ _) _ _)
    exact ((ended _ _).trans (foldl (fun _ _ => (Steady.endClip ..).round) _ _)).dropChanges _

theorem sheafBoundary (s : State) : KeepsRound s (sheafBoundary s) := by
  refine trans (quiet (by rfl)) (foldl (fun s e => ?_) _ _)
  extract_lets st t
  have ht : KeepsRound s t := ite _ ((refl s).setStream ..)
  clear_value t
  split
  · exact ht
  · dsimp only
    split
    · refine trans (ht.sheaves _) (foldl (fun _ _ => ?_) _ _)
      exact ((refl _).setStream ..).steady (.streamEvent ..)
    · exact ht.sheaves _

theorem fuseSheaves (l : List FrameRec) (s : State) : KeepsRound s (fuseSheaves l s) :=
  foldl (fun _ _ => iteNot _ (quiet (by rfl))) _ _

theorem makeFrameList (held : List FrameRec) (left : List Nat) (s : State) : KeepsRound s (makeFrameList held left s) := by
  have freed (a b : List Nat) : KeepsRound s (poolFree 3 a (poolFree 0 b s)) :=
    ((Steady.poolFree ..).trans (.poolFree ..)).round
  have counted (f : State → FrameRec → State) (hf : ∀ s a, KeepsRound s (f s a)) (l : List FrameRec)
      (a b : List Nat) : KeepsRound s (l.foldl f (poolFree 3 a (poolFree 0 b s))) := (freed a b).trans (foldl hf l _)
  exact (counted _ (fun _ _ => (refl _).setStream ..) _ _ _).trans (trans (quiet (by rfl)) (fuseSheaves ..))

theorem releaseLeft (s : State) : KeepsRound s (releaseLeft s) := foldl (fun _ _ => (Steady.freePinned ..).round) _ _

theorem leaveTrack (id : Nat) (s : State) : KeepsRound s (leaveTrack id s) := by
  unfold Machine.leaveTrack
  split
  · exact refl s
  · have freed (c : Nat) (k : Int) (p : Prop) [Decidable p] : KeepsRound s (if p then addFree c k s else s) :=
      ite p ((refl s).setStream ..)
    exact (freed ..).trans (quiet (by rfl))

theorem dropTracks (c : Nat) (s : State) : KeepsRound s (dropTracks c s) := foldl (fun _ _ => leaveTrack ..) _ _

theorem leaveTracks (s : State) : KeepsRound s (leaveTracks s) :=
  (foldl (fun _ _ => dropTracks ..) _ _).trans (quiet (by rfl))

end KeepsRound
end Sys2Proof.Machine

namespace Sys2Proof.Machine

/-! ## The swap of areas (R202, R203) -/

section Areas
variable {s : State}

/-- The state as it runs from area `a`, with `n` repeats counted. -/
def fromArea (a : BitVec 2) (n : Byte) (s : State) : State :=
  { s with bell := { s.bell with active := a, repeats := n } }

/-- No retirement waits: a ready NEXT becomes ACTIVE, and one still in work counts a repeat (R202, R203). -/
theorem swapAreas_kept (h : s.bell.retireDecided = false) : swapAreas s =
    if s.bell.next.state = 3 then
      (reloadCores (applyChanges { s with bell := { s.bell with
        areas := dropAt s.bell.active.toNat s.bell.areas
        active := s.bell.next.area, next := { s.bell.next with state := 0 }, fallowOnly := false } }),
        (s.bell.changes.filter (·.included)).flatMap changeLeaves)
    else if s.bell.next.state = 1 ∨ s.bell.next.state = 2 then (fromArea s.bell.active (satAddW s.bell.repeats 1) s, [])
    else (s, []) := if_neg (ne_true_of_eq_false h)

theorem swapAreas_ready (h : s.bell.retireDecided = false) (hn : s.bell.next.state = 3) :
    KeepsRound (fromArea s.bell.next.area s.bell.repeats s) (swapAreas s).1 := by
  rw [swapAreas_kept h, if_pos hn]
  exact .steady (.trans (.quiet (by rfl)) (.applyChanges _)) (.reloadCores _)

theorem swapAreas_writing (h : s.bell.retireDecided = false) (hn : s.bell.next.state = 1 ∨ s.bell.next.state = 2) :
    (swapAreas s).1 = fromArea s.bell.active (satAddW s.bell.repeats 1) s := by
  have h3 : s.bell.next.state ≠ 3 := by rcases hn with hn | hn <;> rw [hn] <;> decide
  rw [swapAreas_kept h, if_neg h3, if_pos hn]

theorem swapAreas_none (h : s.bell.retireDecided = false) (hn : s.bell.next.state = 0) : (swapAreas s).1 = s := by
  have h3 : s.bell.next.state ≠ 3 := by rw [hn]; decide
  have h12 : ¬(s.bell.next.state = 1 ∨ s.bell.next.state = 2) := by rw [hn]; decide
  rw [swapAreas_kept h, if_neg h3, if_neg h12]

theorem KeepsRound.fromArea {t : State} (h : KeepsRound s t) (a : BitVec 2) (n : Byte) :
    KeepsRound (fromArea a n s) (fromArea a n t) := by
  obtain ⟨hnow, hplace, hinject, howed⟩ := h
  simp only [Bell.place, Prod.mk.injEq] at hplace
  obtain ⟨hseq, hrun, hstart, hshift, hslot, hactions, hfallow, -, -⟩ := hplace
  exact ⟨hnow, by simp only [Bell.place, Machine.fromArea, hseq, hrun, hstart, hshift, hslot, hactions, hfallow],
    hinject, howed⟩

/-- Whatever retires, the round and the position stay. -/
theorem swapAreas_round (s : State) : ∃ a n, KeepsRound (fromArea a n s) (swapAreas s).1 := by
  cases h : s.bell.retireDecided
  · by_cases h3 : s.bell.next.state = 3
    · exact ⟨_, _, swapAreas_ready h h3⟩
    · by_cases h12 : s.bell.next.state = 1 ∨ s.bell.next.state = 2
      · exact ⟨_, _, by rw [swapAreas_writing h h12]; exact .refl _⟩
      · refine ⟨s.bell.active, s.bell.repeats, ?_⟩
        rw [swapAreas_kept h, if_neg h3, if_neg h12]
        exact .quiet (by rfl)
  · unfold swapAreas
    rw [if_pos h]
    extract_lets +onlyGivenNames v
    have hv : KeepsRound s v := (KeepsRound.applyCoreRetire s).trans (.recheckReady _)
    clear_value v
    split
    · refine ⟨v.bell.standby.area, v.bell.repeats, .steady (.trans (.trans ?_ (.shedAll ..)) (.recheckAdmissions _))
        (.reloadCores _)⟩
      exact (hv.fromArea _ _).trans (.quiet (by rfl))
    · extract_lets +onlyGivenNames shed w
      have hw : KeepsRound s w := (hv.trans (.shedAll ..)).trans (.recheckAdmissions _)
      clear_value w
      split
      · refine ⟨w.bell.next.area, w.bell.repeats, .steady (.trans ?_ (.applyChanges _)) (.reloadCores _)⟩
        exact (hw.fromArea _ _).trans (.quiet (by rfl))
      · exact ⟨w.bell.active, _, (hw.fromArea _ _).trans (.quiet (by rfl))⟩

end Areas

end Sys2Proof.Machine

namespace Sys2Proof.Machine

theorem place_eq_iff (b d : Bell) : b.place = d.place ↔ b.roundSeq = d.roundSeq ∧ b.running = d.running ∧
    b.roundStart = d.roundStart ∧ b.shift = d.shift ∧ b.slot = d.slot ∧ b.actions = d.actions ∧
    b.fallowDone = d.fallowDone ∧ b.active = d.active ∧ b.repeats = d.repeats := by
  simp only [Bell.place, Prod.mk.injEq]

/-! ### The end of the round that ran -/

/-- What the swap of areas goes by. -/
def Bell.plan (b : Bell) : Word × AreaRole × Bool × List (BitVec 12 × Nat) × BitVec 2 × Byte :=
  (b.roundSeq, b.next, b.retireDecided, b.shedDue, b.active, b.repeats)

/-- The clock, the plan and the way to OUT_OF_SERVICE stay. -/
structure KeepsPlan (s t : State) : Prop where
  now : t.now = s.now
  plan : t.bell.plan = s.bell.plan
  oosPending : t.flt.oosPending = s.flt.oosPending

namespace KeepsPlan
variable {s t u : State}

theorem quiet (h : (t.now, t.bell.plan, t.flt.oosPending) = (s.now, s.bell.plan, s.flt.oosPending)) :
    KeepsPlan s t := by
  simp only [Prod.mk.injEq] at h
  obtain ⟨now, plan, oosPending⟩ := h
  exact ⟨now, plan, oosPending⟩

theorem refl (s : State) : KeepsPlan s s := quiet (by rfl)

theorem trans (h : KeepsPlan s t) (k : KeepsPlan t u) : KeepsPlan s u :=
  ⟨k.now.trans h.now, k.plan.trans h.plan, k.oosPending.trans h.oosPending⟩

theorem foldl {α : Type} {f : State → α → State} (hf : ∀ s a, KeepsPlan s (f s a)) (l : List α) (s : State) :
    KeepsPlan s (l.foldl f s) := by
  induction l generalizing s with
  | nil => exact refl s
  | cons a r ih => exact (hf s a).trans (ih _)

theorem finish (c : BitVec 6 × BitVec 16) (r : Reply) (s : State) : KeepsPlan s (finish c r s) := by
  have h := sameButReplies_finish c r s
  exact ⟨h.reports.now, by rw [h.bell], by rw [h.flt]⟩

theorem recordFault (r : FaultRec) (s : State) : KeepsPlan s (recordFault r s) := by
  have h := Steady.recordFault r s
  refine ⟨h.now, by rw [h.bell], ?_⟩
  unfold Machine.recordFault
  split
  · rfl
  · dsimp only
    split
    · rw [updateWire_flt, pmeD3hot_flt, hwSet_flt, leaveLow_flt]
    · rw [leaveLow_flt]

theorem dpaWrites (a : Nat) (l : List (Word × Bool)) (s : State) : KeepsPlan s (dpaWrites a l s) := by
  induction l generalizing a s with
  | nil => exact refl s
  | cons e r ih =>
    unfold Machine.dpaWrites
    refine trans ?_ (ih _ _)
    split
    · exact recordFault _ s
    · exact quiet (by rfl)

theorem lateIssue (n : Nat) (s : State) : KeepsPlan s { s with bell := { s.bell with lateIssue := n } } :=
  quiet (by rfl)

theorem wholeTests (s : State) : KeepsPlan s (wholeTests s) :=
  trans (quiet (by rfl)) (foldl (fun _ _ => finish ..) _ _)

theorem storeRowMap (b : Nat) (rows : List Row) (s : State) : KeepsPlan s (storeRowMap b rows s) :=
  trans (quiet (by rfl)) (dpaWrites ..)

theorem closeLayer (s : State) : KeepsPlan s (closeLayer s) := by
  unfold Machine.closeLayer
  extract_lets t hit u v w
  have ht : KeepsPlan s t := foldl (fun _ _ => quiet (by rfl)) _ s
  have hv : KeepsPlan s v := (ht.trans (quiet (by rfl))).trans (foldl (fun _ _ => storeRowMap ..) _ _)
  have hw : KeepsPlan v w := by
    dsimp only [w]
    split
    · exact quiet (by rfl)
    · exact refl v
  clear_value w
  exact (hv.trans hw).trans (quiet (by rfl))

theorem switchBoundary (s : State) : KeepsPlan s (switchBoundary s) := by
  unfold Machine.switchBoundary
  dsimp only
  split
  · exact quiet (by rfl)
  · exact refl s

end KeepsPlan

/-! ### The boundary -/

/-- The round that ran is over: its layer is closed and its tests are answered. -/
def roundClosed (s : State) : State :=
  switchBoundary (closeLayer (wholeTests
    { s with bell := { s.bell with lateIssue := satAdd s.bell.lateIssue (b2n (endLate s)) } }))

/-- The number of the next round stands. -/
def numbered (s : State) : State := { s with bell := { s.bell with roundSeq := nextRound s.bell.roundSeq } }

/-- Streams leave hard, or without waiting for a timetable, ahead of the swap of areas. -/
def ahead (s : State) : State × List Nat := oosBoundary (softSheds (numbered s))

/-- The area of the next round is chosen, and its changes take effect. -/
def swapped (s : State) : State := (swapAreas (ahead s).1).1

/-- The next round stands at fc 0. -/
def begun (s : State) : State := newRound (substBoundary (sheafBoundary (swapped s)))

/-- END has been issued. -/
def endIssued (s : State) : State :=
  { s with bell := { s.bell with lastIssue := s.now, fallowOnly := s.bell.fallowOnly || s.flt.oos } }

section Boundary
variable {s : State}

theorem boundary_eq (s : State) : boundary s =
    leaveTracks (endIssued (releaseHeld (releaseLeft (makeFrameList ((List.range 32).filterMap (decHead (roundClosed s)))
      ((ahead (roundClosed s)).2 ++ (swapAreas (ahead (roundClosed s)).1).2) (begun (roundClosed s)))))) := by
  simp only [boundary, roundClosed, numbered, ahead, swapped, begun, endIssued]

theorem KeepsRound.endIssued (s : State) : KeepsRound s (endIssued s) := .quiet (by rfl)

theorem boundary_round (s : State) : KeepsRound (begun (roundClosed s)) (boundary s) := by
  rw [boundary_eq]
  exact (((KeepsRound.makeFrameList ..).trans (.releaseLeft _)).steady (.releaseHeld _)).trans
    ((KeepsRound.endIssued _).trans (.leaveTracks _))

theorem roundClosed_plan (s : State) : KeepsPlan s (roundClosed s) :=
  ((KeepsPlan.lateIssue _ s).trans (.wholeTests _)).trans ((KeepsPlan.closeLayer _).trans (.switchBoundary _))

theorem swapped_round (s : State) : (swapped s).now = s.now ∧ (swapped s).bell.roundSeq = nextRound s.bell.roundSeq := by
  have hahead : KeepsRound (numbered s) (ahead s).1 := (KeepsRound.softSheds _).trans (.oosBoundary _)
  obtain ⟨a, n, hswap⟩ := swapAreas_round (ahead s).1
  have hround := (hahead.fromArea a n).trans hswap
  exact ⟨hround.now, congrArg Prod.fst hround.place⟩

theorem newRound_place (s : State) : (newRound s).bell.place =
    (s.bell.roundSeq, true, s.now, 0, 0, [], false, s.bell.active, s.bell.repeats) := rfl

/-- The next round begins at the present fc, under the next number. -/
theorem begun_place (s : State) : (begun s).bell.place =
    (nextRound s.bell.roundSeq, true, s.now, 0, 0, [], false, (swapped s).bell.active, (swapped s).bell.repeats) := by
  obtain ⟨hnow, hseq⟩ := swapped_round s
  have hleft : KeepsRound (swapped s) (substBoundary (sheafBoundary (swapped s))) :=
    (KeepsRound.sheafBoundary _).trans (.quiet (by rfl))
  obtain ⟨hseq', -, -, -, -, -, -, hactive, hrepeats⟩ := (place_eq_iff _ _).1 hleft.place
  rw [begun, newRound_place, hleft.now, hseq', hactive, hrepeats, hnow, hseq]

/-- Where nothing leaves hard and no core retires, the areas swap as NEXT stands. -/
theorem swapped_areas (hoos : s.flt.oosPending = false) (hshed : s.bell.shedDue = [])
    (hretire : s.bell.retireDecided = false) :
    (s.bell.next.state = 3 → (swapped s).bell.active = s.bell.next.area) ∧
    (s.bell.next.state = 0 → (swapped s).bell.active = s.bell.active ∧ (swapped s).bell.repeats = s.bell.repeats) ∧
    (s.bell.next.state = 1 ∨ s.bell.next.state = 2 →
      (swapped s).bell.active = s.bell.active ∧ (swapped s).bell.repeats = satAddW s.bell.repeats 1) := by
  have hsoft : softSheds (numbered s) = numbered s := by
    rw [softSheds, show (numbered s).bell.shedDue = [] from hshed, List.foldl_nil, ← hshed]
    rfl
  have hahead : (ahead s).1 = numbered s := by
    rw [ahead, hsoft]
    exact congrArg Prod.fst (if_pos (by rw [show (numbered s).flt.oosPending = false from hoos]; rfl))
  rw [swapped, hahead]
  refine ⟨fun h => ?_, fun h => ?_, fun h => ?_⟩
  · obtain ⟨-, -, -, -, -, -, -, harea, -⟩ := (place_eq_iff _ _).1 (swapAreas_ready (s := numbered s) hretire h).place
    exact harea
  · rw [swapAreas_none (s := numbered s) hretire h]
    exact ⟨rfl, rfl⟩
  · rw [swapAreas_writing (s := numbered s) hretire h]
    exact ⟨rfl, rfl⟩

theorem exec_roundBoundary_idle (h : boundaryDue s = false) : exec .roundBoundary s = .next s :=
  congrArg Host.Outcome.next (if_pos (by rw [h]; rfl))

/-- No word of END holds an error, so that it is read as it stands (R305). -/
theorem exec_roundBoundary_due (h : boundaryDue s = true) (hf : failedCounter s = none)
    (hc : ∀ i w, nextSlot s = some (i, w) → slotClean s i w = true) :
    exec .roundBoundary s = .next (lastRecordSweep (boundary s)) := by
  refine congrArg Host.Outcome.next ((if_neg (by rw [h]; decide)).trans ?_)
  rw [hf]
  cases hn : nextSlot s with
  | none => rfl
  | some e =>
    obtain ⟨i, w⟩ := e
    exact if_pos (hc i w hn)

end Boundary
end Sys2Proof.Machine

namespace Sys2Proof.Machine

/-! ### ROUND_BOUNDARY -/

section Boundary
variable {s : State}

/-- The place in the round after a boundary, with the area that runs and the repeats counted (R61, R203). -/
theorem roundBoundary_spec (h : boundaryDue s = true) (hf : failedCounter s = none)
    (hc : ∀ i w, nextSlot s = some (i, w) → slotClean s i w = true) : ∃ t, exec .roundBoundary s = .next t ∧
      t.bell.place = (nextRound s.bell.roundSeq, true, s.now, 0, 0, [], false,
        (swapped (roundClosed s)).bell.active, (swapped (roundClosed s)).bell.repeats) := by
  have hplan := roundClosed_plan s
  have hseq : (roundClosed s).bell.roundSeq = s.bell.roundSeq := congrArg Prod.fst hplan.plan
  refine ⟨_, exec_roundBoundary_due h hf hc, ?_⟩
  rw [(Steady.lastRecordSweep (boundary s)).bell, (boundary_round s).place, begun_place, hplan.now, hseq]

/-- The same, of the state before the boundary. -/
theorem roundClosed_areas (hoos : s.flt.oosPending = false) (hshed : s.bell.shedDue = [])
    (hretire : s.bell.retireDecided = false) :
    (s.bell.next.state = 3 → (swapped (roundClosed s)).bell.active = s.bell.next.area) ∧
    (s.bell.next.state = 0 → (swapped (roundClosed s)).bell.active = s.bell.active ∧
      (swapped (roundClosed s)).bell.repeats = s.bell.repeats) ∧
    (s.bell.next.state = 1 ∨ s.bell.next.state = 2 → (swapped (roundClosed s)).bell.active = s.bell.active ∧
      (swapped (roundClosed s)).bell.repeats = satAddW s.bell.repeats 1) := by
  obtain ⟨-, hplan, hpending⟩ := roundClosed_plan s
  simp only [Bell.plan, Prod.mk.injEq] at hplan
  obtain ⟨-, hnext, hdecided, hdue, hactive, hrepeats⟩ := hplan
  rw [← hnext, ← hactive, ← hrepeats]
  exact swapped_areas (hpending.trans hoos) (hdue.trans hshed) (hdecided.trans hretire)

end Boundary

/-! ## The fallow slot (R317) -/

namespace Steady
variable {s t : State}

theorem reportEccs (m scope : Nat) (l : List EccEvent) (s : State) : Steady s (reportEccs m scope l s) :=
  foldl (fun _ _ => reportEcc ..) _ _

theorem coreReads (n : Nat) (wgt : Bool) (a k : Nat) (s : State) : Steady s (coreReads n wgt a k s).2 :=
  ((refl s).setCore ..).trans (reportEccs ..)

theorem coreWord (n memory off : Nat) (raw : Word) (put : Word → Core → Core) (scope : Nat) (s : State) :
    Steady s (coreWord n memory off raw put scope s).2.2 := by
  unfold Machine.coreWord
  dsimp only
  split
  · exact refl s
  · exact reportEcc ..
  · exact ((refl s).setCore ..).trans (reportEcc ..)
  · exact ((refl s).setCore ..).trans (reportEcc ..)

theorem accFix (n i : Nat) (l : List Nat) (s : State) : Steady s (accFix n i l s) := by
  induction l generalizing s with
  | nil => exact refl s
  | cons k ks ih =>
    unfold Machine.accFix
    dsimp only
    refine trans ?_ (ih _)
    exact (coreWord ..).trans (ite _ ((refl _).setCore ..))

theorem accRead (n i : Nat) (s : State) : Steady s (accRead n i s).2 := accFix ..

theorem scaleRead (n b : Nat) (s : State) : Steady s (scaleRead n b s).2.2 := coreWord ..

/-- A loop that carries the state in an accumulator. -/
theorem readLoop {α β : Type} {f : β → α → β} {st : β → State} (hf : ∀ b a, Steady (st b) (st (f b a)))
    (l : List α) (b : β) : Steady (st b) (st (l.foldl f b)) := by
  induction l generalizing b with
  | nil => exact refl _
  | cons a r ih => exact (hf b a).trans (ih _)

theorem progWord (scope n a : Nat) (s : State) : Steady s (progWord scope n a s).2.2 :=
  readLoop (st := fun r : Nat × Bool × State => r.2.2) (fun _ _ => coreWord ..) _ (0, true, s)

theorem scrub (s : State) : Steady s (scrub s) := by
  refine trans (foldl (fun _ _ => dpaReads ..) _ s) (foldl (fun s n => ?_) _ _)
  exact ((((foldl (fun _ _ => coreReads ..) _ s).trans (foldl (fun _ _ => coreReads ..) _ _)).trans
    (foldl (fun _ _ => accRead ..) _ _)).trans (foldl (fun _ _ => scaleRead ..) _ _)).trans
    (foldl (fun _ _ => progWord ..) _ _)

theorem injectWords (p : Packet) (s : State) : Steady s (Machine.inject p s) := by
  unfold Machine.inject
  dsimp only
  split
  · exact quiet (by rfl)
  · unfold Machine.injectCore
    split
    · exact (refl s).setCore ..
    · exact (refl s).setCore ..
    · exact (refl s).setCore ..

/-- Every injection is done and answered; none waits any more. -/
theorem injections (s : State) : Steady { s with mem := { s.mem with inject := [] } } (Machine.injections s) := by
  refine foldl (fun s e => ?_) _ _
  dsimp only
  split
  · exact finish ..
  · exact (injectWords ..).trans (finish ..)

theorem setDec (h : Steady s t) (n : Nat) (v : VidEngine) : Steady s (setDec n v t) :=
  ⟨h.now, h.bell, h.jobs, h.inject, h.owed⟩
theorem setPrep (h : Steady s t) (n : Nat) (v : VidEngine) : Steady s (setPrep n v t) :=
  ⟨h.now, h.bell, h.jobs, h.inject, h.owed⟩
theorem setEnc (h : Steady s t) (n : Nat) (v : EncEngine) : Steady s (setEnc n v t) :=
  ⟨h.now, h.bell, h.jobs, h.inject, h.owed⟩
theorem flt (h : Steady s t) (f : Flt) : Steady s { t with flt := f } := ⟨h.now, h.bell, h.jobs, h.inject, h.owed⟩
theorem pwr (h : Steady s t) (p : Pwr) : Steady s { t with pwr := p } := ⟨h.now, h.bell, h.jobs, h.inject, h.owed⟩

/-! ### Tests (R317, R318) -/

theorem corePowerOff (n : Nat) (s : State) : Steady s (corePowerOff n s) := (refl s).setCore ..

theorem switchOff (d : Nat) (mode : BitVec 2) (s : State) : Steady s (switchOff d mode s) := by
  unfold Machine.switchOff
  split
  · exact corePowerOff ..
  · exact iteNot _ (trans (quiet (by rfl)) (ite _ (quiet (by rfl))))

theorem testHangs (r : FallowResult) (l : List Nat) (s : State) : Steady s (testHangs r l s) :=
  foldl (fun _ _ => corePowerOff ..) _ _

theorem testHang (r : FallowResult) (k : VideoKind) (i : Nat) (s : State) : Steady s (testHang r k i s) :=
  ite _ (switchOff ..)

theorem testedCore (n : Nat) (s : State) : Steady s (testedCore n s) :=
  iteNot _ (by
    split
    · exact (refl s).pwr _
    · exact quiet (by rfl))

theorem setFailed (b : Bool) (k : VideoKind) (i : Nat) (s : State) : Steady s (setFailed b k i s) := by
  cases k with
  | decode => exact (refl s).setDec ..
  | prep => exact (refl s).setPrep ..
  | encode => exact (refl s).setEnc ..

theorem decideEngine (k : VideoKind) (i : Nat) (s : State) : Steady s (decideEngine k i s) := by
  cases k with
  | decode => exact iteNot _ (((refl s).setDec ..).trans (recordFault ..))
  | prep => exact iteNot _ (((refl s).setPrep ..).trans (recordFault ..))
  | encode => exact iteNot _ (((refl s).setEnc ..).trans (recordFault ..))

theorem noteTrained (g : Nat) (fail : Bool) (s : State) : Steady s (noteTrained g fail s) := quiet (by rfl)

theorem trainGroup (g : Nat) (fail : Bool) (s : State) : Steady s (trainGroup g fail s) := by
  refine (noteTrained g fail s).trans ?_
  unfold Machine.trainGroup
  dsimp only
  split
  · exact quiet (by rfl)
  · split
    · exact trans (quiet (by rfl)) (losePc ..)
    · exact quiet (by rfl)

theorem testVideo (r : FallowResult) (s : State) : Steady s (testVideo r s) := by
  unfold Machine.testVideo
  extract_lets i e f t again
  have ht : Steady s t := (refl s).flt _
  have hagain (u : State) : Steady u (again u) := (refl u).flt _
  clear_value t again
  split
  · exact ht
  · split
    · exact ht.trans (hagain _)
    · split
      · exact ht.trans (setFailed ..)
      · split
        · exact (ht.trans (testHang ..)).trans ((setFailed ..).trans (decideEngine ..))
        · exact (ht.trans (testHang ..)).trans (((setFailed ..).trans (recordFault ..)).trans (hagain _))

end Steady

namespace KeepsRound

theorem decideCore (n : Nat) (s : State) : KeepsRound s (decideCore n s) :=
  iteNot _ (trans (quiet (by rfl)) (Steady.recordFault ..).round)

theorem coreResult (fail : Bool) (n : Nat) (s : State) : KeepsRound s (coreResult fail n s) := by
  have set (c : Core) : KeepsRound s (setCore n c s) := ((Steady.refl s).setCore ..).round
  unfold Machine.coreResult
  dsimp only
  split
  · exact set _
  · split
    · exact (set _).trans (decideCore ..)
    · exact (set _).steady (((Steady.refl _).flt _).trans (.recordFault ..))

theorem testGroup (g : Nat) (r : FallowResult) (s : State) : KeepsRound s (testGroup g r s) := by
  have tested (l : List Nat) (f : Flt) :
      KeepsRound s (l.foldl (fun s n => testedCore n s) { s with flt := f }) :=
    (((Steady.refl s).flt f).trans (.foldl (fun _ _ => .testedCore ..) _ _)).round
  exact ((tested _ _).trans (foldl (fun _ _ => coreResult ..) _ _)).steady (.testHangs ..)

theorem runSegment (r : FallowResult) (q : TestReq) (s : State) : KeepsRound s (runSegment r q s).2 := by
  unfold Machine.runSegment
  extract_lets +onlyGivenNames following
  split
  · exact refl s
  · extract_lets +onlyGivenNames cores bad fail t u
    have ht : Steady s t := (Steady.foldl (fun _ _ => .testedCore ..) _ s).trans (.testHangs ..)
    have hu : Steady t u := by
      dsimp only [u]
      split
      · exact .testHang ..
      · exact .testHang ..
      · exact .testHang ..
      · exact .refl t
    clear_value t u fail
    have trained (b : Bool) : KeepsRound s (if q.test = 6 then trainGroup q.target b u else u) :=
      ((ht.trans hu).trans (.ite _ (.trainGroup ..))).round
    split
    · exact trained false
    · extract_lets +onlyGivenNames failed
      clear_value failed
      split
      · exact trained true
      · refine (ht.trans hu).round.trans ?_
        dsimp only
        split
        · exact (Steady.decideEngine ..).round
        · exact (Steady.decideEngine ..).round
        · exact (Steady.decideEngine ..).round
        · exact foldl (fun _ _ => decideCore ..) _ _

theorem runSegments (r : FallowResult) (k : Nat) (q : TestReq) (s : State) : KeepsRound s (runSegments r k q s).2 := by
  induction k generalizing q s with
  | zero => exact refl s
  | succ k ih => exact (runSegment r q s).trans (ih _ _)

theorem requestedTest (r : FallowResult) (s : State) : KeepsRound s (requestedTest r s).2 := by
  unfold Machine.requestedTest
  split
  · exact refl s
  · next q rest _ =>
    split
    · exact refl s
    · split
      · exact steady (quiet (by rfl)) (.finish ..)
      · extract_lets total kind whole x
        have hx : KeepsRound s x.2 := by
          dsimp only [x]
          split
          · exact runSegments ..
          · exact runSegment ..
        clear_value x
        have queued (l : List TestReq) : KeepsRound s { x.2 with tests := l } := hx.trans (quiet (by rfl))
        split
        · exact queued _
        · split
          · exact queued _
          · exact (queued _).steady (.finish ..)

end KeepsRound

section Fallow
variable {s : State} {r : FallowResult}

theorem exec_fallowSlot_idle (h : fallowDue s = false) : exec (.fallowSlot r) s = .next s :=
  congrArg Host.Outcome.next (if_pos (by rw [h]; rfl))

theorem fallowDue_false_of_done (h : s.bell.fallowDone = true) : fallowDue s = false := by
  rw [fallowDue, h, Bool.not_true, Bool.and_false]
  rfl

theorem sameButReplies_lastRecordSweep (s : State) : SameButReplies s (lastRecordSweep s) := by
  have answered (p : Prop) [Decidable p] (k : BitVec 6 × BitVec 16) (q : Reply) (s : State) :
      SameButReplies s (if p then s else finish k q s) := by
    split
    · exact .refl s
    · exact sameButReplies_finish ..
  refine .foldl (fun s c => .foldl (fun s o => ?_) _ s) _ s
  cases o.cause with
  | lastRecord q => exact answered ..
  | _ => exact .refl s

/-- What R317 leaves behind. The refreshes and the injections are done ahead of the tests, and no test adds to them. -/
theorem fallowSlot_spec (h : fallowDue s = true) : ∃ t, exec (.fallowSlot r) s = .next t ∧ t.bell.fallowDone = true ∧
    t.mem.inject = [] ∧ t.mem.owed = [] ∧ t.pwr.onDie = r.onDie ∧ fallowDue t = false := by
  have hnot : ¬(!fallowDue s) = true := by rw [h]; decide
  change ∃ t, Host.Outcome.next _ = Host.Outcome.next t ∧ _
  rw [if_neg hnot]
  extract_lets u b m begun scrubbed tested settled grouped filmed trained
  have hdone : begun.bell.fallowDone = true := rfl
  have howed : begun.mem.owed = [] := rfl
  clear_value begun
  have hscrub : Steady { begun with mem := { begun.mem with inject := [] } } scrubbed :=
    (Steady.injections _).trans (.scrub _)
  clear_value scrubbed
  have htest : KeepsRound scrubbed settled := .requestedTest ..
  have hrotation : KeepsRound settled trained :=
    ((KeepsRound.iteNot _ (.testGroup ..)).steady (.iteNot _ (.testVideo ..))).steady (.iteNot _ (.trainGroup ..))
  have hround := (hscrub.round.trans htest).trans hrotation
  clear_value trained
  obtain ⟨-, -, -, -, -, -, hdone', -⟩ := (place_eq_iff _ _).1 hround.place
  have hsweep := sameButReplies_lastRecordSweep { trained with pwr := { trained.pwr with onDie := r.onDie } }
  have hlast := (congrArg Bell.fallowDone hsweep.bell).trans (hdone'.trans hdone)
  refine ⟨_, rfl, hlast, ?_, ?_, ?_, fallowDue_false_of_done hlast⟩
  · rw [hsweep.mem]
    exact hround.inject
  · rw [hsweep.mem]
    exact hround.owed.trans howed
  · rw [hsweep.pwr]

end Fallow

/-- Settles O17. The boundary: what runs ahead of the swap leaves the plan alone, the swap goes by the plan, and what follows
keeps the place of the new round. -/
theorem roundsAndTheFallowSlot : Obligations.RoundsAndTheFallowSlot := by
  unfold Obligations.RoundsAndTheFallowSlot
  refine ⟨fun s => ⟨exec_roundBoundary_idle, fun hdue hf hc => ?_⟩,
    fun s r => ⟨exec_fallowSlot_idle, fallowSlot_spec⟩⟩
  obtain ⟨t, hrun, hplace⟩ := roundBoundary_spec hdue hf hc
  simp only [Bell.place, Prod.mk.injEq] at hplace
  obtain ⟨hseq, hrunning, hstart, hshift, hslot, hactions, hfallow, hactive, hrepeats⟩ := hplace
  have hnext : nextRound s.bell.roundSeq = if s.bell.roundSeq = 0xFFFFFFFE then 0 else s.bell.roundSeq + 1 := by
    simp only [nextRound, beq_iff_eq]
  refine ⟨t, hrun, hseq.trans hnext, hrunning, hstart, hshift, hslot, hactions, hfallow, fun hoos hshed hretire => ?_⟩
  rw [hactive, hrepeats]
  exact roundClosed_areas hoos hshed hretire

end Sys2Proof.Machine

namespace Sys2Proof.Machine

/-! ## Changes that wait for a timetable (R21, R56, R112, R115) -/

section Changes
variable {s : State} {f : Fetched} {ring : BitVec 6} {p : Packet}

/-- While rounds run, the command waits for the boundary with its change. -/
theorem changeOrNow_running (k : ChangeKind) (h : s.bell.running = true) :
    changeOrNow f k s = addChange { kind := k, cmd := some (f.ring, f.tag) } (wait_ f .boundary s) := if_pos h

/-- The settings that a ROUND_CONFIG asks for (R56). -/
def roundChange (p : Packet) : ChangeKind :=
  .round (param p 8 1) ((param p 9 1).testBit 0) ((param p 9 1).testBit 1) (param p 10 1)

theorem exec_roundConfig (hr : Ready s ring p) (hop : p.opcode = 0x12) :
    exec (.roundConfig ring p) s = .next (roundConfigBody (fetchedOf s ring p) (fetch ring s)) :=
  packetStep_ready (ofOp_of_eq hop) hr

theorem roundConfigBody_admitted {c : Nat} (h : firstAdmitted s = some c) :
    roundConfigBody f s = answer f (stState s c) s := by
  rw [roundConfigBody, h]

theorem roundConfigBody_running (h : firstAdmitted s = none) (hrun : s.bell.running = true) :
    roundConfigBody f s = addChange { kind := roundChange f.p, cmd := some (f.ring, f.tag) } (wait_ f .boundary s) := by
  rw [roundConfigBody, h]
  exact changeOrNow_running _ hrun

theorem exec_sheafDefine (hr : Ready s ring p) (hop : p.opcode = 0x0D) :
    exec (.sheafDefine ring p) s = .next (sheafDefineBody (fetchedOf s ring p) (fetch ring s)) :=
  packetStep_ready (ofOp_of_eq hop) hr

/-- The members cannot form a sheaf, or the sheaf is in being. -/
def SheafBad (s : State) (p : Packet) : Prop :=
  (sheafMembers p).length < 2 ∨ (sheafMembers p).eraseDups.length ≠ (sheafMembers p).length ∨
    (findAt (param p 8 2) s.sheaves).isSome = true ∨ ((sheafMembers p).all fun m => memberOk s m.toNat) = false

theorem sheafDefineBody_bad (hgo : deviceRefuses true true s = none) (h : SheafBad s f.p) :
    sheafDefineBody f s = answer f (failWith 0x304 (badMember s f.p)) s := by
  rw [sheafDefineBody, hgo]
  refine if_pos ?_
  rw [Bool.not_eq_true']
  exact h

/-- The sheaf that a SHEAF_DEFINE names, on the network that its members share (R112). -/
def sheafOf (p : Packet) (net : Nat) : Sheaf :=
  { members := sheafMembers p, entries := sheafEntries p, network := net }

/-- The sheaf is noted with its command's change, which the boundary makes effective. -/
theorem sheafDefineBody_fits {net : Nat} (hgo : deviceRefuses true true s = none) (h : ¬ SheafBad s f.p)
    (hnet : commonFused s (sheafMembers f.p) = [net])
    (hfit : computeTerm s (loadsBut s 0x1000) (putAt (param f.p 8 2) (sheafOf f.p net) s.sheaves) = none) :
    sheafDefineBody f s = addChange { kind := .sheafDefine (param f.p 8 2), cmd := some (f.ring, f.tag) }
      (wait_ f .boundary { s with sheaves := putAt (param f.p 8 2) (sheafOf f.p net) s.sheaves }) := by
  rw [sheafDefineBody, hgo]
  refine (if_neg ?_).trans ?_
  · rw [Bool.not_eq_true']
    exact h
  · rw [hnet]
    rw [sheafOf] at hfit ⊢
    dsimp only
    rw [hfit]

theorem exec_sheafDissolve (hr : Ready s ring p) (hop : p.opcode = 0x0E) :
    exec (.sheafDissolve ring p) s = .next (sheafDissolveBody (fetchedOf s ring p) (fetch ring s)) :=
  packetStep_ready (ofOp_of_eq hop) hr

theorem sheafDissolveBody_none (h : (findAt (param f.p 8 2) s.sheaves).isNone = true) :
    sheafDissolveBody f s = answer f (failWith 0x100 8) s := if_pos h

theorem sheafDissolveBody_running (h : (findAt (param f.p 8 2) s.sheaves).isNone = false) (hrun : s.bell.running = true) :
    sheafDissolveBody f s = addChange { kind := .sheafDissolve (param f.p 8 2), cmd := some (f.ring, f.tag) }
      (wait_ f .boundary s) :=
  (if_neg (ne_true_of_eq_false h)).trans (changeOrNow_running _ hrun)

end Changes

/-! ## Slips and re-locks (R68) -/

section Charge
variable {s : State} {ctx : BitVec 12}

/-- Every stream's clock state is as it was. -/
structure SameClocks (s t : State) : Prop where
  clk : ∀ d, (streamAt t d).clk = (streamAt s d).clk

theorem SameClocks.trans {s t u : State} (h : SameClocks s t) (k : SameClocks t u) : SameClocks s u :=
  ⟨fun d => (k.clk d).trans (h.clk d)⟩

/-- A change of other fields than the streams. -/
theorem SameClocks.quiet {s t : State} (h : ∀ d, streamAt t d = streamAt s d) : SameClocks s t :=
  ⟨fun d => by rw [h]⟩

theorem Noted.clocks {s t : State} (h : Noted s t) : SameClocks s t := .quiet h.streamAt

theorem sameClocks_setStream {c : Nat} {v : Stream} (h : v.clk = (streamAt s c).clk) : SameClocks s (setStream c v s) := by
  refine ⟨fun d => ?_⟩
  by_cases hd : d = c
  · rw [hd, streamAt_setStream, h]
  · rw [streamAt_setStream_ne hd]

theorem sameClocks_dropRecord (c : Nat) (s : State) : SameClocks s (dropRecord c s) := sameClocks_setStream rfl

theorem sameClocks_storeRecord (bytes : List Byte) (ext : Option (List Byte)) (bs : List Nat) (s : State) :
    SameClocks s (storeRecord bytes ext bs s) := by
  cases ext with
  | none => exact (Noted.dpaStore ..).clocks
  | some e => exact ((Noted.dpaStore ..).trans (Noted.dpaStore ..)).clocks

theorem sameClocks_enqueueRing (c : Nat) (bytes : List Byte) (born : Option Nat) (ext : Option (List Byte))
    (s : State) : SameClocks s (enqueueRing c bytes born ext s) := by
  have halloc := (Noted.poolAlloc 1 c (if ext.isSome then 2 else 1) s).clocks
  unfold enqueueRing
  dsimp only
  split
  · next heq => rw [heq] at halloc; exact halloc.trans (sameClocks_dropRecord ..)
  · next heq => rw [heq] at halloc; exact (halloc.trans (sameClocks_storeRecord ..)).trans (.quiet fun _ => rfl)

theorem sameClocks_enqueueDatagram (c : Nat) (bytes : List Byte) (born : Option Nat) (ext : Option (List Byte))
    (s : State) : SameClocks s (enqueueDatagram c bytes born ext s) := by
  have halloc := (Noted.poolAlloc 1 c (if ext.isSome then 2 else 1) s).clocks
  unfold enqueueDatagram
  dsimp only
  split
  · next heq =>
    rw [heq] at halloc
    exact (halloc.trans (sameClocks_dropRecord ..)).trans (.quiet fun _ => rfl)
  · next heq => rw [heq] at halloc; exact (halloc.trans (sameClocks_storeRecord ..)).trans (.quiet fun _ => rfl)

theorem sameClocks_ite {t : State} (p : Prop) [Decidable p] (h : SameClocks s t) : SameClocks s (if p then t else s) := by
  split
  · exact h
  · exact .quiet fun _ => rfl

theorem sameClocks_enqueueRecord (c : Nat) (bytes : List Byte) (born : Option Nat) (ext : Option (List Byte))
    (s : State) : SameClocks s (enqueueRecord c bytes born ext s) := by
  have found (p : Prop) [Decidable p] :
      SameClocks s (if p then setStream c { streamAt s c with lostFlag := false } s else s) :=
    sameClocks_ite p (sameClocks_setStream rfl)
  exact ((found _).trans (sameClocks_ite _ (sameClocks_enqueueRing ..))).trans
    (sameClocks_ite _ (sameClocks_enqueueDatagram ..))

/-- The stream with its slip's Roll Call run. -/
def slipChecked (c : Nat) (s : State) : State :=
  setStream c { streamAt s c with clk := { (streamAt s c).clk with slipCheck := false } } s

/-- The stream with its re-lock's Roll Call run. -/
def relockChecked (c : Nat) (s : State) : State :=
  setStream c { streamAt s c with clk := { (streamAt s c).clk with relockCheck := false } } s

theorem exec_slipRollCall (h : (streamAt s ctx.toNat).clk.slipCheck = true)
    (hh : holds (streamAt s ctx.toNat).state = true) : exec (.slipRollCall ctx) s =
    .next (if chargePasses s ctx.toNat none then addChange { kind := .unlocked ctx } (slipChecked ctx.toNat s)
      else slipChecked ctx.toNat s) := by
  refine congrArg Host.Outcome.next (if_neg ?_)
  rw [h, hh]
  decide

theorem exec_relockRollCall {w : Cadence} (h : (streamAt s ctx.toNat).clk.relockCheck = true)
    (hh : holds (streamAt s ctx.toNat).state = true) (hl : (streamAt s ctx.toNat).clk.locked = true)
    (hf : (streamAt s ctx.toNat).clk.fit = some w) : exec (.relockRollCall ctx) s =
    .next (if chargePasses s ctx.toNat (some w) then
        addChange { kind := .windows ctx w } (streamEvent ctx.toNat 6 1 0 (relockChecked ctx.toNat s))
      else streamEvent ctx.toNat 6 0 0 (relockChecked ctx.toNat s)) := by
  refine congrArg Host.Outcome.next ((if_neg ?_).trans ?_)
  · rw [h, hh]
    decide
  · rw [hl, hf]
    rfl

/-- The charge stays; where it no longer passes as locked, the unlocked charge waits for a timetable. -/
theorem slipRollCall_spec (h : (streamAt s ctx.toNat).clk.slipCheck = true)
    (hh : holds (streamAt s ctx.toNat).state = true) : ∃ t, exec (.slipRollCall ctx) s = .next t ∧
      (streamAt t ctx.toNat).clk.slipCheck = false ∧
      (streamAt t ctx.toNat).clk.charged = (streamAt s ctx.toNat).clk.charged ∧
      (streamAt t ctx.toNat).state = (streamAt s ctx.toNat).state ∧
      t.bell.changes = (if chargePasses s ctx.toNat none = true then s.bell.changes ++ [{ kind := .unlocked ctx }]
        else s.bell.changes) ∧
      (∀ d, d ≠ ctx.toNat → streamAt t d = streamAt s d) ∧ t.out = s.out := by
  have hne (d : Nat) (hd : d ≠ ctx.toNat) : streamAt (slipChecked ctx.toNat s) d = streamAt s d :=
    streamAt_setStream_ne hd ..
  obtain ⟨hcheck, hcharged, hstate⟩ : (streamAt (slipChecked ctx.toNat s) ctx.toNat).clk.slipCheck = false ∧
      (streamAt (slipChecked ctx.toNat s) ctx.toNat).clk.charged = (streamAt s ctx.toNat).clk.charged ∧
      (streamAt (slipChecked ctx.toNat s) ctx.toNat).state = (streamAt s ctx.toNat).state := by
    rw [slipChecked, streamAt_setStream]
    exact ⟨rfl, rfl, rfl⟩
  refine ⟨_, exec_slipRollCall h hh, ?_⟩
  split
  · exact ⟨hcheck, hcharged, hstate, rfl, hne, rfl⟩
  · exact ⟨hcheck, hcharged, hstate, rfl, hne, rfl⟩

/-- The LOCKED event leaves the stream as the Roll Call has left it, and no change beside. -/
theorem relockChecked_told (c x : Nat) (s : State) :
    (streamAt (streamEvent c 6 x 0 (relockChecked c s)) c).clk.relockCheck = false ∧
      (streamAt (streamEvent c 6 x 0 (relockChecked c s)) c).state = (streamAt s c).state ∧
      (streamEvent c 6 x 0 (relockChecked c s)).bell.changes = s.bell.changes := by
  rw [streamEvent, (sameClocks_enqueueRecord ..).clk, (Logged.enqueueRecord ..).state, (Steady.enqueueRecord ..).bell,
    relockChecked, streamAt_setStream]
  exact ⟨rfl, rfl, rfl⟩

/-- The LOCKED event is told; windows that pass wait for a timetable. -/
theorem relockRollCall_spec {w : Cadence} (h : (streamAt s ctx.toNat).clk.relockCheck = true)
    (hh : holds (streamAt s ctx.toNat).state = true) (hl : (streamAt s ctx.toNat).clk.locked = true)
    (hf : (streamAt s ctx.toNat).clk.fit = some w) : ∃ t, exec (.relockRollCall ctx) s = .next t ∧
      (streamAt t ctx.toNat).clk.relockCheck = false ∧ (streamAt t ctx.toNat).state = (streamAt s ctx.toNat).state ∧
      t.bell.changes = (if chargePasses s ctx.toNat (some w) = true then s.bell.changes ++ [{ kind := .windows ctx w }]
        else s.bell.changes) := by
  refine ⟨_, exec_relockRollCall h hh hl hf, ?_⟩
  split
  · obtain ⟨hcheck, hstate, hchanges⟩ := relockChecked_told ctx.toNat 1 s
    exact ⟨hcheck, hstate, congrArg (· ++ [_]) hchanges⟩
  · exact relockChecked_told ctx.toNat 0 s

end Charge

/-- Settles O14. That SHEAF_DEFINE of a sheaf in being answers ST_SHEAF_INVALID, and its DETAIL,
are the model's choices (notes/assumptions/77.md and 45.md). -/
theorem roundSettingsSheavesSlipsAndRelocks : Obligations.RoundSettingsSheavesSlipsAndRelocks := by
  unfold Obligations.RoundSettingsSheavesSlipsAndRelocks
  refine ⟨fun s ring p hr => ⟨fun hop => ⟨fun c hc => ?_, fun hnone hrun => ?_⟩, fun hop hrec hoos => ?_,
    fun hop => ⟨fun hnone => ?_, fun hsome hrun => ?_⟩⟩,
    fun s ctx hh => ⟨fun h => slipRollCall_spec h hh, fun w h hl hf => relockRollCall_spec h hh hl hf⟩⟩
  · exact (exec_roundConfig hr hop).trans (congrArg _ (roundConfigBody_admitted hc))
  · exact ⟨_, (exec_roundConfig hr hop).trans (congrArg _ (roundConfigBody_running hnone hrun)), waits_wait .., rfl,
      rfl⟩
  · have hgo : deviceRefuses true true (fetch ring s) = none := by
      have hdev : deviceRefuses true true (fetch ring s) = if s.pwr.recess then some (failWith 0x0201 0)
        else if s.flt.oos then some (failWith 0x0202 0) else none := rfl
      rw [hdev, hrec, hoos]
      rfl
    refine ⟨fun hbad => (exec_sheafDefine hr hop).trans (congrArg _ (sheafDefineBody_bad hgo hbad)),
      fun net hfits hnet hterm => ?_⟩
    have hbody := sheafDefineBody_fits (f := fetchedOf s ring p) hgo hfits hnet hterm
    exact ⟨_, (exec_sheafDefine hr hop).trans (congrArg _ hbody), waits_wait .., findAt_putAt_self .., rfl⟩
  · exact (exec_sheafDissolve hr hop).trans (congrArg _ (sheafDissolveBody_none hnone))
  · have hbody := sheafDissolveBody_running (s := fetch ring s) (f := fetchedOf s ring p) hsome hrun
    exact ⟨_, (exec_sheafDissolve hr hop).trans (congrArg _ hbody), waits_wait .., rfl, _,
      List.mem_append_right _ (List.mem_singleton.2 rfl), rfl, rfl⟩

end Sys2Proof.Machine

namespace Sys2Proof.Machine

/-! ## Best-effort jobs (R73, R76 to R78, R119) -/

/-- What the start of its input changes in a job. -/
def SameButInput (j k : Job) : Prop :=
  k = { j with inStarted := k.inStarted, inDone := k.inDone, blocks := k.blocks, starved := k.starved }

theorem SameButInput.trans {j k l : Job} (h : SameButInput j k) (h' : SameButInput k l) : SameButInput j l := by
  unfold SameButInput at *
  rw [h] at h'
  exact h'

theorem SameButInput.ite {j k : Job} (p : Prop) [Decidable p] (h : SameButInput j k) :
    SameButInput j (if p then k else j) := by
  split
  · exact h
  · rfl

/-- The input of the job has started, or it has none. -/
def inputStarted (d : Bool) (bs : List Nat) (j : Job) : Job :=
  { j with inStarted := true, inDone := d, blocks := bs, starved := false }

/-- The job waits for blocks, counted once. -/
def inputStarved (j : Job) : Job := { j with starved := true }

/-- Inputs that start leave the outstanding commands alone, and the jobs but for their inputs. -/
structure InputsMoved (s t : State) : Prop where
  outstanding : t.cmd.outstanding = s.cmd.outstanding
  jobs : ∃ m : Job → Job, (∀ j, SameButInput j (m j)) ∧ t.jobs = s.jobs.map m

namespace InputsMoved
variable {s t u : State}

theorem of_jobs (outstanding : t.cmd.outstanding = s.cmd.outstanding) (jobs : t.jobs = s.jobs) : InputsMoved s t :=
  ⟨outstanding, id, fun _ => rfl, by rw [jobs, List.map_id]⟩

theorem refl (s : State) : InputsMoved s s := of_jobs rfl rfl

theorem trans (h : InputsMoved s t) (k : InputsMoved t u) : InputsMoved s u := by
  obtain ⟨m, hm, hjobs⟩ := h.jobs
  obtain ⟨n, hn, hjobs'⟩ := k.jobs
  exact ⟨k.outstanding.trans h.outstanding, n ∘ m, fun j => (hm j).trans (hn (m j)),
    by rw [hjobs', hjobs, List.map_map]⟩

/-- The jobs of one ring and tag are marked. -/
theorem mark (m : Job → Job) (hm : ∀ j, SameButInput j (m j)) (ring : BitVec 6) (tag : BitVec 16)
    (outstanding : t.cmd.outstanding = s.cmd.outstanding) (h : t.jobs = s.jobs) :
    InputsMoved s { t with jobs := t.jobs.map fun k => if k.ring = ring ∧ k.tag = tag then m k else k } :=
  ⟨outstanding, _, fun j => (hm j).ite _, by rw [← h]⟩

theorem started (d : Bool) (bs : List Nat) (ring : BitVec 6) (tag : BitVec 16)
    (outstanding : t.cmd.outstanding = s.cmd.outstanding) (h : t.jobs = s.jobs) : InputsMoved s { t with
      jobs := t.jobs.map fun k => if k.ring = ring ∧ k.tag = tag then inputStarted d bs k else k } :=
  mark (inputStarted d bs) (fun _ => rfl) ring tag outstanding h

theorem starved (ring : BitVec 6) (tag : BitVec 16) (outstanding : t.cmd.outstanding = s.cmd.outstanding)
    (h : t.jobs = s.jobs) : InputsMoved s { t with
      jobs := t.jobs.map fun k => if k.ring = ring ∧ k.tag = tag then inputStarved k else k } :=
  mark inputStarved (fun _ => rfl) ring tag outstanding h

theorem foldl {α : Type} {f : State → α → State} (hf : ∀ s a, InputsMoved s (f s a)) (l : List α) (s : State) :
    InputsMoved s (l.foldl f s) := by
  induction l generalizing s with
  | nil => exact refl s
  | cons a r ih => exact (hf s a).trans (ih _)

theorem poolAlloc_outstanding (n owner count : Nat) (s : State) :
    (poolAlloc n owner count s).2.cmd.outstanding = s.cmd.outstanding := by
  have hset (used : List (Nat × Nat)) : (setPoolUsed n used s).cmd = s.cmd := by
    unfold setPoolUsed
    dsimp only
    split
    · exact updateWire_cmd _
    · rfl
  unfold poolAlloc
  dsimp only
  split
  · exact congrArg Cmd.outstanding (hset _)
  · rfl

theorem startInput (j : Job) (s : State) : InputsMoved s (startInput j s) := by
  have hout := poolAlloc_outstanding 3 0x1000 (min 4096 (ceilDiv j.inBytes 4096)) s
  have hjobs := (Steady.poolAlloc 3 0x1000 (min 4096 (ceilDiv j.inBytes 4096)) s).jobs
  unfold Machine.startInput
  split
  · exact refl s
  · dsimp only
    split
    · exact started _ _ _ _ rfl rfl
    · split
      · next heq =>
        rw [heq] at hout hjobs
        split
        · exact refl s
        · exact starved _ _ hout hjobs
      · next bs t heq =>
        rw [heq] at hout hjobs
        have held : InputsMoved s { t with
            jobs := t.jobs.map fun k => if k.ring = j.ring ∧ k.tag = j.tag then inputStarted false bs k else k } :=
          started false bs _ _ hout hjobs
        exact held.trans (of_jobs rfl rfl)

theorem startInputs (s : State) : InputsMoved s (startInputs s) := foldl (fun _ _ => startInput ..) _ _

end InputsMoved

section Jobs
variable {s : State} {f : Fetched} {ring : BitVec 6} {p : Packet}

theorem exec_jobSubmit (hr : Ready s ring p) (hop : p.opcode = 0x41) :
    exec (.jobSubmit ring p) s = .next (jobSubmitBody (fetchedOf s ring p) (fetch ring s)) :=
  packetStep_ready (ofOp_of_eq hop) hr

theorem exec_jobCancel (hr : Ready s ring p) (hop : p.opcode = 0x42) :
    exec (.jobCancel ring p) s = .next (jobCancelBody (fetchedOf s ring p) (fetch ring s)) :=
  packetStep_ready (ofOp_of_eq hop) hr

theorem jobSubmitBody_refused {r : Reply} (hgo : deviceRefuses true true s = none) (h : jobVerdict s f.p = some r) :
    jobSubmitBody f s = answer f r s := by
  simp only [jobSubmitBody, hgo, h]

theorem jobSubmitBody_taken (hgo : deviceRefuses true true s = none) (h : jobVerdict s f.p = none) :
    jobSubmitBody f s = startInputs (wait_ f .transfer { s with jobs := s.jobs ++ [jobOf f] }) := by
  simp only [jobSubmitBody, hgo, h]

/-! ### JOB_CANCEL (R78) -/

/-- Which job a JOB_CANCEL names. -/
def cancelRing (p : Packet) : BitVec 6 := BitVec.ofNat 6 (param p 10 1)
def cancelTag (p : Packet) : BitVec 16 := BitVec.ofNat 16 (param p 8 2)

/-- The job that a JOB_CANCEL names. -/
def cancelled (s : State) (p : Packet) : Option Job := s.jobs.find? fun j => j.ring == cancelRing p && j.tag == cancelTag p

theorem jobCancelBody_none (h : cancelled s f.p = none) : jobCancelBody f s = answer f (failWith 0x100 8) s := by
  unfold cancelled cancelRing cancelTag at h
  simp only [jobCancelBody, h]

/-- The state in which the cancel waits for the job's end. -/
def cancelWaits (f : Fetched) (s : State) : State :=
  wait_ f (.jobEnd (cancelRing f.p).toNat (cancelTag f.p).toNat) s

/-- The cancel notes itself in a job that runs a layer; its end comes at the next layer boundary. -/
def cancelMarked (p : Packet) (k : Job) : Job :=
  if k.ring = cancelRing p ∧ k.tag = cancelTag p then { k with cancel := true } else k

theorem jobCancelBody_some {j : Job} (h : cancelled s f.p = some j) : jobCancelBody f s =
    if jobRuns s j then { cancelWaits f s with jobs := s.jobs.map (cancelMarked f.p) }
    else endJob (cancelRing f.p) (cancelTag f.p) (failWith 0x203 0x42) (cancelWaits f s) := by
  unfold cancelled cancelRing cancelTag at h
  simp only [jobCancelBody, h]
  rfl

/-- The job that ends is a job no more. -/
theorem endJob_jobs (ring : BitVec 6) (tag : BitVec 16) (r : Reply) (s : State) :
    (endJob ring tag r s).jobs = s.jobs.filter fun k => !(k.ring == ring && k.tag == tag) := by
  unfold endJob
  split
  · next hnone =>
    rw [List.find?_eq_none] at hnone
    exact (List.filter_eq_self.2 fun k hk => by simpa [imp_iff_not_or] using hnone k hk).symm
  · next j _ =>
    have hfreed (p : Transfer → Bool) (q : ParkRecord → Bool) :
        (poolFree 3 j.blocks (killTransfers p q s)).jobs = s.jobs := ((Steady.killTransfers ..).trans (.poolFree ..)).jobs
    rw [((Steady.finish ..).trans (.finishCause ..)).jobs]
    dsimp only
    rw [hfreed]

theorem cancelMarked_cancel {k : Job} (hring : (cancelMarked p k).ring = cancelRing p)
    (htag : (cancelMarked p k).tag = cancelTag p) : (cancelMarked p k).cancel = true := by
  unfold cancelMarked at *
  split at hring
  · next h => rw [if_pos h]
  · next h => exact absurd ⟨hring, by rwa [if_neg h] at htag⟩ h

theorem exec_jobCancel_none (hr : Ready s ring p) (hop : p.opcode = 0x42) (h : cancelled s p = none) :
    exec (.jobCancel ring p) s = .next (answer (fetchedOf s ring p) (failWith 0x100 8) (fetch ring s)) :=
  (exec_jobCancel hr hop).trans (congrArg _ (jobCancelBody_none h))

theorem exec_jobCancel_idle {j : Job} (hr : Ready s ring p) (hop : p.opcode = 0x42) (h : cancelled s p = some j)
    (hj : jobRuns s j = false) : exec (.jobCancel ring p) s = .next (endJob (cancelRing p) (cancelTag p)
      (failWith 0x203 0x42) (cancelWaits (fetchedOf s ring p) (fetch ring s))) := by
  have hbody := jobCancelBody_some (s := fetch ring s) (f := fetchedOf s ring p) h
  rw [if_neg (ne_true_of_eq_false (show jobRuns (fetch ring s) j = false from hj))] at hbody
  exact (exec_jobCancel hr hop).trans (congrArg _ hbody)

theorem exec_jobCancel_running {j : Job} (hr : Ready s ring p) (hop : p.opcode = 0x42) (h : cancelled s p = some j)
    (hj : jobRuns s j = true) : exec (.jobCancel ring p) s = .next
      { cancelWaits (fetchedOf s ring p) (fetch ring s) with jobs := s.jobs.map (cancelMarked p) } := by
  have hbody := jobCancelBody_some (s := fetch ring s) (f := fetchedOf s ring p) h
  rw [if_pos (show jobRuns (fetch ring s) j = true from hj)] at hbody
  exact (exec_jobCancel hr hop).trans (congrArg _ hbody)

/-- The job is held at its first layer, and its command waits. -/
theorem jobSubmit_held (hr : Ready s ring p) (hop : p.opcode = 0x41) (hgo : deviceRefuses true true (fetch ring s) = none)
    (hv : jobVerdict (fetch ring s) p = none) : ∃ t j, exec (.jobSubmit ring p) s = .next t ∧
      Waits t ring p.tag .transfer ∧ j ∈ t.jobs ∧ t.jobs.length = s.jobs.length + 1 ∧ SameButInput (jobOf (fetchedOf s ring p)) j := by
  have hbody := jobSubmitBody_taken (f := fetchedOf s ring p) hgo hv
  generalize hu : wait_ (fetchedOf s ring p) .transfer
    { fetch ring s with jobs := (fetch ring s).jobs ++ [jobOf (fetchedOf s ring p)] } = u at hbody
  have hwaits : Waits u ring p.tag .transfer := by rw [← hu]; exact waits_wait ..
  have hjobs : u.jobs = s.jobs ++ [jobOf (fetchedOf s ring p)] := by rw [← hu]; rfl
  obtain ⟨hout, m, hm, hmap⟩ := InputsMoved.startInputs u
  refine ⟨_, m (jobOf (fetchedOf s ring p)), (exec_jobSubmit hr hop).trans (congrArg _ hbody), ?_, ?_, ?_, hm _⟩
  · rw [Waits, hout]
    exact hwaits
  · rw [hmap, hjobs]
    exact List.mem_map_of_mem (List.mem_append_right _ (List.mem_singleton.2 rfl))
  · rw [hmap, hjobs, List.length_map, List.length_append]
    rfl

end Jobs

/-- Settles O25. A job that is taken stands in the line whatever the start of inputs does to it; a cancelled one is gone at
once, or is marked while a layer of it runs. -/
theorem jobsAreHeldAndCancelled : Obligations.JobsAreHeldAndCancelled := by
  unfold Obligations.JobsAreHeldAndCancelled
  intro s ring p hr
  refine ⟨fun hop hrec hoos => ?_, fun hop => ⟨exec_jobCancel_none hr hop,
    fun j hj hidle => ⟨exec_jobCancel_idle hr hop hj hidle, fun k hk => ?_⟩, fun j hj hruns => ?_⟩⟩
  · have hgo : deviceRefuses true true (fetch ring s) = none := by
      have hdev : deviceRefuses true true (fetch ring s) = if s.pwr.recess then some (failWith 0x0201 0)
        else if s.flt.oos then some (failWith 0x0202 0) else none := rfl
      rw [hdev, hrec, hoos]
      rfl
    refine ⟨fun r hv => (exec_jobSubmit hr hop).trans (congrArg _ (jobSubmitBody_refused hgo hv)), fun hv => ?_⟩
    obtain ⟨t, j, hrun, hwaits, hmem, hlength, hjob⟩ := jobSubmit_held hr hop hgo hv
    unfold SameButInput at hjob
    refine ⟨t, j, hrun, hwaits, hmem, hlength, ?_⟩
    rw [hjob]
    exact ⟨rfl, rfl, rfl, rfl, rfl, rfl, rfl, rfl⟩
  · rw [endJob_jobs] at hk
    simpa [imp_iff_not_or] using (List.mem_filter.1 hk).2
  · refine ⟨_, exec_jobCancel_running hr hop hj hruns, waits_wait .., rfl, fun k hk hring htag => ?_, rfl⟩
    obtain ⟨k', -, rfl⟩ := List.mem_map.1 hk
    exact cancelMarked_cancel hring htag

end Sys2Proof.Machine

namespace Sys2Proof.Machine

/-! ## The reset state (O56) -/

theorem inv_reset : Inv State.reset := ⟨rfl, by decide, rfl, rfl⟩

/-- Settles O56: after reset no table lists an entry, so each read of one gives the entry's defaults. -/
theorem resetStateMeetsTheInvariants : Obligations.ResetStateMeetsTheInvariants :=
  ⟨inv_reset, rfl, rfl, rfl, rfl, rfl, rfl, rfl, rfl, rfl, rfl, rfl, rfl, rfl, fun _ => rfl,
    fun _ => ⟨rfl, rfl, rfl, rfl⟩, fun _ => ⟨rfl, rfl, rfl, rfl⟩⟩

end Sys2Proof.Machine

namespace Sys2Proof.Machine

/-! ## What every step keeps (O57)

One lemma for each function of the model that gives a state, in the order of the model's files: where the invariants
hold before, they hold after. Each is a chain of the lemmas of the functions called. What is not routine stands in a few
places: the operations on memory, the fault recorder, the interrupt wire, and the rows of power and link. -/

section Invariants
variable {α β γ : Type} {s t : State}

namespace Inv

/-- The invariants speak of HBM and Granary, REFUSE_LIMIT, the next SEQ, the wire and the link only. -/
theorem same {now free glb cmd streams frames dests sheaves ports flow pools decEng prepEng encEng taintWeight
      cores wcs tags bell trk nets jobs clips nextClip clipAreaUsed tests mem flt pwr link slot board tel fw
      cyc clusterSram securitySram psram out pending} (h : Inv s)
    (hk : (link, glb.wire, mem.dpa, flt.nextSeq) = (s.link, s.glb.wire, s.mem.dpa, s.flt.nextSeq)) :
    Inv { s with
      now, free, glb, cmd, streams, frames, dests, sheaves, ports, flow, pools, decEng, prepEng, encEng,
      taintWeight, cores, wcs, tags, bell, trk, nets, jobs, clips, nextClip, clipAreaUsed, tests, mem, flt,
      pwr, link, slot, board, tel, fw, cyc, clusterSram, securitySram, psram, out, pending } := by
  simp only [Prod.mk.injEq] at hk
  obtain ⟨hlink, hwire, hmem, hseq⟩ := hk
  unfold Inv at h ⊢
  rwa [hlink, hwire, hmem, hseq]

/-- HBM and Granary change and stay in canonical form. -/
theorem stored (h : Inv s) (hm : t.mem.dpa.wf = true)
    (hk : (t.link, t.glb.wire, t.refuseLimit, t.flt.nextSeq) = (s.link, s.glb.wire, s.refuseLimit, s.flt.nextSeq)) :
    Inv t := by
  simp only [Prod.mk.injEq] at hk
  obtain ⟨hlink, hwire, hrefuse, hseq⟩ := hk
  unfold Inv at h ⊢
  rw [hlink, hwire, hrefuse, hseq]
  exact ⟨hm, h.2⟩

/-- The wire or the link changes, and the wire's conditions still hold. -/
theorem wired (h : Inv s) (hw : wireOk t.glb.wire t.link = true)
    (hk : (t.mem.dpa, t.refuseLimit, t.flt.nextSeq) = (s.mem.dpa, s.refuseLimit, s.flt.nextSeq)) : Inv t := by
  simp only [Prod.mk.injEq] at hk
  obtain ⟨hmem, hrefuse, hseq⟩ := hk
  unfold Inv at h ⊢
  rw [hmem, hrefuse, hseq]
  exact ⟨h.1, h.2.1, h.2.2.1, hw⟩

/-- The wire is not asserted. -/
theorem quiet (h : Inv s) (hw : t.glb.wire = false)
    (hk : (t.mem.dpa, t.refuseLimit, t.flt.nextSeq) = (s.mem.dpa, s.refuseLimit, s.flt.nextSeq)) : Inv t :=
  h.wired (by rw [hw]; rfl) hk

theorem dpa_wf (h : Inv s) : s.mem.dpa.wf = true := h.1

theorem wire (h : Inv s) : wireOk s.glb.wire s.link = true := h.2.2.2

theorem ite {c : Prop} {i : Decidable c} (hs : Inv s) (ht : Inv t) : Inv (if c then s else t) := by
  split
  · exact hs
  · exact ht

theorem ite_1 {c : Prop} {i : Decidable c} {x y : State × β} (hx : Inv x.1) (hy : Inv y.1) :
    Inv (if c then x else y).1 := by
  split
  · exact hx
  · exact hy

theorem ite_2 {c : Prop} {i : Decidable c} {x y : β × State} (hx : Inv x.2) (hy : Inv y.2) :
    Inv (if c then x else y).2 := by
  split
  · exact hx
  · exact hy

theorem ite_2_2 {c : Prop} {i : Decidable c} {x y : β × γ × State} (hx : Inv x.2.2) (hy : Inv y.2.2) :
    Inv (if c then x else y).2.2 := by
  split
  · exact hx
  · exact hy

theorem fst {b : β} (h : Inv s) : Inv (s, b).1 := h

theorem snd {b : β} (h : Inv s) : Inv (b, s).2 := h

theorem thd {b : β} {c : γ} (h : Inv s) : Inv (b, c, s).2.2 := h

theorem foldl {f : State → α → State} {l : List α} (h : Inv s) (hf : ∀ s a, Inv s → Inv (f s a)) :
    Inv (l.foldl f s) := by
  induction l generalizing s with
  | nil => exact h
  | cons a r ih => exact ih (hf s a h)

theorem foldl_2 {f : β × State → α → β × State} {x : β × State} {l : List α} (h : Inv x.2)
    (hf : ∀ x a, Inv x.2 → Inv (f x a).2) : Inv (l.foldl f x).2 := by
  induction l generalizing x with
  | nil => exact h
  | cons a r ih => exact ih (hf x a h)

theorem foldl_2_2 {f : β × γ × State → α → β × γ × State} {x : β × γ × State} {l : List α} (h : Inv x.2.2)
    (hf : ∀ x a, Inv x.2.2 → Inv (f x a).2.2) : Inv (l.foldl f x).2.2 := by
  induction l generalizing x with
  | nil => exact h
  | cons a r ih => exact ih (hf x a h)

/-- The accumulator is a pair that each step builds anew. -/
theorem foldl_pair {g : β × State → α → β} {f : β × State → α → State} {x : β × State} {l : List α} (h : Inv x.2)
    (hf : ∀ x a, Inv x.2 → Inv (f x a)) : Inv (l.foldl (fun x a => (g x a, f x a)) x).2 := h.foldl_2 hf

theorem foldl_triple {g : β × γ × State → α → β} {k : β × γ × State → α → γ} {f : β × γ × State → α → State}
    {x : β × γ × State} {l : List α} (h : Inv x.2.2) (hf : ∀ x a, Inv x.2.2 → Inv (f x a)) :
    Inv (l.foldl (fun x a => (g x a, k x a, f x a)) x).2.2 := h.foldl_2_2 hf

/-- A state that a result names is the one the result carries. -/
theorem of_eq_2 {x : β × State} {b : β} (h : Inv x.2) (e : x = (b, t)) : Inv t := by
  rwa [e] at h

theorem of_eq_2_2 {x : β × γ × State} {b : β} {c : γ} (h : Inv x.2.2) (e : x = (b, c, t)) : Inv t := by
  rwa [e] at h

end Inv

/-- A result that, where it is a next state, meets the invariants. -/
def KeepsInv (r : Res) : Prop := ∀ t, r = .next t → Inv t

theorem KeepsInv.next (h : Inv s) : KeepsInv (.next s) := fun _ e => Host.Outcome.next.inj e ▸ h

theorem KeepsInv.fault {e : Fault} : KeepsInv (.fault e) := fun _ h => nomatch h

theorem KeepsInv.ite {c : Prop} {i : Decidable c} {x y : Res} (hx : KeepsInv x) (hy : KeepsInv y) :
    KeepsInv (if c then x else y) := by
  split
  · exact hx
  · exact hy

/-! ### Machine/Flags -/

protected theorem Inv.hwSet {o b : Nat} (h : Inv s) : Inv (hwSet o b s) := h.same rfl

protected theorem Inv.hwPeak {o v : Nat} (h : Inv s) : Inv (hwPeak o v s) := h.same rfl

theorem wireOk_of_allowed (h : wireAllowed s = true) : wireOk true s.link = true := by
  simp only [wireAllowed, linkSpeaks, Bool.and_eq_true, Bool.or_eq_true] at h
  obtain ⟨⟨⟨hd, hc⟩, hs⟩, hf⟩ := h
  rcases hs with hs | hs <;> simp_all [wireOk]

/-- The link goes to a state in which the wire may stand asserted; what else the wire depends on stays. -/
theorem wireOk_of_speaks {w : Bool} {l l' : Link} (h : wireOk w l = true) (hs : l'.state = .l0 ∨ l'.state = .l1 ∨
    l'.state = .l12) (hk : (l'.d3hot, l'.command, l'.flr) = (l.d3hot, l.command, l.flr)) : wireOk w l' = true := by
  simp only [Prod.mk.injEq] at hk
  obtain ⟨hd, hc, hf⟩ := hk
  simp only [wireOk, Bool.or_eq_true, Bool.and_eq_true] at h ⊢
  refine h.imp_right fun ⟨⟨⟨hd', hc'⟩, hf'⟩, _⟩ => ⟨⟨⟨?_, ?_⟩, ?_⟩, ?_⟩
  · rwa [hd]
  · rwa [hc]
  · rwa [hf]
  · rcases hs with hs | hs | hs <;> simp [hs]

/-- The wire rises only where the link allows it (R348). -/
protected theorem Inv.updateWire (h : Inv s) : Inv (updateWire s) := by
  unfold Machine.updateWire
  split
  · exact .ite (h.quiet rfl rfl) h
  · split
    · next hc => exact h.wired (wireOk_of_allowed (Bool.and_eq_true _ _ ▸ hc).1) rfl
    · exact h

theorem dropWire_eq (s : State) : ∃ glb out, dropWire s = { s with glb, out } ∧ glb.wire = false := by
  unfold dropWire
  split
  · exact ⟨_, _, rfl, rfl⟩
  · next hw => exact ⟨s.glb, s.out, rfl, Bool.eq_false_iff.mpr hw⟩

/-- With the wire dropped the link may be in any state. -/
theorem Inv.dropped (h : Inv s)
    (hk : (t.mem.dpa, t.refuseLimit, t.flt.nextSeq) = (s.mem.dpa, s.refuseLimit, s.flt.nextSeq)) :
    Inv (Machine.dropWire t) := by
  obtain ⟨glb, out, heq, hw⟩ := dropWire_eq t
  rw [heq]
  exact h.quiet hw hk

protected theorem Inv.dropWire (h : Inv s) : Inv (dropWire s) := h.dropped rfl

protected theorem Inv.restoreWire (h : Inv s) : Inv (restoreWire s) := by
  unfold Machine.restoreWire
  split
  · next hc =>
    simp only [Bool.and_eq_true] at hc
    obtain ⟨⟨-, ha⟩, -⟩ := hc
    exact h.wired (wireOk_of_allowed ha) rfl
  · exact h

/-! ### Machine/Ops -/

protected theorem Inv.setStream {c : Nat} {v : Stream} (h : Inv s) : Inv (setStream c v s) := h.same rfl

protected theorem Inv.setSq {n : Nat} {v : SubRing} (h : Inv s) : Inv (setSq n v s) := h.same rfl

protected theorem Inv.setCq {n : Nat} {v : ComRing} (h : Inv s) : Inv (setCq n v s) := h.same rfl

protected theorem Inv.setMr {n : Nat} {v : MetaRing} (h : Inv s) : Inv (setMr n v s) := h.same rfl

protected theorem Inv.setCore {n : Nat} {v : Core} (h : Inv s) : Inv (setCore n v s) := h.same rfl

protected theorem Inv.setDec {n : Nat} {v : VidEngine} (h : Inv s) : Inv (setDec n v s) := h.same rfl

protected theorem Inv.setPrep {n : Nat} {v : VidEngine} (h : Inv s) : Inv (setPrep n v s) := h.same rfl

protected theorem Inv.setEnc {n : Nat} {v : EncEngine} (h : Inv s) : Inv (setEnc n v s) := h.same rfl

protected theorem Inv.setPort {n : Nat} {v : Port} (h : Inv s) : Inv (setPort n v s) := h.same rfl

protected theorem Inv.setDest {n : Nat} {v : DgDest} (h : Inv s) : Inv (setDest n v s) := h.same rfl

protected theorem Inv.setNet {n : Nat} {v : Network} (h : Inv s) : Inv (setNet n v s) := h.same rfl

protected theorem Inv.setWc {n : Nat} {v : WorkCounter} (h : Inv s) : Inv (setWc n v s) := h.same rfl

protected theorem Inv.send {o : Output} (h : Inv s) : Inv (send o s) := h.same rfl

/-- A write wakes a link in L1, and the wire may stand asserted in L0 as in L1. -/
protected theorem Inv.hostWrite {addr : Nat} {bytes : List Byte} (h : Inv s) : Inv (hostWrite addr bytes s) := by
  unfold Machine.hostWrite
  by_cases hl : s.link.state = .l1
  · exact h.wired (wireOk_of_speaks h.wire (.inl (if_pos hl)) rfl) rfl
  · simp only [if_neg hl]
    exact h.wired h.wire rfl

protected theorem Inv.hostWrites {addr : Nat} {bytes : List Byte} (h : Inv s) : Inv (hostWrites addr bytes s) :=
  h.foldl fun _ _ h => h.hostWrite

protected theorem Inv.leaveLow (h : Inv s) : Inv (leaveLow s) := .ite (h.same rfl) h

protected theorem Inv.enterLow (h : Inv s) : Inv (enterLow s) := .ite (h.same rfl) h

protected theorem Inv.pmeD3hot (h : Inv s) : Inv (pmeD3hot s) := by
  unfold Machine.pmeD3hot
  refine .ite (.ite (h.wired h.wire rfl) ?_) h
  exact Inv.leaveLow (h.wired (wireOk_of_speaks h.wire (.inl rfl) rfl) rfl)

/-- SEQ goes from 0x7FFF_FFFF to 1 (R300). -/
theorem seqOk_nextSeqAfter {n : Word} (h : seqOk n = true) : seqOk (nextSeqAfter n) = true := by
  simp only [seqOk, Bool.and_eq_true, decide_eq_true_eq] at h ⊢
  unfold nextSeqAfter
  split
  · decide
  · next hn =>
    have hne : n.toNat ≠ 0x7FFFFFFF := fun he => hn (by simpa using BitVec.eq_of_toNat_eq he)
    have hadd : (n + 1).toNat = n.toNat + 1 := by
      rw [BitVec.toNat_add]
      exact Nat.mod_eq_of_lt (by simp; omega)
    omega

/-- A record takes the next SEQ. -/
theorem Inv.numbered (h : Inv s) (hq : t.flt.nextSeq = nextSeqAfter s.flt.nextSeq)
    (hk : (t.link, t.glb.wire, t.mem.dpa, t.refuseLimit) = (s.link, s.glb.wire, s.mem.dpa, s.refuseLimit)) : Inv t := by
  simp only [Prod.mk.injEq] at hk
  obtain ⟨hlink, hwire, hmem, hrefuse⟩ := hk
  unfold Inv at h ⊢
  obtain ⟨hdpa, hlimit, hseq, hw⟩ := h
  rw [hlink, hwire, hmem, hrefuse, hq]
  exact ⟨hdpa, hlimit, seqOk_nextSeqAfter hseq, hw⟩

protected theorem Inv.recordFault {r : FaultRec} (h : Inv s) : Inv (recordFault r s) := by
  unfold Machine.recordFault
  refine .ite (h.same rfl) (.ite (.updateWire (.pmeD3hot (.hwSet (.leaveLow ?_)))) (.leaveLow ?_))
  · exact h.numbered rfl rfl
  · exact h.numbered rfl rfl

protected theorem Inv.faultSimple {code scope : Nat} (h : Inv s) : Inv (faultSimple code scope s) := h.recordFault

protected theorem Inv.reportEcc {memory scope : Nat} {e : EccEvent} (h : Inv s) :
    Inv (reportEcc memory scope s e) := by
  unfold Machine.reportEcc
  dsimp only
  split
  · exact h
  · exact h.same rfl
  · exact .ite (.recordFault (.ite (.recordFault (.same (h.same rfl) rfl)) (.same (h.same rfl) rfl)))
      (.ite (.recordFault (.same (h.same rfl) rfl)) (.same (h.same rfl) rfl))
  · exact .ite (.same (h.same rfl) rfl) (.recordFault (.same (h.same rfl) rfl))

protected theorem Inv.reportEccs {memory scope : Nat} {es : List EccEvent} (h : Inv s) :
    Inv (reportEccs memory scope es s) := h.foldl fun _ _ h => h.reportEcc

protected theorem Inv.notePcUe {a : Nat} (h : Inv s) : Inv (notePcUe a s) := .ite (h.same rfl) h

protected theorem Inv.losePc {p : Nat} (h : Inv s) : Inv (losePc p s) :=
  .ite (.ite h (.ite h.recordFault (h.recordFault.same rfl))) (.updateWire (.recordFault (.hwSet (h.same rfl))))

protected theorem Inv.reportDpa {scope : Nat} {es : List EccEvent} (h : Inv s) : Inv (reportDpa scope es s) :=
  h.foldl fun _ _ h => .ite (.ite h.reportEcc.notePcUe.losePc h.reportEcc.notePcUe) h.reportEcc

protected theorem Inv.faultDpa (h : Inv s) : Inv (faultDpa s) := h.recordFault

protected theorem Inv.dpaReads {scope a n : Nat} (h : Inv s) : Inv (dpaReads scope a n s).2 := by
  induction n generalizing a s with
  | zero => exact h
  | succ n ih =>
    refine ih (.ite_2 h.faultDpa ?_)
    split
    · exact h
    · exact Inv.reportDpa (h.stored (memRead_wf h.dpa_wf _) rfl)

protected theorem Inv.dpaWrites {a : Nat} {l : List (Word × Bool)} (h : Inv s) : Inv (dpaWrites a l s) := by
  induction l generalizing a s with
  | nil => exact h
  | cons e r ih => exact ih (h.faultDpa.ite (h.stored (memPutWord_wf h.dpa_wf _ _ _) rfl))

protected theorem Inv.dpaBytes {scope a n : Nat} (h : Inv s) : Inv (dpaBytes scope a n s).2.2 := h.dpaReads

protected theorem Inv.dpaStore {a : Nat} {l : List Byte} (h : Inv s) : Inv (dpaStore a l s) := h.dpaWrites

protected theorem Inv.noteEntry (h : Inv s) : Inv (noteEntry s) := h.same rfl

protected theorem Inv.writeReply {n : Nat} {r : Reply} (h : Inv s) : Inv (writeReply n r s) :=
  .ite (.updateWire (.noteEntry (.hwSet (h.hostWrite.setCq.same rfl)))) h.hostWrite.setCq

protected theorem Inv.drainReplies {n : Nat} {l : List Reply} (h : Inv s) : Inv (drainReplies n l s) := by
  induction l generalizing s with
  | nil => exact h.setCq
  | cons r rs ih => exact (ih h.writeReply).ite h.setCq

protected theorem Inv.flushCq {n : Nat} (h : Inv s) : Inv (flushCq n s) := h.drainReplies

protected theorem Inv.pushReply {r : Reply} (h : Inv s) : Inv (pushReply r s) := h.drainReplies

protected theorem Inv.flushAllCq (h : Inv s) : Inv (flushAllCq s) := h.foldl fun _ _ h => h.flushCq

protected theorem Inv.releaseReplies {ring : BitVec 6} {l : List Outstanding} {blocked : Bool} (h : Inv s) :
    Inv (releaseReplies ring l blocked s) := by
  induction l generalizing blocked s with
  | nil => exact h
  | cons o os ih =>
    unfold Machine.releaseReplies
    refine .ite ?_ (ih (h.same rfl))
    split
    · exact .ite (ih (h.same rfl)) (.ite (ih h) (ih h.pushReply))
    · exact ih (h.same rfl)

protected theorem Inv.releaseRing {ring : BitVec 6} (h : Inv s) : Inv (releaseRing ring s) :=
  .releaseReplies (h.same rfl)

protected theorem Inv.finish {cmd : BitVec 6 × BitVec 16} {r : Reply} (h : Inv s) : Inv (finish cmd r s) :=
  .releaseRing (h.same rfl)

protected theorem Inv.finishAll {cmds : List (BitVec 6 × BitVec 16)} {r : Reply} (h : Inv s) :
    Inv (finishAll cmds r s) := h.foldl fun _ _ h => h.finish

protected theorem Inv.finishCause {w : WaitCause} {r : Reply} (h : Inv s) : Inv (finishCause w r s) := h.finishAll

protected theorem Inv.enterOos {code : Nat} (h : Inv s) : Inv (enterOos code s) := .ite h (h.same rfl)

protected theorem Inv.wakeDomain {d : Nat} (h : Inv s) : Inv (wakeDomain d s) := by
  unfold Machine.wakeDomain
  dsimp only
  refine .ite ?_ ?_
  · split
    · exact h.same rfl
    · exact h
  · exact h.same rfl

protected theorem Inv.drawFree (h : Inv s) : Inv (drawFree s).2 := h.same rfl

protected theorem Inv.setLevel {p v : Nat} (h : Inv s) : Inv (setLevel p v s) := h.same rfl

protected theorem Inv.sendControl {n : Nat} {k : ControlOut} (h : Inv s) : Inv (sendControl n k s) :=
  .ite h (.ite h.setPort h.send)

protected theorem Inv.releaseTx {n : Nat} (h : Inv s) : Inv (releaseTx n s) :=
  .ite h (h.setPort.foldl fun _ _ h => h.send)

protected theorem Inv.psramStore {a : Nat} {l : List Byte} (h : Inv s) : Inv (psramStore a l s) := h.same rfl

protected theorem Inv.meetPoison {u : UnitId} {b : Bool} (h : Inv s) : Inv (meetPoison u b s) := .ite (h.same rfl) h

/-! ### Machine/Operands -/

protected theorem Inv.fetch {ring : BitVec 6} (h : Inv s) : Inv (fetch ring s) := h.setSq

protected theorem Inv.wait_ {f : Fetched} {cause : WaitCause} (h : Inv s) : Inv (wait_ f cause s) := h.same rfl

protected theorem Inv.answer {f : Fetched} {r : Reply} (h : Inv s) : Inv (answer f r s) := h.wait_.releaseRing

/-- A packet is fetched, queued or answered, or its body runs. -/
theorem Inv.packetStep {mine : Packet → Bool} {ring : BitVec 6} {p : Packet} {body : Fetched → State → State}
    (h : Inv s) (hb : ∀ f s, Inv s → Inv (body f s)) : KeepsInv (packetStep mine ring p body s) := by
  unfold Machine.packetStep
  dsimp only
  refine .ite .fault ?_
  split
  · exact .ite (.next h) (.next (hb _ _ (h.same rfl)))
  · refine .ite (.next h) ?_
    split
    · exact .next h.fetch.answer
    · exact .next (h.fetch.wait_.ite (hb _ _ h.fetch))

protected theorem Inv.answerWrite {f : Fetched} {r : Reply} {addr : Nat} {bytes : List Byte} (h : Inv s) :
    Inv (answerWrite f r addr bytes s) := .ite h.answer (.ite h.answer h.hostWrites.answer)

/-! ### Machine/Streams -/

protected theorem Inv.setPoolUsed {n : Nat} {used : List (Nat × Nat)} (h : Inv s) : Inv (setPoolUsed n used s) :=
  .ite (.updateWire (.hwSet (.same (.hwPeak (h.same rfl)) rfl))) (.hwPeak (h.same rfl))

protected theorem Inv.poolAlloc {n owner count : Nat} (h : Inv s) : Inv (poolAlloc n owner count s).2 :=
  .ite_2 (.snd h.setPoolUsed) (.snd (h.same rfl))

protected theorem Inv.poolFree {n : Nat} {blocks : List Nat} (h : Inv s) : Inv (poolFree n blocks s) :=
  .foldl (.ite h h.setPoolUsed) fun _ _ h => h.recordFault

protected theorem Inv.refreshMr {n : Nat} (h : Inv s) : Inv (refreshMr n s) := h.setMr

protected theorem Inv.refreshAllMr (h : Inv s) : Inv (refreshAllMr s) := h.foldl fun _ _ h => h.refreshMr

protected theorem Inv.dropRecord {c : Nat} (h : Inv s) : Inv (dropRecord c s) := h.setStream

protected theorem Inv.storeRecord {bytes : List Byte} {ext : Option (List Byte)} {bs : List Nat} (h : Inv s) :
    Inv (storeRecord bytes ext bs s) := by
  unfold Machine.storeRecord
  dsimp only
  split
  · exact h.dpaStore.dpaStore
  · exact h.dpaStore

protected theorem Inv.enqueueRing {c : Nat} {bytes : List Byte} {born : Option Nat} {ext : Option (List Byte)}
    (h : Inv s) : Inv (enqueueRing c bytes born ext s) := by
  unfold Machine.enqueueRing
  dsimp only
  split
  · next heq => exact .dropRecord (h.poolAlloc.of_eq_2 heq)
  · next heq => exact .refreshMr (.setMr (.storeRecord (h.poolAlloc.of_eq_2 heq)))

protected theorem Inv.enqueueDatagram {c : Nat} {bytes : List Byte} {born : Option Nat} {ext : Option (List Byte)}
    (h : Inv s) : Inv (enqueueDatagram c bytes born ext s) := by
  unfold Machine.enqueueDatagram
  dsimp only
  split
  · next heq => exact .setDest (.dropRecord (h.poolAlloc.of_eq_2 heq))
  · next heq => exact .setDest (.storeRecord (h.poolAlloc.of_eq_2 heq))

protected theorem Inv.enqueueRecord {c : Nat} {bytes : List Byte} {born : Option Nat} {ext : Option (List Byte)}
    (h : Inv s) : Inv (enqueueRecord c bytes born ext s) :=
  .ite (.enqueueDatagram (.ite (.enqueueRing (.ite h.setStream h)) (.ite h.setStream h)))
    (.ite (.enqueueRing (.ite h.setStream h)) (.ite h.setStream h))

protected theorem Inv.streamEvent {c event detail data : Nat} (h : Inv s) :
    Inv (streamEvent c event detail data s) := h.enqueueRecord

protected theorem Inv.reportLtr {before : Bool} (h : Inv s) : Inv (reportLtr before s) := .ite h h.send

protected theorem Inv.supersede {c : Nat} (h : Inv s) : Inv (supersede c s) := .ite h h.setMr.setDest.poolFree

protected theorem Inv.transition {c : Nat} {dest : StreamState} {event detail faultSeq : Nat} (h : Inv s) :
    Inv (transition c dest event detail faultSeq s) :=
  .ite (.updateWire (.hwSet (h.setStream.reportLtr.supersede.enqueueRecord.same rfl)))
    h.setStream.reportLtr.supersede.enqueueRecord

protected theorem Inv.transitionByReply {c : Nat} {dest : StreamState} (h : Inv s) :
    Inv (transitionByReply c dest s) := h.setStream.reportLtr

protected theorem Inv.setClip {k : Clip} (h : Inv s) : Inv (setClip k s) := h.same rfl

protected theorem Inv.killTransfers {p : Transfer → Bool} {pr : ParkRecord → Bool} (h : Inv s) :
    Inv (killTransfers p pr s) := .poolFree (h.same rfl)

protected theorem Inv.clipSweep {num : Nat} (h : Inv s) : Inv (clipSweep num s) := by
  unfold Machine.clipSweep
  split
  · exact h
  · exact .ite h (.poolFree (h.same rfl))

protected theorem Inv.endClip {num : BitVec 16} {outcome detail : Nat} (h : Inv s) :
    Inv (endClip num outcome detail s) := by
  unfold Machine.endClip
  dsimp only
  split
  · exact h
  · refine Inv.finishCause ?_
    refine Inv.clipSweep ?_
    refine Inv.setClip ?_
    refine Inv.same ?_ rfl
    refine Inv.killTransfers ?_
    split
    · exact h.enqueueRecord.setEnc
    · exact h.enqueueRecord

protected theorem Inv.endClipsOf {c outcome : Nat} (h : Inv s) : Inv (endClipsOf c outcome s) :=
  h.foldl fun _ _ h => h.endClip

protected theorem Inv.removeFlow {c : Nat} (h : Inv s) : Inv (removeFlow c s) := h.same rfl

protected theorem Inv.leaveGroup {c : Nat} (h : Inv s) : Inv (leaveGroup c s) :=
  .ite (.ite h h.setPort.sendControl) h

protected theorem Inv.dropWindow {c : Nat} (h : Inv s) : Inv (dropWindow c s) := h.setStream.poolFree

protected theorem Inv.dropPushes {c : Nat} (h : Inv s) : Inv (dropPushes c s) :=
  h.foldl fun _ _ h => h.killTransfers.finish

protected theorem Inv.leaveSheaf {c : Nat} (h : Inv s) : Inv (leaveSheaf c s) := by
  unfold Machine.leaveSheaf
  dsimp only
  split
  · exact h
  · exact h.same rfl

protected theorem Inv.sheafBoundary (h : Inv s) : Inv (sheafBoundary s) := by
  unfold Machine.sheafBoundary
  dsimp only
  refine .foldl (h.same rfl) fun _ _ h => ?_
  split
  · exact .ite h.setStream h
  · exact .ite (.foldl (.same (.ite h.setStream h) rfl) fun _ _ h => h.setStream.streamEvent)
      (.same (.ite h.setStream h) rfl)

protected theorem Inv.unmapHeld {x : HeldPages} (h : Inv s) : Inv (unmapHeld x s) := h.same rfl

protected theorem Inv.giveBack {x : HeldPages} (h : Inv s) : Inv (giveBack x s) := .ite (h.same rfl) h.unmapHeld

protected theorem Inv.releaseHeld (h : Inv s) : Inv (releaseHeld s) := .foldl (h.same rfl) fun _ _ h => h.unmapHeld

protected theorem Inv.freePinned {c : Nat} (h : Inv s) : Inv (freePinned c s) := h.giveBack.setStream

protected theorem Inv.giveUp {held : Bool} {c : Nat} (h : Inv s) : Inv (giveUp held c s) :=
  .setStream (.leaveSheaf (.dropWindow (.dropPushes (.ite h.leaveGroup h))))

protected theorem Inv.shedStream {c detail : Nat} (h : Inv s) : Inv (shedStream c detail s) :=
  .ite h.endClipsOf.removeFlow.transition.giveUp h

protected theorem Inv.faultStream {c : Nat} {r : FaultRec} (h : Inv s) : Inv (faultStream c r s) :=
  .ite h.recordFault.endClipsOf.transition.giveUp h

/-! ### Machine/Rings -/

protected theorem Inv.errCfg {k : RingKind} {r : BitVec 6} (h : Inv s) : Inv (errCfg k r s) :=
  .updateWire (.hwSet (h.same rfl))

protected theorem Inv.errSize {k : RingKind} {r : BitVec 6} (h : Inv s) : Inv (errSize k r s) :=
  .updateWire (.hwSet (h.same rfl))

protected theorem Inv.errDoorbell {r : BitVec 6} (h : Inv s) : Inv (errDoorbell r s) :=
  .updateWire (.hwSet (h.same rfl))

protected theorem Inv.errBusy {k : RingKind} {r : BitVec 6} (h : Inv s) : Inv (errBusy k r s) :=
  .updateWire (.hwSet (h.same rfl))

protected theorem Inv.doorbell {n : BitVec 6} {tail : Nat} (h : Inv s) : Inv (doorbell n tail s) :=
  .ite h.errDoorbell (.ite h.errDoorbell h.setSq)

protected theorem Inv.execDoorbellWrite {offset : BitVec 16} {value : Word} (h : Inv s) :
    KeepsInv (execDoorbellWrite offset value s) := .next (.ite h.doorbell h)

protected theorem Inv.cfgSq {n : BitVec 6} {w : Word} (h : Inv s) : Inv (cfgSq n w s) :=
  .ite (.ite (.errCfg (.ite h h.setSq)) (.ite h h.setSq)) (.ite h.setSq (.ite h.setSq h.setSq.errSize))

protected theorem Inv.cfgCq {n : BitVec 6} {w : Word} (h : Inv s) : Inv (cfgCq n w s) :=
  .ite (.ite (.errCfg (.ite h.setCq (.ite h.setCq.errBusy h.setCq.setCq)))
    (.ite h.setCq (.ite h.setCq.errBusy h.setCq.setCq))) (.ite h.setCq (.ite h.setCq.flushCq h.setCq.errSize))

protected theorem Inv.cfgMr {n : BitVec 6} {w : Word} (h : Inv s) : Inv (cfgMr n w s) :=
  .ite (.ite (.errCfg (.ite h.setMr (.ite h.setMr.errBusy h.setMr.setMr)))
    (.ite h.setMr (.ite h.setMr.errBusy h.setMr.setMr))) (.ite h.setMr (.ite h.setMr.refreshMr h.setMr.errSize))

protected theorem Inv.cfgWrite {k : RingKind} {n : BitVec 6} {w : Word} (h : Inv s) : Inv (cfgWrite k n w s) := by
  unfold Machine.cfgWrite
  split
  · exact h.cfgSq
  · exact h.cfgCq
  · exact h.cfgMr

protected theorem Inv.execRingEnable {kind : RingKind} {ring : BitVec 6} {cfg : Word} (h : Inv s) :
    KeepsInv (execRingEnable kind ring cfg s) := by
  unfold Machine.execRingEnable
  refine .ite ?_ ?_
  · exact .fault
  · exact .next (.ite h.cfgWrite h)

protected theorem Inv.execRingDisable {kind : RingKind} {ring : BitVec 6} {cfg : Word} (h : Inv s) :
    KeepsInv (execRingDisable kind ring cfg s) := by
  unfold Machine.execRingDisable
  refine .ite ?_ ?_
  · exact .fault
  · exact .next (.ite h.cfgWrite h)

protected theorem Inv.ringCreditBody {f : Fetched} (h : Inv s) : Inv (ringCreditBody f s) :=
  .ite (.ite h.answer (.ite h.answer h.setCq.flushCq)) (.ite h.answer (.ite h.answer h.setMr.refreshMr))

protected theorem Inv.execRingCredit {ring : BitVec 6} {p : Packet} (h : Inv s) :
    KeepsInv (execRingCredit ring p s) := h.packetStep (fun _ _ h => h.ringCreditBody)

protected theorem Inv.execReplyDeadline {ring : BitVec 6} {tag : BitVec 16} (h : Inv s) :
    KeepsInv (execReplyDeadline ring tag s) := by
  unfold Machine.execReplyDeadline
  dsimp only
  refine .next ?_
  split
  · exact h
  · exact .pushReply (h.same rfl)

protected theorem Inv.writeMrEntry {n : Nat} {bytes : List Byte} (h : Inv s) : Inv (writeMrEntry n bytes s) :=
  .ite (.updateWire (.noteEntry (.hwSet (h.hostWrite.setMr.same rfl)))) h.hostWrite.setMr

protected theorem Inv.countRecord {q : QRec} {late : Bool} (h : Inv s) : Inv (countRecord q late s) := h.setStream

protected theorem Inv.lastRecordCheck {c : Nat} (h : Inv s) : Inv (lastRecordCheck c s) := by
  unfold Machine.lastRecordCheck
  dsimp only
  refine h.foldl fun _ _ h => ?_
  split
  · exact .ite h h.finish
  · exact h

protected theorem Inv.lastRecordSweep (h : Inv s) : Inv (lastRecordSweep s) :=
  h.foldl fun _ _ h => h.lastRecordCheck

protected theorem Inv.execRecordEgress {mr : BitVec 6} (h : Inv s) : KeepsInv (execRecordEgress mr s) := by
  unfold Machine.execRecordEgress
  dsimp only
  refine .next ?_
  split
  · exact h.refreshMr
  · refine .ite ?_ ?_
    · exact h.refreshMr
    · refine Inv.refreshMr ?_
      refine Inv.lastRecordCheck ?_
      refine Inv.countRecord ?_
      refine Inv.poolFree ?_
      refine Inv.setMr ?_
      split
      · exact h.refreshMr.writeMrEntry.writeMrEntry
      · exact h.refreshMr.writeMrEntry

protected theorem Inv.execDatagramSend {mr : BitVec 6} (h : Inv s) : KeepsInv (execDatagramSend mr s) := by
  unfold Machine.execDatagramSend
  dsimp only
  refine .next ?_
  refine .ite ?_ ?_
  · exact h
  · split
    · exact h
    · exact .ite h (h.send.setDest.foldl fun _ _ h => h.poolFree.countRecord.lastRecordCheck)

protected theorem Inv.execNextHopResolved {mr : BitVec 6} (h : Inv s) : KeepsInv (execNextHopResolved mr s) :=
  .next (.ite h.setDest h)

protected theorem Inv.hostReturned (h : Inv s) : Inv (hostReturned s) := h.flushAllCq.refreshAllMr

protected theorem Inv.execIntCoalTimer (h : Inv s) : KeepsInv (execIntCoalTimer s) := by
  unfold Machine.execIntCoalTimer
  dsimp only
  refine .next ?_
  split
  · exact .ite (.updateWire (h.same rfl)) h
  · exact h

theorem wireOk_command {w : Bool} {l : Link} {c : BitVec 16} (h : wireOk w l = true) (hc : c.getLsbD 10 = false) :
    wireOk w { l with command := c } = true := by
  cases w
  · rfl
  · simp_all [wireOk]

/-- Interrupt Disable drops the wire; without it the wire stands or falls with the rest of its conditions. -/
protected theorem Inv.execInterruptDisableWrite {command : BitVec 16} (h : Inv s) :
    KeepsInv (execInterruptDisableWrite command s) := by
  unfold Machine.execInterruptDisableWrite
  dsimp only
  refine .ite (.next h) (.next (.hostReturned ?_))
  by_cases hc : command.getLsbD 10 = true
  · rw [if_pos hc]
    exact h.dropped rfl
  · rw [if_neg hc]
    have hcommand : (command &&& commandMask).getLsbD 10 = false := by
      rw [BitVec.getLsbD_and, Bool.eq_false_iff.mpr hc, Bool.false_and]
    have hs : Inv { s with link := { s.link with command := command &&& commandMask } } :=
      h.wired (wireOk_command h.wire hcommand) rfl
    exact .ite hs.restoreWire hs

/-! ### Machine/Resets -/

protected theorem Inv.powerOnReset : Inv (powerOnReset s) := by
  have hlimit : (16 : Byte) ≠ 0 := by decide
  exact ⟨rfl, hlimit, rfl, rfl⟩

protected theorem Inv.functionReset (h : Inv s) : Inv (functionReset s) := by
  obtain ⟨hmem, -, hseq, -⟩ := h
  have hlimit : (16 : Byte) ≠ 0 := by decide
  exact ⟨hmem, hlimit, hseq, rfl⟩

protected theorem Inv.retireCore {n : Nat} (h : Inv s) : Inv (retireCore n s) := h.setCore

protected theorem Inv.postFail {f : PostFail} (h : Inv s) : Inv (postFail f s) := by
  unfold Machine.postFail
  dsimp only
  refine .ite ?_ ?_
  · split
    · exact h.retireCore.recordFault
    · exact h.setDec.recordFault
    · exact h.setPrep.recordFault
    · exact h.setEnc.recordFault
    · exact h
  · exact .ite h.recordFault h

protected theorem Inv.classCheck (h : Inv s) : Inv (classCheck s) := .ite h.faultSimple.enterOos h

protected theorem Inv.startRounds (h : Inv s) : Inv (startRounds s) := h.same rfl

protected theorem Inv.becomeReady (h : Inv s) : Inv (becomeReady s) := by
  unfold Machine.becomeReady
  dsimp only
  have hr := (h.wired (t := { s with glb := { s.glb with ready := true }, link := { s.link with crs := false } })
    h.wire rfl).startRounds
  exact .ite (.updateWire (.hwSet (.hwSet (hr.faultSimple.same rfl)))) hr

/-! ### Machine/Recovery -/

protected theorem Inv.corePowerOn {n : Nat} (h : Inv s) : Inv (corePowerOn n s) :=
  .ite h (.setCore (h.drawFree.same rfl))

protected theorem Inv.corePowerOff {n : Nat} (h : Inv s) : Inv (corePowerOff n s) := h.setCore

protected theorem Inv.coreLoad {n : Nat} (h : Inv s) : Inv (coreLoad n s).2 := by
  unfold Machine.coreLoad
  dsimp only
  exact .ite_2 (.snd h.setCore) (.ite_2 (.snd h.dpaBytes) (.snd h.dpaBytes.setCore))

protected theorem Inv.captureOne {bulk : Bool} {n : Nat} (h : Inv s) : Inv (captureOne bulk n s) := by
  unfold Machine.captureOne
  dsimp only
  split
  · exact h.same rfl
  · exact h

protected theorem Inv.captureTransfers (h : Inv s) : Inv (captureTransfers s) :=
  .foldl (h.foldl fun _ _ h => h.captureOne) fun _ _ h => h.captureOne

protected theorem Inv.resumeTransfer {p : ParkRecord} (h : Inv s) : Inv (resumeTransfer p s) :=
  .ite (.same (h.same rfl) rfl) (.same (h.same rfl) rfl)

protected theorem Inv.resumeCaptured (h : Inv s) : Inv (resumeCaptured s) :=
  h.foldl fun _ _ h => .resumeTransfer (h.same rfl)

protected theorem Inv.endJob {ring : BitVec 6} {tag : BitVec 16} {r : Reply} (h : Inv s) :
    Inv (endJob ring tag r s) := by
  unfold Machine.endJob
  dsimp only
  split
  · exact h
  · exact .finishCause (.finish (h.killTransfers.poolFree.same rfl))

protected theorem Inv.endJobs {r : Reply} (h : Inv s) : Inv (endJobs r s) := h.foldl fun _ _ h => h.endJob

protected theorem Inv.abortUnits (h : Inv s) : Inv (abortUnits s) := h.same rfl

protected theorem Inv.startReset {r : FaultRec} {sus : List Suspect} (h : Inv s) : Inv (startReset r sus s) := by
  unfold Machine.startReset
  dsimp only
  refine .ite ?_ ?_
  · exact h.same rfl
  · split
    · exact h.recordFault.same rfl
    · exact .abortUnits (.captureTransfers (h.recordFault.same rfl))

protected theorem Inv.eccReset {unit : BitVec 16} {before : Word} {sus : List Suspect} (h : Inv s) :
    Inv (eccReset unit before sus s) := h.startReset.foldl fun _ _ h => h.startReset

protected theorem Inv.dropFrame {c seq : Nat} (h : Inv s) : Inv (dropFrame c seq s) := h.poolFree.poolFree.same rfl

protected theorem Inv.loseList (h : Inv s) : Inv (loseList s) := .same (h.foldl fun _ _ h => h.setStream) rfl

protected theorem Inv.testGroups {cores : List Nat} (h : Inv s) : Inv (testGroups cores s) := h.same rfl

protected theorem Inv.refault {x y : Suspect} (h : Inv s) : Inv (refault x y s) := by
  unfold Machine.refault
  split
  · exact h.faultStream.dropFrame
  · exact h.faultStream.dropFrame
  · exact h.endJob
  · exact .ite (.loseList (h.same rfl)) (.same (h.same rfl) rfl)
  · refine .ite (.foldl ?_ fun _ _ h => h.faultStream) (.testGroups (h.same rfl))
    split
    · exact .setNet (h.same rfl)
    · exact h.same rfl
  · exact h

protected theorem Inv.endReplay {x : Suspect} (h : Inv s) : Inv (endReplay x s) := h.same rfl

protected theorem Inv.countReset {step : Nat} {seq : Word} (h : Inv s) : Inv (countReset step seq s) :=
  .ite (.enterOos (.recordFault (h.hwSet.same rfl))) (h.hwSet.same rfl)

protected theorem Inv.writeShift {q : Word} {d : Nat} (h : Inv s) : Inv (writeShift q d s) := h.same rfl

protected theorem Inv.restartEngines (h : Inv s) : Inv (restartEngines s) := h.same rfl

protected theorem Inv.restoreCores (h : Inv s) : Inv (restoreCores s) :=
  h.foldl fun _ _ h => h.drawFree.setCore.coreLoad.setCore

protected theorem Inv.completeReset {rs : Reset} (h : Inv s) : Inv (completeReset rs s) :=
  .countReset (.foldl (.foldl (.resumeCaptured (.writeShift (h.restoreCores.restartEngines.same rfl))) fun _ _ h =>
    h.refault) fun _ _ h => h.endJob)

protected theorem Inv.execComputeResetComplete (h : Inv s) : KeepsInv (execComputeResetComplete s) := by
  unfold Machine.execComputeResetComplete
  refine .next ?_
  split
  · exact .ite h h.completeReset
  · exact h

protected theorem Inv.execResetTimeout (h : Inv s) : KeepsInv (execResetTimeout s) := by
  unfold Machine.execResetTimeout
  dsimp only
  refine .next ?_
  split
  · exact .ite h (.enterOos (h.recordFault.same rfl))
  · exact h

protected theorem Inv.execFabricError {index : BitVec 12} (h : Inv s) : KeepsInv (execFabricError index s) :=
  .next h.startReset

protected theorem Inv.copyRecords (h : Inv s) : Inv (copyRecords s) :=
  .foldl (h.foldl fun _ _ h => h.psramStore) fun _ _ h => h.psramStore

protected theorem Inv.execFaultLogCopy (h : Inv s) : KeepsInv (execFaultLogCopy s) :=
  .next (.ite h (.enterLow (h.copyRecords.same rfl)))

/-! ### Machine/Parks -/

protected theorem Inv.clipComplete {num : Nat} (h : Inv s) : Inv (clipComplete num s) := by
  unfold Machine.clipComplete
  split
  · exact h
  · exact .ite h.endClip h

protected theorem Inv.clipFault {num : Nat} {cause : Byte} (h : Inv s) : Inv (clipFault num cause s) := by
  unfold Machine.clipFault
  split
  · exact h.clipSweep
  · exact .ite h.endClip h.setClip

protected theorem Inv.killReport {cls : Nat} {owner : Word} {cause : Byte} {blocks : List Nat} (h : Inv s) :
    Inv (killReport cls owner cause blocks s) := by
  unfold Machine.killReport
  dsimp only
  split
  · exact h.poolFree.finish
  · exact .endJob (h.poolFree.same rfl)
  · exact h.poolFree.clipFault
  · exact h.poolFree.finish
  · exact .ite h.poolFree.clipFault h.poolFree.finish
  · exact h.poolFree

protected theorem Inv.parkTransfer {bulk : Bool} {n : Nat} {t : Transfer} {cause : Byte} {faultAddr retries : Nat}
    (h : Inv s) : Inv (parkTransfer bulk n t cause faultAddr retries s) := by
  unfold Machine.parkTransfer
  dsimp only
  split
  · exact .killReport (h.same rfl)
  · exact .same (.recordFault (h.same rfl)) rfl

protected theorem Inv.freezeRecord {bulk : Bool} {n : Nat} {t : Transfer} (h : Inv s) :
    Inv (freezeRecord bulk n t s) := by
  unfold Machine.freezeRecord
  dsimp only
  split
  · exact h
  · exact .poolFree (h.same rfl)

protected theorem Inv.freezeOne {bulk : Bool} {n : Nat} {t : Transfer} (h : Inv s) : Inv (freezeOne bulk n t s) :=
  .ite (.freezeRecord (h.same rfl)) (h.same rfl)

protected theorem Inv.freezeJob {ring : BitVec 6} {tag : BitVec 16} (h : Inv s) : Inv (freezeJob ring tag s) :=
  .foldl (h.foldl fun _ _ h => h.foldl fun _ _ h1 => h1.freezeOne) fun _ _ h => h.foldl fun _ _ h1 => h1.freezeOne

protected theorem Inv.thawOne {i : Nat} {p : ParkRecord} (h : Inv s) : Inv (thawOne i p s) := by
  unfold Machine.thawOne
  dsimp only
  split
  · next heq => exact .ite h (.same (h.poolAlloc.of_eq_2 heq) rfl)
  · next heq => exact .resumeTransfer (.same (h.poolAlloc.of_eq_2 heq) rfl)

protected theorem Inv.thawJob {ring : BitVec 6} {tag : BitVec 16} (h : Inv s) : Inv (thawJob ring tag s) :=
  h.foldl fun _ _ h => h.thawOne

protected theorem Inv.parkAction {i : Nat} {p : ParkRecord} (h : Inv s) : Inv (parkAction i p s) := by
  unfold Machine.parkAction
  dsimp only
  refine .ite ?_ ?_
  · exact h
  · refine .ite ?_ ?_
    · refine .ite ?_ ?_
      · exact h
      · refine .ite ?_ ?_
        · exact .ite (.setMr (.same (h.foldl fun _ _ h => h.dropRecord.poolFree) rfl)) (h.same rfl)
        · split
          · exact .setSq (h.same rfl)
          · exact .flushCq (.setCq (h.same rfl))
          · exact .refreshMr (.setMr (h.same rfl))
    · exact .killReport (h.same rfl)

protected theorem Inv.execParkRecordAction {index : BitVec 10} (h : Inv s) :
    KeepsInv (execParkRecordAction index s) := by
  unfold Machine.execParkRecordAction
  refine .next ?_
  split
  · exact h.parkAction
  · exact h

/-! ### Machine/RollCall -/

protected theorem Inv.nextClassDown (h : Inv s) : Inv (nextClassDown s) := h.foldl fun _ _ h => h.setCore

/-! ### Machine/Crop -/

protected theorem Inv.dpaGather {ws : List Nat} (h : Inv s) : Inv (dpaGather ws s).2 := by
  unfold Machine.dpaGather
  dsimp only
  exact h.foldl_pair fun _ _ h => h.dpaReads

protected theorem Inv.countEv {n : Nat} {e : Ev} (h : Inv s) : Inv (countEv n e s) := h.setCore

protected theorem Inv.cropWords {x : Nat} {r : CropRec} {n : Nat} {box geom : List Byte} (h : Inv s) :
    Inv (cropWords x r n box geom s).2.2 := h.dpaGather

protected theorem Inv.listEntry {r : CropRec} {cap n e : Nat} (h : Inv s) : Inv (listEntry r cap n e s).2.2.2 :=
  h.dpaBytes.dpaBytes

protected theorem Inv.regionOf {x : Nat} {r : CropRec} {cap n e : Nat} (h : Inv s) :
    Inv (regionOf x r cap n e s).2.2 := .ite_2_2 (.thd h.listEntry.dpaBytes.cropWords) (.thd h.listEntry)

protected theorem Inv.cropAll {x : Nat} {r : CropRec} {ns : List Nat} (h : Inv s) : Inv (cropAll x r ns s).2.2 := by
  unfold Machine.cropAll
  dsimp only
  refine h.foldl_2_2 fun _ _ h => ?_
  split
  · exact h.regionOf.dpaWrites
  · exact h.regionOf

/-! ### Machine/Bell -/

protected theorem Inv.noteHang {kind index cores slot : Nat} (h : Inv s) : Inv (noteHang kind index cores slot s) :=
  h.hwSet.same rfl

protected theorem Inv.missedLayer (h : Inv s) : Inv (missedLayer s).1 := by
  unfold Machine.missedLayer
  dsimp only
  split
  · exact h.killTransfers.same rfl
  · exact .ite_1 (.fst h) (.fst h)

protected theorem Inv.tileMissing {n : Nat} (h : Inv s) : Inv (tileMissing n s) :=
  h.missedLayer.noteHang.startReset.same rfl

protected theorem Inv.markPoison (h : Inv s) : Inv (markPoison s) := h.same rfl

protected theorem Inv.storeRowMap {b : Nat} {rows : List Row} (h : Inv s) : Inv (storeRowMap b rows s) :=
  .dpaStore (h.same rfl)

protected theorem Inv.closeLayer (h : Inv s) : Inv (closeLayer s) := by
  unfold Machine.closeLayer
  dsimp only
  refine Inv.same ?_ rfl
  split
  · exact .endReplay (.foldl (.markPoison (h.foldl fun _ _ h => h.setWc)) fun _ _ h => h.storeRowMap)
  · exact .foldl (.markPoison (h.foldl fun _ _ h => h.setWc)) fun _ _ h => h.storeRowMap

protected theorem Inv.markFrames {ids : List Nat} (h : Inv s) : Inv (markFrames ids s) := h.same rfl

protected theorem Inv.writeRows {w : BitVec 4096} (h : Inv s) : Inv (writeRows w s) := by
  unfold Machine.writeRows
  dsimp only
  refine .ite ?_ ?_
  · exact h
  · refine .ite ?_ ?_
    · exact h.storeRowMap
    · split
      · exact h
      · exact .ite h.markFrames.storeRowMap h.markFrames.storeRowMap.recordFault

protected theorem Inv.runCore {n entry arg : Nat} (h : Inv s) : Inv (runCore n entry arg s) := h.setCore

protected theorem Inv.sleepCore {n : Nat} (h : Inv s) : Inv (sleepCore n s) := .ite h.setCore h.corePowerOff

protected theorem Inv.addAction {a : Action} (h : Inv s) : Inv (addAction a s) := h.same rfl

protected theorem Inv.queueTimed {c : Nat} {t : Transfer} (h : Inv s) : Inv (queueTimed c t s) := h.same rfl

protected theorem Inv.slotActions {phys : Nat → Nat} {b : BeBase} {i : Nat} {job : Option (BitVec 6 × BitVec 16)}
    {w : BitVec 4096} (h : Inv s) : Inv (slotActions phys b i job w s) := by
  unfold Machine.slotActions
  refine .ite ?_ (.addAction (.wakeDomain (.same ?_ rfl)))
  all_goals
    refine .foldl (.foldl (.foldl (.foldl h fun _ _ h => h.setWc) fun _ _ h => .foldl h fun _ _ h => ?_)
      fun _ _ h => .ite h.queueTimed.addAction h) fun _ _ h => .ite (.foldl h fun _ _ h => h.addAction) h
    split
    · exact h.runCore.addAction
    · exact h.sleepCore
    · exact h

protected theorem Inv.wakeGroups {phys : Nat → Nat} {i : Nat} {w : BitVec 4096} (h : Inv s) :
    Inv (wakeGroups phys i w s) := h.foldl fun _ _ h => h.corePowerOn.setCore

protected theorem Inv.preempt (h : Inv s) : Inv (preempt s) := h.foldl fun _ _ h => h.freezeJob

protected theorem Inv.startInput {j : Job} (h : Inv s) : Inv (startInput j s) := by
  unfold Machine.startInput
  dsimp only
  refine .ite ?_ ?_
  · exact h
  · refine .ite ?_ ?_
    · exact h.same rfl
    · split
      · next heq => exact .ite h (.same (h.poolAlloc.of_eq_2 heq) rfl)
      · next heq => exact .same (.same (h.poolAlloc.of_eq_2 heq) rfl) rfl

protected theorem Inv.startInputs (h : Inv s) : Inv (startInputs s) := h.foldl fun _ _ h => h.startInput

protected theorem Inv.stopGap {g : Gap} (h : Inv s) : Inv (stopGap g s) := h.same rfl

protected theorem Inv.placeLayer {g : Gap} (h : Inv s) : Inv (placeLayer g s) := by
  unfold Machine.placeLayer
  dsimp only
  refine .ite ?_ ?_
  · exact h
  · refine .ite ?_ ?_
    · exact h.stopGap
    · split
      · exact h.stopGap
      · split
        · exact h.stopGap
        · exact .same (.thawJob (h.foldl fun _ _ h => h.freezeJob)) rfl

protected theorem Inv.issueSlot {i : Nat} {w : BitVec 4096} (h : Inv s) : Inv (issueSlot i w s) := by
  unfold Machine.issueSlot
  dsimp only
  split
  · exact .placeLayer (.slotActions
      (.wakeGroups (.same (.ite (.writeRows (.ite (.preempt (.ite h.closeLayer h)) (.ite h.closeLayer h)))
      (.ite (.preempt (.ite h.closeLayer h)) (.ite h.closeLayer h))) rfl)))
  · exact .slotActions (.wakeGroups
      (.same (.ite (.writeRows (.ite (.preempt (.ite h.closeLayer h)) (.ite h.closeLayer h)))
      (.ite (.preempt (.ite h.closeLayer h)) (.ite h.closeLayer h))) rfl))

protected theorem Inv.issueGapSlot {g : Gap} {w : BitVec 4096} {rest : List (BitVec 4096)} (h : Inv s) :
    Inv (issueGapSlot g w rest s) := by
  unfold Machine.issueGapSlot
  dsimp only
  refine .ite ?_ ?_
  · exact h
  · split
    · exact h.tileMissing
    · exact .slotActions (.wakeGroups (.same (.ite h.closeLayer h) rfl))

protected theorem Inv.retryInputs (h : Inv s) : Inv (retryInputs s) := by
  unfold Machine.retryInputs
  dsimp only
  split
  · exact .thawJob (.ite h h.startInputs)
  · exact .ite h h.startInputs

protected theorem Inv.fetchSlot {i : Nat} {w : BitVec 4096} {body : State → State} (h : Inv s)
    (hb : ∀ s, Inv s → Inv (body s)) : Inv (fetchSlot i w body s) :=
  .ite (hb _ h) (.ite (hb _ (h.foldl_pair fun _ _ h => h.dpaReads)) (.eccReset (h.foldl_pair fun _ _ h => h.dpaReads)))

protected theorem Inv.execSlotIssue (h : Inv s) : KeepsInv (execSlotIssue s) := by
  unfold Machine.execSlotIssue
  dsimp only
  refine .next ?_
  refine .ite ?_ ?_
  · exact h
  · split
    · split
      · exact h.retryInputs.issueGapSlot
      · split
        · exact h.retryInputs
        · refine .ite ?_ ?_
          · exact h.retryInputs
          · split
            · exact h.retryInputs.tileMissing
            · exact h.retryInputs.fetchSlot (fun _ h => h.issueSlot)
    · split
      · exact h.retryInputs
      · refine .ite ?_ ?_
        · exact h.retryInputs
        · split
          · exact h.retryInputs.tileMissing
          · exact h.retryInputs.fetchSlot (fun _ h => h.issueSlot)

protected theorem Inv.startOutput {j : Job} (h : Inv s) : Inv (startOutput j s) := .ite h.endJob (h.same rfl)

protected theorem Inv.jobAdvance {k : BitVec 6 × BitVec 16} {ran : Nat} (h : Inv s) : Inv (jobAdvance k ran s) := by
  unfold Machine.jobAdvance
  dsimp only
  split
  · exact h
  · exact .ite (.endJob (.endReplay (.same (.ite h.poolFree h) rfl)))
      (.ite (.startOutput (.endReplay (.same (.ite h.poolFree h) rfl)))
      (.endReplay (.same (.ite h.poolFree h) rfl)))

protected theorem Inv.finishLayer {g : Gap} {k : BitVec 6 × BitVec 16} (h : Inv s) : Inv (finishLayer g k s) :=
  .placeLayer (.jobAdvance (h.same rfl))

protected theorem Inv.cropFinish {core : Nat} {a : Action} (h : Inv s) : Inv (cropFinish core a s).2 := by
  unfold Machine.cropFinish
  dsimp only
  exact .ite_2 (.snd h) (h.foldl_pair fun _ _ h => h.cropAll.countEv)

protected theorem Inv.unitEnds {a : Action} (h : Inv s) : Inv (unitEnds a s).2 := by
  unfold Machine.unitEnds
  split
  · exact h.corePowerOff.ite h
  · exact h.same rfl
  · exact h.cropFinish
  · refine h.foldl fun _ _ h => ?_
    split
    · exact h.endReplay
    · exact h

protected theorem Inv.execUnitFinish {u : UnitId} {poisonRows : List Nat} (h : Inv s) :
    KeepsInv (execUnitFinish u poisonRows s) := by
  unfold Machine.execUnitFinish
  dsimp only
  refine .next ?_
  split
  · exact h
  · refine .ite ?_ ?_
    · exact h
    · split
      · exact .ite (.finishLayer (.same (.unitEnds (h.same rfl)) rfl)) (.same (.unitEnds (h.same rfl)) rfl)
      · exact .same (.unitEnds (h.same rfl)) rfl

protected theorem Inv.execCoreReady {core : BitVec 7} (h : Inv s) : KeepsInv (execCoreReady core s) :=
  .next (.ite h (.ite h.coreLoad.setCore h.coreLoad))

protected theorem Inv.execWakeTimeout {core : BitVec 7} (h : Inv s) : KeepsInv (execWakeTimeout core s) := by
  unfold Machine.execWakeTimeout
  dsimp only
  refine .next ?_
  split
  · exact h
  · exact .ite h (.startReset (.testGroups (h.noteHang.foldl fun _ _ h => h.setCore)))

protected theorem Inv.execActionHang {u : UnitId} (h : Inv s) : KeepsInv (execActionHang u s) := by
  unfold Machine.execActionHang
  dsimp only
  refine .next ?_
  split
  · exact h
  · exact .ite h h.noteHang.testGroups.startReset

/-! ### Machine/Tile -/

protected theorem Inv.coreEvents {n memory : Nat} {es : List EccEvent} (h : Inv s) :
    Inv (coreEvents n memory es s) := h.reportEccs

protected theorem Inv.coreReads {n : Nat} {wgt : Bool} {a k : Nat} (h : Inv s) : Inv (coreReads n wgt a k s).2 :=
  h.setCore.coreEvents

protected theorem Inv.coreWrites {n : Nat} {wgt : Bool} {a : Nat} {l : List (Word × Bool)} (h : Inv s) :
    Inv (coreWrites n wgt a l s) := h.meetPoison.setCore

protected theorem Inv.coreBytes {n : Nat} {wgt : Bool} {a k : Nat} (h : Inv s) : Inv (coreBytes n wgt a k s).2.2 :=
  h.coreReads

protected theorem Inv.coreStore {n a : Nat} {l : List Byte} {poison : Bool} (h : Inv s) :
    Inv (coreStore n a l poison s) := h.coreWrites

protected theorem Inv.coreWord {n memory off : Nat} {raw : Word} {put : Word → Core → Core} {scope : Nat}
    (h : Inv s) : Inv (coreWord n memory off raw put scope s).2.2 := by
  unfold Machine.coreWord
  dsimp only
  split
  · exact h
  · exact h.reportEcc
  · exact h.setCore.reportEcc
  · exact h.setCore.reportEcc

protected theorem Inv.accFix {n i : Nat} {l : List Nat} (h : Inv s) : Inv (accFix n i l s) := by
  induction l generalizing s with
  | nil => exact h
  | cons k ks ih => exact ih (h.coreWord.setCore.ite h.coreWord)

protected theorem Inv.accRead {n i : Nat} (h : Inv s) : Inv (accRead n i s).2 := h.accFix

protected theorem Inv.accWrite {n i : Nat} {r : AccRow} (h : Inv s) : Inv (accWrite n i r s) :=
  .setCore (.meetPoison (.ite h.hwSet h))

protected theorem Inv.scaleRead {n b : Nat} (h : Inv s) : Inv (scaleRead n b s).2.2 := h.coreWord

protected theorem Inv.progWord {scope n a : Nat} (h : Inv s) : Inv (progWord scope n a s).2.2 := by
  unfold Machine.progWord
  dsimp only
  exact h.foldl_triple fun _ _ h => h.coreWord

protected theorem Inv.fetchInsn {n a : Nat} (h : Inv s) : Inv (fetchInsn n a s).2.2 := h.progWord

protected theorem Inv.insnFault {n op res amount : Nat} (h : Inv s) : Inv (insnFault n op res amount s) :=
  h.hwSet.setCore.noteHang.testGroups.startReset

protected theorem Inv.advance {n : Nat} (h : Inv s) : Inv (advance n s) := h.setCore

/-- An instruction of a tile program faults, waits or runs its body. -/
theorem Inv.tileStep {mine : Nat → Bool} {checks : List Check} {ready : State → Nat → Nat → Bool}
    {body : Nat → Nat → State → State} {core : BitVec 7} {w : BitVec 128} (h : Inv s)
    (hb : ∀ n w s, Inv s → Inv (body n w s)) : KeepsInv (tileStep mine checks ready body core w s) := by
  unfold Machine.tileStep
  dsimp only
  refine .ite .fault (.next (.ite h (.ite h.insnFault (.ite h.fetchInsn.eccReset ?_))))
  split
  · exact h.fetchInsn.insnFault
  · refine .ite h.fetchInsn ?_
    split
    · exact h.fetchInsn.insnFault
    · exact .ite (hb _ _ _ h.fetchInsn).advance h.fetchInsn

protected theorem Inv.loadTile {n w : Nat} (h : Inv s) : Inv (loadTile n w s) := h.coreBytes.setCore

protected theorem Inv.scaleWord {n wd : Nat} {l : List (Option (Byte × Bool))} (h : Inv s) :
    Inv (scaleWord n wd l s) := .ite h.setCore (.ite h.scaleRead h.scaleRead.setCore)

protected theorem Inv.loadScales {n w : Nat} (h : Inv s) : Inv (loadScales n w s) :=
  h.coreReads.foldl fun _ _ h => h.scaleWord

protected theorem Inv.execWloadWeights {core : BitVec 7} {w : BitVec 128} (h : Inv s) :
    KeepsInv (execWloadWeights core w s) := h.tileStep (fun _ _ _ h => h.loadTile)

protected theorem Inv.execWloadScales {core : BitVec 7} {w : BitVec 128} (h : Inv s) :
    KeepsInv (execWloadScales core w s) := h.tileStep (fun _ _ _ h => h.loadScales)

protected theorem Inv.endProgram {n x : Nat} (h : Inv s) : Inv (endProgram n x s) := h.setCore

protected theorem Inv.setSteps {n w : Nat} (h : Inv s) : Inv (setSteps n w s) := h.setCore

protected theorem Inv.setMark {n w : Nat} (h : Inv s) : Inv (setMark n w s) := h.setCore

protected theorem Inv.setParam {n w : Nat} (h : Inv s) : Inv (setParam n w s) := h.setCore

protected theorem Inv.execSyncEnd {core : BitVec 7} {w : BitVec 128} (h : Inv s) :
    KeepsInv (execSyncEnd core w s) := h.tileStep (fun _ _ _ h => h.endProgram)

protected theorem Inv.execSyncSteps {core : BitVec 7} {w : BitVec 128} (h : Inv s) :
    KeepsInv (execSyncSteps core w s) := h.tileStep (fun _ _ _ h => h.setSteps)

protected theorem Inv.execSyncQuiet {core : BitVec 7} {w : BitVec 128} (h : Inv s) :
    KeepsInv (execSyncQuiet core w s) := h.tileStep (fun _ _ _ h => h)

protected theorem Inv.execSyncMarks {core : BitVec 7} {w : BitVec 128} (h : Inv s) :
    KeepsInv (execSyncMarks core w s) := h.tileStep (fun _ _ _ h => h.setMark)

protected theorem Inv.execSyncParam {core : BitVec 7} {w : BitVec 128} (h : Inv s) :
    KeepsInv (execSyncParam core w s) := h.tileStep (fun _ _ _ h => h.setParam)

protected theorem Inv.claimLimit {w : Nat} (h : Inv s) : Inv (claimLimit w s).2.2 := by
  unfold Machine.claimLimit
  dsimp only
  refine .ite_2_2 ?_ ?_
  · split
    · exact .ite_2_2 (.thd h.dpaReads) (.thd h.dpaReads)
    · exact h
  · exact h

protected theorem Inv.latchClaim {w : Nat} (h : Inv s) : Inv (latchClaim w s) := .ite h h.claimLimit.setWc

protected theorem Inv.claimTile {n w : Nat} (h : Inv s) : Inv (claimTile n w s) :=
  .ite h.setCore (.ite h.latchClaim.setCore h.latchClaim.setWc.setCore)

protected theorem Inv.execClaim {core : BitVec 7} {w : BitVec 128} (h : Inv s) : KeepsInv (execClaim core w s) :=
  h.tileStep (fun _ _ _ h => h.claimTile)

protected theorem Inv.issueDma {n w : Nat} (h : Inv s) : Inv (issueDma n w s) := h.queueTimed

protected theorem Inv.execDmaIn {core : BitVec 7} {w : BitVec 128} (h : Inv s) : KeepsInv (execDmaIn core w s) :=
  h.tileStep (fun _ _ _ h => h.issueDma)

protected theorem Inv.execDmaOut {core : BitVec 7} {w : BitVec 128} (h : Inv s) : KeepsInv (execDmaOut core w s) :=
  h.tileStep (fun _ _ _ h => h.issueDma)

/-! ### Machine/Array -/

protected theorem Inv.runVector {n w j row : Nat} {acts : List Nat} {poison : Bool} (h : Inv s) :
    Inv (runVector n w j row acts poison s) := .countEv (.accWrite (.ite_2 h.accRead (.snd h)))

protected theorem Inv.coreGather {n : Nat} {ws : List Nat} (h : Inv s) : Inv (coreGather n ws s).2 := by
  unfold Machine.coreGather
  dsimp only
  exact h.foldl_pair fun _ _ h => h.coreReads

protected theorem Inv.countStalls {n : Nat} (h : Inv s) : Inv (countStalls n s) := h.hwPeak.setCore

protected theorem Inv.runPass {n w : Nat} {src : State → Nat → Nat → Nat → BlockSrc} (h : Inv s) :
    Inv (runPass n w src s) := .countStalls (h.foldl fun _ _ h => h.foldl fun _ _ h1 => h1.coreGather.runVector)

protected theorem Inv.runMatmul {n w : Nat} (h : Inv s) : Inv (runMatmul n w s) := h.runPass

protected theorem Inv.execMatmul {core : BitVec 7} {w : BitVec 128} (h : Inv s) : KeepsInv (execMatmul core w s) :=
  h.tileStep (fun _ _ _ h => h.runMatmul)

protected theorem Inv.withProg {n a k : Nat} {body : State → State} (h : Inv s) (hb : ∀ s, Inv s → Inv (body s)) :
    Inv (withProg n a k body s) :=
  .ite (hb _ (h.foldl_pair fun _ _ h => h.fetchInsn)) (.eccReset (h.foldl_pair fun _ _ h => h.fetchInsn))

protected theorem Inv.runConv {n w : Nat} (h : Inv s) : Inv (runConv n w s) := h.withProg (fun _ h => h.runPass)

protected theorem Inv.execConv {core : BitVec 7} {w : BitVec 128} (h : Inv s) : KeepsInv (execConv core w s) :=
  h.tileStep (fun _ _ _ h => h.runConv)

protected theorem Inv.poolTile {n w : Nat} (h : Inv s) : Inv (poolTile n w s) :=
  h.foldl fun _ _ h => h.coreGather.coreWrites.countEv

protected theorem Inv.execPool {core : BitVec 7} {w : BitVec 128} (h : Inv s) : KeepsInv (execPool core w s) :=
  h.tileStep (fun _ _ _ h => h.withProg (fun _ h1 => h1.poolTile))

protected theorem Inv.runCrop {n w : Nat} (h : Inv s) : Inv (runCrop n w s) := by
  unfold Machine.runCrop
  dsimp only
  split
  · exact h.regionOf
  · exact .ite h.regionOf.countEv.dpaWrites h.regionOf.countEv.coreWrites

protected theorem Inv.execCrop {core : BitVec 7} {w : BitVec 128} (h : Inv s) : KeepsInv (execCrop core w s) :=
  h.tileStep (fun _ _ _ h => h.runCrop)

/-! ### Machine/Vector -/

protected theorem Inv.flatRead {n : Nat} {f : Fmt} {base k : Nat} (h : Inv s) : Inv (flatRead n f base k s).2 :=
  h.coreGather

protected theorem Inv.flatWrite {n : Nat} {f : Fmt} {base : Nat} {l : List (Nat × Bool)} (h : Inv s) :
    Inv (flatWrite n f base l s) := h.coreWrites

protected theorem Inv.readA {n w : Nat} (h : Inv s) : Inv (readA n w s).2 := by
  unfold Machine.readA
  dsimp only
  exact .ite_2 (h.foldl_pair fun _ _ h => h.accRead) (.snd h.flatRead)

theorem Inv.vecStep {func : Nat} {body : Nat → Nat → State → State} {core : BitVec 7} {w : BitVec 128} (h : Inv s)
    (hb : ∀ n w s, Inv s → Inv (body n w s)) : KeepsInv (vecStep func body core w s) :=
  h.tileStep fun n w _ h => h.withProg (hb n w)

protected theorem Inv.runLanes {op : LaneOp} {n w : Nat} (h : Inv s) : Inv (runLanes op n w s) :=
  .countEv (.flatWrite (.ite_2 (.flatRead (.ite_2 h.readA.flatRead (.snd h.readA)))
    (.snd (.ite_2 h.readA.flatRead (.snd h.readA)))))

protected theorem Inv.scaleRow {n w : Nat} (h : Inv s) : Inv (scaleRow n w s).2 := by
  unfold Machine.scaleRow
  dsimp only
  exact h.foldl_pair fun _ _ h => h.scaleRead

protected theorem Inv.biasRow {n w : Nat} (h : Inv s) : Inv (biasRow n w s).2 := .ite_2 h.coreReads (.snd h)

protected theorem Inv.requantise {n w : Nat} (h : Inv s) : Inv (requantise n w s) :=
  h.readA.scaleRow.biasRow.flatWrite.countEv

protected theorem Inv.runNormal {f : List Fp → List (Fp × Ev)} {n w : Nat} (h : Inv s) : Inv (runNormal f n w s) :=
  h.readA.flatWrite.countEv

protected theorem Inv.runReduce {f : Line → List (Nat × Ev)} {n w : Nat} (h : Inv s) : Inv (runReduce f n w s) :=
  h.readA.flatWrite.countEv

protected theorem Inv.readPart {n base : Nat} {d : Dims} {rows cols : List Nat} (h : Inv s) :
    Inv (readPart n base d rows cols s).2 := h.coreGather

protected theorem Inv.readTensor {n base : Nat} {d : Dims} (h : Inv s) : Inv (readTensor n base d s).2 := h.readPart

protected theorem Inv.writeTensor {n base : Nat} {d : Dims} {f : Nat → Nat → Nat → (Nat × Bool) × Ev} (h : Inv s) :
    Inv (writeTensor n base d f s) := h.foldl fun _ _ h => h.foldl fun _ _ h1 => h1.coreWrites.countEv

protected theorem Inv.depthwise {n w : Nat} (h : Inv s) : Inv (depthwise n w s) := by
  unfold Machine.depthwise
  exact h.readPart.flatRead.scaleRow.biasRow.writeTensor

protected theorem Inv.resample {n w : Nat} (h : Inv s) : Inv (resample n w s) := by
  unfold Machine.resample
  exact h.readTensor.writeTensor

protected theorem Inv.repack {n w : Nat} (h : Inv s) : Inv (repack n w s) := by
  unfold Machine.repack
  exact h.readTensor.writeTensor

protected theorem Inv.transposeHW {n w : Nat} (h : Inv s) : Inv (transposeHW n w s) := by
  unfold Machine.transposeHW
  exact h.readTensor.writeTensor

protected theorem Inv.concat {n w : Nat} (h : Inv s) : Inv (concat n w s) := by
  unfold Machine.concat
  exact h.readTensor.readTensor.writeTensor

protected theorem Inv.splitTensor {n w : Nat} (h : Inv s) : Inv (splitTensor n w s) := by
  unfold Machine.splitTensor
  exact h.readTensor.writeTensor.writeTensor

protected theorem Inv.readList {n a : Nat} (h : Inv s) : Inv (readList n a s).2.2.2 := h.coreBytes.coreBytes

protected theorem Inv.writeList {n a : Nat} {header : List Byte} {entries : List (List Byte)} {dropped : Nat}
    {sorted poison : Bool} (h : Inv s) : Inv (writeList n a header entries dropped sorted poison s) := h.coreStore

protected theorem Inv.decodeBoxes {n w : Nat} (h : Inv s) : Inv (decodeBoxes n w s) := by
  unfold Machine.decodeBoxes
  exact .ite h.readTensor.readTensor.dpaBytes.readList.writeList
    h.readTensor.readTensor.dpaBytes.readList.writeList.countEv

protected theorem Inv.suppress {n w : Nat} (h : Inv s) : Inv (suppress n w s) :=
  .ite h.readList.writeList h.readList.writeList.countEv

protected theorem Inv.execVecRequantise {core : BitVec 7} {w : BitVec 128} (h : Inv s) :
    KeepsInv (execVecRequantise core w s) := h.vecStep (fun _ _ _ h => h.requantise)

protected theorem Inv.execVecAdd {core : BitVec 7} {w : BitVec 128} (h : Inv s) : KeepsInv (execVecAdd core w s) :=
  h.vecStep (fun _ _ _ h => h.runLanes)

protected theorem Inv.execVecSubtract {core : BitVec 7} {w : BitVec 128} (h : Inv s) :
    KeepsInv (execVecSubtract core w s) := h.vecStep (fun _ _ _ h => h.runLanes)

protected theorem Inv.execVecMultiply {core : BitVec 7} {w : BitVec 128} (h : Inv s) :
    KeepsInv (execVecMultiply core w s) := h.vecStep (fun _ _ _ h => h.runLanes)

protected theorem Inv.execVecFusedMultiplyAdd {core : BitVec 7} {w : BitVec 128} (h : Inv s) :
    KeepsInv (execVecFusedMultiplyAdd core w s) := h.vecStep (fun _ _ _ h => h.runLanes)

protected theorem Inv.execVecMinimum {core : BitVec 7} {w : BitVec 128} (h : Inv s) :
    KeepsInv (execVecMinimum core w s) := h.vecStep (fun _ _ _ h => h.runLanes)

protected theorem Inv.execVecMaximum {core : BitVec 7} {w : BitVec 128} (h : Inv s) :
    KeepsInv (execVecMaximum core w s) := h.vecStep (fun _ _ _ h => h.runLanes)

protected theorem Inv.execVecCompare {core : BitVec 7} {w : BitVec 128} (h : Inv s) :
    KeepsInv (execVecCompare core w s) := h.vecStep (fun _ _ _ h => h.runLanes)

protected theorem Inv.execVecSelect {core : BitVec 7} {w : BitVec 128} (h : Inv s) :
    KeepsInv (execVecSelect core w s) := h.vecStep (fun _ _ _ h => h.runLanes)

protected theorem Inv.execVecRelu {core : BitVec 7} {w : BitVec 128} (h : Inv s) :
    KeepsInv (execVecRelu core w s) := h.vecStep (fun _ _ _ h => h.runLanes)

protected theorem Inv.execVecClip {core : BitVec 7} {w : BitVec 128} (h : Inv s) :
    KeepsInv (execVecClip core w s) := h.vecStep (fun _ _ _ h => h.runLanes)

protected theorem Inv.execVecLeakyRelu {core : BitVec 7} {w : BitVec 128} (h : Inv s) :
    KeepsInv (execVecLeakyRelu core w s) := h.vecStep (fun _ _ _ h => h.runLanes)

protected theorem Inv.execVecShift {core : BitVec 7} {w : BitVec 128} (h : Inv s) :
    KeepsInv (execVecShift core w s) := h.vecStep (fun _ _ _ h => h.runLanes)

protected theorem Inv.execVecConversion {core : BitVec 7} {w : BitVec 128} (h : Inv s) :
    KeepsInv (execVecConversion core w s) := h.vecStep (fun _ _ _ h => h.runLanes)

protected theorem Inv.execVecDivide {core : BitVec 7} {w : BitVec 128} (h : Inv s) :
    KeepsInv (execVecDivide core w s) := h.vecStep (fun _ _ _ h => h.runLanes)

protected theorem Inv.execVecReciprocal {core : BitVec 7} {w : BitVec 128} (h : Inv s) :
    KeepsInv (execVecReciprocal core w s) := h.vecStep (fun _ _ _ h => h.runLanes)

protected theorem Inv.execVecSquareRoot {core : BitVec 7} {w : BitVec 128} (h : Inv s) :
    KeepsInv (execVecSquareRoot core w s) := h.vecStep (fun _ _ _ h => h.runLanes)

protected theorem Inv.execVecReciprocalSquareRoot {core : BitVec 7} {w : BitVec 128} (h : Inv s) :
    KeepsInv (execVecReciprocalSquareRoot core w s) := h.vecStep (fun _ _ _ h => h.runLanes)

protected theorem Inv.execVecExp {core : BitVec 7} {w : BitVec 128} (h : Inv s) : KeepsInv (execVecExp core w s) :=
  h.vecStep (fun _ _ _ h => h.runLanes)

protected theorem Inv.execVecExp2 {core : BitVec 7} {w : BitVec 128} (h : Inv s) :
    KeepsInv (execVecExp2 core w s) := h.vecStep (fun _ _ _ h => h.runLanes)

protected theorem Inv.execVecLog {core : BitVec 7} {w : BitVec 128} (h : Inv s) : KeepsInv (execVecLog core w s) :=
  h.vecStep (fun _ _ _ h => h.runLanes)

protected theorem Inv.execVecLog2 {core : BitVec 7} {w : BitVec 128} (h : Inv s) :
    KeepsInv (execVecLog2 core w s) := h.vecStep (fun _ _ _ h => h.runLanes)

protected theorem Inv.execVecSigmoid {core : BitVec 7} {w : BitVec 128} (h : Inv s) :
    KeepsInv (execVecSigmoid core w s) := h.vecStep (fun _ _ _ h => h.runLanes)

protected theorem Inv.execVecTanh {core : BitVec 7} {w : BitVec 128} (h : Inv s) :
    KeepsInv (execVecTanh core w s) := h.vecStep (fun _ _ _ h => h.runLanes)

protected theorem Inv.execVecSoftplus {core : BitVec 7} {w : BitVec 128} (h : Inv s) :
    KeepsInv (execVecSoftplus core w s) := h.vecStep (fun _ _ _ h => h.runLanes)

protected theorem Inv.execVecSilu {core : BitVec 7} {w : BitVec 128} (h : Inv s) :
    KeepsInv (execVecSilu core w s) := h.vecStep (fun _ _ _ h => h.runLanes)

protected theorem Inv.execVecGelu {core : BitVec 7} {w : BitVec 128} (h : Inv s) :
    KeepsInv (execVecGelu core w s) := h.vecStep (fun _ _ _ h => h.runLanes)

protected theorem Inv.execVecSoftmax {core : BitVec 7} {w : BitVec 128} (h : Inv s) :
    KeepsInv (execVecSoftmax core w s) := h.vecStep (fun _ _ _ h => h.runNormal)

protected theorem Inv.execVecLayerNormalisation {core : BitVec 7} {w : BitVec 128} (h : Inv s) :
    KeepsInv (execVecLayerNormalisation core w s) := h.vecStep (fun _ _ _ h => h.runNormal)

protected theorem Inv.execVecSum {core : BitVec 7} {w : BitVec 128} (h : Inv s) : KeepsInv (execVecSum core w s) :=
  h.vecStep (fun _ _ _ h => h.runReduce)

protected theorem Inv.execVecAxisMaximum {core : BitVec 7} {w : BitVec 128} (h : Inv s) :
    KeepsInv (execVecAxisMaximum core w s) := h.vecStep (fun _ _ _ h => h.runReduce)

protected theorem Inv.execVecAxisMinimum {core : BitVec 7} {w : BitVec 128} (h : Inv s) :
    KeepsInv (execVecAxisMinimum core w s) := h.vecStep (fun _ _ _ h => h.runReduce)

protected theorem Inv.execVecArgmax {core : BitVec 7} {w : BitVec 128} (h : Inv s) :
    KeepsInv (execVecArgmax core w s) := h.vecStep (fun _ _ _ h => h.runReduce)

protected theorem Inv.execVecTopK {core : BitVec 7} {w : BitVec 128} (h : Inv s) :
    KeepsInv (execVecTopK core w s) := h.vecStep (fun _ _ _ h => h.runReduce)

protected theorem Inv.execVecDepthwiseConvolution {core : BitVec 7} {w : BitVec 128} (h : Inv s) :
    KeepsInv (execVecDepthwiseConvolution core w s) := h.vecStep (fun _ _ _ h => h.depthwise)

protected theorem Inv.execVecResampling {core : BitVec 7} {w : BitVec 128} (h : Inv s) :
    KeepsInv (execVecResampling core w s) := h.vecStep (fun _ _ _ h => h.resample)

protected theorem Inv.execVecRepacking {core : BitVec 7} {w : BitVec 128} (h : Inv s) :
    KeepsInv (execVecRepacking core w s) := h.vecStep (fun _ _ _ h => h.repack)

protected theorem Inv.execVecTranspose {core : BitVec 7} {w : BitVec 128} (h : Inv s) :
    KeepsInv (execVecTranspose core w s) := h.vecStep (fun _ _ _ h => h.transposeHW)

protected theorem Inv.execVecConcatenation {core : BitVec 7} {w : BitVec 128} (h : Inv s) :
    KeepsInv (execVecConcatenation core w s) := h.vecStep (fun _ _ _ h => h.concat)

protected theorem Inv.execVecSplit {core : BitVec 7} {w : BitVec 128} (h : Inv s) :
    KeepsInv (execVecSplit core w s) := h.vecStep (fun _ _ _ h => h.splitTensor)

protected theorem Inv.execVecBoxDecoding {core : BitVec 7} {w : BitVec 128} (h : Inv s) :
    KeepsInv (execVecBoxDecoding core w s) := h.vecStep (fun _ _ _ h => h.decodeBoxes)

protected theorem Inv.execVecNonMaximumSuppression {core : BitVec 7} {w : BitVec 128} (h : Inv s) :
    KeepsInv (execVecNonMaximumSuppression core w s) := h.vecStep (fun _ _ _ h => h.suppress)

/-! ### Machine/Tracking -/

protected theorem Inv.rowsOp {arg : Nat} (h : Inv s) : Inv (rowsOp arg s) := h.storeRowMap.dpaStore.same rfl

protected theorem Inv.execRows {lists : List RecList} (h : Inv s) : KeepsInv (execRows lists s) := by
  unfold Machine.execRows
  dsimp only
  refine .next ?_
  split
  · exact h
  · exact .same (.rowsOp (h.same rfl)) rfl

protected theorem Inv.storeEntry {l : RecList} {j : Nat} {e : BoxEntry} (h : Inv s) : Inv (storeEntry l j e s) := by
  unfold Machine.storeEntry
  split
  · exact h.dpaWrites
  · exact h

protected theorem Inv.editEntry {n i j : Nat} {f : BoxEntry → BoxEntry} (h : Inv s) :
    Inv (editEntry n i j f s) := by
  unfold Machine.editEntry
  dsimp only
  refine Inv.same ?_ rfl
  refine h.foldl fun _ _ h => ?_
  split
  · exact h.storeEntry
  · exact h

protected theorem Inv.addFree {c : Nat} {k : Int} (h : Inv s) : Inv (addFree c k s) := h.setStream

protected theorem Inv.leaveTrack {id : Nat} (h : Inv s) : Inv (leaveTrack id s) := by
  unfold Machine.leaveTrack
  dsimp only
  split
  · exact h
  · exact .same (.ite h.addFree h) rfl

protected theorem Inv.missTrack {matched : Bool} {maxMiss seq id : Nat} (h : Inv s) :
    Inv (missTrack matched maxMiss seq id s) := by
  unfold Machine.missTrack
  dsimp only
  split
  · exact h
  · exact .ite (.leaveTrack (h.same rfl)) (h.same rfl)

protected theorem Inv.growTrack {a : TrackParams} {seq : Nat} {p : Pair} {d : BoxEntry} (h : Inv s) :
    Inv (growTrack a seq p d s) := by
  unfold Machine.growTrack
  dsimp only
  split
  · exact h
  · exact .ite h (.ite (h.same rfl) (.ite (.same (h.same rfl) rfl) (h.same rfl)))

protected theorem Inv.joinEntry {a : TrackParams} {n i j : Nat} {f : FrameRec} {d : BoxEntry} (h : Inv s) :
    Inv (joinEntry a n i j f d s) := by
  unfold Machine.joinEntry
  dsimp only
  split
  · exact .ite (.editEntry (h.addFree.same rfl)) (.editEntry (h.same rfl))
  · exact .editEntry (h.same rfl)

protected theorem Inv.applyStep {net : List RoundMatch} {q : Nat} (h : Inv s) : Inv (applyStep net q s) := by
  unfold Machine.applyStep
  dsimp only
  refine .foldl (.foldl (.foldl (.foldl (.foldl h ?_) ?_) ?_) ?_) ?_
  · exact fun _ _ h => h.foldl fun _ _ h => .ite (h.editEntry.same rfl) h.editEntry
  · exact fun _ _ h => .ite h (h.same rfl)
  · exact fun _ _ h => h.foldl fun _ _ h => h.missTrack
  · intro _ _ h
    split
    · exact h.growTrack
    · exact h
  · exact fun _ _ h => h.foldl fun _ _ h => h.joinEntry.ite h

protected theorem Inv.applyOp {predicted : List Predicted} (h : Inv s) : Inv (applyOp predicted s) :=
  h.foldl fun _ _ h => h.applyStep

protected theorem Inv.execApply {lists : List RecList} {predicted : List Predicted} (h : Inv s) :
    KeepsInv (execApply lists predicted s) := by
  unfold Machine.execApply
  dsimp only
  refine .next ?_
  split
  · exact h
  · exact .same (.applyOp (h.same rfl)) rfl

protected theorem Inv.dropTracks {c : Nat} (h : Inv s) : Inv (dropTracks c s) := h.foldl fun _ _ h => h.leaveTrack

protected theorem Inv.refreshHeadroom (h : Inv s) : Inv (refreshHeadroom s) := h.same rfl

protected theorem Inv.emitFrame {i : Nat} {f : FrameRec} (h : Inv s) : Inv (emitFrame i f s) :=
  h.foldl fun _ _ h => h.enqueueRecord

protected theorem Inv.emitAll (h : Inv s) : Inv (emitAll s) := .ite h (.same (h.foldl fun _ _ h => h.emitFrame) rfl)

protected theorem Inv.execEmit {lists : List RecList} (h : Inv s) : KeepsInv (execEmit lists s) := by
  unfold Machine.execEmit
  dsimp only
  refine .next ?_
  split
  · exact h
  · exact .lastRecordSweep (.same (.emitAll (h.same rfl)) rfl)

/-! ### Machine/Boundary -/

protected theorem Inv.failArea {area : BitVec 2} {rule slot : Nat} (h : Inv s) : Inv (failArea area rule slot s) :=
  .updateWire (.hwSet (h.recordFault.same rfl))

protected theorem Inv.dropNext (h : Inv s) : Inv (dropNext s) := h.same rfl

protected theorem Inv.dropStandby (h : Inv s) : Inv (dropStandby s) := h.same rfl

protected theorem Inv.execTimetableCheckComplete {standby : Bool} (h : Inv s) :
    KeepsInv (execTimetableCheckComplete standby s) := by
  unfold Machine.execTimetableCheckComplete
  dsimp only
  refine .next ?_
  refine .ite ?_ ?_
  · exact h
  · split
    · exact .ite (h.same rfl) (h.same rfl)
    · exact .ite h.failArea.dropStandby h.failArea.dropNext

protected theorem Inv.execStandbyRebuild (h : Inv s) : KeepsInv (execStandbyRebuild s) :=
  .next (.ite h (h.same rfl))

protected theorem Inv.addChange {c : Change} (h : Inv s) : Inv (addChange c s) := h.same rfl

protected theorem Inv.dropChanges {p : Change → Bool} (h : Inv s) : Inv (dropChanges p s) := h.same rfl

protected theorem Inv.waitLast {cmd : BitVec 6 × BitVec 16} (h : Inv s) : Inv (waitLast cmd s) := h.same rfl

protected theorem Inv.markOld {c : Nat} (h : Inv s) : Inv (markOld c s) :=
  .ite (.ite h h.setMr) (.setDest (.ite h h.setMr))

protected theorem Inv.joinGroup {c : Nat} (h : Inv s) : Inv (joinGroup c s) := .ite (.ite h h.setPort.sendControl) h

protected theorem Inv.wakeEngines {c : Nat} (h : Inv s) : Inv (wakeEngines c s) := h.wakeDomain.wakeDomain

protected theorem Inv.admitNow {c : Nat} {cmd : Option (BitVec 6 × BitVec 16)} (h : Inv s) :
    Inv (admitNow c cmd s) := by
  unfold Machine.admitNow
  dsimp only
  split
  · exact .lastRecordCheck
      (.waitLast (.markOld (.joinGroup (.transitionByReply (h.setStream.wakeEngines.same rfl)))))
  · exact .joinGroup (.transitionByReply (h.setStream.wakeEngines.same rfl))

protected theorem Inv.closeNow {c : Nat} {cmd : Option (BitVec 6 × BitVec 16)} (h : Inv s) :
    Inv (closeNow c cmd s) := by
  unfold Machine.closeNow
  dsimp only
  split
  · exact h.endClipsOf.removeFlow.transitionByReply.giveUp.setStream.waitLast.lastRecordCheck
  · exact h.endClipsOf.removeFlow.transitionByReply.giveUp.setStream

protected theorem Inv.answerChange {cmd : Option (BitVec 6 × BitVec 16)} (h : Inv s) :
    Inv (answerChange cmd s) := by
  unfold Machine.answerChange
  split
  · exact h.finish
  · exact h

protected theorem Inv.applyChange {c : Change} (h : Inv s) : Inv (applyChange c s) := by
  unfold Machine.applyChange
  dsimp only
  split
  · exact h.admitNow
  · exact h.closeNow
  · exact h.shedStream
  · refine .ite ?_ ?_
    · split
      · exact .finish (h.same rfl)
      · exact h.same rfl
    · exact .answerChange (.foldl (h.same rfl) fun _ _ h => h.setStream)
  · exact .answerChange (.same (h.foldl fun _ _ h => .ite h.setStream h) rfl)
  · exact .answerChange (h.same rfl)
  · exact .ite h.setStream h
  · exact h.setStream
  · exact h.setStream.wakeEngines
  · split
    · exact h.setDec
    · exact h.setPrep
    · exact h.setEnc

protected theorem Inv.applyChanges (h : Inv s) : Inv (applyChanges s) :=
  h.dropChanges.foldl fun _ _ h => h.applyChange

protected theorem Inv.undoAdmit {c : Nat} (h : Inv s) : Inv (undoAdmit c s) := h.removeFlow.freePinned

protected theorem Inv.refuseAdmission {c : Nat} {cmd : Option (BitVec 6 × BitVec 16)} {r : Reply} (h : Inv s) :
    Inv (refuseAdmission c cmd r s) := by
  unfold Machine.refuseAdmission
  dsimp only
  split
  · exact h.dropChanges.undoAdmit.finish
  · exact h.dropChanges.undoAdmit

protected theorem Inv.recheckAdmissions (h : Inv s) : Inv (recheckAdmissions s) :=
  h.foldl fun _ _ h => .ite h h.refuseAdmission

protected theorem Inv.fuseSheaves {listed : List FrameRec} (h : Inv s) : Inv (fuseSheaves listed s) :=
  h.foldl fun _ _ h => .ite h (h.same rfl)

protected theorem Inv.makeFrameList {held : List FrameRec} {left : List Nat} (h : Inv s) :
    Inv (makeFrameList held left s) := .fuseSheaves (.same (h.poolFree.poolFree.foldl fun _ _ h => h.setStream) rfl)

protected theorem Inv.reloadCores (h : Inv s) : Inv (reloadCores s) :=
  h.foldl fun _ _ h => .ite h.coreLoad h.coreLoad.setCore

protected theorem Inv.applyCoreRetire (h : Inv s) : Inv (applyCoreRetire s) :=
  .ite h (.classCheck (.foldl (h.same rfl) fun _ _ h => h.retireCore))

protected theorem Inv.recheckReady (h : Inv s) : Inv (recheckReady s) := by
  unfold Machine.recheckReady
  dsimp only
  split
  · refine Inv.dropStandby ?_
    refine Inv.failArea ?_
    split
    · exact h.failArea.dropNext
    · exact h
  · split
    · exact h.failArea.dropNext
    · exact h

protected theorem Inv.shedAll {l : List Nat} {detail : Nat} (h : Inv s) : Inv (shedAll l detail s) :=
  h.foldl fun _ _ h => h.shedStream

protected theorem Inv.swapAreas (h : Inv s) : Inv (swapAreas s).1 := by
  unfold Machine.swapAreas
  exact .ite_1 (.ite_1 (.fst
    (.reloadCores (.recheckAdmissions
    (.shedAll (.dropNext (.dropStandby (h.applyCoreRetire.recheckReady.same rfl)))))))
    (.ite_1 (.fst (.reloadCores
    (.applyChanges (h.applyCoreRetire.recheckReady.shedAll.recheckAdmissions.same rfl))))
    (.fst (h.applyCoreRetire.recheckReady.shedAll.recheckAdmissions.same rfl))))
    (.ite_1 (.fst (.reloadCores (.applyChanges (h.same rfl)))) (.ite_1 (.fst (h.same rfl)) (.fst h)))

protected theorem Inv.oosBoundary (h : Inv s) : Inv (oosBoundary s).1 := by
  unfold Machine.oosBoundary
  dsimp only
  refine .ite_1 h (.same (.foldl (.dropChanges (.foldl (.endJobs (.shedAll (h.same rfl))) fun _ _ h => h.endClip))
    fun s c h => ?_) rfl)
  have hundone : ∀ {u}, Inv u → Inv (match c.cmd with | some k => finish k (failWith 0x202 0) u | none => u) := by
    intro u hu
    split
    · exact hu.finish
    · exact hu
  refine hundone ?_
  split
  · exact h.undoAdmit
  · exact h.same rfl
  · exact h

protected theorem Inv.softSheds (h : Inv s) : Inv (softSheds s) := .foldl (h.same rfl) fun _ _ h => h.shedStream

protected theorem Inv.wholeTests (h : Inv s) : Inv (wholeTests s) := .foldl (h.same rfl) fun _ _ h => h.finish

protected theorem Inv.newRound (h : Inv s) : Inv (newRound s) := h.startRounds.same rfl

protected theorem Inv.leaveTracks (h : Inv s) : Inv (leaveTracks s) :=
  .refreshHeadroom (h.foldl fun _ _ h => h.dropTracks)

protected theorem Inv.substBoundary (h : Inv s) : Inv (substBoundary s) := h.same rfl

protected theorem Inv.switchBoundary (h : Inv s) : Inv (switchBoundary s) := .ite (h.same rfl) h

protected theorem Inv.releaseLeft (h : Inv s) : Inv (releaseLeft s) := h.foldl fun _ _ h => h.freePinned

protected theorem Inv.boundary (h : Inv s) : Inv (boundary s) :=
  .leaveTracks (.same (.releaseHeld
    (.releaseLeft (.makeFrameList
    (.newRound (.substBoundary
    (.sheafBoundary (.swapAreas
    (.oosBoundary (.softSheds (.same (.switchBoundary (.closeLayer (.wholeTests (h.same rfl)))) rfl)))))))))) rfl)

protected theorem Inv.execRoundBoundary (h : Inv s) : KeepsInv (execRoundBoundary s) := by
  unfold Machine.execRoundBoundary
  dsimp only
  refine .next ?_
  refine .ite ?_ ?_
  · exact h
  · split
    · exact h.tileMissing
    · split
      · exact h.fetchSlot (fun _ h => h.boundary.lastRecordSweep)
      · exact h.boundary.lastRecordSweep

protected theorem Inv.decideCore {n : Nat} (h : Inv s) : Inv (decideCore n s) := .ite h (.recordFault (h.same rfl))

protected theorem Inv.decideEngine {kind : VideoKind} {i : Nat} (h : Inv s) : Inv (decideEngine kind i s) := by
  unfold Machine.decideEngine
  dsimp only
  split
  · exact .ite h h.setDec.recordFault
  · exact .ite h h.setPrep.recordFault
  · exact .ite h h.setEnc.recordFault

protected theorem Inv.rebindPending {kind : VideoKind} {i : Nat} {ks : List ChangeKind} (h : Inv s) :
    Inv (rebindPending kind i ks s) := by
  unfold Machine.rebindPending
  dsimp only
  refine h.foldl fun _ _ h => ?_
  refine .ite ?_ ?_
  · exact h
  · split
    · exact h.setStream
    · exact h.refuseAdmission
    · exact h.refuseAdmission

protected theorem Inv.execEngineRebind {kind : VideoKind} {index : BitVec 5} (h : Inv s) :
    KeepsInv (execEngineRebind kind index s) := .next (.ite h (h.rebindPending.foldl fun _ _ h => h.addChange))

protected theorem Inv.scrub (h : Inv s) : Inv (scrub s) :=
  .foldl (h.foldl fun _ _ h => h.dpaReads) fun _ _ h => .foldl
    (.foldl (.foldl (.foldl (h.foldl fun _ _ h1 => h1.coreReads) fun _ _ h1 => h1.coreReads) fun _ _ h1 =>
    h1.accRead) fun _ _ h1 => h1.scaleRead) fun _ _ h1 => h1.progWord

protected theorem Inv.injectCore {n m a : Nat} {y : BitVec 7} {mask : Word} {marker : Bool} (h : Inv s) :
    Inv (injectCore n m a y mask marker s) := by
  unfold Machine.injectCore
  dsimp only
  split
  · exact h.setCore
  · exact h.setCore
  · exact h.setCore

protected theorem Inv.inject {p : Packet} (h : Inv s) : Inv (inject p s) := by
  unfold Machine.inject
  dsimp only
  refine .ite (h.stored ?_ rfl) h.injectCore
  split
  · exact memPutSyn_wf h.dpa_wf _ _
  · exact memPutWord_wf h.dpa_wf _ _ _

protected theorem Inv.injections (h : Inv s) : Inv (injections s) := by
  unfold Machine.injections
  dsimp only
  refine .foldl (h.same rfl) fun _ _ h => ?_
  split
  · exact h.finish
  · exact h.inject.finish

protected theorem Inv.setFailed {b : Bool} {k : VideoKind} {i : Nat} (h : Inv s) : Inv (setFailed b k i s) := by
  unfold Machine.setFailed
  dsimp only
  split
  · exact h.setDec
  · exact h.setPrep
  · exact h.setEnc

/-! ### Machine/Dma -/

protected theorem Inv.dpaReadBytes {a n : Nat} (h : Inv s) : Inv (dpaReadBytes a n s).2 := h.dpaReads

theorem memWriteBytes_wf {m : Mem} (h : m.wf = true) (w : Nat) (be : BitVec 4) (d : Word) (poison : Bool) :
    (memWriteBytes m w be d poison).1.wf = true := by
  unfold memWriteBytes
  split
  · exact memPutWord_wf h _ _ _
  · split
    · exact memPoison_wf h _
    · exact memWrite_wf h _ _ _

protected theorem Inv.dpaWriteBytes {a : Nat} {l : List (Byte × Bool)} (h : Inv s) : Inv (dpaWriteBytes a l s) :=
  h.foldl fun _ _ h => h.faultDpa.ite (Inv.reportDpa (h.stored (memWriteBytes_wf h.dpa_wf _ _ _ _) rfl))

protected theorem Inv.coreReadBytes {n : Nat} {wgt : Bool} {a k : Nat} (h : Inv s) :
    Inv (coreReadBytes n wgt a k s).2 := h.coreReads

protected theorem Inv.coreWriteBytes {n : Nat} {wgt : Bool} {a : Nat} {l : List (Byte × Bool)} (h : Inv s) :
    Inv (coreWriteBytes n wgt a l s) := h.foldl fun _ _ h => h.setCore.coreEvents

protected theorem Inv.pteRead {xctx page : Nat} (h : Inv s) : Inv (pteRead xctx page s).2.2 := by
  unfold Machine.pteRead
  exact .thd h.dpaReads

protected theorem Inv.translateEntry {e : DmaEngine} {xctx page : Nat} (h : Inv s) :
    Inv (translateEntry e xctx page s).2.2 := by
  unfold Machine.translateEntry
  dsimp only
  split
  · exact h
  · exact .ite_2_2 h.pteRead (.thd (h.pteRead.same rfl))

protected theorem Inv.translate {e : DmaEngine} {timed write : Bool} {xctx dva : Nat} (h : Inv s) :
    Inv (translate e timed write xctx dva s).2.2 :=
  .ite_2_2 (.thd h) (.ite_2_2 (.thd h.translateEntry) (.ite_2_2 (.thd h.translateEntry) (.thd h.translateEntry)))

protected theorem Inv.spansOf {e : DmaEngine} {timed write : Bool} {xctx dva len : Nat} (h : Inv s) :
    Inv (spansOf e timed write xctx dva len s).2.2 := by
  unfold Machine.spansOf
  dsimp only
  split
  · next heq => exact h.translate.of_eq_2_2 heq
  · next heq =>
    have hs := h.translate.of_eq_2_2 heq
    refine .ite_2_2 hs ?_
    split
    · next heq => exact hs.translate.of_eq_2_2 heq
    · next heq => exact hs.translate.of_eq_2_2 heq

protected theorem Inv.boundaryFlush {e : DmaEngine} (h : Inv s) : Inv (boundaryFlush e s) := .ite h (h.same rfl)

protected theorem Inv.invalidate_ {value : Word} (h : Inv s) : Inv (invalidate_ value s) :=
  .foldl (h.same rfl) fun _ _ h => .ite h.boundaryFlush h

protected theorem Inv.execTlbInvalidate {value : Word} (h : Inv s) : KeepsInv (execTlbInvalidate value s) :=
  .next (.ite h.invalidate_ h)

protected theorem Inv.ptePut {xctx page : Nat} {e : BitVec 64} (h : Inv s) : Inv (ptePut xctx page e s) :=
  .ite h.recordFault (h.same rfl)

protected theorem Inv.readGranule {e : DmaEngine} {timed : Bool} {t : Transfer} {k : Nat} (h : Inv s) :
    Inv (readGranule e timed t k s).2 := by
  unfold Machine.readGranule
  dsimp only
  split
  · exact .ite_2 (.snd h.drawFree) (.snd h.dpaReadBytes)
  · split
    · next heq => exact h.spansOf.of_eq_2_2 heq
    · next heq => exact .foldl_pair (h.spansOf.of_eq_2_2 heq) fun _ _ h => h.dpaReadBytes
  · exact h.coreReadBytes
  · exact h

protected theorem Inv.writeSpans {spans : List (Nat × Nat)} {l : List (Byte × Bool)} (h : Inv s) :
    Inv (writeSpans spans l s) := by
  induction spans generalizing l s with
  | nil => exact h
  | cons e r ih => exact ih h.dpaWriteBytes

protected theorem Inv.writeGranule {e : DmaEngine} {timed : Bool} {t : Transfer} {k : Nat} {l : List (Byte × Bool)}
    (h : Inv s) : Inv (writeGranule e timed t k l s).2.2 := by
  unfold Machine.writeGranule
  dsimp only
  split
  · exact h.dpaWriteBytes
  · split
    · next heq => exact h.spansOf.of_eq_2_2 heq
    · next heq => exact .writeSpans (h.spansOf.of_eq_2_2 heq)
  · exact .ite_2_2 (.thd h) (.ite_2_2 (.thd h.hostWrites) (.thd h))
  · exact h.coreWriteBytes
  · exact h

protected theorem Inv.putTransfer {bulk : Bool} {n : Nat} {old : Transfer} {new : List Transfer} (h : Inv s) :
    Inv (putTransfer bulk n old new s) := .ite (h.same rfl) (h.same rfl)

protected theorem Inv.completeTransfer {bulk : Bool} {n : Nat} {t : Transfer} (h : Inv s) :
    Inv (completeTransfer bulk n t s) := by
  unfold Machine.completeTransfer
  dsimp only
  split
  · exact h
  · exact .ite h.putTransfer.endJob (h.putTransfer.same rfl)
  · exact .ite (.clipSweep (.clipComplete (h.putTransfer.poolFree.same rfl))) h
  · exact h.putTransfer

protected theorem Inv.settle {bulk : Bool} {n : Nat} {t : Transfer} (h : Inv s) : Inv (settle bulk n t s) := by
  unfold Machine.settle
  dsimp only
  split
  · exact h.parkTransfer
  · exact h
  · exact .ite h.completeTransfer (.ite h.freezeRecord (.ite h h.putTransfer))

protected theorem Inv.stepTransfer {bulk : Bool} {n : Nat} {old new : Transfer} (h : Inv s) :
    Inv (stepTransfer bulk n old new s) := h.putTransfer.settle

protected theorem Inv.parkFetch {n : Nat} {cause : Byte} (h : Inv s) : Inv (parkFetch n cause s) := by
  unfold Machine.parkFetch
  dsimp only
  refine .ite ?_ ?_
  · exact h
  · split
    · exact h
    · exact .setSq (h.recordFault.same rfl)

protected theorem Inv.hostPiece {n : Nat} {old t : Transfer} {k : Nat} {bytes : List Byte} (h : Inv s) :
    Inv (hostPiece n old t k bytes s) :=
  .ite h.putTransfer (.ite h.writeGranule.stepTransfer h.writeGranule.stepTransfer)

protected theorem Inv.hostResponse {engine : BitVec 3} {granule : Nat} {cause : Byte} {bytes : List Byte}
    (h : Inv s) : Inv (hostResponse engine granule cause bytes s) := by
  unfold Machine.hostResponse
  dsimp only
  split
  · exact .ite h.boundaryFlush.parkFetch h.boundaryFlush
  · exact .ite h.boundaryFlush (.ite h.boundaryFlush.stepTransfer h.boundaryFlush.hostPiece)

protected theorem Inv.execHostReadCompletion {engine : BitVec 3} {granule : Nat} {c : Cpl} (h : Inv s) :
    KeepsInv (execHostReadCompletion engine granule c s) := .next (.ite h.hostResponse h)

protected theorem Inv.execCompletionTimeout {engine : BitVec 3} {granule : Nat} (h : Inv s) :
    KeepsInv (execCompletionTimeout engine granule s) := .next (.ite h.hostResponse h)

protected theorem Inv.holdIssue (h : Inv s) : Inv (holdIssue s) := by
  unfold Machine.holdIssue
  refine h.foldl fun _ _ h => ?_
  split
  · exact h.putTransfer
  · exact h

protected theorem Inv.parkHostLink (h : Inv s) : Inv (parkHostLink s) :=
  h.foldl fun _ _ h => h.foldl fun _ _ h1 => .ite h1.freezeRecord h1.parkTransfer

protected theorem Inv.timedStop {c : Nat} {t : Transfer} {cause : Byte} {addr : Nat} (h : Inv s) :
    Inv (timedStop c t cause addr s) := h.noteHang.startReset

protected theorem Inv.commitTag {t : Transfer} (h : Inv s) : Inv (commitTag t s) := by
  unfold Machine.commitTag
  split
  · exact .ite h (h.same rfl)
  · exact h

protected theorem Inv.raiseMark {t : Transfer} {k : Nat} (h : Inv s) : Inv (raiseMark t k s) := by
  unfold Machine.raiseMark
  dsimp only
  split
  · exact h
  · exact h.setCore

protected theorem Inv.putTimed {c : Nat} {old new : Transfer} (h : Inv s) : Inv (putTimed c old new s) := h.same rfl

protected theorem Inv.timedGranule {c : BitVec 4} {k : Nat} {t : Transfer} (h : Inv s) :
    Inv (timedGranule c k t s) := by
  unfold Machine.timedGranule
  dsimp only
  refine .ite ?_ ?_
  · exact h
  · refine .ite ?_ ?_
    · exact h.putTimed
    · split
      · exact h
      · next heq => exact .timedStop (h.readGranule.of_eq_2 heq)
      · next heq =>
          exact .ite (.timedStop (.writeGranule (h.readGranule.of_eq_2 heq)))
            (.ite h (.ite (.commitTag
            (.raiseMark (.putTimed (.meetPoison (.writeGranule (h.readGranule.of_eq_2 heq))))))
            (.raiseMark (.putTimed (.meetPoison (.writeGranule (h.readGranule.of_eq_2 heq)))))))

protected theorem Inv.freeGranule {bulk : Bool} {n : Nat} {e : DmaEngine} {k : Nat} {old : Transfer} (h : Inv s) :
    Inv (freeGranule bulk n e k old s) := by
  unfold Machine.freeGranule
  dsimp only
  refine .ite ?_ ?_
  · exact h
  · split
    · exact h
    · next heq => exact .stepTransfer (h.readGranule.of_eq_2 heq)
    · next heq =>
        exact .ite (.stepTransfer (.writeGranule (h.readGranule.of_eq_2 heq)))
          (.ite h (.stepTransfer (.writeGranule (h.readGranule.of_eq_2 heq))))

protected theorem Inv.execDmaGranuleLand {engine : DmaEngine} {granule : Nat} (h : Inv s) :
    KeepsInv (execDmaGranuleLand engine granule s) := by
  unfold Machine.execDmaGranuleLand
  dsimp only
  refine .next ?_
  refine .ite ?_ ?_
  · exact h
  · split
    · exact h.boundaryFlush
    · split
      · exact h.boundaryFlush.timedGranule
      · exact h.boundaryFlush.freeGranule
      · exact h.boundaryFlush.freeGranule

protected theorem Inv.execHbmRefresh {pc : BitVec 7} {ports : RefreshPorts} (h : Inv s) :
    KeepsInv (execHbmRefresh pc ports s) := by
  unfold Machine.execHbmRefresh
  have hlevels : Inv (ports.levels.foldl (fun s e => setLevel e.1 e.2 s) s) := .foldl h fun _ _ h => h.setLevel
  refine .next (.same (.ite hlevels hlevels.hwPeak) ?_)
  repeat' split
  all_goals rfl

protected theorem Inv.execPatrolScrub {addr : BitVec 40} (h : Inv s) : KeepsInv (execPatrolScrub addr s) :=
  .next (.ite (h.dpaReads.same rfl) h)

protected theorem Inv.copyGranule {a : Nat} (h : Inv s) : Inv (copyGranule s a) := by
  unfold Machine.copyGranule
  dsimp only
  split
  · exact h
  · exact h.dpaReads.dpaWrites

protected theorem Inv.execSubstituteCopy {granules : List Nat} (h : Inv s) :
    KeepsInv (execSubstituteCopy granules s) :=
  .next (.ite (.ite (.same (h.foldl fun _ _ h => h.copyGranule) rfl) (h.foldl fun _ _ h => h.copyGranule)) h)

protected theorem Inv.bar2Dword {o : Nat} (h : Inv s) : Inv (bar2Dword o s).2 :=
  .ite_2 (.snd h) (.ite_2 (.snd h.dpaReads) (.snd h.dpaReads))

protected theorem Inv.bar2Dwords {n o : Nat} (h : Inv s) : Inv (bar2Dwords n o s).2 := by
  induction n generalizing o s with
  | zero => exact h
  | succ n ih => exact ih h.bar2Dword

protected theorem Inv.execBar2Read {offset : BitVec 29} {dwords : Nat} (h : Inv s) :
    KeepsInv (execBar2Read offset dwords s) := by
  unfold Machine.execBar2Read
  dsimp only
  refine .next ?_
  refine .ite ?_ ?_
  · exact h.send
  · refine Inv.send ?_
    split
    · exact h.bar2Dwords.recordFault
    · exact h.bar2Dwords

protected theorem Inv.execBar2Write {offset : BitVec 29} {bytes : List Byte} (h : Inv s) :
    KeepsInv (execBar2Write offset bytes s) := .next (.ite h (.ite h.dpaWriteBytes h.recordFault))

/-! ### Machine/Query -/

protected theorem Inv.execIdentify {ring : BitVec 6} {p : Packet} (h : Inv s) : KeepsInv (execIdentify ring p s) :=
  h.packetStep (fun _ _ h => h.answer)

protected theorem Inv.stallRead (h : Inv s) : Inv (stallRead s) := h.same rfl

protected theorem Inv.execTelemetryRead {ring : BitVec 6} {p : Packet} {m : PowerSample} (h : Inv s) :
    KeepsInv (execTelemetryRead ring p m s) := h.packetStep (fun _ _ h => .ite h.answer h.stallRead.answerWrite)

protected theorem Inv.readRecords {f : Fetched} (h : Inv s) : Inv (readRecords f s) := h.answerWrite

protected theorem Inv.readCapture {f : Fetched} (h : Inv s) : Inv (readCapture f s) := by
  unfold Machine.readCapture
  dsimp only
  refine .ite ?_ ?_
  · exact h.answer
  · split
    · exact h.answer
    · exact h.answerWrite

protected theorem Inv.execFaultLogRead {ring : BitVec 6} {p : Packet} (h : Inv s) :
    KeepsInv (execFaultLogRead ring p s) := h.packetStep (fun _ _ h => .ite h.readRecords h.readCapture)

protected theorem Inv.execStreamQuery {ring : BitVec 6} {p : Packet} (h : Inv s) :
    KeepsInv (execStreamQuery ring p s) := h.packetStep (fun _ _ h => h.answerWrite)

protected theorem Inv.execMaintEcho {ring : BitVec 6} {p : Packet} (h : Inv s) :
    KeepsInv (execMaintEcho ring p s) := h.packetStep (fun _ _ h => h.answer)

protected theorem Inv.peek {o : Nat} (h : Inv s) : Inv (peek o s).2 := .ite h.bar2Dwords.recordFault h.bar2Dwords

protected theorem Inv.execMaintPeek {ring : BitVec 6} {p : Packet} (h : Inv s) :
    KeepsInv (execMaintPeek ring p s) := h.packetStep (fun _ _ h => h.peek.answer)

protected theorem Inv.execMaintErrInject {ring : BitVec 6} {p : Packet} (h : Inv s) :
    KeepsInv (execMaintErrInject ring p s) := by
  refine h.packetStep fun f s h => ?_
  dsimp only
  split
  · exact h.answer
  · exact .ite h.answer (.wait_ (h.same rfl))

protected theorem Inv.execMaintCountersClear {ring : BitVec 6} {p : Packet} (h : Inv s) :
    KeepsInv (execMaintCountersClear ring p s) := h.packetStep (fun _ _ h => .answer (h.same rfl))

protected theorem Inv.execSelftestRequest {ring : BitVec 6} {p : Packet} (h : Inv s) :
    KeepsInv (execSelftestRequest ring p s) := by
  refine h.packetStep fun f s h => ?_
  dsimp only
  split
  · exact h.answer
  · exact .ite h.answer (.wait_ (h.same rfl))

protected theorem Inv.execServiceRestore {ring : BitVec 6} {p : Packet} (h : Inv s) :
    KeepsInv (execServiceRestore ring p s) := h.packetStep (fun _ _ h => .ite (.answer (h.same rfl)) h.answer)

/-! ### Machine/Ingest -/

protected theorem Inv.coverage {c : Nat} (h : Inv s) : Inv (coverage c s).2 := by
  unfold Machine.coverage
  dsimp only
  refine .ite_2 h.setStream ?_
  split
  · split
    · exact h.setStream.streamEvent
    · exact h.setStream
  · exact h.setStream

protected theorem Inv.replayWrite {c : Nat} {e : ReplayEntry} {data : List (Byte × Bool)} (h : Inv s) :
    Inv (replayWrite c e data s) := h.setStream.writeSpans

protected theorem Inv.runningNow {c : Nat} (h : Inv s) : Inv (runningNow c s) := .ite h.transition h

protected theorem Inv.completeAu {c : Nat} {a : AccessUnit} (h : Inv s) : Inv (completeAu c a s) :=
  .ite (h.setStream.coverage.runningNow.replayWrite.same rfl)
    (h.setStream.coverage.runningNow.replayWrite.poolFree.poolFree.setStream.setDec.same rfl)

protected theorem Inv.senderReport {c : Nat} {ntp : BitVec 64} {ts : Word} (h : Inv s) :
    Inv (senderReport c ntp ts s) := .ite h.setStream.streamEvent h.setStream

protected theorem Inv.readPlaced {l : List Placed} (h : Inv s) : Inv (readPlaced l s).2 := by
  induction l generalizing s with
  | nil => exact h
  | cons p r ih => exact ih (h.foldl_pair fun _ _ h => h.dpaReadBytes)

protected theorem Inv.takeAu {c : Nat} {base : BitVec 16} {a : AuSpan} {forced : Bool} (h : Inv s) :
    Inv (takeAu c base a forced s) := h.setStream.poolFree.readPlaced.completeAu

protected theorem Inv.scanAus {c fuel : Nat} (h : Inv s) : Inv (scanAus c fuel s) := by
  induction fuel generalizing s with
  | zero => exact h
  | succ fuel ih =>
    unfold Machine.scanAus
    split
    · exact h
    · split
      · exact h
      · exact (ih h.takeAu).ite h

protected theorem Inv.flushAus {c fuel : Nat} (h : Inv s) : Inv (flushAus c fuel s) := by
  induction fuel generalizing s with
  | zero => exact h
  | succ fuel ih =>
    unfold Machine.flushAus
    split
    · exact h
    · split
      · exact h
      · exact ih h.takeAu.setStream

protected theorem Inv.flushAll {c : Nat} (h : Inv s) : Inv (flushAll c s) := h.flushAus

protected theorem Inv.storePacket {c port : Nat} {k : RtpPacket} (h : Inv s) : Inv (storePacket c port k s).2 := by
  unfold Machine.storePacket
  dsimp only
  refine .ite_2 ?_ ?_
  · exact h.setPort
  · split
    · next heq => exact .setPort (h.poolAlloc.of_eq_2 heq)
    · next heq => exact .foldl (h.poolAlloc.of_eq_2 heq) fun _ _ h => h.dpaStore

protected theorem Inv.putPlaced {c : Nat} {base : BitVec 16} {p : Placed} (h : Inv s) :
    Inv (putPlaced c base p s) := h.setStream.scanAus

protected theorem Inv.countDrop {c : Nat} {f : StreamCounts → StreamCounts} (h : Inv s) : Inv (countDrop c f s) :=
  h.setStream

protected theorem Inv.dropCandidate {c : Nat} (h : Inv s) : Inv (dropCandidate c s) := by
  unfold Machine.dropCandidate
  dsimp only
  split
  · exact h
  · exact h.setStream.poolFree.countDrop

protected theorem Inv.resync {c port : Nat} {held : Placed} {k : RtpPacket} (h : Inv s) :
    Inv (resync c port held k s) := h.flushAll.poolFree.setStream.storePacket.putPlaced

protected theorem Inv.placePacket_lateAfterFlush {c d : Nat} (h : Inv s) : Inv (placePacket.lateAfterFlush c d s) :=
  h.countDrop.setStream.ite h.countDrop

protected theorem Inv.placePacket_place {c port : Nat} {k : RtpPacket} {d : Nat} {base : BitVec 16} {far : Bool}
    (h : Inv s) : Inv (placePacket.place c port k d base far s) := by
  unfold placePacket.place
  refine .ite ?_ (h.countDrop.ite (h.placePacket_lateAfterFlush.ite (h.countDrop.ite h.storePacket.putPlaced)))
  split
  · next heq => exact h.storePacket.of_eq_2 heq
  · next heq => exact (h.storePacket.of_eq_2 heq).setStream

protected theorem Inv.placePacket {c port : Nat} {k : RtpPacket} (h : Inv s) : Inv (placePacket c port k s) := by
  unfold Machine.placePacket
  dsimp only
  split
  · exact h.setStream.resync.ite h.setStream.dropCandidate.placePacket_place
  · exact h.setStream.placePacket_place

protected theorem Inv.unprotect {c : Nat} {rtcp : Bool} {index : Nat} {payload : List Byte} (h : Inv s) :
    Inv (unprotect c rtcp index payload s).2 := by
  unfold Machine.unprotect
  dsimp only
  refine .ite_2 ?_ ?_
  · exact h
  · split
    · exact h.countDrop
    · exact .ite_2 (.snd h.countDrop) (.ite_2 (.snd h.countDrop) (.snd h.setStream))

protected theorem Inv.rtcpPacket {c : Nat} {f : Frame} (h : Inv s) : Inv (rtcpPacket c f s) := by
  unfold Machine.rtcpPacket
  split
  · next heq => exact h.unprotect.of_eq_2 heq
  · next heq => exact .ite (.senderReport (h.unprotect.of_eq_2 heq)) (h.unprotect.of_eq_2 heq)

protected theorem Inv.rtpPacket {c port : Nat} {f : Frame} (h : Inv s) : Inv (rtpPacket c port f s) := by
  unfold Machine.rtpPacket
  dsimp only
  refine .ite ?_ ?_
  · exact h.countDrop
  · split
    · next heq => exact h.unprotect.of_eq_2 heq
    · next heq =>
        exact .ite (.countDrop (h.unprotect.of_eq_2 heq)) (.placePacket (.setLevel (h.unprotect.of_eq_2 heq)))

protected theorem Inv.execFrameReceive {port : BitVec 1} {f : Frame} (h : Inv s) :
    KeepsInv (execFrameReceive port f s) := by
  unfold Machine.execFrameReceive
  dsimp only
  refine .next ?_
  refine .ite ?_ ?_
  · exact h
  · refine .ite ?_ ?_
    · exact h.setPort
    · refine .ite ?_ ?_
      · exact h.setPort
      · refine .ite ?_ ?_
        · exact h.setPort.setPort
        · refine .ite ?_ ?_
          · exact h.setPort
          · refine .ite ?_ ?_
            · exact h.setPort.setPort
            · split
              · exact h.setPort.setPort
              · exact .ite h.setPort (.ite h.setPort.rtcpPacket h.setPort.rtpPacket)

protected theorem Inv.execPauseFrame {port : BitVec 1} {quanta : BitVec 16} (h : Inv s) :
    KeepsInv (execPauseFrame port quanta s) := .next (.ite h h.setPort.releaseTx)

protected theorem Inv.answerIf {own : Bool} {n : Nat} {k : ControlKind} (h : Inv s) : Inv (answerIf own n k s) :=
  .ite h.sendControl h

protected theorem Inv.reportGroups {n : Nat} {v6 : Bool} (h : Inv s) : Inv (reportGroups n v6 s) :=
  h.foldl fun _ _ h => h.sendControl

protected theorem Inv.askNextHop {n : Nat} (h : Inv s) : Inv (askNextHop n s) := .ite h.sendControl h

protected theorem Inv.controlBody {n : Nat} {k : ControlKind} (h : Inv s) : Inv (controlBody n k s) := by
  unfold Machine.controlBody
  dsimp only
  split
  · exact h.answerIf
  · exact h.answerIf
  · exact h.answerIf
  · exact h.answerIf
  · exact .reportGroups (.ite h.setPort h)
  · exact .reportGroups (.ite h.setPort h)
  · exact h.setPort.foldl fun _ _ h => h.askNextHop
  · exact h

protected theorem Inv.execControlPacket {port : BitVec 1} {k : ControlKind} (h : Inv s) :
    KeepsInv (execControlPacket port k s) := .next (.ite h (.ite h.setPort h.setPort.controlBody))

protected theorem Inv.execReorderWaitExpiry {ctx : BitVec 12} (h : Inv s) :
    KeepsInv (execReorderWaitExpiry ctx s) := by
  unfold Machine.execReorderWaitExpiry
  dsimp only
  refine .next ?_
  split
  · exact h
  · split
    · exact h
    · split
      · exact h
      · exact .ite h h.takeAu.scanAus

protected theorem Inv.flushPort {n : Nat} (h : Inv s) : Inv (flushPort n s) := h.foldl fun _ _ h => h.flushAll

protected theorem Inv.setLink {n : Nat} {up : Bool} (h : Inv s) : Inv (setLink n up s) :=
  .ite h (.ite (h.hwSet.setPort.updateWire.reportGroups.reportGroups.foldl fun _ _ h => h.askNextHop)
    h.hwSet.setPort.updateWire.flushPort)

protected theorem Inv.execPortLinkChange {port : BitVec 1} {up : Bool} (h : Inv s) :
    KeepsInv (execPortLinkChange port up s) := .next (.ite h.setLink h)

protected theorem Inv.execTruantTimeout {ctx : BitVec 12} (h : Inv s) : KeepsInv (execTruantTimeout ctx s) :=
  .next (.ite h.transition h)

protected theorem Inv.execStashMove (h : Inv s) : KeepsInv (execStashMove s) := .next (.ite (h.same rfl) h)

protected theorem Inv.execPoolStage3Shed (h : Inv s) : KeepsInv (execPoolStage3Shed s) := by
  unfold Machine.execPoolStage3Shed
  dsimp only
  refine .next ?_
  refine .ite ?_ ?_
  · exact h
  · split
    · exact h
    · exact h.same rfl

protected theorem Inv.configPort {p : Packet} (h : Inv s) : Inv (configPort p s) :=
  .ite h.setLink.setPort h.setLink.setPort.wakeDomain.wakeDomain

protected theorem Inv.discardCopies {l : List QRec} (h : Inv s) : Inv (discardCopies l s) :=
  h.foldl fun _ _ h => h.setStream.poolFree.lastRecordCheck

protected theorem Inv.configDest {p : Packet} (h : Inv s) : Inv (configDest p s) :=
  .ite h.setDest.askNextHop h.setDest.discardCopies

protected theorem Inv.configAny {p : Packet} (h : Inv s) : Inv (configAny p s) := .ite h.configPort h.configDest

protected theorem Inv.portConfigBody {f : Fetched} (h : Inv s) : Inv (portConfigBody f s) :=
  .answer (.ite (h.same rfl) h.configAny)

protected theorem Inv.execPortConfigPort {ring : BitVec 6} {p : Packet} (h : Inv s) :
    KeepsInv (execPortConfigPort ring p s) := h.packetStep (fun _ _ h => h.portConfigBody)

protected theorem Inv.execPortConfigDatagram {ring : BitVec 6} {p : Packet} (h : Inv s) :
    KeepsInv (execPortConfigDatagram ring p s) := h.packetStep (fun _ _ h => h.portConfigBody)

protected theorem Inv.applyDeferred (h : Inv s) : Inv (applyDeferred s) :=
  .foldl (h.same rfl) fun _ _ h => h.configAny

protected theorem Inv.loadKey {c kslot : Nat} {k : KeySlot} (h : Inv s) : Inv (loadKey c kslot k s) := h.setStream

protected theorem Inv.keyLoadBody {blob : HostRead (List Byte)} {f : Fetched} (h : Inv s) :
    Inv (keyLoadBody blob f s) := by
  unfold Machine.keyLoadBody
  dsimp only
  refine .ite ?_ ?_
  · exact h.answer
  · split
    · exact h.answer
    · split
      · exact h.answer
      · exact h.loadKey.answer

protected theorem Inv.execKeyLoad {ring : BitVec 6} {p : Packet} {blob : HostRead (List Byte)} (h : Inv s) :
    KeepsInv (execKeyLoad ring p blob s) := h.packetStep (fun _ _ h => h.keyLoadBody)

protected theorem Inv.noteAu {cmd : BitVec 6 × BitVec 16} {a : AuPush} (h : Inv s) : Inv (noteAu cmd a s) :=
  h.same rfl

protected theorem Inv.auPushBody {f : Fetched} (h : Inv s) : Inv (auPushBody f s) := by
  unfold Machine.auPushBody
  dsimp only
  refine .ite ?_ ?_
  · exact h.answer
  · refine .ite ?_ ?_
    · exact h.answer
    · refine .ite ?_ ?_
      · exact h.answer
      · refine .ite ?_ ?_
        · exact h.answer
        · split
          · next heq => exact .answer (h.poolAlloc.of_eq_2 heq)
          · next heq => exact .noteAu (.wait_ (.same (h.poolAlloc.of_eq_2 heq) rfl))

protected theorem Inv.execAuPush {ring : BitVec 6} {p : Packet} (h : Inv s) : KeepsInv (execAuPush ring p s) :=
  h.packetStep (fun _ _ h => h.auPushBody)

protected theorem Inv.readIngest {blocks : List Nat} {n : Nat} (h : Inv s) : Inv (readIngest blocks n s).2 := by
  unfold Machine.readIngest
  dsimp only
  exact h.foldl_pair fun _ _ h => h.dpaReadBytes

protected theorem Inv.execAuPushComplete {ring : BitVec 6} {tag : BitVec 16} {refFree : Bool} (h : Inv s) :
    KeepsInv (execAuPushComplete ring tag refFree s) := by
  unfold Machine.execAuPushComplete
  dsimp only
  refine .next ?_
  split
  · exact .finish (.completeAu (.readIngest (h.same rfl)))
  · exact h

/-! ### Machine/Admission -/

protected theorem Inv.streamOpenBody {f : Fetched} (h : Inv s) : Inv (streamOpenBody f s) :=
  .ite h.answer h.setStream.answer

protected theorem Inv.execStreamOpen {ring : BitVec 6} {p : Packet} (h : Inv s) :
    KeepsInv (execStreamOpen ring p s) := h.packetStep (fun _ _ h => h.streamOpenBody)

protected theorem Inv.mapPages {x bits : Nat} {pages : List Nat} (h : Inv s) : Inv (mapPages x bits pages s) :=
  .ite h (h.foldl fun _ _ h => h.ptePut)

protected theorem Inv.beginAdmission {f : Fetched} {ad : AdmitParams} (h : Inv s) : Inv (beginAdmission f ad s) :=
  .addChange (.wait_ (.mapPages (.setStream (h.freePinned.same rfl))))

protected theorem Inv.streamAdmitBody {pages units : List Nat} {f : Fetched} (h : Inv s) :
    Inv (streamAdmitBody pages units f s) := by
  unfold Machine.streamAdmitBody
  dsimp only
  split
  · exact h.answer
  · refine .ite ?_ ?_
    · exact h.answer
    · refine .ite ?_ ?_
      · exact h.answer
      · split
        · exact h.answer
        · exact h.beginAdmission

protected theorem Inv.execStreamAdmit {ring : BitVec 6} {p : Packet} {pages units : List Nat} (h : Inv s) :
    KeepsInv (execStreamAdmit ring p pages units s) := h.packetStep (fun _ _ h => h.streamAdmitBody)

protected theorem Inv.abortAdmission {c : Nat} (h : Inv s) : Inv (abortAdmission c s) := by
  unfold Machine.abortAdmission
  dsimp only
  split
  · exact h
  · split
    · exact h.dropChanges.undoAdmit.finish
    · exact h.dropChanges.undoAdmit

protected theorem Inv.streamCloseBody {f : Fetched} (h : Inv s) : Inv (streamCloseBody f s) :=
  .ite h.answer (.ite h.abortAdmission.wait_.addChange h.abortAdmission.wait_.closeNow)

protected theorem Inv.execStreamClose {ring : BitVec 6} {p : Packet} (h : Inv s) :
    KeepsInv (execStreamClose ring p s) := h.packetStep (fun _ _ h => h.streamCloseBody)

protected theorem Inv.shedRankBody {f : Fetched} (h : Inv s) : Inv (shedRankBody f s) :=
  .ite h.answer h.setStream.answer

protected theorem Inv.execShedRankSet {ring : BitVec 6} {p : Packet} (h : Inv s) :
    KeepsInv (execShedRankSet ring p s) := h.packetStep (fun _ _ h => h.shedRankBody)

protected theorem Inv.sheafDefineBody {f : Fetched} (h : Inv s) : Inv (sheafDefineBody f s) := by
  unfold Machine.sheafDefineBody
  dsimp only
  split
  · exact h.answer
  · refine .ite ?_ ?_
    · exact h.answer
    · split
      · split
        · exact h.answer
        · exact .addChange (.wait_ (h.same rfl))
      · exact h.answer

protected theorem Inv.execSheafDefine {ring : BitVec 6} {p : Packet} (h : Inv s) :
    KeepsInv (execSheafDefine ring p s) := h.packetStep (fun _ _ h => h.sheafDefineBody)

protected theorem Inv.changeOrNow {f : Fetched} {k : ChangeKind} (h : Inv s) : Inv (changeOrNow f k s) :=
  .ite h.wait_.addChange h.wait_.applyChange

protected theorem Inv.sheafDissolveBody {f : Fetched} (h : Inv s) : Inv (sheafDissolveBody f s) :=
  .ite h.answer h.changeOrNow

protected theorem Inv.execSheafDissolve {ring : BitVec 6} {p : Packet} (h : Inv s) :
    KeepsInv (execSheafDissolve ring p s) := h.packetStep (fun _ _ h => h.sheafDissolveBody)

protected theorem Inv.roundConfigBody {f : Fetched} (h : Inv s) : Inv (roundConfigBody f s) := by
  unfold Machine.roundConfigBody
  dsimp only
  split
  · exact h.answer
  · exact h.changeOrNow

protected theorem Inv.execRoundConfig {ring : BitVec 6} {p : Packet} (h : Inv s) :
    KeepsInv (execRoundConfig ring p s) := h.packetStep (fun _ _ h => h.roundConfigBody)

protected theorem Inv.execSlipRollCall {ctx : BitVec 12} (h : Inv s) : KeepsInv (execSlipRollCall ctx s) :=
  .next (.ite h (.ite h.setStream.addChange h.setStream))

protected theorem Inv.execRelockRollCall {ctx : BitVec 12} (h : Inv s) : KeepsInv (execRelockRollCall ctx s) := by
  unfold Machine.execRelockRollCall
  dsimp only
  refine .next ?_
  refine .ite ?_ ?_
  · exact h
  · split
    · exact .ite h.setStream.streamEvent.addChange h.setStream.streamEvent
    · exact h.setStream.streamEvent

/-! ### Machine/NetLoad -/

protected theorem Inv.storeWeights {pages : List Nat} {weights : List Byte} (h : Inv s) :
    Inv (storeWeights pages weights s) := h.foldl fun _ _ h => h.dpaStore

protected theorem Inv.loadImage {n : Nat} {v : Network} {w m units : List Nat} {weights : List Byte} (h : Inv s) :
    Inv (loadImage n v w m units weights s) := .mapPages (.storeWeights (.storeWeights (h.setNet.same rfl)))

protected theorem Inv.networkLoadBody {image : HostRead (List Byte)} {pages : List Nat} {f : Fetched} (h : Inv s) :
    Inv (networkLoadBody image pages f s) := by
  unfold Machine.networkLoadBody
  dsimp only
  split
  · exact h.answer
  · split
    · exact h.answer
    · split
      · exact h.answer
      · split
        · exact .ite h.answer h.loadImage.answer
        · exact h.answer
        · exact h.answer

protected theorem Inv.execNetworkLoad {ring : BitVec 6} {p : Packet} {image : HostRead (List Byte)}
    {pages : List Nat} (h : Inv s) :
    KeepsInv (execNetworkLoad ring p image pages s) := h.packetStep (fun _ _ h => h.networkLoadBody)

protected theorem Inv.unloadImage {n : Nat} {v : Network} (h : Inv s) : Inv (unloadImage n v s) :=
  .giveBack (h.same rfl)

protected theorem Inv.networkUnloadBody {f : Fetched} (h : Inv s) : Inv (networkUnloadBody f s) := by
  unfold Machine.networkUnloadBody
  dsimp only
  split
  · exact h.answer
  · split
    · exact h.answer
    · exact .ite h.answer h.unloadImage.answer

protected theorem Inv.execNetworkUnload {ring : BitVec 6} {p : Packet} (h : Inv s) :
    KeepsInv (execNetworkUnload ring p s) := h.packetStep (fun _ _ h => h.networkUnloadBody)

/-! ### Machine/Assembly -/

protected theorem Inv.storeImages {c : AreaContent} (h : Inv s) : Inv (storeImages c s) :=
  h.foldl fun _ _ h => .ite h.dpaStore h

theorem memFilter_wf {m : Mem} (h : m.wf = true) (p : Nat × Byte → Bool) (q : Nat × BitVec 7 → Bool) :
    ({ m with cells := m.cells.filter p, syn := m.syn.filter q } : Mem).wf = true := by
  have hc : canonFrom (memBlank m) 0 (m.cells.filter p) = true := canonFrom_filter p (Mem.wf_cells h)
  have hs : canonFrom (synBlank m) 0 (m.syn.filter q) = true := canonFrom_filter q (Mem.wf_syn h)
  exact Bool.and_eq_true _ _ ▸ ⟨hc, hs⟩

protected theorem Inv.cleanArea {a : Nat} (h : Inv s) : Inv (cleanArea a s) := h.stored (memFilter_wf h.dpa_wf _ _) rfl

protected theorem Inv.execTimetableMarkComplete {standby : Bool} {area : BitVec 2} {w : AreaWrite} (h : Inv s) :
    KeepsInv (execTimetableMarkComplete standby area w s) :=
  .next (.ite h (.ite (.same (.storeImages (.cleanArea (.same (.ite (h.same rfl) h) rfl))) rfl)
    (.same (.storeImages (.cleanArea (.same (.ite (h.same rfl) h) rfl))) rfl)))

/-! ### Machine/Video -/

protected theorem Inv.readWords {ad : AdmitParams} {off n : Nat} (h : Inv s) : Inv (readWords ad off n s).2 := by
  induction n generalizing off s with
  | zero =>
    rw [Machine.readWords]
    exact h
  | succ n ih =>
    rw [Machine.readWords]
    exact ih h.dpaReads

protected theorem Inv.writeWords {ad : AdmitParams} {off : Nat} {l : List (Word × Bool)} (h : Inv s) :
    Inv (writeWords ad off l s) := by
  induction l generalizing off s with
  | nil => exact h
  | cons w r ih =>
    rw [writeWords_cons]
    exact ih h.dpaWrites

protected theorem Inv.storeRows {ad : AdmitParams} {off pitch : Nat} {rows : List (List Byte)} (h : Inv s) :
    Inv (storeRows ad off pitch rows s) := h.foldl fun _ _ h => h.writeWords

protected theorem Inv.concealBlock {ad : AdmitParams} {a : ParamSet} {src : Option Nat} {dst i : Nat} (h : Inv s) :
    Inv (concealBlock ad a src dst i s).2 := by
  refine h.foldl_pair fun _ _ h => Inv.writeWords ?_
  split
  · exact h.readWords
  · exact h

protected theorem Inv.readBlock {ad : AdmitParams} {a : ParamSet} {src i : Nat} (h : Inv s) :
    Inv (readBlock ad a src i s).2 := by
  unfold Machine.readBlock
  dsimp only
  exact h.foldl_pair fun _ _ h => h.readWords

protected theorem Inv.fetchRefs {ad : AdmitParams} {a : ParamSet} {refs : List RefPic} {blocks : List BlockFacts}
    (h : Inv s) : Inv (fetchRefs ad a refs blocks s).2 := by
  unfold Machine.fetchRefs
  refine h.foldl_pair fun _ _ h => .foldl_2 h fun _ _ h => ?_
  split
  · exact h
  · exact h.readBlock

protected theorem Inv.readPlane {ad : AdmitParams} {off pitch b w x5 : Nat} (h : Inv s) :
    Inv (readPlane ad off pitch b w x5 s).2 := by
  unfold Machine.readPlane
  dsimp only
  exact h.foldl_pair fun _ _ h => h.readWords

protected theorem Inv.storeSamples {ad : AdmitParams} {off pitch b : Nat} {rows : List (List (Nat × Bool))}
    (h : Inv s) : Inv (storeSamples ad off pitch b rows s) := h.foldl fun _ _ h => h.writeWords

protected theorem Inv.writeCopy {ad : AdmitParams} {a : ParamSet} {src k : Nat} (h : Inv s) :
    Inv (writeCopy ad a src k s).2 := .ite_2 (.snd h) (.snd h.readPlane.readPlane.storeSamples.storeSamples)

protected theorem Inv.writePicture {ad : AdmitParams} {a : ParamSet} {p : PicFacts} {refs : List RefPic}
    {gone : List Nat} {buffer : Nat} (h : Inv s) : Inv (writePicture ad a p refs gone buffer s).2 := by
  unfold Machine.writePicture
  dsimp only
  exact .foldl_pair h.storeRows.storeRows fun _ _ h => h.concealBlock

protected theorem Inv.writeDecoder {ad : AdmitParams} {off : Nat} {l : List Byte} (h : Inv s) :
    Inv (writeDecoder ad off l s) := h.foldl fun _ _ h => h.dpaWrites

protected theorem Inv.decodeEnded {f g : FrameRec} (h : Inv s) : Inv (decodeEnded f g s) := by
  unfold Machine.decodeEnded
  dsimp only
  refine .ite ?_ ?_
  · split
    · exact .same (h.poolFree.poolFree.same rfl) rfl
    · exact h.poolFree.poolFree.same rfl
  · exact h.poolFree.poolFree.same rfl

protected theorem Inv.countDecode {n outcome cycles : Nat} {ctx : BitVec 12} (h : Inv s) :
    Inv (countDecode n outcome cycles ctx s) := h.hwPeak.setDec

protected theorem Inv.countRefusal {c : Nat} {counts : Bool} (h : Inv s) : Inv (countRefusal c counts s) :=
  .ite h (.ite h.setStream.faultStream h.setStream)

protected theorem Inv.refusePicture {n outcome : Nat} {p : PicFacts} {f : FrameRec} (h : Inv s) :
    Inv (refusePicture n outcome p f s) := h.setStream.decodeEnded.countDecode.countRefusal

protected theorem Inv.readAu {f : FrameRec} (h : Inv s) : Inv (readAu f s).2 := by
  unfold Machine.readAu
  exact .foldl_pair (.foldl_pair h fun _ _ h => h.dpaReads) fun _ _ h => h.dpaReads

protected theorem Inv.decodeFrame {st : Stream} {a : ParamSet} {short disc : Bool} {p : PicFacts}
    {refs : List RefPic} {seq buffer : Nat} (h : Inv s) :
    Inv (decodeFrame st a short disc p refs seq buffer s).2.2 := h.fetchRefs.writePicture

protected theorem Inv.decodeHidden {c : Nat} {a : ParamSet} {short disc : Bool} {p : PicFacts} {seq : Nat}
    {l : List HiddenFrame} {i : Nat} {refs : List RefPic} (h : Inv s) :
    Inv (decodeHidden c a short disc p seq l i refs s).2 := by
  induction l generalizing i refs s with
  | nil => exact h
  | cons x r ih => exact ih h.decodeFrame

protected theorem Inv.decodeOne {n : Nat} {a : ParamSet} {p : PicFacts} {f : FrameRec} (h : Inv s) :
    Inv (decodeOne n a p f s) :=
  h.readAu.decodeHidden.decodeFrame.writeCopy.writeDecoder.setStream.decodeEnded.countDecode

protected theorem Inv.noPicture {n : Nat} {f : FrameRec} (h : Inv s) : Inv (noPicture n f s) := h.dropFrame.setDec

protected theorem Inv.decodeStep {n : Nat} {p : PicFacts} {f : FrameRec} (h : Inv s) :
    Inv (decodeStep n p f s) := by
  unfold Machine.decodeStep
  dsimp only
  refine .ite ?_ ?_
  · exact h.setStream.endReplay.noPicture
  · split
    · exact h.setStream.endReplay.refusePicture
    · exact h.setStream.endReplay.decodeOne

protected theorem Inv.execDecodePicture {engine : BitVec 5} {f : PicFacts} (h : Inv s) :
    KeepsInv (execDecodePicture engine f s) := by
  unfold Machine.execDecodePicture
  refine .next ?_
  split
  · exact h
  · exact h.decodeStep

protected theorem Inv.execDecodeWatchdog {engine : BitVec 5} (h : Inv s) :
    KeepsInv (execDecodeWatchdog engine s) := by
  unfold Machine.execDecodeWatchdog
  dsimp only
  refine .next ?_
  split
  · exact h
  · exact .ite h h.startReset

protected theorem Inv.writeInput {ad : AdmitParams} {off : Nat} {l : List (Word × Bool)} (h : Inv s) :
    Inv (writeInput ad off l s) := by
  induction l generalizing off s with
  | nil => exact h
  | cons w r ih => exact ih h.dpaWrites

protected theorem Inv.readSource {f : FrameRec} (h : Inv s) : Inv (readSource f s).2 := h.readPlane.readPlane

protected theorem Inv.prepare {f : FrameRec} {d : InputDesc} {k : Nat} (h : Inv s) : Inv (prepare f d k s).2 := by
  unfold Machine.prepare
  dsimp only
  exact .writeInput (.foldl_pair h.readSource fun _ _ h => h.writeInput)

protected theorem Inv.inputDone {j : Nat} {f : FrameRec} {late : Bool} {i k cycles : Nat} {sat : Bool} (h : Inv s) :
    Inv (inputDone j f late i k cycles sat s) :=
  .ite (.endReplay (.setPrep (.ite (.hwPeak (.ite (h.same rfl) (h.same rfl))) (.ite (h.same rfl) (h.same rfl)))))
    (.setPrep (.ite (.hwPeak (.ite (h.same rfl) (h.same rfl))) (.ite (h.same rfl) (h.same rfl))))

protected theorem Inv.execPrepareInput {engine : BitVec 4} {ctx : BitVec 12} {seq : Word} {input cycles : Nat}
    (h : Inv s) : KeepsInv (execPrepareInput engine ctx seq input cycles s) := by
  unfold Machine.execPrepareInput
  dsimp only
  refine .next ?_
  split
  · exact h
  · refine .ite ?_ ?_
    · exact h
    · split
      · exact h
      · exact h.prepare.inputDone

protected theorem Inv.execPrepWatchdog {engine : BitVec 4} (h : Inv s) : KeepsInv (execPrepWatchdog engine s) := by
  unfold Machine.execPrepWatchdog
  dsimp only
  refine .next ?_
  split
  · exact h
  · exact .ite h h.startReset

/-! ### Machine/Clips -/

protected theorem Inv.clipRequestBody {lists : HostRead ClipLists} {f : Fetched} (h : Inv s) :
    Inv (clipRequestBody lists f s) := by
  unfold Machine.clipRequestBody
  dsimp only
  split
  · exact h.answer
  · refine .ite ?_ ?_
    · exact h.answer
    · refine .ite ?_ ?_
      · exact h.answer
      · refine .ite ?_ ?_
        · exact h.answer
        · split
          · exact h.answer
          · refine .ite ?_ ?_
            · exact h.answer
            · refine .ite ?_ ?_
              · exact h.answer
              · split
                · exact h.answer
                · exact .ite h.answer (.answer (h.same rfl))

protected theorem Inv.execClipRequest {ring : BitVec 6} {p : Packet} {lists : HostRead ClipLists} (h : Inv s) :
    KeepsInv (execClipRequest ring p lists s) := h.packetStep (fun _ _ h => h.clipRequestBody)

protected theorem Inv.clipCancelBody {f : Fetched} (h : Inv s) : Inv (clipCancelBody f s) := by
  unfold Machine.clipCancelBody
  dsimp only
  split
  · exact h.answer
  · exact .ite h.wait_.endClip h.wait_.setClip

protected theorem Inv.execClipCancel {ring : BitVec 6} {p : Packet} (h : Inv s) :
    KeepsInv (execClipCancel ring p s) := h.packetStep (fun _ _ h => h.clipCancelBody)

protected theorem Inv.startSource {num : BitVec 16} (h : Inv s) : Inv (startSource num s) := by
  unfold Machine.startSource
  dsimp only
  split
  · exact h
  · refine .ite ?_ ?_
    · exact h
    · split
      · exact h
      · split
        · next heq => exact h.poolAlloc.of_eq_2 heq
        · next heq => exact .same (h.poolAlloc.of_eq_2 heq) rfl

protected theorem Inv.execClipStart (h : Inv s) : KeepsInv (execClipStart s) := by
  unfold Machine.execClipStart
  dsimp only
  refine .next ?_
  refine .ite ?_ ?_
  · exact h
  · split
    · exact .ite h (.startSource (.setClip (.same (.ite h.setEnc.wakeDomain.sendControl h.setEnc.wakeDomain) rfl)))
    · exact h

protected theorem Inv.dropSource {num : BitVec 16} {blocks : List Nat} (h : Inv s) :
    Inv (dropSource num blocks s) := .poolFree (h.same rfl)

protected theorem Inv.giveEncoder {k : Clip} {p : ClipPic} (h : Inv s) : Inv (giveEncoder k p s) := by
  unfold Machine.giveEncoder
  dsimp only
  split
  · exact h
  · exact h.setEnc.send

protected theorem Inv.clipDecoded {e : Nat} {k : Clip} {p : PicFacts} {len : Nat} {flags : BitVec 4} {ts : Word}
    {cap : BitVec 64} (h : Inv s) : Inv (clipDecoded e k p len flags ts cap s) := by
  unfold Machine.clipDecoded
  dsimp only
  refine .ite ?_ ?_
  · exact h.setClip.setDec
  · split
    · exact h.countDecode.setClip
    · exact .ite h.countDecode.setClip (.ite h.countDecode.setClip h.countDecode.setClip.giveEncoder)

protected theorem Inv.execClipDecodePicture {clip : BitVec 16} {f : PicFacts} (h : Inv s) :
    KeepsInv (execClipDecodePicture clip f s) := by
  unfold Machine.execClipDecodePicture
  dsimp only
  refine .next ?_
  split
  · exact h
  · refine .ite ?_ ?_
    · exact h
    · refine .ite ?_ ?_
      · exact h.endClip
      · split
        · exact h.startSource
        · split
          · exact h
          · exact .startSource (.clipComplete
              (.ite h.wakeDomain.dropSource.setClip h.wakeDomain.dropSource.clipDecoded))

protected theorem Inv.stageBytes {blocks : List Nat} {l : List Byte} (h : Inv s) : Inv (stageBytes blocks l s) :=
  h.foldl fun _ _ h => h.dpaStore

protected theorem Inv.emitPicture {k : Clip} {p : ClipPic} {unit stream : List Byte}
    {hostBlocks rtpBlocks : List Nat} (h : Inv s) : Inv (emitPicture k p unit stream hostBlocks rtpBlocks s).2 :=
  .ite_2 (.snd (h.stageBytes.stageBytes.same rfl)) (.snd h.stageBytes.stageBytes)

protected theorem Inv.clipBoundary {k : Clip} {full : Bool} (h : Inv s) : Inv (clipBoundary k full s) := by
  unfold Machine.clipBoundary
  split
  · exact h.endClip
  · exact .ite h.endClip (.ite h.endClip h.clipComplete)

protected theorem Inv.encodeStep {k : Clip} {e : Nat} {p : ClipPic} {mode : RateMode} {stream : List Byte}
    (h : Inv s) : Inv (encodeStep k e p mode stream s) := by
  unfold Machine.encodeStep
  dsimp only
  refine .ite ?_ ?_
  · exact h.setEnc.endReplay.setClip.clipBoundary
  · split
    · next heq => exact h.setEnc.endReplay.poolAlloc.of_eq_2 heq
    · next heq => exact .clipBoundary (.setClip (.emitPicture (h.setEnc.endReplay.poolAlloc.of_eq_2 heq)))

protected theorem Inv.segmentWait {k : Clip} (h : Inv s) : Inv (segmentWait k s) := .ite h (.setClip (h.same rfl))

protected theorem Inv.execClipEncodePicture {clip : BitVec 16} {header : Nat} {rowBits : List (Nat × Nat × Nat)}
    {stream : List Byte} (h : Inv s) : KeepsInv (execClipEncodePicture clip header rowBits stream s) := by
  unfold Machine.execClipEncodePicture
  dsimp only
  refine .next ?_
  split
  · exact h
  · split
    · exact .ite h (.ite h.encodeStep h.segmentWait)
    · exact h

protected theorem Inv.execClipPacketSend {clip : BitVec 16} (h : Inv s) : KeepsInv (execClipPacketSend clip s) := by
  unfold Machine.execClipPacketSend
  dsimp only
  refine .next ?_
  split
  · exact h
  · split
    · exact h
    · exact .ite h h.send.setClip.poolFree.clipSweep

protected theorem Inv.execEncWatchdog {engine : BitVec 3} (h : Inv s) : KeepsInv (execEncWatchdog engine s) := by
  unfold Machine.execEncWatchdog
  dsimp only
  refine .next ?_
  refine .ite ?_ ?_
  · exact h
  · split
    · exact h
    · split
      · exact h
      · exact .ite h h.startReset

/-! ### Machine/Fw -/

protected theorem Inv.fwEvent {bit : Nat} {w : Fw} (h : Inv s) : Inv (fwEvent bit w s) :=
  .updateWire (.hwSet (.hwSet (h.same rfl)))

protected theorem Inv.spoilTarget {kind : Nat} (h : Inv s) : Inv (spoilTarget kind s) :=
  .ite (h.same rfl) (h.same rfl)

protected theorem Inv.storeImage {kind : Nat} {m : FwImage} (h : Inv s) : Inv (storeImage kind m s) :=
  .ite h.fwEvent h.fwEvent

protected theorem Inv.fwStageBody {kind : Nat} {image : HostRead (List Byte)} {programmed : Bool} {f : Fetched}
    (h : Inv s) : Inv (fwStageBody kind image programmed f s) := by
  unfold Machine.fwStageBody
  dsimp only
  refine .ite ?_ ?_
  · exact h.answer
  · split
    · exact h.spoilTarget.answer
    · split
      · exact .answer (.ite h.spoilTarget.psramStore h.spoilTarget)
      · exact .ite (.answer (.ite h.spoilTarget.psramStore h.spoilTarget))
          (.answer (.storeImage (.ite h.spoilTarget.psramStore h.spoilTarget)))

protected theorem Inv.execFwStageBailiff {ring : BitVec 6} {p : Packet} {image : HostRead (List Byte)}
    {programmed : Bool} (h : Inv s) :
    KeepsInv (execFwStageBailiff ring p image programmed s) := h.packetStep (fun _ _ h => h.fwStageBody)

protected theorem Inv.execFwStagePatch {ring : BitVec 6} {p : Packet} {image : HostRead (List Byte)}
    {programmed : Bool} (h : Inv s) :
    KeepsInv (execFwStagePatch ring p image programmed s) := h.packetStep (fun _ _ h => h.fwStageBody)

protected theorem Inv.fwArmBailiffBody {f : Fetched} (h : Inv s) : Inv (fwArmBailiffBody f s) :=
  .ite h.answer (.answer (h.same rfl))

protected theorem Inv.fwArmPatchBody {f : Fetched} (h : Inv s) : Inv (fwArmPatchBody f s) := by
  unfold Machine.fwArmPatchBody
  dsimp only
  split
  · exact h.answer
  · exact .ite h.answer (.answer (h.same rfl))

protected theorem Inv.execFwArmBailiff {ring : BitVec 6} {p : Packet} (h : Inv s) :
    KeepsInv (execFwArmBailiff ring p s) := h.packetStep (fun _ _ h => h.fwArmBailiffBody)

protected theorem Inv.execFwArmPatch {ring : BitVec 6} {p : Packet} (h : Inv s) :
    KeepsInv (execFwArmPatch ring p s) := h.packetStep (fun _ _ h => h.fwArmPatchBody)

protected theorem Inv.beginSwitch {cmd : Option (BitVec 6 × BitVec 16)} (h : Inv s) : Inv (beginSwitch cmd s) :=
  h.same rfl

protected theorem Inv.fwActivateBody {f : Fetched} (h : Inv s) : Inv (fwActivateBody f s) := by
  unfold Machine.fwActivateBody
  dsimp only
  split
  · exact h.answer
  · exact .ite h.beginSwitch.wait_ (.ite (.wait_ (h.same rfl)) h.answer)

protected theorem Inv.fwDisarmBody {f : Fetched} (h : Inv s) : Inv (fwDisarmBody f s) := by
  unfold Machine.fwDisarmBody
  dsimp only
  split
  · exact h.answer
  · exact .ite (.answer (h.same rfl)) h.answer

protected theorem Inv.execFwActivate {ring : BitVec 6} {p : Packet} (h : Inv s) :
    KeepsInv (execFwActivate ring p s) := h.packetStep (fun _ _ h => h.fwActivateBody)

protected theorem Inv.execFwDisarm {ring : BitVec 6} {p : Packet} (h : Inv s) : KeepsInv (execFwDisarm ring p s) :=
  h.packetStep (fun _ _ h => h.fwDisarmBody)

protected theorem Inv.execQuiesceTimeout (h : Inv s) : KeepsInv (execQuiesceTimeout s) :=
  .next (.ite (h.same rfl) h)

protected theorem Inv.fwFallback (h : Inv s) : Inv (fwFallback s) := .finishAll (.fwEvent (h.faultSimple.same rfl))

protected theorem Inv.execBootLoadComplete {blocksOk : Bool} (h : Inv s) :
    KeepsInv (execBootLoadComplete blocksOk s) :=
  .next (.ite h (.ite h.fwFallback (.finishAll (.fwEvent (h.same rfl)))))

protected theorem Inv.execRemainingBlockLoad {block : Nat} {ok : Bool} (h : Inv s) :
    KeepsInv (execRemainingBlockLoad block ok s) := .next (.ite h (.ite (h.same rfl) (.ite h.fwFallback h)))

protected theorem Inv.execSyncInEdge (h : Inv s) : KeepsInv (execSyncInEdge s) :=
  .next (.ite h (.ite (.ite (h.leaveLow.pmeD3hot.same rfl) h.leaveLow.pmeD3hot.beginSwitch) h.leaveLow.fwEvent))

protected theorem Inv.execConfirmRequest (h : Inv s) : KeepsInv (execConfirmRequest s) := .next (.ite h h.fwEvent)

protected theorem Inv.execTrialTimeout (h : Inv s) : KeepsInv (execTrialTimeout s) :=
  .next (.ite h.leaveLow.fwFallback h)

protected theorem Inv.bailiffRestart {reason : Nat} (h : Inv s) : Inv (bailiffRestart reason s) :=
  .ite h (.ite h.fwFallback (.fwEvent (h.faultSimple.same rfl)))

protected theorem Inv.execAliveTimeout (h : Inv s) : KeepsInv (execAliveTimeout s) :=
  .next (.ite h.leaveLow.bailiffRestart h)

protected theorem Inv.execFirewallBlock {write : Bool} (h : Inv s) : KeepsInv (execFirewallBlock write s) :=
  .next h.bailiffRestart

protected theorem Inv.execMgmtSramError (h : Inv s) : KeepsInv (execMgmtSramError s) := .next h.bailiffRestart

protected theorem Inv.fwCtrl {value : Word} (h : Inv s) : Inv (fwCtrl value s) :=
  .ite (.fwFallback (.ite (h.same rfl) h)) (.ite (h.same rfl) h)

protected theorem Inv.execFwConfirm {value : Word} (h : Inv s) : KeepsInv (execFwConfirm value s) := by
  unfold Machine.execFwConfirm
  refine .ite ?_ ?_
  · exact .fault
  · exact .next (.ite h.fwCtrl h)

protected theorem Inv.execFwReject {value : Word} (h : Inv s) : KeepsInv (execFwReject value s) := by
  unfold Machine.execFwReject
  refine .ite ?_ ?_
  · exact .fault
  · exact .next (.ite h.fwCtrl h)

protected theorem Inv.doeRespond {bytes : List Byte} (h : Inv s) : Inv (doeRespond bytes s) :=
  .ite (.send (h.same rfl)) h

protected theorem Inv.spdmStep {need : Nat} {bytes : List Byte} (h : Inv s) : Inv (spdmStep need bytes s) :=
  .ite h.doeRespond h.doeRespond

protected theorem Inv.setSpdm {n : Nat} (h : Inv s) : Inv (setSpdm n s) := .ite (h.same rfl) h

protected theorem Inv.execGetVersion (h : Inv s) : KeepsInv (execGetVersion s) := .next h.setSpdm.doeRespond

protected theorem Inv.execGetCapabilities (h : Inv s) : KeepsInv (execGetCapabilities s) :=
  .next (.spdmStep (.ite h.setSpdm h))

protected theorem Inv.execNegotiateAlgorithms (h : Inv s) : KeepsInv (execNegotiateAlgorithms s) :=
  .next (.spdmStep (.ite h.setSpdm h))

protected theorem Inv.execGetDigests (h : Inv s) : KeepsInv (execGetDigests s) := .next h.spdmStep

protected theorem Inv.execGetCertificate {slot offset length : Nat} (h : Inv s) :
    KeepsInv (execGetCertificate slot offset length s) := .next h.spdmStep

protected theorem Inv.spdmNonce (h : Inv s) : Inv (spdmNonce s).2 := h.drawFree

protected theorem Inv.execChallenge {slot : Nat} {nonce : List Byte} (h : Inv s) :
    KeepsInv (execChallenge slot nonce s) := .next (.ite h.spdmStep h.spdmNonce.spdmStep)

protected theorem Inv.execGetMeasurements {nonce : List Byte} (h : Inv s) :
    KeepsInv (execGetMeasurements nonce s) := .next h.spdmNonce.spdmStep

protected theorem Inv.execSpdmUnsupportedRequest {code : Byte} (h : Inv s) :
    KeepsInv (execSpdmUnsupportedRequest code s) := .next h.doeRespond

protected theorem Inv.execDoeAbort (h : Inv s) : KeepsInv (execDoeAbort s) := .next (.ite (h.same rfl) h)

/-! ### Machine/Power -/

protected theorem Inv.idleAgain {d : Nat} (h : Inv s) : Inv (idleAgain d s) := by
  unfold Machine.idleAgain
  dsimp only
  split
  · exact h.setDec
  · exact h.setPrep
  · exact h.setEnc
  · exact h

protected theorem Inv.powerUp {d : Nat} (h : Inv s) : Inv (powerUp d s) :=
  .ite h.corePowerOn (.ite h.wakeDomain h.wakeDomain.idleAgain)

protected theorem Inv.clearBank {b : Nat} (h : Inv s) : Inv (clearBank b s) := h.stored (memFilter_wf h.dpa_wf _ _) rfl

protected theorem Inv.switchOff {d : Nat} {mode : BitVec 2} (h : Inv s) : Inv (switchOff d mode s) :=
  .ite h.corePowerOff (.ite h (.ite (.clearBank (h.same rfl)) (h.same rfl)))

protected theorem Inv.recessEnterBody {f : Fetched} (h : Inv s) : Inv (recessEnterBody f s) := by
  unfold Machine.recessEnterBody
  dsimp only
  split
  · exact h.answer
  · split
    · exact h.answer
    · exact .wait_ (h.same rfl)

protected theorem Inv.execRecessEnter {ring : BitVec 6} {p : Packet} (h : Inv s) :
    KeepsInv (execRecessEnter ring p s) := h.packetStep (fun _ _ h => h.recessEnterBody)

protected theorem Inv.recessReached {e : RecessEntry} (h : Inv s) : Inv (recessReached e s) :=
  .finish (.enterLow (h.wired h.wire rfl))

protected theorem Inv.entryStep {d : Nat} (h : Inv s) : Inv (entryStep d s) := by
  unfold Machine.entryStep
  dsimp only
  split
  · exact h
  · exact .ite h (.ite (.recessReached (h.same rfl)) (h.same rfl))

protected theorem Inv.refuseBy {d reason : Nat} (h : Inv s) : Inv (refuseBy d reason s) := by
  unfold Machine.refuseBy
  dsimp only
  split
  · exact .ite (.idleAgain (h.same rfl))
      (.finish (.updateWire (.hwSet (.newRound (.same (.foldl (h.same rfl) fun _ _ h => h.powerUp) rfl)))))
  · exact .idleAgain (h.same rfl)

protected theorem Inv.askOff {d : Nat} {mode : BitVec 2} (h : Inv s) : Inv (askOff d mode s) := .send (h.same rfl)

protected theorem Inv.execEngineIdleOff {kind : VideoKind} {index : BitVec 5} (h : Inv s) :
    KeepsInv (execEngineIdleOff kind index s) := .next (.ite h.askOff h)

protected theorem Inv.execOffReq {domain : BitVec 9} {mode : BitVec 2} (h : Inv s) :
    KeepsInv (execOffReq domain mode s) := .next (.ite h.askOff h)

protected theorem Inv.execAck {domain : BitVec 9} (h : Inv s) : KeepsInv (execAck domain s) := by
  unfold Machine.execAck
  dsimp only
  refine .next ?_
  split
  · exact h
  · exact .ite h (.entryStep (.switchOff (h.same rfl)))

protected theorem Inv.execDelay {domain : BitVec 9} {reason : Byte} {us : Nat} (h : Inv s) :
    KeepsInv (execDelay domain reason us s) := by
  unfold Machine.execDelay
  dsimp only
  refine .next ?_
  split
  · exact h
  · exact .ite h (h.same rfl)

protected theorem Inv.execRefuse {domain : BitVec 9} {reason : Byte} (h : Inv s) :
    KeepsInv (execRefuse domain reason s) := by
  unfold Machine.execRefuse
  dsimp only
  refine .next ?_
  split
  · exact h
  · exact .ite h.refuseBy h

protected theorem Inv.execDelayExpired {domain : BitVec 9} (h : Inv s) : KeepsInv (execDelayExpired domain s) := by
  unfold Machine.execDelayExpired
  dsimp only
  refine .next ?_
  split
  · exact .ite h.refuseBy h
  · exact h

protected theorem Inv.requestWake {d : Nat} (h : Inv s) : Inv (requestWake d s) :=
  .ite (.ite h (h.same rfl)) (.send (h.same rfl))

protected theorem Inv.execWakeReq {domain : BitVec 9} (h : Inv s) : KeepsInv (execWakeReq domain s) :=
  .next (.ite h.requestWake h)

protected theorem Inv.execReady {domain : BitVec 9} (h : Inv s) : KeepsInv (execReady domain s) :=
  .next (.ite (.powerUp (h.same rfl)) h)

protected theorem Inv.touchDomain {d : Nat} (h : Inv s) : Inv (touchDomain d s) := h.same rfl

protected theorem Inv.hostWake {d : Nat} {stallUs : BitVec 16} (h : Inv s) : Inv (hostWake d stallUs s) :=
  .ite h (.ite h.requestWake
    (.ite (.same (.ite (.hwPeak (h.same rfl)) (.powerUp (.hwPeak (h.same rfl)))) rfl)
    (.ite (.hwPeak (h.same rfl)) (.powerUp (.hwPeak (h.same rfl))))))

protected theorem Inv.execHostAccessWake {offset : BitVec 24} {stallUs : BitVec 16} (h : Inv s) :
    KeepsInv (execHostAccessWake offset stallUs s) := .next (.ite h h.hostWake)

protected theorem Inv.execRecessDomainRevert {domain : BitVec 9} (h : Inv s) :
    KeepsInv (execRecessDomainRevert domain s) := by
  unfold Machine.execRecessDomainRevert
  dsimp only
  refine .next ?_
  refine .ite ?_ ?_
  · exact h
  · split
    · exact h
    · exact .ite (h.same rfl) (.switchOff (h.same rfl))

protected theorem Inv.recessExitBody {f : Fetched} (h : Inv s) : Inv (recessExitBody f s) :=
  .ite h.answer (.wait_ (h.leaveLow.same rfl))

protected theorem Inv.execRecessExit {ring : BitVec 6} {p : Packet} (h : Inv s) :
    KeepsInv (execRecessExit ring p s) := h.packetStep (fun _ _ h => h.recessExitBody)

protected theorem Inv.exitCore {n : Nat} (h : Inv s) : Inv (exitCore n s) := h.coreLoad.setCore

protected theorem Inv.recessReset {banksOff : Bool} (h : Inv s) : Inv (recessReset banksOff s) := h.wired h.wire rfl

/-- The stages of a Recess exit, in the order of the definition. -/
protected theorem Inv.finishExit {cmd : BitVec 6 × BitVec 16} (h : Inv s) : Inv (finishExit cmd s) := by
  unfold Machine.finishExit
  extract_lets todo woken reset loaded rounded answered pwr released switched later
  have hwoken : Inv woken := h.foldl fun _ _ h => h.powerUp
  have hreset : Inv reset := hwoken.recessReset
  have hloaded : Inv loaded := .applyDeferred (hreset.foldl fun _ _ h => h.exitCore)
  have hanswered : Inv answered := hloaded.newRound.finish
  have hreleased : Inv released := hanswered.same rfl
  have hswitched : Inv switched := .ite (hreleased.beginSwitch.ite hreleased) hanswered
  clear_value switched
  have hcleared : Inv { switched with flt := { switched.flt with later := [] } } := hswitched.same rfl
  exact hcleared.foldl fun _ _ h => h.startReset

/-- READY does not bear on the invariants, and FLR in Recess does not bear on the wire. -/
protected theorem Inv.execRecessExitRoundStart (h : Inv s) : KeepsInv (execRecessExitRoundStart s) := by
  unfold Machine.execRecessExitRoundStart
  refine .next ?_
  split
  · next cmd _ =>
    have hexit : Inv (Machine.finishExit cmd s) := h.finishExit
    generalize Machine.finishExit cmd s = u at hexit
    exact .ite h (.ite (hexit.wired hexit.wire rfl) hexit)
  · exact h

protected theorem Inv.execAonFullReached (h : Inv s) : KeepsInv (execAonFullReached s) := by
  unfold Machine.execAonFullReached
  dsimp only
  refine .next ?_
  split
  · exact .ite (.foldl (h.same rfl) fun _ _ h => h.requestWake) h
  · exact h

protected theorem Inv.linkInL0 (h : Inv s) {l : Link}
    (hk : (l.d3hot, l.command, l.flr) = (s.link.d3hot, s.link.command, s.link.flr)) (hl : l.state = .l0) :
    Inv { s with link := l } := h.wired (wireOk_of_speaks h.wire (.inl hl) hk) rfl

protected theorem Inv.execClkreqLinkExit (h : Inv s) : KeepsInv (execClkreqLinkExit s) :=
  .next (.ite (.hostReturned (.restoreWire (.leaveLow (h.linkInL0 rfl rfl)))) h)

protected theorem Inv.execBrownout (h : Inv s) : KeepsInv (execBrownout s) :=
  .next (.enterOos (.faultSimple (.hwSet (h.same rfl))))

protected theorem Inv.execBrownoutRecovery (h : Inv s) : KeepsInv (execBrownoutRecovery s) :=
  .next (.ite (.enterLow (h.same rfl)) h)

/-! ### Machine/Fallow -/

protected theorem Inv.testHangs {r : FallowResult} {cores : List Nat} (h : Inv s) : Inv (testHangs r cores s) :=
  h.foldl fun _ _ h => h.corePowerOff

protected theorem Inv.testHang {r : FallowResult} {k : VideoKind} {i : Nat} (h : Inv s) : Inv (testHang r k i s) :=
  .ite h.switchOff h

protected theorem Inv.testedCore {n : Nat} (h : Inv s) : Inv (testedCore n s) :=
  .ite h (.ite (h.same rfl) h.drawFree.setCore)

protected theorem Inv.coreResult {fail : Bool} {n : Nat} (h : Inv s) : Inv (coreResult fail n s) :=
  .ite h.setCore (.ite h.setCore.decideCore (.recordFault (h.setCore.same rfl)))

protected theorem Inv.testGroup {g : Nat} {r : FallowResult} (h : Inv s) : Inv (testGroup g r s) :=
  .testHangs (.foldl (.foldl (h.same rfl) fun _ _ h => h.testedCore) fun _ _ h => h.coreResult)

protected theorem Inv.testVideo {r : FallowResult} (h : Inv s) : Inv (testVideo r s) :=
  .ite (h.same rfl) (.ite (.same (h.same rfl) rfl)
    (.ite (.setFailed (h.same rfl))
    (.ite (.decideEngine (.setFailed (.testHang (h.same rfl))))
    (.same (.recordFault (.setFailed (.testHang (h.same rfl)))) rfl))))

protected theorem Inv.noteTrained {g : Nat} {fail : Bool} (h : Inv s) : Inv (noteTrained g fail s) := h.same rfl

protected theorem Inv.trainGroup {g : Nat} {fail : Bool} (h : Inv s) : Inv (trainGroup g fail s) :=
  .ite (h.noteTrained.same rfl) (.ite (.losePc (h.noteTrained.same rfl)) (h.noteTrained.same rfl))

protected theorem Inv.runSegment {r : FallowResult} {t : TestReq} (h : Inv s) : Inv (runSegment r t s).2 := by
  unfold Machine.runSegment
  have htested : Inv (testHangs r (testCores s t) ((testCores s t).foldl (fun s n => testedCore n s) s)) :=
    .testHangs (h.foldl fun _ _ h => h.testedCore)
  have hhung : ∀ {u}, Inv u → Inv (match t.test with
      | 3 => testHang r .decode t.target u
      | 4 => testHang r .prep t.target u
      | 5 => testHang r .encode t.target u
      | _ => u) := by
    intro u hu
    split
    · exact hu.testHang
    · exact hu.testHang
    · exact hu.testHang
    · exact hu
  have hdecided : ∀ {u}, Inv u → Inv (match t.test with
      | 3 => decideEngine .decode t.target u
      | 4 => decideEngine .prep t.target u
      | 5 => decideEngine .encode t.target u
      | _ => ((testCores s t).filter (coreFailed r)).foldl (fun s n => decideCore n s) u) := by
    intro u hu
    split
    · exact hu.decideEngine
    · exact hu.decideEngine
    · exact hu.decideEngine
    · exact hu.foldl fun _ _ h => h.decideCore
  have hs := hhung htested
  exact .ite_2 h (.ite_2 (.snd (.ite hs.trainGroup hs))
    (.ite_2 (.snd (.ite hs.trainGroup hs)) (.snd (hdecided hs))))

protected theorem Inv.runSegments {r : FallowResult} {k : Nat} {t : TestReq} (h : Inv s) :
    Inv (runSegments r k t s).2 := by
  induction k generalizing t s with
  | zero => exact h
  | succ k ih => exact ih h.runSegment

protected theorem Inv.requestedTest {r : FallowResult} (h : Inv s) : Inv (requestedTest r s).2 := by
  unfold Machine.requestedTest
  dsimp only
  split
  · exact h
  · exact .ite_2 (.snd h)
      (.ite_2 (.snd (.finish (h.same rfl)))
      (.ite_2 (.snd (.same (.ite_2 h.runSegments h.runSegment) rfl))
      (.ite_2 (.snd (.same (.ite_2 h.runSegments h.runSegment) rfl))
      (.snd (.finish (.same (.ite_2 h.runSegments h.runSegment) rfl))))))

protected theorem Inv.execFallowSlot {r : FallowResult} (h : Inv s) : KeepsInv (execFallowSlot r s) :=
  .next (.ite h (.lastRecordSweep
    (.same (.ite (.ite (.ite (.requestedTest (.scrub (.injections (.same (.ite h.emitAll h) rfl))))
    (.testGroup (.requestedTest (.scrub (.injections (.same (.ite h.emitAll h) rfl))))))
    (.testVideo (.ite (.requestedTest (.scrub (.injections (.same (.ite h.emitAll h) rfl))))
    (.testGroup (.requestedTest (.scrub (.injections (.same (.ite h.emitAll h) rfl))))))))
    (.trainGroup (.ite (.ite (.requestedTest (.scrub (.injections (.same (.ite h.emitAll h) rfl))))
    (.testGroup (.requestedTest (.scrub (.injections (.same (.ite h.emitAll h) rfl))))))
    (.testVideo (.ite (.requestedTest (.scrub (.injections (.same (.ite h.emitAll h) rfl))))
    (.testGroup (.requestedTest (.scrub (.injections (.same (.ite h.emitAll h) rfl)))))))))) rfl)))

/-! ### Machine/Host -/

protected theorem Inv.configOn (h : Inv s) : Inv (configOn s) := h.linkInL0 rfl rfl

protected theorem Inv.removalCause {c : BitVec 3} (h : Inv s) : Inv (removalCause c s) := h.same rfl

protected theorem Inv.surprise {c : BitVec 3} (h : Inv s) : Inv (surprise c s) := .ite h.removalCause.faultSimple h

protected theorem Inv.linkGone (h : Inv s) : Inv (linkGone s) := Inv.parkHostLink (h.quiet rfl rfl)

protected theorem Inv.execLinkLoss (h : Inv s) : KeepsInv (execLinkLoss s) := .next (.ite h h.linkGone.surprise)

protected theorem Inv.execRefclkLost (h : Inv s) : KeepsInv (execRefclkLost s) :=
  have hs := h.wired (t := { s with link := { s.link with refclk := false } }) h.wire rfl
  .next (.ite hs.linkGone.surprise hs)

protected theorem Inv.execRefclkReturn (h : Inv s) : KeepsInv (execRefclkReturn s) := .next (h.wired h.wire rfl)

protected theorem Inv.execLinkReturnL0 (h : Inv s) : KeepsInv (execLinkReturnL0 s) :=
  .next (.ite (h.wired h.wire rfl) (.ite (.hostReturned (.restoreWire (h.linkInL0 rfl rfl))) h))

protected theorem Inv.execL0sEntry {transmit : Bool} (h : Inv s) : KeepsInv (execL0sEntry transmit s) :=
  .next (.ite (.send (h.wired h.wire rfl)) h)

protected theorem Inv.execL1Request {substate : Bool} (h : Inv s) : KeepsInv (execL1Request substate s) := by
  refine .next (.ite (.enterLow (.send (h.wired (wireOk_of_speaks h.wire ?_ rfl) rfl))) h)
  cases substate
  · exact .inr (.inl rfl)
  · exact .inr (.inr rfl)

/-- The wire has been dropped, and what the host transfers do meanwhile leaves it alone. -/
protected theorem Inv.execD3hotEntry {pmcsr : BitVec 16} (h : Inv s) : KeepsInv (execD3hotEntry pmcsr s) := by
  refine .next (.ite (.enterLow (h.configOn.dropWire.holdIssue.quiet ?_ rfl)) h)
  obtain ⟨mem, hheld⟩ := holdIssue_eq (Machine.dropWire (Machine.configOn s))
  obtain ⟨glb, out, hdropped, hw⟩ := dropWire_eq (Machine.configOn s)
  rw [hheld, hdropped]
  exact hw

theorem wireOk_awake {w : Bool} {l : Link} {pmcsr : BitVec 16} (h : wireOk w l = true) :
    wireOk w { pmcsrWrite pmcsr l with d3hot := false } = true := by
  cases w
  · rfl
  · simp_all [wireOk, pmcsrWrite]

protected theorem Inv.execD0Return {pmcsr : BitVec 16} (h : Inv s) : KeepsInv (execD0Return pmcsr s) :=
  have hs := h.configOn.leaveLow
  .next (.ite (.hostReturned (.restoreWire (hs.wired (wireOk_awake hs.wire) rfl))) h)

protected theorem Inv.execPmeTurnOff (h : Inv s) : KeepsInv (execPmeTurnOff s) := by
  refine .next (.ite ?_ h)
  obtain ⟨glb, out, heq, hw⟩ := dropWire_eq s
  rw [heq]
  exact h.quiet hw rfl

protected theorem Inv.cardWake (h : Inv s) : Inv (cardWake s) :=
  .ite h.pmeD3hot (.ite (.send (h.wired h.wire rfl)) h)

protected theorem Inv.execFlr (h : Inv s) : KeepsInv (execFlr s) := by
  refine .next (.ite ?_ h)
  obtain ⟨glb, out, heq, hw⟩ := dropWire_eq (Machine.configOn s)
  rw [heq]
  exact h.configOn.quiet hw rfl

protected theorem Inv.execFlrComplete (h : Inv s) : KeepsInv (execFlrComplete s) :=
  .next (.ite h (.ite (h.functionReset.wired h.functionReset.wire rfl) h.functionReset.becomeReady))

protected theorem Inv.execPresenceLost (h : Inv s) : KeepsInv (execPresenceLost s) :=
  .next (.ite h (.ite (.cardWake (h.same rfl))
    (.surprise (.updateWire (.holdIssue (.hwSet (.same (.cardWake (h.same rfl)) rfl)))))))

protected theorem Inv.execPresenceRestored (h : Inv s) : KeepsInv (execPresenceRestored s) :=
  .next (.ite h (.ite (.cardWake (h.same rfl))
    (.hostReturned (.updateWire (.hwSet (.same (.cardWake (h.same rfl)) rfl))))))

protected theorem Inv.execAttnBtnPress (h : Inv s) : KeepsInv (execAttnBtnPress s) :=
  .next (.ite (.leaveLow (.cardWake (h.same rfl)))
    (.updateWire (.hwSet (.same (.leaveLow (.cardWake (h.same rfl))) rfl))))

protected theorem Inv.outOfReset (h : Inv s) : Inv (outOfReset s) := by
  have hs := h.wired (t := { s with link := { s.link with d3coldOrderly := false } }) h.wire rfl
  exact .ite h (.ite (.faultSimple (hs.same rfl)) hs)

protected theorem Inv.execPerstAssert (h : Inv s) : KeepsInv (execPerstAssert s) := .next (.ite h .powerOnReset)

protected theorem Inv.execPerstDeassert {fails : List PostFail} (h : Inv s) :
    KeepsInv (execPerstDeassert fails s) :=
  .next (.ite h (.ite (.outOfReset (h.same rfl))
    (.classCheck (.foldl (.outOfReset (h.same rfl)) fun _ _ h => h.postFail))))

protected theorem Inv.execBootComplete (h : Inv s) : KeepsInv (execBootComplete s) := .next (.ite h.becomeReady h)

protected theorem Inv.execMainPwrgdRise (h : Inv s) : KeepsInv (execMainPwrgdRise s) :=
  .next (.ite h (.outOfReset (h.same rfl)))

protected theorem Inv.execMainPwrgdFall (h : Inv s) : KeepsInv (execMainPwrgdFall s) := .next (.ite h .powerOnReset)

protected theorem Inv.execAonPowerUp (s : State) : KeepsInv (execAonPowerUp s) :=
  .next (Inv.powerOnReset (s := s) |>.quiet rfl rfl)

protected theorem Inv.execRailFault {rails : List (BitVec 4)} (h : Inv s) : KeepsInv (execRailFault rails s) := by
  unfold Machine.execRailFault
  refine .next ?_
  split
  · exact h
  · exact .ite h .powerOnReset

protected theorem Inv.thermalShed (h : Inv s) : Inv (thermalShed s) := by
  unfold Machine.thermalShed
  dsimp only
  split
  · exact h
  · exact h.same rfl

protected theorem Inv.emergency {entered : Bool} (h : Inv s) : Inv (emergency entered s) :=
  .ite (.ite h h.thermalShed) (.ite (h.same rfl) (.enterOos (.ite (h.same rfl) (.faultSimple (h.same rfl)))))

protected theorem Inv.execThermalSample {t : Temps} (h : Inv s) : KeepsInv (execThermalSample t s) :=
  .next (.ite (h.same rfl)
    (.ite (.ite (.faultSimple (.hwSet (.ite (.hwSet (h.same rfl)) (h.same rfl))))
    (.ite (.hwSet (h.same rfl)) (h.same rfl)))
    (.emergency (.ite (.faultSimple (.hwSet (.ite (.hwSet (h.same rfl)) (h.same rfl))))
    (.ite (.hwSet (h.same rfl)) (h.same rfl))))))

protected theorem Inv.execThermalShedTimer (h : Inv s) : KeepsInv (execThermalShedTimer s) := by
  unfold Machine.execThermalShedTimer
  refine .next ?_
  split
  · exact .ite h.thermalShed h
  · exact h

protected theorem Inv.execThermalTrip (h : Inv s) : KeepsInv (execThermalTrip s) := .next (.ite h .powerOnReset)

protected theorem Inv.execPcieRequestUnsupported {r : BadRequest} (h : Inv s) :
    KeepsInv (execPcieRequestUnsupported r s) := by
  unfold Machine.execPcieRequestUnsupported
  refine .next (.ite h ?_)
  split
  · exact h.send
  · exact h.send
  · exact h.send
  · exact .ite h h.send
  · exact .ite h h.send
  · exact .ite h.send h.send
  · exact .ite (h.wired h.wire rfl) h.send
  · exact h
  · exact .ite h.send h.send
  · exact .ite h.configOn.send h

protected theorem Inv.execPoisonedWrite {bar : Nat} {offset : BitVec 29} (h : Inv s) :
    KeepsInv (execPoisonedWrite bar offset s) := .next (.ite h (.ite (h.wired h.wire rfl) h.send))

/-! ### Machine/Jobs -/

protected theorem Inv.jobSubmitBody {f : Fetched} (h : Inv s) : Inv (jobSubmitBody f s) := by
  unfold Machine.jobSubmitBody
  dsimp only
  split
  · exact h.answer
  · split
    · exact h.answer
    · exact .startInputs (.wait_ (h.same rfl))

protected theorem Inv.execJobSubmit {ring : BitVec 6} {p : Packet} (h : Inv s) :
    KeepsInv (execJobSubmit ring p s) := h.packetStep (fun _ _ h => h.jobSubmitBody)

protected theorem Inv.jobCancelBody {f : Fetched} (h : Inv s) : Inv (jobCancelBody f s) := by
  unfold Machine.jobCancelBody
  dsimp only
  split
  · exact h.answer
  · exact .ite (h.wait_.same rfl) h.wait_.endJob

protected theorem Inv.execJobCancel {ring : BitVec 6} {p : Packet} (h : Inv s) :
    KeepsInv (execJobCancel ring p s) := h.packetStep (fun _ _ h => h.jobCancelBody)

/-! ### Machine/Regs -/

protected theorem Inv.glbWrite {o : Nat} {v : Word} {be : BitVec 4} (h : Inv s) : Inv (glbWrite o v be s) := by
  unfold Machine.glbWrite
  dsimp only
  split
  · exact h.same rfl
  · exact h.same rfl
  · exact h.same rfl
  · exact h.same rfl
  · exact h.same rfl
  · exact h.same rfl
  · exact h.same rfl
  · exact h

protected theorem Inv.cmdClear {o : Nat} (h : Inv s) : Inv (cmdClear o s) := by
  unfold Machine.cmdClear
  dsimp only
  split
  · exact h.setMr
  · exact h

protected theorem Inv.setBase {k : RingKind} {n : Nat} {b : BitVec 64} (h : Inv s) : Inv (setBase k n b s) := by
  unfold Machine.setBase
  dsimp only
  split
  · exact h.setSq
  · exact h.setCq
  · exact h.setMr

protected theorem Inv.baseWrite {k : RingKind} {n : Nat} {lo hi : Word} (h : Inv s) : Inv (baseWrite k n lo hi s) :=
  .ite h.errCfg h.setBase

protected theorem Inv.ringWrite {k : RingKind} {n o : Nat} {v : Word} {be : BitVec 4} (h : Inv s) :
    Inv (ringWrite k n o v be s) := by
  unfold Machine.ringWrite
  dsimp only
  split
  · exact h.baseWrite
  · exact h.baseWrite
  · exact h.cfgWrite
  · exact h

protected theorem Inv.cmdWrite {o : Nat} {v : Word} {be : BitVec 4} (h : Inv s) : Inv (cmdWrite o v be s) := by
  unfold Machine.cmdWrite
  dsimp only
  split
  · exact h.same rfl
  · exact h.same rfl
  · split
    · exact h.ringWrite
    · exact h

protected theorem Inv.portClear {n o : Nat} (h : Inv s) : Inv (portClear n o s) := by
  unfold Machine.portClear
  dsimp only
  split
  · exact h.setPort
  · exact h.setPort
  · exact h.setPort
  · exact h.setPort
  · exact h.setPort
  · exact h.setPort
  · exact h

protected theorem Inv.ingClear {o : Nat} (h : Inv s) : Inv (ingClear o s) := .ite h.portClear h

protected theorem Inv.ingWrite {o : Nat} {v : Word} {be : BitVec 4} (h : Inv s) : Inv (ingWrite o v be s) :=
  .ite h.setPort h

protected theorem Inv.poolClear {o : Nat} (h : Inv s) : Inv (poolClear o s) := by
  unfold Machine.poolClear
  dsimp only
  refine .ite ?_ ?_
  · split
    · exact h.same rfl
    · exact h.same rfl
    · exact h
  · exact h

protected theorem Inv.decClear {o : Nat} (h : Inv s) : Inv (decClear o s) := by
  unfold Machine.decClear
  dsimp only
  split
  · exact h.setDec
  · exact h.setDec
  · exact h.setDec
  · exact h.setDec
  · exact h

/-- A REFUSE_LIMIT of 0 becomes 1 (R147). -/
protected theorem Inv.decWrite {o : Nat} {v : Word} {be : BitVec 4} (h : Inv s) : Inv (decWrite o v be s) := by
  unfold Machine.decWrite
  dsimp only
  refine .ite ?_ h
  obtain ⟨hmem, -, hseq, hwire⟩ := h
  refine ⟨hmem, ?_, hseq, hwire⟩
  split
  · next => exact (by decide : (1 : Byte) ≠ 0)
  · assumption

protected theorem Inv.encClear {o : Nat} (h : Inv s) : Inv (encClear o s) := by
  unfold Machine.encClear
  dsimp only
  refine .ite ?_ ?_
  · split
    · exact h.setEnc
    · exact h.setEnc
    · exact h.setEnc
    · exact h
  · exact h

protected theorem Inv.prepClear {o : Nat} (h : Inv s) : Inv (prepClear o s) := by
  unfold Machine.prepClear
  dsimp only
  refine .ite ?_ ?_
  · split
    · exact h.setPrep
    · exact h.setPrep
    · exact h.setPrep
    · exact h
  · exact h

protected theorem Inv.bellClear {o : Nat} (h : Inv s) : Inv (bellClear o s) := by
  unfold Machine.bellClear
  dsimp only
  split
  · exact h.same rfl
  · exact h.same rfl
  · exact h.same rfl
  · exact h.same rfl
  · exact h

protected theorem Inv.bellWrite {o : Nat} {v : Word} {be : BitVec 4} (h : Inv s) : Inv (bellWrite o v be s) := by
  unfold Machine.bellWrite
  dsimp only
  split
  · exact h.same rfl
  · exact h.same rfl
  · exact h

protected theorem Inv.furrowClear {o : Nat} (h : Inv s) : Inv (furrowClear o s) := by
  unfold Machine.furrowClear
  dsimp only
  split
  · exact h.setCore
  · exact h.setCore
  · exact h.setCore
  · exact h.setCore
  · exact h.setCore
  · exact h.setCore
  · exact h.setCore
  · exact h.setCore
  · exact h

protected theorem Inv.furrowWrite {o : Nat} {v : Word} {be : BitVec 4} (h : Inv s) :
    Inv (furrowWrite o v be s) := by
  unfold Machine.furrowWrite
  dsimp only
  split
  · exact h.setCore
  · exact h.setCore
  · exact h

protected theorem Inv.trkClear {o : Nat} (h : Inv s) : Inv (trkClear o s) := by
  unfold Machine.trkClear
  dsimp only
  split
  · exact h.same rfl
  · exact h.same rfl
  · exact h

protected theorem Inv.memClear {o : Nat} (h : Inv s) : Inv (memClear o s) := by
  unfold Machine.memClear
  dsimp only
  split
  · exact h.same rfl
  · exact h.same rfl
  · exact h.same rfl
  · exact h.same rfl
  · exact h.same rfl
  · exact h

protected theorem Inv.memRegWrite {o : Nat} {v : Word} {be : BitVec 4} (h : Inv s) :
    Inv (memRegWrite o v be s) := by
  unfold Machine.memRegWrite
  dsimp only
  split
  · exact h.same rfl
  · exact .ite h h.invalidate_
  · exact h

protected theorem Inv.pwrClear {o : Nat} (h : Inv s) : Inv (pwrClear o s) := by
  unfold Machine.pwrClear
  dsimp only
  split
  · exact h.same rfl
  · exact h.same rfl
  · exact h

protected theorem Inv.pwrWrite {o : Nat} {v : Word} {be : BitVec 4} (h : Inv s) : Inv (pwrWrite o v be s) := by
  unfold Machine.pwrWrite
  dsimp only
  split
  · exact h.same rfl
  · exact .enterLow (h.same rfl)
  · exact h

protected theorem Inv.telClear {o : Nat} (h : Inv s) : Inv (telClear o s) := .ite (h.same rfl) h

protected theorem Inv.telWrite {o : Nat} {v : Word} {be : BitVec 4} (h : Inv s) : Inv (telWrite o v be s) :=
  .ite (h.same rfl) h

protected theorem Inv.fltClear {o : Nat} (h : Inv s) : Inv (fltClear o s) := by
  unfold Machine.fltClear
  dsimp only
  split
  · exact h.same rfl
  · exact h.same rfl
  · exact h

protected theorem Inv.fltWrite {o : Nat} {v : Word} {be : BitVec 4} (h : Inv s) : Inv (fltWrite o v be s) :=
  .ite (h.same rfl) h

protected theorem Inv.slotClear {o : Nat} (h : Inv s) : Inv (slotClear o s) := .ite h.drawFree h

protected theorem Inv.slotWrite {o : Nat} {v : Word} {be : BitVec 4} (h : Inv s) : Inv (slotWrite o v be s) := by
  unfold Machine.slotWrite
  dsimp only
  split
  · exact h.same rfl
  · exact .send (.send (h.same rfl))
  · exact h

protected theorem Inv.fwmClear {o : Nat} (h : Inv s) : Inv (fwmClear o s) := .ite (h.same rfl) h

protected theorem Inv.fwmWrite {o : Nat} {v : Word} {be : BitVec 4} (h : Inv s) : Inv (fwmWrite o v be s) := by
  unfold Machine.fwmWrite
  dsimp only
  split
  · exact h.same rfl
  · exact h.fwCtrl
  · exact h

protected theorem Inv.regClear {o : Nat} (h : Inv s) : Inv (regClear o s) := by
  unfold Machine.regClear
  split
  · exact h
  · exact h.cmdClear
  · exact h.ingClear
  · exact h.decClear
  · exact h.encClear
  · exact h.prepClear
  · exact h.bellClear
  · exact h.furrowClear
  · exact h.trkClear
  · exact h.memClear
  · exact h.poolClear
  · exact h.pwrClear
  · exact h.fltClear
  · exact h.slotClear
  · exact h.fwmClear
  · exact h.telClear
  · exact h

protected theorem Inv.readDone {o : Nat} (h : Inv s) : Inv (readDone o s) := h.regClear.same rfl

protected theorem Inv.regWrite {o : Nat} {v : Word} {be : BitVec 4} (h : Inv s) : Inv (regWrite o v be s) := by
  unfold Machine.regWrite
  dsimp only
  split
  · exact h.glbWrite
  · exact h.cmdWrite
  · exact h.ingWrite
  · exact h.decWrite
  · exact h
  · exact h
  · exact h.bellWrite
  · exact h.furrowWrite
  · exact h
  · exact h.memRegWrite
  · exact h
  · exact h.pwrWrite
  · exact h.fltWrite
  · exact h.slotWrite
  · exact h.fwmWrite
  · exact h.telWrite
  · exact h

protected theorem Inv.wakeFor {d : Nat} (h : Inv s) : Inv (wakeFor d s) := .ite h h.drawFree.hostWake

protected theorem Inv.regAccess {offset : BitVec 24} {work : Nat → State → State} (h : Inv s)
    (hw : ∀ o s, Inv s → Inv (work o s)) : Inv (regAccess offset work s) :=
  h.ite (h.send.ite ((hw _ _ h.wakeFor.touchDomain).ite h.wakeFor))

protected theorem Inv.writeDword {offset : BitVec 24} {value : Word} {be : BitVec 4} (h : Inv s) :
    Inv (writeDword offset value be s) := h.regAccess (fun _ _ h => h.regWrite.updateWire)

protected theorem Inv.execRegisterWrite {offset : BitVec 24} {value : BitVec 64} {be : BitVec 8} (h : Inv s) :
    KeepsInv (execRegisterWrite offset value be s) := .next (.ite h.writeDword.writeDword h.writeDword)

protected theorem Inv.execRegisterReadClear {r : RegRead} (h : Inv s) : KeepsInv (execRegisterReadClear r s) :=
  .next (h.regAccess (fun _ _ h => .ite h.readDone.readDone.send.updateWire h.readDone.send.updateWire))

/-! ### Every row of the opcode table -/

/-- One case for each row: its own lemma, or where the row is a packet or a tile step the lemma of its body. -/
protected theorem Inv.exec {c : Instr} (h : Inv s) : KeepsInv (exec c s) := by
  cases c with
  | identify => exact h.execIdentify
  | telemetryRead => exact h.execTelemetryRead
  | faultLogRead => exact h.execFaultLogRead
  | portConfigPort => exact h.execPortConfigPort
  | portConfigDatagram => exact h.execPortConfigDatagram
  | streamOpen => exact h.execStreamOpen
  | streamAdmit => exact h.execStreamAdmit
  | streamClose => exact h.execStreamClose
  | streamQuery => exact h.execStreamQuery
  | keyLoad => exact h.execKeyLoad
  | sheafDefine => exact h.execSheafDefine
  | sheafDissolve => exact h.execSheafDissolve
  | shedRankSet => exact h.execShedRankSet
  | networkLoad => exact h.execNetworkLoad
  | networkUnload => exact h.execNetworkUnload
  | roundConfig => exact h.execRoundConfig
  | clipRequest => exact h.execClipRequest
  | clipCancel => exact h.execClipCancel
  | selftestRequest => exact h.execSelftestRequest
  | serviceRestore => exact h.execServiceRestore
  | recessEnter => exact h.execRecessEnter
  | recessExit => exact h.execRecessExit
  | recessExitRoundStart => exact h.execRecessExitRoundStart
  | fwStageBailiff => exact h.execFwStageBailiff
  | fwStagePatch => exact h.execFwStagePatch
  | fwArmBailiff => exact h.execFwArmBailiff
  | fwArmPatch => exact h.execFwArmPatch
  | fwActivate => exact h.execFwActivate
  | fwDisarm => exact h.execFwDisarm
  | quiesceTimeout => exact h.execQuiesceTimeout
  | bootLoadComplete => exact h.execBootLoadComplete
  | auPush => exact h.execAuPush
  | auPushComplete => exact h.execAuPushComplete
  | jobSubmit => exact h.execJobSubmit
  | jobCancel => exact h.execJobCancel
  | ringCredit => exact h.execRingCredit
  | maintEcho => exact h.execMaintEcho
  | maintPeek => exact h.execMaintPeek
  | maintErrInject => exact h.execMaintErrInject
  | maintCountersClear => exact h.execMaintCountersClear
  | replyDeadline => exact h.execReplyDeadline
  | doorbellWrite => exact h.execDoorbellWrite
  | ringEnable => exact h.execRingEnable
  | ringDisable => exact h.execRingDisable
  | registerWrite => exact h.execRegisterWrite
  | registerReadClear => exact h.execRegisterReadClear
  | hostAccessWake => exact h.execHostAccessWake
  | recessDomainRevert => exact h.execRecessDomainRevert
  | tlbInvalidate => exact h.execTlbInvalidate
  | fwConfirm => exact h.execFwConfirm
  | fwReject => exact h.execFwReject
  | bar2Read => exact h.execBar2Read
  | bar2Write => exact h.execBar2Write
  | pcieRequestUnsupported => exact h.execPcieRequestUnsupported
  | poisonedWrite bar offset => exact h.execPoisonedWrite (bar := bar) (offset := offset)
  | hostReadCompletion => exact h.execHostReadCompletion
  | completionTimeout => exact h.execCompletionTimeout
  | parkRecordAction => exact h.execParkRecordAction
  | dmaGranuleLand => exact h.execDmaGranuleLand
  | intCoalTimer => exact h.execIntCoalTimer
  | interruptDisableWrite => exact h.execInterruptDisableWrite
  | flr => exact h.execFlr
  | flrComplete => exact h.execFlrComplete
  | d3hotEntry => exact h.execD3hotEntry
  | d0Return => exact h.execD0Return
  | pmeTurnOff => exact h.execPmeTurnOff
  | l0sEntry => exact h.execL0sEntry
  | l1Request => exact h.execL1Request
  | linkLoss => exact h.execLinkLoss
  | linkReturnL0 => exact h.execLinkReturnL0
  | refclkLost => exact h.execRefclkLost
  | perstAssert => exact h.execPerstAssert
  | perstDeassert => exact h.execPerstDeassert
  | bootComplete => exact h.execBootComplete
  | presenceLost => exact h.execPresenceLost
  | presenceRestored => exact h.execPresenceRestored
  | attnBtnPress => exact h.execAttnBtnPress
  | mainPwrgdRise => exact h.execMainPwrgdRise
  | mainPwrgdFall => exact h.execMainPwrgdFall
  | aonPowerUp => exact Inv.execAonPowerUp s
  | railFault => exact h.execRailFault
  | brownout => exact h.execBrownout
  | aonFullReached => exact h.execAonFullReached
  | syncInEdge => exact h.execSyncInEdge
  | thermalSample => exact h.execThermalSample
  | thermalShedTimer => exact h.execThermalShedTimer
  | thermalTrip => exact h.execThermalTrip
  | frameReceive => exact h.execFrameReceive
  | pauseFrame => exact h.execPauseFrame
  | controlPacket => exact h.execControlPacket
  | reorderWaitExpiry => exact h.execReorderWaitExpiry
  | portLinkChange => exact h.execPortLinkChange
  | truantTimeout => exact h.execTruantTimeout
  | slipRollCall => exact h.execSlipRollCall
  | relockRollCall => exact h.execRelockRollCall
  | stashMove => exact h.execStashMove
  | poolStage3Shed => exact h.execPoolStage3Shed
  | decodePicture => exact h.execDecodePicture
  | decodeWatchdog => exact h.execDecodeWatchdog
  | prepareInput => exact h.execPrepareInput
  | prepWatchdog => exact h.execPrepWatchdog
  | slotIssue => exact h.execSlotIssue
  | coreReady => exact h.execCoreReady
  | unitFinish => exact h.execUnitFinish
  | actionHang => exact h.execActionHang
  | wakeTimeout => exact h.execWakeTimeout
  | roundBoundary => exact h.execRoundBoundary
  | fallowSlot => exact h.execFallowSlot
  | hbmRefresh => exact h.execHbmRefresh
  | patrolScrub => exact h.execPatrolScrub
  | substituteCopy => exact h.execSubstituteCopy
  | timetableMarkComplete => exact h.execTimetableMarkComplete
  | timetableCheckComplete => exact h.execTimetableCheckComplete
  | standbyRebuild => exact h.execStandbyRebuild
  | engineRebind => exact h.execEngineRebind
  | rows => exact h.execRows
  | apply => exact h.execApply
  | emit => exact h.execEmit
  | recordEgress => exact h.execRecordEgress
  | datagramSend => exact h.execDatagramSend
  | nextHopResolved => exact h.execNextHopResolved
  | wloadWeights => exact h.execWloadWeights
  | wloadScales => exact h.execWloadScales
  | matmul => exact h.execMatmul
  | conv => exact h.execConv
  | pool => exact h.execPool
  | crop => exact h.execCrop
  | vecRequantise => exact h.execVecRequantise
  | vecAdd => exact h.execVecAdd
  | vecSubtract => exact h.execVecSubtract
  | vecMultiply => exact h.execVecMultiply
  | vecFusedMultiplyAdd => exact h.execVecFusedMultiplyAdd
  | vecMinimum => exact h.execVecMinimum
  | vecMaximum => exact h.execVecMaximum
  | vecCompare => exact h.execVecCompare
  | vecSelect => exact h.execVecSelect
  | vecRelu => exact h.execVecRelu
  | vecClip => exact h.execVecClip
  | vecLeakyRelu => exact h.execVecLeakyRelu
  | vecShift => exact h.execVecShift
  | vecConversion => exact h.execVecConversion
  | vecDivide => exact h.execVecDivide
  | vecReciprocal => exact h.execVecReciprocal
  | vecSquareRoot => exact h.execVecSquareRoot
  | vecReciprocalSquareRoot => exact h.execVecReciprocalSquareRoot
  | vecExp => exact h.execVecExp
  | vecExp2 => exact h.execVecExp2
  | vecLog => exact h.execVecLog
  | vecLog2 => exact h.execVecLog2
  | vecSigmoid => exact h.execVecSigmoid
  | vecTanh => exact h.execVecTanh
  | vecSoftplus => exact h.execVecSoftplus
  | vecSilu => exact h.execVecSilu
  | vecGelu => exact h.execVecGelu
  | vecSoftmax => exact h.execVecSoftmax
  | vecLayerNormalisation => exact h.execVecLayerNormalisation
  | vecSum => exact h.execVecSum
  | vecAxisMaximum => exact h.execVecAxisMaximum
  | vecAxisMinimum => exact h.execVecAxisMinimum
  | vecArgmax => exact h.execVecArgmax
  | vecTopK => exact h.execVecTopK
  | vecDepthwiseConvolution => exact h.execVecDepthwiseConvolution
  | vecResampling => exact h.execVecResampling
  | vecRepacking => exact h.execVecRepacking
  | vecTranspose => exact h.execVecTranspose
  | vecConcatenation => exact h.execVecConcatenation
  | vecSplit => exact h.execVecSplit
  | vecBoxDecoding => exact h.execVecBoxDecoding
  | vecNonMaximumSuppression => exact h.execVecNonMaximumSuppression
  | syncEnd => exact h.execSyncEnd
  | syncSteps => exact h.execSyncSteps
  | syncQuiet => exact h.execSyncQuiet
  | syncMarks => exact h.execSyncMarks
  | syncParam => exact h.execSyncParam
  | claim => exact h.execClaim
  | dmaIn => exact h.execDmaIn
  | dmaOut => exact h.execDmaOut
  | fabricError => exact h.execFabricError
  | computeResetComplete => exact h.execComputeResetComplete
  | resetTimeout => exact h.execResetTimeout
  | faultLogCopy => exact h.execFaultLogCopy
  | engineIdleOff => exact h.execEngineIdleOff
  | offReq => exact h.execOffReq
  | wakeReq => exact h.execWakeReq
  | ack => exact h.execAck
  | delay => exact h.execDelay
  | refuse => exact h.execRefuse
  | ready => exact h.execReady
  | delayExpired => exact h.execDelayExpired
  | clipStart => exact h.execClipStart
  | clipDecodePicture => exact h.execClipDecodePicture
  | clipEncodePicture => exact h.execClipEncodePicture
  | clipPacketSend => exact h.execClipPacketSend
  | encWatchdog => exact h.execEncWatchdog
  | aliveTimeout => exact h.execAliveTimeout
  | firewallBlock write => exact Inv.execFirewallBlock (write := write) h
  | mgmtSramError => exact h.execMgmtSramError
  | confirmRequest => exact h.execConfirmRequest
  | trialTimeout => exact h.execTrialTimeout
  | getVersion => exact h.execGetVersion
  | getCapabilities => exact h.execGetCapabilities
  | negotiateAlgorithms => exact h.execNegotiateAlgorithms
  | getDigests => exact h.execGetDigests
  | getCertificate => exact h.execGetCertificate
  | challenge => exact h.execChallenge
  | getMeasurements => exact h.execGetMeasurements
  | spdmUnsupportedRequest => exact h.execSpdmUnsupportedRequest
  | doeAbort => exact h.execDoeAbort
  | clkreqLinkExit => exact h.execClkreqLinkExit
  | refclkReturn => exact h.execRefclkReturn
  | brownoutRecovery => exact h.execBrownoutRecovery
  | remainingBlockLoad => exact h.execRemainingBlockLoad

protected theorem Inv.tick (h : Inv s) : Inv (tick s) := by
  obtain ⟨_, _, _, ht⟩ := tick_eq s
  obtain ⟨_, _, _, hn⟩ := nextInstant_eq s
  rw [ht, hn]
  exact h.same rfl

end Invariants

/-- Settles O57: a command keeps the invariants by its row's lemma, and an idle fast cycle touches nothing they
speak of. -/
theorem everyStepKeepsTheInvariants : Obligations.EveryStepKeepsTheInvariants := by
  unfold Obligations.EveryStepKeepsTheInvariants
  intro s t h hstep
  cases hp : s.pending with
  | nil =>
    rw [step_of_idle hp] at hstep
    exact Host.Outcome.next.inj hstep ▸ h.tick
  | cons c rest =>
    rw [step_of_pending hp] at hstep
    exact (h.same rfl : Inv { s with pending := rest }).exec t hstep

end Sys2Proof.Machine

namespace Sys2Proof.Machine

/-! ## Reports of decoded pictures (R131 to R135, R138; O54) -/

theorem blockActivity_kind_le (tainted : Bool) (b : BlockFacts) : (blockActivity tainted b).1 ≤ 3 := by
  unfold blockActivity
  split
  · exact le_rfl
  · split
    · exact Nat.zero_le _
    · split
      · exact Nat.le_of_ble_eq_true rfl
      · exact Nat.le_of_ble_eq_true rfl

theorem blockActivity_level_le (tainted : Bool) (b : BlockFacts) : (blockActivity tainted b).2 ≤ 63 := by
  unfold blockActivity
  split
  · exact le_rfl
  · split
    · exact le_rfl
    · split
      · exact Nat.min_le_left ..
      · exact Nat.zero_le _

/-- A bound on every entry of a list holds of the default 0 as well. -/
theorem getD_map_le {α : Type} {f : α → Nat} {l : List α} {m : Nat} (h : ∀ x, f x ≤ m) (i : Nat) :
    (l.map f).getD i 0 ≤ m := by
  rw [List.getD_eq_getElem?_getD, List.getElem?_map]
  cases l[i]? with
  | none => exact Nat.zero_le m
  | some x => exact h x

/-- Coverage in 255ths, of `own` blocks among `n` (R131). -/
def coverageOf (own n : Nat) : Nat := own * 255 / n

theorem coverageOf_le {own n : Nat} (h : own ≤ n) : coverageOf own n ≤ 255 :=
  Nat.div_le_of_le_mul (Nat.mul_le_mul_right 255 h)

theorem pos_of_coverageOf_ne_zero {own n : Nat} (h : coverageOf own n ≠ 0) : 0 < own := by
  rw [Nat.pos_iff_ne_zero]
  rintro rfl
  exact h (by rw [coverageOf, Nat.zero_mul, Nat.zero_div])

/-- OUTCOME of a decoded picture (R132). -/
def outcomeOf (poisoned : Bool) (coverage low : Nat) : Nat :=
  if poisoned then 7 else if coverage = 0 then 6 else if low ≠ 0 then 1 else 0

theorem outcomeOf_lt (poisoned : Bool) (coverage low : Nat) : outcomeOf poisoned coverage low < 16 := by
  unfold outcomeOf
  split
  · decide
  · split
    · decide
    · split <;> decide

theorem outcomeOf_eq_seven {poisoned : Bool} {coverage low : Nat} :
    outcomeOf poisoned coverage low = 7 ↔ poisoned = true := by
  unfold outcomeOf
  split_ifs <;> simp_all

theorem outcomeOf_eq_six {poisoned : Bool} {coverage low : Nat} :
    outcomeOf poisoned coverage low = 6 ↔ coverage = 0 ∧ poisoned = false := by
  unfold outcomeOf
  split_ifs <;> simp_all

theorem outcomeOf_eq_one {poisoned : Bool} {coverage low : Nat} (h : outcomeOf poisoned coverage low = 1) :
    low ≠ 0 ∧ coverage ≠ 0 := by
  unfold outcomeOf at h
  split_ifs at h with hp hc hl
  · exact absurd h (by decide)
  · exact absurd h (by decide)
  · exact ⟨hl, hc⟩

theorem outcomeOf_eq_zero {poisoned : Bool} {coverage low : Nat} (h : outcomeOf poisoned coverage low = 0) :
    low = 0 ∧ coverage ≠ 0 := by
  unfold outcomeOf at h
  split_ifs at h with hp hc hl
  exact ⟨not_not.1 hl, hc⟩

/-- CAUSES of a decoded picture, over its bits [4:0] (R132). -/
def causesOf (low : Nat) (tainted mismatch disc : Bool) : Nat :=
  low + 32 * b2n tainted + 64 * b2n mismatch + 128 * b2n disc

/-- Bits [4:0] and the three flags above them do not overlap. -/
theorem causesOf_bits {low : Nat} (h : low < 32) (tainted mismatch disc : Bool) :
    let c := BitVec.ofNat 8 (causesOf low tainted mismatch disc)
    c.extractLsb' 0 5 = BitVec.ofNat 5 low ∧ c.getLsbD 5 = tainted ∧ c.getLsbD 6 = mismatch ∧
      c.getLsbD 7 = disc := by
  have hlow : ∀ n < 32, ∀ t m d : Bool,
      (BitVec.ofNat 8 (causesOf n t m d)).extractLsb' 0 5 = BitVec.ofNat 5 n ∧
      (BitVec.ofNat 8 (causesOf n t m d)).getLsbD 5 = t ∧ (BitVec.ofNat 8 (causesOf n t m d)).getLsbD 6 = m ∧
      (BitVec.ofNat 8 (causesOf n t m d)).getLsbD 7 = d := by decide
  exact hlow low h tainted mismatch disc

theorem ofNat_five_eq_zero {n : Nat} (h : n < 32) : BitVec.ofNat 5 n = 0 ↔ n = 0 := by
  rw [← BitVec.toNat_inj, BitVec.toNat_ofNat, Nat.mod_eq_of_lt h]
  rfl

section
variable (refs : List RefPic) (e : Nat) (short disc : Bool) (p : PicFacts) (poison : List Nat)
  (blocks : List BlockFacts)

/-- The numbered blocks that the picture's own data gives. -/
def ownBlocks : List (Nat × BlockFacts) :=
  ((List.range blocks.length).zip blocks).filter fun x => ownBlock e x.2 && !poison.contains x.1

/-- Bits [4:0] of CAUSES: missing bytes, an error in a slice, a lacking reference, a bare block, the entropy budget. -/
def lowCauses : Nat :=
  b2n (short || blocks.any (·.missing)) + 2 * b2n (blocks.any (·.syntaxErr)) + 4 * b2n (blocks.any (lacksRef refs))
    + 8 * b2n (blocks.any fun b => !b.covered) + 16 * b2n (blocks.any fun b => b.covered && decide (e < b.units))

theorem lowCauses_lt : lowCauses refs e short blocks < 32 := by
  have h0 := b2n_le_one (short || blocks.any (·.missing))
  have h1 := b2n_le_one (blocks.any (·.syntaxErr))
  have h2 := b2n_le_one (blocks.any (lacksRef refs))
  have h3 := b2n_le_one (blocks.any fun b => !b.covered)
  have h4 := b2n_le_one (blocks.any fun b => b.covered && decide (e < b.units))
  unfold lowCauses
  omega

theorem ownBlocks_length_le : (ownBlocks e poison blocks).length ≤ blocks.length := by
  calc (ownBlocks e poison blocks).length
    _ ≤ ((List.range blocks.length).zip blocks).length := List.length_filter_le ..
    _ = blocks.length := by simp

/-- A picture without blocks needs no case of its own: 0 divided by 0 is 0. -/
theorem coverageOf_ownBlocks : coverageOf (ownBlocks e poison blocks).length blocks.length =
    if blocks.isEmpty then 0 else (ownBlocks e poison blocks).length * 255 / blocks.length := by
  cases blocks with
  | nil => exact Nat.div_zero _
  | cons b r => rfl

theorem decodeBlocks_coverage : (decodeBlocks refs e short disc p poison blocks).report.coverage.toNat =
    coverageOf (ownBlocks e poison blocks).length blocks.length := by
  have hle := coverageOf_le (ownBlocks_length_le e poison blocks)
  rw [coverageOf_ownBlocks] at hle ⊢
  exact Nat.mod_eq_of_lt (Nat.lt_succ_of_le hle)

theorem decodeBlocks_outcome : (decodeBlocks refs e short disc p poison blocks).report.outcome.toNat =
    outcomeOf (!poison.isEmpty) (coverageOf (ownBlocks e poison blocks).length blocks.length)
      (lowCauses refs e short blocks) := by
  rw [coverageOf_ownBlocks]
  exact Nat.mod_eq_of_lt (outcomeOf_lt ..)

theorem decodeBlocks_causes : (decodeBlocks refs e short disc p poison blocks).report.causes =
    BitVec.ofNat 8 (causesOf (lowCauses refs e short blocks)
      (!(decodeBlocks refs e short disc p poison blocks).taint.isEmpty) p.profileMismatch disc) := rfl

theorem decodeBlocks_kinds_length : (decodeBlocks refs e short disc p poison blocks).kinds.length = blocks.length := by
  simp [decodeBlocks]

theorem decodeBlocks_levels_length :
    (decodeBlocks refs e short disc p poison blocks).levels.length = blocks.length := by
  simp [decodeBlocks]

theorem decodeBlocks_level_le (i : Nat) : (decodeBlocks refs e short disc p poison blocks).levels.getD i 0 ≤ 63 := by
  simp only [decodeBlocks, List.map_map]
  exact getD_map_le (fun _ => blockActivity_level_le _ _) i

theorem decodeBlocks_kind_le (i : Nat) : (decodeBlocks refs e short disc p poison blocks).kinds.getD i 0 ≤ 3 := by
  simp only [decodeBlocks, List.map_map]
  exact getD_map_le (fun _ => blockActivity_kind_le _ _) i

/-- An intra-only picture whose every block is its own clears the taint map (R134). -/
theorem decodeBlocks_taint_eq_nil (hi : p.intraOnly = true)
    (hc : (decodeBlocks refs e short disc p poison blocks).report.coverage = 255) :
    (decodeBlocks refs e short disc p poison blocks).taint = [] := by
  have hcov := decodeBlocks_coverage refs e short disc p poison blocks
  rw [hc, coverageOf_ownBlocks] at hcov
  unfold ownBlocks at hcov
  simp only [decodeBlocks, hi, ← hcov]
  rfl

/-- Elsewhere every concealed block is tainted. -/
theorem mem_decodeBlocks_taint (hi : p.intraOnly = false) {i : Nat}
    (h : i ∈ (decodeBlocks refs e short disc p poison blocks).concealed) :
    i ∈ (decodeBlocks refs e short disc p poison blocks).taint := by
  simp only [decodeBlocks, hi, Bool.false_and, Bool.false_eq_true, if_false, List.mem_map, List.mem_filter] at h ⊢
  obtain ⟨x, ⟨hx, hgone⟩, rfl⟩ := h
  exact ⟨x, ⟨hx, by rw [hgone, Bool.true_or]⟩, rfl⟩

end

/-- Settles O54: OUTCOME, CAUSES and coverage each follow from the numbers that `decodeBlocks` counts. -/
theorem decodeReportsFollowTheTable : Obligations.DecodeReportsFollowTheTable := by
  unfold Obligations.DecodeReportsFollowTheTable
  intro refs e short disc p poison blocks d own outcome
  have hcov : d.report.coverage.toNat = coverageOf own blocks.length := decodeBlocks_coverage ..
  have hzero : d.report.coverage = 0 ↔ coverageOf own blocks.length = 0 := by
    rw [← hcov, ← BitVec.toNat_inj]
    rfl
  have hout : outcome = outcomeOf (!poison.isEmpty) (coverageOf own blocks.length) (lowCauses refs e short blocks) :=
    decodeBlocks_outcome ..
  have hlow := lowCauses_lt refs e short blocks
  obtain ⟨hbits, htaint, hmismatch, hdisc⟩ := causesOf_bits hlow (!d.taint.isEmpty) p.profileMismatch disc
  rw [← decodeBlocks_causes refs e short disc p poison blocks] at hbits htaint hmismatch hdisc
  rw [hout]
  refine ⟨ownBlocks_length_le .., decodeBlocks_kinds_length .., decodeBlocks_levels_length .., hcov, ?_, ?_,
    fun h => ?_, fun h => ?_, ?_, hmismatch, hdisc, decodeBlocks_taint_eq_nil refs e short disc p poison blocks,
    fun hi _ => mem_decodeBlocks_taint refs e short disc p poison blocks hi,
    fun i _ => ⟨decodeBlocks_level_le .., decodeBlocks_kind_le ..⟩⟩
  · rw [outcomeOf_eq_seven]
    simp
  · rw [outcomeOf_eq_six, hzero]
    simp
  · obtain ⟨hnone, hsome⟩ := outcomeOf_eq_zero h
    exact ⟨by rw [hbits, hnone]; rfl, pos_of_coverageOf_ne_zero hsome⟩
  · obtain ⟨hsome, hne⟩ := outcomeOf_eq_one h
    exact ⟨by rwa [hbits, ne_eq, ofNat_five_eq_zero hlow], mt hzero.1 hne⟩
  · rw [htaint]
    simp

end Sys2Proof.Machine

namespace Sys2Proof.Machine

/-! ## A picture over a syndrome that HBM lists twice (O55)

HBM as O55 lets it be, not in canonical form: it lists the word where the picture begins twice, first without an error and
then as poisoned. Every word reads without an error, but the decode's write of the word takes the first entry away, and the
reduced copy then reads poison in the picture itself. -/

/-- The engine's picture: stream 7, completed in round 1. -/
def twiceFrame : FrameRec :=
  { ctx := 7, seq := 4, ts := 0, capture := 0, round := 1, doneAt := 0, flags := 0, covered := true }

/-- Pictures of 2 by 2 pixels with reduced copies at a half. -/
def twiceAdmit : AdmitParams := { maxW := 2, maxH := 2, reduction := 2, pages := List.range 64 }

/-- Round 2 at the start of the lanes' lists; the word at the start of frame buffer 0 stands twice in the list of syndromes. -/
def twiceState : State :=
  { now := 125000
    bell := { running := true, roundSeq := 2 }
    streams := [(7, { state := .running, ad := twiceAdmit })]
    frames := [twiceFrame]
    mem := { dpa := { syn := [(0x200000, 0), (0x200000, 0x7F)] } } }

def twiceSet : ParamSet :=
  { id := 1, width := 2, height := 2, bitDepth := 8, chroma := 0, matrix := 0, fullRange := false }

/-- One intra block, decoded from its own data. -/
def twiceFacts : PicFacts :=
  { coded := true, stored := [twiceSet], active := some 1, profileMismatch := false, intraOnly := true, outPos := 0
    blocks := [{ bareBlock with covered := true, intra := true }], kept := [], isRef := true, cycles := 0
    luma := [], chroma := [] }


theorem twiceState_decHead : decHead twiceState 0 = some twiceFrame := by decide +kernel

theorem twiceState_memSyn (x : Nat) : memSyn twiceState.mem.dpa x = 0 := by
  by_cases hx : x = 0x200000
  · subst hx
    rfl
  · have hlist : findAt x twiceState.mem.dpa.syn = none := by
      simp only [twiceState, findAt, if_neg (Ne.symm hx)]
    rw [memSyn, hlist]
    exact if_neg fun h => absurd h.2 (Nat.not_lt_zero x)

theorem twice_report : (decodeStep 0 twiceFacts twiceFrame twiceState).frames.map (·.report.outcome) = [7] := by
  decide +kernel

/-- Refutes O55: it asks of memory only that every word reads without an error, not that HBM is in canonical form. In
`twiceState` each word does, yet the picture's own write uncovers a poisoned entry, the reduced copy reads it, and the
report has OUTCOME 7, which `decodeBlocks` never gives where no block's reads were poisoned. -/
theorem not_videoEnginesEndTheirPictures : ¬ Obligations.VideoEnginesEndTheirPictures := by
  unfold Obligations.VideoEnginesEndTheirPictures
  intro h
  obtain ⟨-, hdecode, -⟩ := h twiceState
  obtain ⟨-, -, hdecoded⟩ := hdecode 0 twiceFacts twiceFrame twiceState_decHead rfl
  obtain ⟨t, g, hstep, ⟨hg, -⟩, -, -, -, -, -, -, -, hclean⟩ := hdecoded rfl twiceSet rfl
  have hreport := (hclean ⟨twiceState_memSyn, rfl, rfl, by decide⟩ rfl).1
  have ht : t = decodeStep 0 twiceFacts twiceFrame twiceState := by
    have hexec : exec (.decodePicture 0 twiceFacts) twiceState = .next (match decHead twiceState 0 with
      | none => twiceState
      | some f => decodeStep 0 twiceFacts f twiceState) := rfl
    rw [hexec, twiceState_decHead] at hstep
    exact (Host.Outcome.next.inj hstep).symm
  rw [ht] at hg
  have hseven : g.report.outcome ∈ [7] := twice_report ▸ List.mem_map_of_mem hg
  rw [hreport] at hseven
  exact absurd hseven (by decide +kernel)

end Sys2Proof.Machine

namespace Sys2Proof.Machine

/-! ## Integers that stay in range (R149, R165) -/

theorem satTo_eq_self {f : Fmt} {v : Int} (h : (intRange f).1 ≤ v ∧ v ≤ (intRange f).2) : satTo f v = (v, false) := by
  unfold satTo
  rw [if_neg (Int.not_lt.2 h.1), if_neg (Int.not_lt.2 h.2)]

theorem satTo_snd_eq_false_iff (f : Fmt) (v : Int) :
    (satTo f v).2 = false ↔ (intRange f).1 ≤ v ∧ v ≤ (intRange f).2 := by
  refine ⟨fun h => ?_, fun h => by rw [satTo_eq_self h]⟩
  unfold satTo at h
  dsimp only at h
  split at h
  · cases h
  · split at h
    · cases h
    · omega

theorem satTo_snd_true {f : Fmt} {v : Int} (h : (satTo f v).2 = true) :
    (satTo f v).1 = (intRange f).1 ∨ (satTo f v).1 = (intRange f).2 := by
  unfold satTo at h ⊢
  dsimp only at h ⊢
  split at h
  · next hlo => exact .inl (by rw [if_pos hlo])
  · next hlo =>
    split at h
    · next hhi => exact .inr (by rw [if_neg hlo, if_pos hhi])
    · cases h

theorem intRange_nonempty (f : Fmt) : (intRange f).1 ≤ (intRange f).2 := by
  unfold intRange
  split <;> decide

theorem satTo_mem (f : Fmt) (v : Int) : (intRange f).1 ≤ (satTo f v).1 ∧ (satTo f v).1 ≤ (intRange f).2 := by
  have hne := intRange_nonempty f
  cases h : (satTo f v).2
  · have hin := (satTo_snd_eq_false_iff f v).1 h
    rwa [satTo_eq_self hin]
  · rcases satTo_snd_true h with h | h <;> rw [h]
    · exact ⟨le_rfl, hne⟩
    · exact ⟨hne, le_rfl⟩

@[simp] theorem plus_noEv_accEv : noEv.plus (accEv false) = noEv := rfl

/-- The product that row element `c` adds to column `n` of the array, as an integer. -/
def cellTerm (w : Nat) (tile : List Byte) (acts : List Nat) (n c : Nat) : Int :=
  (if actFmt w = 2 then (acts.getD c 0 : Int) else signedOf (fmtBits (actFmt w)) (acts.getD c 0)) *
    signedOf (fmtBits (wgtFmt w)) (weightAt tile w (c / perCell w) n (c % perCell w))

/-- A multiply-accumulate of an integer pairing whose sum stays in the INT32 range. -/
theorem mac_int {w : Nat} (hp : pairFp w = false) {acc : Word} {a b : Nat} {t : Int}
    (ht : t = acc.toInt + (if actFmt w = 2 then (a : Int) else signedOf (fmtBits (actFmt w)) a) *
      signedOf (fmtBits (wgtFmt w)) b)
    (hr : -2147483648 ≤ t ∧ t ≤ 2147483647) : mac w acc a b = (BitVec.ofInt 32 t, accEv false) := by
  have hsat : sat32 t = (t, false) := satTo_eq_self hr
  simp only [mac, hp, entryInt, ← ht, hsat]
  rfl

theorem toInt_ofInt_of_int32 {t : Int} (h : -2147483648 ≤ t ∧ t ≤ 2147483647) : (BitVec.ofInt 32 t).toInt = t :=
  BitVec.toInt_ofInt_eq_self (by decide) (by simpa using h.1) (by simpa using Int.lt_add_one_of_le h.2)

/-- The partial sum after the first `m` row elements is exact while all before it stay in the INT32 range. -/
theorem column_prefix {w : Nat} (hp : pairFp w = false) (tile : List Byte) (acts : List Nat) (n : Nat) (m : Nat)
    (hr : ∀ k ≤ m, -2147483648 ≤ ((List.range k).map (cellTerm w tile acts n)).sum ∧
      ((List.range k).map (cellTerm w tile acts n)).sum ≤ 2147483647) :
    (List.range m).foldl (fun (r : Word × Ev) c =>
      let t := mac w r.1 (acts.getD c 0) (weightAt tile w (c / perCell w) n (c % perCell w))
      (t.1, r.2.plus t.2)) (0, noEv) =
    (BitVec.ofInt 32 ((List.range m).map (cellTerm w tile acts n)).sum, noEv) := by
  induction m with
  | zero => rfl
  | succ m ih =>
    have hlast := hr (m + 1) le_rfl
    have hprev := toInt_ofInt_of_int32 (hr m m.le_succ)
    rw [List.range_succ, List.map_append, List.sum_append] at hlast ⊢
    rw [List.foldl_append, ih fun k hk => hr k (hk.trans m.le_succ)]
    simp only [List.foldl_cons, List.foldl_nil, List.map_cons, List.map_nil, List.sum_cons, List.sum_nil, add_zero]
      at hlast ⊢
    rw [mac_int hp (by rw [hprev]; rfl) hlast, plus_noEv_accEv]

theorem column_eq_sum {w : Nat} (hp : pairFp w = false) (tile : List Byte) (acts : List Nat) (n : Nat)
    (hr : ∀ m ≤ 64 * perCell w, -2147483648 ≤ ((List.range m).map (cellTerm w tile acts n)).sum ∧
      ((List.range m).map (cellTerm w tile acts n)).sum ≤ 2147483647) :
    (column w tile acts n).1.toInt = ((List.range (64 * perCell w)).map (cellTerm w tile acts n)).sum ∧
      (column w tile acts n).2 = noEv := by
  have hcol := column_prefix hp tile acts n (64 * perCell w) hr
  have heq : column w tile acts n = _ := hcol
  rw [heq]
  exact ⟨toInt_ofInt_of_int32 (hr _ le_rfl), rfl⟩

/-! ## The integer requantiser (R162, R164, R165) -/

/-- The integer that a code of a format stands for. -/
def codeInt (f : Fmt) (v : Nat) : Int := if f = 2 then (v : Int) else signedOf (fmtBits f) v

/-- `x / 2^k` rounded to the nearest integer, ties to even. -/
def halfEven (x : Int) (k : Nat) : Int :=
  let q := x / 2 ^ k
  if (2 : Int) ^ (k - 1) < x - q * 2 ^ k ∨ (x - q * 2 ^ k = 2 ^ (k - 1) ∧ q % 2 = 1) then q + 1 else q

/-- A value of the format's range is the one its code stands for. -/
theorem codeInt_wrapInt {f : Fmt} (hf : f ≤ 3) {v : Int} (h : (intRange f).1 ≤ v ∧ v ≤ (intRange f).2) :
    codeInt f (wrapInt (fmtBits f) v) = v := by
  interval_cases f <;> simp only [intRange, codeInt, signedOf, wrapInt, fmtBits] at h ⊢ <;> norm_num <;> omega

/-- The nearest integer is within half a unit, and an even one where both neighbours are as near. -/
theorem halfEven_error (x : Int) {k : Nat} (hk : 0 < k) :
    -(2 ^ k : Int) ≤ 2 * (halfEven x k * 2 ^ k - x) ∧ 2 * (halfEven x k * 2 ^ k - x) ≤ 2 ^ k ∧
      (2 * (halfEven x k * 2 ^ k - x) = 2 ^ k ∨ 2 * (halfEven x k * 2 ^ k - x) = -(2 ^ k : Int) →
        halfEven x k % 2 = 0) := by
  have hpos : (0 : Int) < 2 ^ k := by positivity
  have hhalf : (2 : Int) ^ k = 2 * 2 ^ (k - 1) := by
    obtain ⟨j, rfl⟩ : ∃ j, k = j + 1 := ⟨k - 1, by omega⟩
    rw [Nat.add_sub_cancel, pow_succ, mul_comm]
  have hdiv := Int.mul_ediv_add_emod x (2 ^ k)
  have hlo := Int.emod_nonneg x hpos.ne'
  have hhi := Int.emod_lt_of_pos x hpos
  unfold halfEven
  dsimp only
  generalize x / 2 ^ k = q at *
  generalize x % 2 ^ k = r at *
  generalize (2 : Int) ^ (k - 1) = half at *
  generalize (2 : Int) ^ k = unit at *
  have hr : x - q * unit = r := by rw [← hdiv]; ring
  rw [hr]
  split
  · have hup : 2 * ((q + 1) * unit - x) = 2 * (unit - r) := by rw [← hr]; ring
    rw [hup]
    omega
  · have hdown : 2 * (q * unit - x) = -2 * r := by rw [← hr]; ring
    rw [hdown]
    omega

/-- What the requantiser has before the output saturates, and whether the left shift saturated. -/
def requantShift (x sh : Int) : Int × Bool :=
  if 0 < sh then (halfEven x sh.toNat, false) else sat32 (x * 2 ^ (-sh).toNat)

theorem requantInt_of_int {f : Fmt} (hf : f ≤ 3) (acc bias sh : Int) :
    let x := sat32 (acc + bias)
    let q := requantShift x.1 sh
    let y := satTo f q.1
    requantInt acc bias sh f = (wrapInt (fmtBits f) y.1, ((accEv x.2).plus (outEv q.2)).plus (outEv y.2)) := by
  have hint : isFloatFmt f = false := by interval_cases f <;> rfl
  simp only [requantInt, hint]
  rfl

theorem b2n_eq_zero {b : Bool} : b2n b = 0 ↔ b = false := by cases b <;> decide

/-- The left shift saturates at an end of INT32, which no output format of an integer reaches. -/
theorem satTo_of_requantShift {f : Fmt} (hf : f ≤ 3) {x sh : Int} (h : (requantShift x sh).2 = true) :
    (satTo f (requantShift x sh).1).2 = true := by
  have hends : (requantShift x sh).1 = -2147483648 ∨ (requantShift x sh).1 = 2147483647 := by
    unfold requantShift at h ⊢
    split at h
    · cases h
    · next hsh =>
      rw [if_neg hsh]
      exact satTo_snd_true (f := 8) h
  rw [← Bool.not_eq_false, satTo_snd_eq_false_iff]
  interval_cases f <;> simp only [intRange] <;> omega

/-- What the integer requantiser gives: the output's value, and what it counts. -/
theorem requantInt_spec {f : Fmt} (hf : f ≤ 3) (acc bias sh : Int) :
    let x := sat32 (acc + bias)
    let q := requantShift x.1 sh
    let r := requantInt acc bias sh f
    codeInt f r.1 = (satTo f q.1).1 ∧ r.2.acc = b2n x.2 ∧ r.2.out = b2n q.2 + b2n (satTo f q.1).2 := by
  dsimp only
  rw [requantInt_of_int hf]
  exact ⟨codeInt_wrapInt hf (satTo_mem f _), rfl, congrArg (· + _) (Nat.zero_add _)⟩

theorem satTo_of_unsaturated {f : Fmt} {v : Int} (h : (satTo f v).2 = false) : (satTo f v).1 = v := by
  rw [satTo_eq_self ((satTo_snd_eq_false_iff f v).1 h)]

/-- A requantised integer output that nothing saturated is within half an output step; one that saturated stands at an
end of its format. -/
theorem requantInt_error {f : Fmt} (hf : f ≤ 3) (acc bias sh : Int) :
    let r := requantInt acc bias sh f
    let y := codeInt f r.1
    let x := acc + bias
    (intRange f).1 ≤ y ∧ y ≤ (intRange f).2 ∧
    (r.2.acc = 0 ↔ -2147483648 ≤ x ∧ x ≤ 2147483647) ∧
    (r.2.acc = 0 → r.2.out = 0 → 0 < sh → -(2 ^ sh.toNat : Int) ≤ 2 * (y * 2 ^ sh.toNat - x) ∧
      2 * (y * 2 ^ sh.toNat - x) ≤ 2 ^ sh.toNat ∧
      (2 * (y * 2 ^ sh.toNat - x) = 2 ^ sh.toNat ∨ 2 * (y * 2 ^ sh.toNat - x) = -(2 ^ sh.toNat : Int) → y % 2 = 0)) ∧
    (r.2.acc = 0 → r.2.out = 0 → sh ≤ 0 → y = x * 2 ^ (-sh).toNat) ∧
    (r.2.out ≠ 0 → y = (intRange f).1 ∨ y = (intRange f).2) := by
  obtain ⟨hy, hacc, hout⟩ := requantInt_spec hf acc bias sh
  dsimp only
  generalize (requantInt acc bias sh f).2.acc = a at *
  generalize (requantInt acc bias sh f).2.out = o at *
  generalize codeInt f (requantInt acc bias sh f).1 = y at *
  have hmem := satTo_mem f (requantShift (sat32 (acc + bias)).1 sh).1
  have hplain (ha : a = 0) (ho : o = 0) :
      (requantShift (acc + bias) sh).2 = false ∧ y = (requantShift (acc + bias) sh).1 := by
    have hexact : (sat32 (acc + bias)).1 = acc + bias := satTo_of_unsaturated (b2n_eq_zero.1 (hacc ▸ ha))
    rw [hexact] at hy hout
    rw [hout, Nat.add_eq_zero_iff, b2n_eq_zero, b2n_eq_zero] at ho
    exact ⟨ho.1, hy.trans (satTo_of_unsaturated ho.2)⟩
  refine ⟨hy ▸ hmem.1, hy ▸ hmem.2, ?_, fun ha ho hsh => ?_, fun ha ho hsh => ?_, fun ho => ?_⟩
  · rw [hacc, b2n_eq_zero]
    exact satTo_snd_eq_false_iff 8 _
  · have hval : y = halfEven (acc + bias) sh.toNat := by
      rw [(hplain ha ho).2, requantShift, if_pos hsh]
    exact hval ▸ halfEven_error (acc + bias) (by omega)
  · obtain ⟨hq, hval⟩ := hplain ha ho
    rw [requantShift, if_neg hsh.not_gt] at hq hval
    exact hval.trans (satTo_of_unsaturated hq)
  · have hsat : (satTo f (requantShift (sat32 (acc + bias)).1 sh).1).2 = true := by
      cases hq : (requantShift (sat32 (acc + bias)).1 sh).2
      · rw [hout, hq] at ho
        exact Bool.eq_true_of_not_eq_false fun h => ho (by rw [h]; rfl)
      · exact satTo_of_requantShift hf hq
    exact hy ▸ satTo_snd_true hsat

/-- Settles O41: a column by induction on the row elements, the requantiser by its rounding and its two saturations. -/
theorem integerOutputsAreExactToHalfAStep : Obligations.IntegerOutputsAreExactToHalfAStep :=
  ⟨fun _ tile acts n hp => column_eq_sum hp tile acts n, fun acc bias sh _ hf _ _ => requantInt_error hf acc bias sh⟩

end Sys2Proof.Machine

namespace Sys2Proof.Machine

/-! ## What an instruction does to its core

The instructions of this family change their core and no other part of the machine; an instruction's effect is a chain of
such changes. -/

/-- Core `n` becomes `c`; beside it, only what R11 and R207 note of it differs. -/
structure CoreBecomes (s t : State) (n : Nat) (c : Core) : Prop where
  only : OnlyCore s t n
  core : coreAt t n = c

namespace CoreBecomes
variable {s t u : State} {n : Nat} {c d : Core}

theorem refl (s : State) (n : Nat) : CoreBecomes s s n (coreAt s n) := ⟨⟨rfl, fun _ _ => rfl⟩, rfl⟩

theorem trans (h : CoreBecomes s t n c) (k : CoreBecomes t u n d) : CoreBecomes s u n d := by
  obtain ⟨⟨hst, hne⟩, -⟩ := h
  obtain ⟨⟨htu, kne⟩, hcore⟩ := k
  refine ⟨⟨?_, fun m hm => (kne m hm).trans (hne m hm)⟩, hcore⟩
  rw [hst] at htu
  exact htu

theorem setCore (h : CoreBecomes s t n c) (d : Core) : CoreBecomes s (setCore n d t) n d :=
  h.trans ⟨⟨rfl, fun _ hm => coreAt_setCore_ne hm d t⟩, coreAt_setCore n d t⟩

theorem hwSet (h : CoreBecomes s t n c) (o b : Nat) : CoreBecomes s (hwSet o b t) n c :=
  h.trans ⟨⟨rfl, fun _ _ => rfl⟩, h.core⟩

theorem hwPeak (h : CoreBecomes s t n c) (o v : Nat) : CoreBecomes s (hwPeak o v t) n c :=
  h.trans ⟨⟨rfl, fun _ _ => rfl⟩, h.core⟩

theorem meetPoison (h : CoreBecomes s t n c) (u : UnitId) (b : Bool) : CoreBecomes s (meetPoison u b t) n c := by
  unfold Machine.meetPoison
  split
  · exact h.trans ⟨⟨rfl, fun _ _ => rfl⟩, h.core⟩
  · exact h

theorem countEv (h : CoreBecomes s t n c) (e : Ev) :
    CoreBecomes s (countEv n e t) n { c with cnt := (coreAt (countEv n e t) n).cnt } := by
  unfold Machine.countEv
  dsimp only
  rw [coreAt_setCore, h.core]
  exact h.setCore _

/-- Words written to the activation buffer. -/
theorem coreWrites (h : CoreBecomes s t n c) (a : Nat) (l : List (Word × Bool)) :
    CoreBecomes s (coreWrites n false a l t) n { c with act := memWrites c.act a l } := by
  have hmet := h.meetPoison (.core (BitVec.ofNat 7 n)) (l.any (·.2))
  unfold Machine.coreWrites
  dsimp only
  rw [hmet.core]
  exact hmet.setCore _

/-- The sequencer goes on (R229). -/
theorem advance (h : CoreBecomes s t n c) :
    CoreBecomes s (advance n t) n { c with seq := { c.seq with pc := nextPc c.seq } } := by
  have hpc : (Machine.advance n t) = Machine.setCore n { c with seq := { c.seq with pc := nextPc c.seq } } t := by
    unfold Machine.advance nextPc
    rw [h.core]
    cases hl : c.seq.loop with
    | none => simp [hl]
    | some l => simp [hl]
  rw [hpc]
  exact h.setCore _

end CoreBecomes

/-! ## Reads of words without an error (R158, R280) -/

theorem coreWord_clean {n memory off : Nat} {s : State} (h : coreSyn (coreAt s n) memory off = 0) (raw : Word)
    (put : Word → Core → Core) (scope : Nat) : coreWord n memory off raw put scope s = (raw, false, s) := by
  have hkind : eccKind (coreSyn (coreAt s n) memory off) = .clean := by rw [h]; rfl
  simp only [coreWord, hkind]

theorem toNat_eq_words (x : BitVec 128) :
    0 + (x.extractLsb' (32 * 0) 32).toNat * 2 ^ (32 * 0) + (x.extractLsb' (32 * 1) 32).toNat * 2 ^ (32 * 1)
      + (x.extractLsb' (32 * 2) 32).toNat * 2 ^ (32 * 2) + (x.extractLsb' (32 * 3) 32).toNat * 2 ^ (32 * 3) = x.toNat := by
  have hx := x.isLt
  simp only [BitVec.extractLsb'_toNat, Nat.shiftRight_eq_div_pow]
  omega

/-- A word of the tile-program memory that holds no error is read as it stands, and nothing changes. -/
theorem progWord_clean {n a : Nat} {s : State} (h : ∀ i, i < 4 → coreSyn (coreAt s n) 6 (16 * a + 4 * i) = 0)
    (scope : Nat) : progWord scope n a s = ((getAt 0 a (coreAt s n).prog).toNat, true, s) := by
  have hread (i : Nat) (hi : i < 4) (raw : Word) (put : Word → Core → Core) :
      coreWord n 6 (16 * a + 4 * i) raw put scope s = (raw, false, s) := coreWord_clean (h i hi) raw put scope
  simp only [progWord, show List.range 4 = [0, 1, 2, 3] from rfl, List.foldl_cons, List.foldl_nil,
    hread 0 (by decide), hread 1 (by decide), hread 2 (by decide), hread 3 (by decide), Bool.not_false, Bool.and_self]
  exact congrArg (·, true, s) (toNat_eq_words _)

theorem firstBad_none {s : State} {n w : Nat} {l : List Check} (h : firstBad s n w l = none) : ∀ c ∈ l, c s n w = none := by
  induction l with
  | nil => exact fun _ hc => nomatch hc
  | cons c r ih =>
    unfold firstBad at h
    split at h
    · cases h
    · next hc => exact List.forall_mem_cons.2 ⟨hc, ih h⟩

/-- An instruction that issues runs its body, and the sequencer goes on. -/
theorem tileStep_issues {mine : Nat → Bool} {checks : List Check} {ready : State → Nat → Nat → Bool}
    {body : Nat → Nat → State → State} {core : BitVec 7} {w : BitVec 128} {s : State}
    (h : Issues s core.toNat w.toNat) (hm : mine w.toNat = true) (hc : checksOf w.toNat = checks)
    (hr : ready s core.toNat w.toNat = issues s core.toNat w.toNat) :
    tileStep mine checks ready body core w s = .next (advance core.toNat (body core.toNat w.toNat s)) := by
  obtain ⟨⟨⟨hpow, hready, hbusy, hstop, hreset⟩, hpc, -, hprog, hsyn⟩, hfield, hbad, hissue⟩ := h
  have hfetch : fetchInsn core.toNat (coreAt s core.toNat).seq.pc s = (w.toNat, true, s) := by
    rw [fetchInsn, progWord_clean hsyn, hprog, BitVec.ofNat_toNat, BitVec.setWidth_eq]
  rw [hc] at hbad
  simp [tileStep, hm, hpow, hready, hbusy, hstop, hreset, hpc.not_gt, hfetch, hfield, hbad, hr, hissue]

/-- Geometry and parameter words that hold no error change nothing. -/
theorem withProg_clean {n : Nat} {s : State} (h : (coreAt s n).syn = []) (a k : Nat) (body : State → State) :
    withProg n a k body s = body s := by
  have hfetch (i : Nat) : (fetchInsn n (a + i) s).2 = (true, s) := by
    rw [fetchInsn, progWord_clean fun i _ => by rw [coreSyn, h]; rfl]
  have hall (l : List Nat) : l.foldl (fun (r : Bool × State) i =>
      let f := fetchInsn n (a + i) r.2
      (r.1 && f.2.1, f.2.2)) (true, s) = (true, s) := by
    induction l with
    | nil => rfl
    | cons i l ih => simpa [hfetch] using ih
  simp only [withProg, hall]
  rfl

/-! ## Words of the buffers (R156, R170) -/

theorem memReads_clean {m : Mem} (h : ∀ a, memSyn m a = 0) (k : Nat) : ∀ a,
    memReads m a k = ((List.range k).map fun i => (memWord m (a + 4 * i), false), m, []) := by
  induction k with
  | zero => exact fun _ => rfl
  | succ k ih =>
    intro a
    simp only [memReads, memRead_clean (h a), ih (a + 4), List.range_succ_eq_map, List.map_cons, List.map_map]
    refine congrArg (·, m, []) (congrArg₂ _ rfl (List.map_congr_left fun i _ => ?_))
    simp only [Function.comp_apply]
    congr 2
    omega

/-- Reads of a core whose buffers hold no error. -/
theorem coreReads_clean {s t : State} {n : Nat} {c : Core} (h : CoreBecomes s t n c) (hc : CoreClean c) (wgt : Bool)
    (a k : Nat) : (coreReads n wgt a k t).1 =
        (List.range k).map (fun i => (memWord (if wgt then c.wgt else c.act) (a + 4 * i), false)) ∧
      CoreBecomes s (coreReads n wgt a k t).2 n c := by
  obtain ⟨-, -, -, hact, hwgt⟩ := hc
  cases wgt
  · simp only [coreReads, h.core, Bool.false_eq_true, if_false, memReads_clean hact]
    exact ⟨trivial, h.setCore c⟩
  · simp only [coreReads, h.core, if_true, memReads_clean hwgt]
    exact ⟨trivial, h.setCore c⟩

theorem mem_insNat {k x : Nat} {l : List Nat} : x ∈ insNat k l ↔ x = k ∨ x ∈ l := by
  induction l with
  | nil => simp [insNat]
  | cons j r ih =>
    unfold insNat
    split
    · simp
    · split
      · simp_all
      · rw [List.mem_cons, ih, List.mem_cons]; tauto

theorem mem_insNats {x : Nat} {ks l : List Nat} : x ∈ insNats ks l ↔ x ∈ ks ∨ x ∈ l := by
  induction ks generalizing l with
  | nil => simp [insNats]
  | cons k ks ih => rw [show insNats (k :: ks) l = insNats ks (insNat k l) from rfl, ih, mem_insNat, List.mem_cons]; tauto

theorem getAt_map_of_mem {α : Type} {d : α} {f : Nat → α} {a : Nat} {l : List Nat} (h : a ∈ l) :
    getAt d a (l.map fun a => (a, f a)) = f a := by
  induction l with
  | nil => cases h
  | cons b r ih =>
    by_cases hb : b = a
    · simp [getAt, hb]
    · simp only [List.map_cons, getAt, if_neg hb]
      exact ih ((List.mem_cons.1 h).resolve_left (Ne.symm hb))

/-- The words that a unit gathers from a core without errors, and that nothing changes. -/
theorem coreGather_clean {s t : State} {n : Nat} {c : Core} (h : CoreBecomes s t n c) (hc : CoreClean c) (ws : List Nat) :
    (∀ a ∈ ws, look (coreGather n ws t).1 a = (memWord c.act a, false)) ∧
      CoreBecomes s (coreGather n ws t).2 n c := by
  have hfold (l : List Nat) (g : Gathered) (u : State) (hu : CoreBecomes s u n c) :
      let r := l.foldl (fun (r : Gathered × State) a =>
        let x := coreReads n false a 1 r.2
        (r.1 ++ [(a, x.1.headD (0, true))], x.2)) (g, u)
      r.1 = g ++ l.map (fun a => (a, memWord c.act a, false)) ∧ CoreBecomes s r.2 n c := by
    induction l generalizing g u with
    | nil => exact ⟨(List.append_nil g).symm, hu⟩
    | cons a l ih =>
      obtain ⟨hval, hnext⟩ := coreReads_clean hu hc false a 1
      obtain ⟨hl, hlast⟩ := ih (g ++ [(a, (coreReads n false a 1 u).1.headD (0, true))]) _ hnext
      refine ⟨hl.trans ?_, hlast⟩
      rw [hval]
      simp
  obtain ⟨hval, hcore⟩ := hfold (insNats ws []) [] t h
  refine ⟨fun a ha => ?_, hcore⟩
  have hmem : a ∈ insNats ws [] := mem_insNats.2 (.inl ha)
  exact (congrArg (getAt (0, false) a) hval).trans (getAt_map_of_mem hmem)

/-- An element of a gathered block is the one that the buffer holds. -/
theorem elemIn_eq_actElem {g : Gathered} {c : Core} {f : Fmt} {b j : Nat}
    (h : look g (elemWord f b j) = (memWord c.act (elemWord f b j), false)) :
    elemIn g f b j = (actElem c f b j, false) := by
  simp only [elemIn, h, actElem]

end Sys2Proof.Machine

namespace Sys2Proof.Machine

/-! ## Blocks that a pass feeds (R170, R173, R176) -/

theorem fmtBits_cases (f : Fmt) :
    f = 0 ∧ fmtBits f = 4 ∨ f ≠ 0 ∧ (fmtBits f = 8 ∨ fmtBits f = 16 ∨ fmtBits f = 32) := by
  unfold fmtBits
  split <;> simp_all

/-- The word of an element of a block is one of the block's words. -/
theorem elemWord_mem_blockWords (f : Fmt) (a : Nat) {j : Nat} (hj : j < cpb f) : elemWord f a j ∈ blockWords f a := by
  refine List.mem_map.2 ⟨j * fmtBits f / 32, List.mem_range.2 ?_, by rw [elemWord, Nat.mul_comm]⟩
  unfold cpb at hj
  unfold blockBytes
  rcases fmtBits_cases f with ⟨rfl, h⟩ | ⟨h0, h | h | h⟩ <;> simp_all <;> omega

/-- The elements of a block of which every word was gathered. -/
theorem blockElems_clean {g : Gathered} {c : Core} {f : Fmt} {b : BlockSrc}
    (h : ∀ a, b = .mem a → ∀ x ∈ blockWords f a, look g x = (memWord c.act x, false)) :
    blockElems g f b = (List.range (cpb f)).map fun e => (srcElem c f b e, false) := by
  cases b with
  | mem a =>
    exact List.map_congr_left fun j hj =>
      elemIn_eq_actElem (h a rfl _ (elemWord_mem_blockWords f a (List.mem_range.1 hj)))
  | pad v => simp [blockElems, srcElem, List.map_const']

/-- Equal runs of elements laid end to end. -/
theorem range_mul_map {α : Type} (f : Nat → Nat → α) (m k : Nat) :
    (List.range m).flatMap (fun b => (List.range k).map (f b)) =
      (List.range (m * k)).map fun e => f (e / k) (e % k) := by
  induction m with
  | zero => simp
  | succ m ih =>
    rw [List.range_succ, List.flatMap_append, ih, Nat.succ_mul, List.range_add, List.map_append, List.map_map]
    refine congrArg _ ?_
    simp only [List.flatMap_singleton]
    refine List.map_congr_left fun e he => ?_
    have hlt := List.mem_range.1 he
    simp only [Function.comp_apply]
    rw [Nat.mul_add_mod', Nat.mod_eq_of_lt hlt, Nat.add_comm, Nat.add_mul_div_right _ _ (Nat.zero_lt_of_lt hlt),
      Nat.div_eq_of_lt hlt, Nat.zero_add]

theorem passBlocks_mul_cpb (w : Nat) : passBlocks w * cpb (actFmt w) = 64 * perCell w := by
  have hdvd : cpb (actFmt w) ∣ 64 * perCell w := by
    have hfp : cpb (if w.testBit 12 then 5 else 4) = 32 := by split <;> rfl
    unfold actFmt perCell
    rcases pairOf w with _ | _ | _ | _ | _ | _ | _ | p
    case succ.succ.succ.zero => simp [hfp]
    all_goals simp [cpb, fmtBits]
  exact Nat.div_mul_cancel hdvd

/-! ## Accumulator rows (R148, R158) -/

/-- Without errors a row is read as it is stored. -/
theorem accRead_clean {n : Nat} {s : State} (h : (coreAt s n).syn = []) (i : Nat) :
    accRead n i s = (accRow (coreAt s n) i, s) := by
  simp [accRead, h, accFix]

theorem CoreBecomes.accWrite {s t : State} {n : Nat} {c : Core} (h : CoreBecomes s t n c) (hs : c.syn = []) (i : Nat)
    (r : AccRow) : CoreBecomes s (accWrite n i r t) n
      { c with acc := putAt i r c.acc, poisonSeen := c.poisonSeen || r.poison } := by
  have hmet : CoreBecomes s (Machine.meetPoison (.core (BitVec.ofNat 7 n)) r.poison
      (if r.poison then Machine.hwSet (0x100000 + 0x2000 * n) 2 t else t)) n c := by
    refine .meetPoison ?_ _ _
    split
    · exact h.hwSet _ _
    · exact h
  unfold Machine.accWrite
  dsimp only
  rw [h.core, hs]
  exact hmet.setCore _

theorem accVals_getD {r : AccRow} {k : Nat} (hk : k < 64) : (accVals r).getD k 0 = r.vals.getD k 0 := by
  simp [accVals, List.getD_eq_getElem?_getD, hk]

/-- What a vector leaves in entry `k` of accumulator row `i`. -/
def vectorSum (c : Core) (w i : Nat) (acts : List Nat) (k : Nat) : Word :=
  let sum := (column w (tileOf c) acts k).1
  if accAdds w then (drainAdd w ((accVals (accRow c i)).getD k 0) sum).1 else sum

/-- One vector writes its row, and beside it only counts. -/
theorem runVector_clean {s t : State} {n : Nat} {c : Core} (h : CoreBecomes s t n c) (hs : c.syn = []) (w j row : Nat)
    (acts : List Nat) (poison : Bool) :
    ∃ (r : AccRow) (b : Bool) (k : CoreCounters), CoreBecomes s (runVector n w j row acts poison t) n
        { c with acc := putAt (j * 256 + row) r c.acc, poisonSeen := b, cnt := k } ∧
      r.fp = pairFp w ∧ ∀ k < 64, (accVals r).getD k 0 = vectorSum c w (j * 256 + row) acts k := by
  have hold : (if accAdds w then accRead n (j * 256 + row) t else (accRow (coreAt t n) (j * 256 + row), t)) =
      (accRow c (j * 256 + row), t) := by
    rw [accRead_clean (by rw [h.core, hs]), h.core, ite_self]
  unfold runVector
  dsimp only
  rw [hold]
  dsimp only
  rw [h.core]
  refine ⟨_, _, _, (h.accWrite hs _ _).countEv _, rfl, fun k hk => ?_⟩
  rw [accVals_getD hk]
  simp only [List.map_map, vectorSum, List.getD_eq_getElem?_getD, List.getElem?_map, List.getElem?_range hk,
    Option.map_some, Option.getD_some, Function.comp_apply]
  split <;> rfl

/-! ## A pass (R150, R173) -/

/-- The activations of vector `v` of array `j`. -/
def vectorActs (c : Core) (w : Nat) (src : Nat → Nat → Nat → BlockSrc) (j v : Nat) : List Nat :=
  (List.range (64 * perCell w)).map fun e =>
    srcElem c (actFmt w) (src j v (e / cpb (actFmt w))) (e % cpb (actFmt w))

/-- The accumulator row of a vector. -/
def vectorRow (w : Nat) (p : Nat × Nat) : Nat := p.1 * 256 + (accBase w + p.2)

/-- The vectors of a pass in their order: array and number. -/
def passVectors (w : Nat) : List (Nat × Nat) := (List.range 4).flatMap fun j => (List.range (vectorsOf w j)).map (j, ·)

theorem mem_passVectors {w j v : Nat} : (j, v) ∈ passVectors w ↔ j < 4 ∧ v < vectorsOf w j := by
  simp [passVectors]

theorem nodup_passVectors (w : Nat) : (passVectors w).Nodup := by
  refine List.nodup_flatMap.2 ⟨fun j _ => List.nodup_range.map fun a b h => (Prod.mk.inj h).2, ?_⟩
  refine List.nodup_range.imp fun {i j} hij x hi hj => ?_
  obtain ⟨a, -, rfl⟩ := List.mem_map.1 hi
  obtain ⟨b, -, hb⟩ := List.mem_map.1 hj
  exact hij (Prod.mk.inj hb).1.symm

/-- The words of the activation buffer that a block takes. -/
def srcWords (f : Fmt) : BlockSrc → List Nat
  | .mem a => blockWords f a
  | .pad _ => []

/-- One vector of a pass: its blocks are gathered and run through the array. -/
def passVector (n w : Nat) (src : State → Nat → Nat → Nat → BlockSrc) (s : State) (p : Nat × Nat) : State :=
  let f := actFmt w
  let blocks := (List.range (passBlocks w)).map fun b => src s p.1 p.2 b
  let got := coreGather n (blocks.flatMap (srcWords f)) s
  let elems := blocks.flatMap (blockElems got.1 f)
  runVector n w p.1 (accBase w + p.2) (elems.map (·.1)) (elems.any (·.2)) got.2

theorem runPass_eq_foldl (n w : Nat) (src : State → Nat → Nat → Nat → BlockSrc) (s : State) :
    runPass n w src s = countStalls n ((passVectors w).foldl (passVector n w src) s) := by
  rw [passVectors, List.foldl_flatMap]
  simp only [List.foldl_map]
  rfl

/-- The blocks of a vector, gathered from a core without errors, are its activations. -/
theorem gathered_vectorActs {g : Gathered} {c : Core} {w j v : Nat} {src : Nat → Nat → Nat → BlockSrc}
    (h : ∀ b < passBlocks w, ∀ a, src j v b = .mem a → ∀ x ∈ blockWords (actFmt w) a,
      look g x = (memWord c.act x, false)) :
    (((List.range (passBlocks w)).map (src j v)).flatMap (blockElems g (actFmt w))).map (·.1) =
      vectorActs c w src j v := by
  rw [List.flatMap_map, vectorActs, ← passBlocks_mul_cpb,
    ← range_mul_map (fun b e => srcElem c (actFmt w) (src j v b) e), List.map_flatMap]
  refine List.flatMap_congr fun b hb => ?_
  rw [blockElems_clean (h b (List.mem_range.1 hb)), List.map_map]
  rfl

theorem accRow_of_findAt {c d : Core} {i : Nat} (h : findAt i d.acc = findAt i c.acc) (hu : d.undef = c.undef)
    (ha : d.act = c.act) : accRow d i = accRow c i := by
  simp only [accRow, blankRow, h, hu, ha]

/-- One vector of a pass writes its row from the activations of its blocks. -/
theorem passVector_clean {s t : State} {n : Nat} {c : Core} (h : CoreBecomes s t n c) (hc : CoreClean c) (w : Nat)
    (src : State → Nat → Nat → Nat → BlockSrc) (p : Nat × Nat) :
    ∃ (r : AccRow) (b : Bool) (k : CoreCounters), CoreBecomes s (passVector n w src t p) n
        { c with acc := putAt (vectorRow w p) r c.acc, poisonSeen := b, cnt := k } ∧
      r.fp = pairFp w ∧
      ∀ k < 64, (accVals r).getD k 0 = vectorSum c w (vectorRow w p) (vectorActs c w (src t) p.1 p.2) k := by
  obtain ⟨hlook, hgot⟩ := coreGather_clean h hc
    (((List.range (passBlocks w)).map (src t p.1 p.2)).flatMap (srcWords (actFmt w)))
  rw [← gathered_vectorActs (src := src t) fun b hb a ha x hx => hlook x (List.mem_flatMap.2
    ⟨_, List.mem_map_of_mem (List.mem_range.2 hb), by rw [ha]; exact hx⟩)]
  exact runVector_clean hgot hc.1 w p.1 (accBase w + p.2) _ _

/-- A core after vectors of a pass: its accumulator, its counts and POISON_SEEN may differ. -/
def passCore (c d : Core) : Core := { c with acc := d.acc, cnt := d.cnt, poisonSeen := d.poisonSeen }

/-- Whatever `src` says of a pass it says of the core's buffers, program and sequencer, which a pass leaves alone. -/
def SrcFixed (s : State) (n : Nat) (src : State → Nat → Nat → Nat → BlockSrc) : Prop :=
  ∀ t, coreAt t n = passCore (coreAt s n) (coreAt t n) → src t = src s

/-- What the vectors `done` of a pass have made of core `n`: their rows hold their sums, and every other row is as it
was. -/
structure Passed (s t : State) (n w : Nat) (src : Nat → Nat → Nat → BlockSrc) (done : List (Nat × Nat)) : Prop where
  becomes : CoreBecomes s t n (passCore (coreAt s n) (coreAt t n))
  written : ∀ p ∈ done, (accRow (coreAt t n) (vectorRow w p)).fp = pairFp w ∧ ∀ k < 64,
    (accVals (accRow (coreAt t n) (vectorRow w p))).getD k 0 =
      vectorSum (coreAt s n) w (vectorRow w p) (vectorActs (coreAt s n) w src p.1 p.2) k
  kept : ∀ i, (∀ p ∈ done, i ≠ vectorRow w p) → findAt i (coreAt t n).acc = findAt i (coreAt s n).acc

theorem vectorSum_passCore {c d : Core} {w i : Nat} (h : findAt i d.acc = findAt i c.acc) (acts : List Nat) (k : Nat) :
    vectorSum (passCore c d) w i acts k = vectorSum c w i acts k := by
  simp only [vectorSum, accRow_of_findAt (c := c) (d := passCore c d) h rfl rfl]
  rfl

/-- The next vector of a pass. -/
theorem Passed.next {s t : State} {n w : Nat} {src : State → Nat → Nat → Nat → BlockSrc} {done : List (Nat × Nat)}
    (h : Passed s t n w (src s) done) (hc : CoreClean (coreAt s n)) (hsrc : SrcFixed s n src) {p : Nat × Nat}
    (hp : ∀ q ∈ done, vectorRow w p ≠ vectorRow w q) :
    Passed s (passVector n w src t p) n w (src s) (done ++ [p]) := by
  obtain ⟨hbecomes, hwritten, hkept⟩ := h
  obtain ⟨r, b, k, hrun, hfp, hvals⟩ := passVector_clean hbecomes (show CoreClean (passCore _ _) from hc) w src p
  rw [hsrc t hbecomes.core] at hvals
  have hcore := hrun.core
  have hacc : (coreAt (passVector n w src t p) n).acc = putAt (vectorRow w p) r (coreAt t n).acc := by rw [hcore]; rfl
  have hrow (i : Nat) (hi : i ≠ vectorRow w p) : accRow (coreAt (passVector n w src t p) n) i = accRow (coreAt t n) i :=
    accRow_of_findAt (by rw [hacc, findAt_putAt_ne _ hi]) (by rw [hcore, hbecomes.core]; rfl)
      (by rw [hcore, hbecomes.core]; rfl)
  have hnew : accRow (coreAt (passVector n w src t p) n) (vectorRow w p) = r := by
    rw [accRow, hacc, findAt_putAt_self]; rfl
  refine ⟨⟨hrun.only, by rw [hcore]; rfl⟩, fun q hq => ?_, fun i hi => ?_⟩
  · rcases List.mem_append.1 hq with hq | hq
    · rw [hrow _ (hp q hq).symm]
      exact hwritten q hq
    · rw [List.mem_singleton.1 hq, hnew]
      exact ⟨hfp, fun k hk => (hvals k hk).trans (vectorSum_passCore (hkept _ hp) _ _)⟩
  · rw [hacc, findAt_putAt_ne _ (hi p (List.mem_append_right _ (List.mem_singleton_self p)))]
    exact hkept i fun q hq => hi q (List.mem_append_left _ hq)

theorem Passed.none (s : State) (n w : Nat) (src : Nat → Nat → Nat → BlockSrc) : Passed s s n w src [] :=
  ⟨.refl s n, fun _ h => absurd h List.not_mem_nil, fun _ _ => rfl⟩

/-- Vectors with rows of their own, one after another. -/
theorem Passed.foldl {s t : State} {n w : Nat} {src : State → Nat → Nat → Nat → BlockSrc} {done l : List (Nat × Nat)}
    (h : Passed s t n w (src s) done) (hc : CoreClean (coreAt s n)) (hsrc : SrcFixed s n src)
    (hl : ((done ++ l).map (vectorRow w)).Nodup) :
    Passed s (l.foldl (passVector n w src) t) n w (src s) (done ++ l) := by
  induction l generalizing t done with
  | nil => rwa [List.append_nil]
  | cons p l ih =>
    rw [List.append_cons] at hl ⊢
    refine ih (h.next hc hsrc fun q hq he => ?_) hl
    rw [List.map_append, List.map_append, List.append_assoc] at hl
    exact (List.nodup_append.1 hl).2.2 _ (List.mem_map_of_mem hq) _ (by simp) he.symm

theorem CoreBecomes.countStalls {s t : State} {n : Nat} {c : Core} (h : CoreBecomes s t n c) :
    CoreBecomes s (countStalls n t) n { c with cnt := (coreAt (countStalls n t) n).cnt } := by
  unfold Machine.countStalls
  dsimp only
  rw [coreAt_setCore, h.core]
  exact (h.hwPeak _ _).setCore _

theorem foldl_max_le {l : List Nat} {a b : Nat} : l.foldl max a ≤ b ↔ a ≤ b ∧ ∀ x ∈ l, x ≤ b := by
  induction l generalizing a with
  | nil => simp
  | cons x l ih => rw [List.foldl_cons, ih, max_le_iff, List.forall_mem_cons, and_assoc]

/-- No range ends past a limit that the largest end keeps. -/
theorem beyond_none {limit res : Nat} {l : List Nat} (h : beyond limit res (l.foldl max 0) = none) : ∀ x ∈ l, x ≤ limit := by
  have hle : l.foldl max 0 ≤ limit := Nat.le_of_not_lt fun hlt => by
    rw [beyond, if_pos hlt] at h
    cases h
  exact (foldl_max_le.1 hle).2

/-- Rule 5 of R223 keeps the rows of one array apart from those of the next. -/
theorem nodup_vectorRows {s : State} {n w : Nat} (h : checkAccRows s n w = none) :
    ((passVectors w).map (vectorRow w)).Nodup := by
  have hrows (j : Nat) (hj : j < 4) (h0 : vectorsOf w j ≠ 0) : accBase w + vectorsOf w j ≤ 256 := by
    have hle := beyond_none h _ (List.mem_map_of_mem (List.mem_range.2 hj))
    rwa [if_neg h0] at hle
  refine (nodup_passVectors w).map_on fun p hp q hq he => ?_
  obtain ⟨hp4, hpv⟩ := mem_passVectors.1 hp
  obtain ⟨hq4, hqv⟩ := mem_passVectors.1 hq
  have hprow := hrows p.1 hp4 (by omega)
  have hqrow := hrows q.1 hq4 (by omega)
  unfold vectorRow at he
  exact Prod.ext (by omega) (by omega)

/-- A whole pass on a core without errors. -/
theorem passed_runPass {s : State} {n w : Nat} {src : State → Nat → Nat → Nat → BlockSrc} (hc : CoreClean (coreAt s n))
    (hsrc : SrcFixed s n src) (hrows : checkAccRows s n w = none) :
    Passed s (runPass n w src s) n w (src s) (passVectors w) := by
  obtain ⟨hbecomes, hwritten, hkept⟩ :=
    (Passed.none s n w (src s)).foldl hc hsrc (List.nil_append (passVectors w) ▸ nodup_vectorRows hrows)
  rw [List.nil_append] at hwritten hkept
  have hstalls := CoreBecomes.countStalls (t := (passVectors w).foldl (passVector n w src) s) ⟨hbecomes.only, rfl⟩
  rw [← runPass_eq_foldl] at hstalls
  have hacc : (coreAt (runPass n w src s) n).acc = (coreAt ((passVectors w).foldl (passVector n w src) s) n).acc := by
    rw [hstalls.core]
  have hrow (i : Nat) : accRow (coreAt (runPass n w src s) n) i =
      accRow (coreAt ((passVectors w).foldl (passVector n w src) s) n) i := by
    rw [hstalls.core]; rfl
  refine ⟨⟨hstalls.only, ?_⟩, fun p hp => ?_, fun i hi => ?_⟩
  · rw [hstalls.core, hbecomes.core]; rfl
  · rw [hrow]; exact hwritten p hp
  · rw [hacc]; exact hkept i hi

theorem srcFixed_matmul (s : State) (n w : Nat) : SrcFixed s n fun s j v b => .mem (matmulAddr s n w j v b) := by
  intro t ht
  simp only [matmulAddr, indexed]
  rw [ht]
  rfl

theorem srcFixed_conv (s : State) (n w : Nat) : SrcFixed s n fun s j v b => convBlock s n w j v b := by
  intro t ht
  simp only [convBlock, convGeo, convBase, indexed]
  rw [ht]
  rfl

theorem checksOf_matmul {x : Nat} (h : insnOp x = 2) : checksOf x = checkMatmul := by simp only [checksOf, h]

theorem checksOf_conv {x : Nat} (h : insnOp x = 3) : checksOf x = checkConv := by simp only [checksOf, h]

theorem exec_matmul {s : State} {core : BitVec 7} {w : BitVec 128} (h : Issues s core.toNat w.toNat)
    (hop : insnOp w.toNat = 2) : exec (.matmul core w) s =
      .next (advance core.toNat (runPass core.toNat w.toNat
        (fun s j v b => .mem (matmulAddr s core.toNat w.toNat j v b)) s)) := by
  rw [show exec (.matmul core w) s = execMatmul core w s from rfl, execMatmul,
    tileStep_issues h (decide_eq_true hop) (checksOf_matmul hop) (by simp only [issues, hop])]
  rfl

theorem exec_conv {s : State} {core : BitVec 7} {w : BitVec 128} (h : Issues s core.toNat w.toNat)
    (hc : CoreClean (coreAt s core.toNat)) (hop : insnOp w.toNat = 3) : exec (.conv core w) s =
      .next (advance core.toNat (runPass core.toNat w.toNat
        (fun s j v b => convBlock s core.toNat w.toNat j v b) s)) := by
  rw [show exec (.conv core w) s = execConv core w s from rfl, execConv,
    tileStep_issues h (decide_eq_true hop) (checksOf_conv hop) (by simp only [issues, hop]), runConv, withProg_clean hc.1]

/-- The core after a pass and the sequencer's step. -/
theorem passed_advance {s u : State} {n w : Nat} {src : Nat → Nat → Nat → BlockSrc}
    (h : Passed s u n w src (passVectors w)) :
    let c := coreAt s n
    let t := advance n u
    OnlyCore s t n ∧
      coreAt t n = { c with
        acc := (coreAt t n).acc, cnt := (coreAt t n).cnt, poisonSeen := (coreAt t n).poisonSeen
        seq := { c.seq with pc := nextPc c.seq } } ∧
      (∀ j v k, j < 4 → v < vectorsOf w j → k < 64 →
        let i := j * 256 + accBase w + v
        (accRow (coreAt t n) i).fp = pairFp w ∧
          (accVals (accRow (coreAt t n) i)).getD k 0 = vectorSum c w i (vectorActs c w src j v) k) ∧
      (∀ i, (∀ j v, j < 4 → v < vectorsOf w j → i ≠ j * 256 + accBase w + v) →
        findAt i (coreAt t n).acc = findAt i c.acc) := by
  obtain ⟨hbecomes, hwritten, hkept⟩ := h
  have hadv := hbecomes.advance
  have hacc : (coreAt (advance n u) n).acc = (coreAt u n).acc := by rw [hadv.core]; rfl
  have hrow (i : Nat) : accRow (coreAt (advance n u) n) i = accRow (coreAt u n) i :=
    accRow_of_findAt (by rw [hacc]) (by rw [hadv.core, hbecomes.core]; rfl) (by rw [hadv.core, hbecomes.core]; rfl)
  refine ⟨hadv.only, by rw [hadv.core]; rfl, fun j v k hj hv hk => ?_, fun i hi => ?_⟩
  · obtain ⟨hfp, hvals⟩ := hwritten (j, v) (mem_passVectors.2 ⟨hj, hv⟩)
    dsimp only
    rw [hrow, Nat.add_assoc]
    exact ⟨hfp, hvals k hk⟩
  · rw [hacc]
    refine hkept i fun p hp he => ?_
    obtain ⟨hj, hv⟩ := mem_passVectors.1 hp
    exact hi p.1 p.2 hj hv (he.trans (Nat.add_assoc ..).symm)

/-- Settles O40: each row of a pass is a vector's sum, by induction on the vectors in their order. -/
theorem arrayPassesFillAccumulatorRows : Obligations.ArrayPassesFillAccumulatorRows := by
  unfold Obligations.ArrayPassesFillAccumulatorRows
  intro s core w n x c hissues hclean _ f src acts passes
  have hrows (hop : insnOp x = 2 ∨ insnOp x = 3) : checkAccRows s n x = none := by
    refine firstBad_none hissues.2.2.1 _ ?_
    rcases hop with hop | hop
    · rw [checksOf_matmul hop]
      simp [checkMatmul]
    · rw [checksOf_conv hop]
      simp [checkConv]
  constructor
  · intro hop
    have hsrc : src = fun j v b => .mem (matmulAddr s n x j v b) := by funext j v b; exact if_pos hop
    have hpass := passed_advance (passed_runPass hclean (srcFixed_matmul s n x) (hrows (.inl hop)))
    rw [← hsrc] at hpass
    exact ⟨_, exec_matmul hissues hop, hpass⟩
  · intro hop
    have hsrc : src = convBlock s n x := by funext j v b; exact if_neg (by rw [hop]; decide)
    have hpass := passed_advance (passed_runPass hclean (srcFixed_conv s n x) (hrows (.inr hop)))
    rw [← hsrc] at hpass
    exact ⟨_, exec_conv hissues hclean hop, hpass⟩

end Sys2Proof.Machine

namespace Sys2Proof.Machine

/-! ## Words written to a memory (R5, R156) -/

theorem word_of_bytes (d : Word) :
    d.extractLsb' 24 8 ++ d.extractLsb' 16 8 ++ d.extractLsb' 8 8 ++ d.extractLsb' 0 8 = d := by
  rw [BitVec.extractLsb'_append_extractLsb'_eq_extractLsb' (by decide : 24 = 16 + 8),
    BitVec.extractLsb'_append_extractLsb'_eq_extractLsb' (by decide : 16 = 8 + 8),
    BitVec.extractLsb'_append_extractLsb'_eq_extractLsb' (by decide : 8 = 0 + 8)]
  exact BitVec.extractLsb'_eq_self

section Memory
variable {m : Mem} (h : m.wf = true)
include h

theorem memByte_memPutWord_of_ne {w a : Nat} (ha : a < w ∨ w + 4 ≤ a) (d : Word) (y : BitVec 7) :
    memByte (memPutWord m w d y) a = memByte m a := by
  unfold memPutWord
  rw [memByte_memPutSyn, memByte_memPut (memPut_wf (memPut_wf (memPut_wf h _ _) _ _) _ _), if_neg (by omega),
    memByte_memPut (memPut_wf (memPut_wf h _ _) _ _), if_neg (by omega), memByte_memPut (memPut_wf h _ _),
    if_neg (by omega), memByte_memPut h, if_neg (by omega)]

theorem memWord_memPutWord_self (w : Nat) (d : Word) (y : BitVec 7) : memWord (memPutWord m w d y) w = d := by
  have hput (a : Nat) : memByte (memPutWord m w d y) a =
      if a = w + 3 then d.extractLsb' 24 8 else if a = w + 2 then d.extractLsb' 16 8
      else if a = w + 1 then d.extractLsb' 8 8 else if a = w then d.extractLsb' 0 8 else memByte m a := by
    unfold memPutWord
    rw [memByte_memPutSyn, memByte_memPut (memPut_wf (memPut_wf (memPut_wf h _ _) _ _) _ _),
      memByte_memPut (memPut_wf (memPut_wf h _ _) _ _), memByte_memPut (memPut_wf h _ _), memByte_memPut h]
  simp only [memWord, hput]
  simpa using word_of_bytes d

theorem memWord_memPutWord_of_ne {w a : Nat} (ha : a + 4 ≤ w ∨ w + 4 ≤ a) (d : Word) (y : BitVec 7) :
    memWord (memPutWord m w d y) a = memWord m a := by
  simp only [memWord]
  rw [memByte_memPutWord_of_ne h (by omega), memByte_memPutWord_of_ne h (by omega),
    memByte_memPutWord_of_ne h (by omega), memByte_memPutWord_of_ne h (by omega)]

end Memory

theorem memByte_memWrites_of_ne {l : List (Word × Bool)} : ∀ {m : Mem}, m.wf = true → ∀ {w a : Nat},
    a < w ∨ w + 4 * l.length ≤ a → memByte (memWrites m w l) a = memByte m a := by
  induction l with
  | nil => exact fun _ _ _ _ => rfl
  | cons e r ih =>
    intro m h w a ha
    rw [List.length_cons] at ha
    exact (ih (memPutWord_wf h _ _ _) (by omega)).trans (memByte_memPutWord_of_ne h (by omega) _ _)

theorem memWord_memWrites_below {l : List (Word × Bool)} {m : Mem} (h : m.wf = true) {w a : Nat} (ha : a + 4 ≤ w) :
    memWord (memWrites m w l) a = memWord m a := by
  simp only [memWord]
  rw [memByte_memWrites_of_ne h (by omega), memByte_memWrites_of_ne h (by omega), memByte_memWrites_of_ne h (by omega),
    memByte_memWrites_of_ne h (by omega)]

/-- Word `i` of a run reads as it was written. -/
theorem memWord_memWrites {l : List (Word × Bool)} : ∀ {m : Mem}, m.wf = true → ∀ {w i : Nat} (hi : i < l.length),
    memWord (memWrites m w l) (w + 4 * i) = l[i].1 := by
  induction l with
  | nil => exact fun _ _ _ hi => absurd hi (Nat.not_lt_zero _)
  | cons e r ih =>
    intro m h w i hi
    have hput := memPutWord_wf h w e.1 (if e.2 then 0x7F else 0)
    cases i with
    | zero => exact (memWord_memWrites_below hput (by omega)).trans (memWord_memPutWord_self h _ _ _)
    | succ i =>
      have hnext := ih hput (w := w + 4) (i := i) (by simpa using hi)
      rw [show w + 4 * (i + 1) = w + 4 + 4 * i by omega]
      exact hnext

/-! ## Elements packed into words (R170) -/

/-- Elements of `b` bits, the first lowest. -/
def packed (b : Nat) (l : List (Nat × Bool)) : Nat := l.foldr (fun e a => e.1 % 2 ^ b + 2 ^ b * a) 0

theorem packed_lt (b : Nat) (l : List (Nat × Bool)) : packed b l < 2 ^ (b * l.length) := by
  induction l with
  | nil => simp [packed]
  | cons e r ih =>
    have he : e.1 % 2 ^ b < 2 ^ b := Nat.mod_lt _ (Nat.two_pow_pos b)
    rw [packed, List.foldr_cons, ← packed, List.length_cons, Nat.mul_succ, Nat.pow_add, Nat.mul_comm (2 ^ (b * _))]
    calc e.1 % 2 ^ b + 2 ^ b * packed b r < 2 ^ b + 2 ^ b * packed b r := by omega
      _ = 2 ^ b * (packed b r + 1) := by ring
      _ ≤ 2 ^ b * 2 ^ (b * r.length) := Nat.mul_le_mul_left _ ih

theorem packed_field {b : Nat} {l : List (Nat × Bool)} {i : Nat} (hi : i < l.length) :
    packed b l / 2 ^ (i * b) % 2 ^ b = l[i].1 % 2 ^ b := by
  induction l generalizing i with
  | nil => exact absurd hi (Nat.not_lt_zero _)
  | cons e r ih =>
    rw [packed, List.foldr_cons, ← packed]
    cases i with
    | zero => simp [Nat.add_mul_mod_self_left]
    | succ i =>
      have he : e.1 % 2 ^ b < 2 ^ b := Nat.mod_lt _ (Nat.two_pow_pos b)
      rw [Nat.succ_mul, Nat.add_comm (i * b), Nat.pow_add, ← Nat.div_div_eq_div_mul,
        Nat.add_mul_div_left _ _ (Nat.two_pow_pos b), Nat.div_eq_of_lt he, Nat.zero_add]
      exact ih (by simpa using hi)

/-! ## Elements that follow one another (R186, R220) -/

theorem fmtBits_mul_per (f : Fmt) : fmtBits f * (32 / fmtBits f) = 32 := by
  rcases fmtBits_cases f with ⟨-, h⟩ | ⟨-, h | h | h⟩ <;> rw [h]

theorem per_pos (f : Fmt) : 0 < 32 / fmtBits f := by
  rcases fmtBits_cases f with ⟨-, h⟩ | ⟨-, h | h | h⟩ <;> rw [h] <;> decide

theorem fmtBits_pos (f : Fmt) : 0 < fmtBits f := by
  rcases fmtBits_cases f with ⟨-, h⟩ | ⟨-, h | h | h⟩ <;> rw [h] <;> decide

/-- Word and place in the word of an element. -/
theorem elemPlace (f : Fmt) (j : Nat) :
    j * fmtBits f / 32 = j / (32 / fmtBits f) ∧ j * fmtBits f % 32 = j % (32 / fmtBits f) * fmtBits f := by
  rcases fmtBits_cases f with ⟨-, h⟩ | ⟨-, h | h | h⟩ <;> rw [h] <;> omega

theorem flatBytes_eq (f : Fmt) (k : Nat) : flatBytes f k = 4 * ceilDiv k (32 / fmtBits f) := by
  unfold flatBytes ceilDiv
  rcases fmtBits_cases f with ⟨-, h⟩ | ⟨-, h | h | h⟩ <;> rw [h] <;> omega

theorem div_lt_ceilDiv {j k d : Nat} (hd : 0 < d) (hj : j < k) : j / d < ceilDiv k d := by
  unfold ceilDiv
  rw [Nat.div_lt_iff_lt_mul hd]
  have := Nat.div_add_mod (k + d - 1) d
  have := Nat.mod_lt (k + d - 1) hd
  rw [Nat.mul_comm]
  omega

/-- The word of an element is among the words read. -/
theorem elemWord_mem_flat (f : Fmt) (base : Nat) {j k : Nat} (hj : j < k) :
    elemWord f base j ∈ (List.range (flatBytes f k / 4)).map fun i => base + 4 * i := by
  refine List.mem_map.2 ⟨j / (32 / fmtBits f), List.mem_range.2 ?_, ?_⟩
  · rw [flatBytes_eq, Nat.mul_div_cancel_left _ (by decide)]
    exact div_lt_ceilDiv (per_pos f) hj
  · rw [elemWord, (elemPlace f j).1, Nat.mul_comm]

/-- Elements read from a core without errors are those of the activation buffer. -/
theorem flatRead_clean {s t : State} {n : Nat} {c : Core} (h : CoreBecomes s t n c) (hc : CoreClean c) (f : Fmt)
    (base k : Nat) : (flatRead n f base k t).1 = (List.range k).map (fun j => (actElem c f base j, false)) ∧
      CoreBecomes s (flatRead n f base k t).2 n c := by
  obtain ⟨hlook, hnext⟩ := coreGather_clean h hc ((List.range (flatBytes f k / 4)).map fun i => base + 4 * i)
  exact ⟨List.map_congr_left fun j hj =>
    elemIn_eq_actElem (hlook _ (elemWord_mem_flat f base (List.mem_range.1 hj))), hnext⟩

/-- The words in which elements are written. -/
def flatWords (f : Fmt) (l : List (Nat × Bool)) : List (Word × Bool) :=
  (List.range (ceilDiv l.length (32 / fmtBits f))).map fun i =>
    let part := (l.drop (i * (32 / fmtBits f))).take (32 / fmtBits f)
    (BitVec.ofNat 32 (packed (fmtBits f) part), part.any (·.2))

theorem flatWrite_eq (n : Nat) (f : Fmt) (base : Nat) (l : List (Nat × Bool)) (s : State) :
    flatWrite n f base l s = coreWrites n false base (flatWords f l) s := rfl

/-- An element that was written reads as its low bits. -/
theorem actElem_flatWords {c : Core} (h : c.act.wf = true) (f : Fmt) (base : Nat) (l : List (Nat × Bool)) {j : Nat}
    (hj : j < l.length) : actElem { c with act := memWrites c.act base (flatWords f l) } f base j =
      l[j].1 % 2 ^ fmtBits f := by
  set per := 32 / fmtBits f with hper
  have hmul : fmtBits f * per = 32 := fmtBits_mul_per f
  have hpos : 0 < per := per_pos f
  have hword : j / per < (flatWords f l).length := by
    simpa [flatWords] using div_lt_ceilDiv hpos hj
  set part := (l.drop (j / per * per)).take per with hpart
  have hlen : j % per < part.length := by
    have := Nat.div_add_mod j per
    have := Nat.mod_lt j hpos
    rw [hpart, List.length_take, List.length_drop, Nat.mul_comm]
    omega
  have hget : part[j % per] = l[j] := by
    simp only [hpart, List.getElem_take, List.getElem_drop]
    congr 1
    rw [Nat.mul_comm]
    exact Nat.div_add_mod j per
  have hval : memWord (memWrites c.act base (flatWords f l)) (base + 4 * (j / per)) =
      BitVec.ofNat 32 (packed (fmtBits f) part) := by
    rw [memWord_memWrites h hword]
    simp [flatWords, hpart, hper]
  have hsmall : packed (fmtBits f) part < 2 ^ 32 := by
    refine (packed_lt _ _).trans_le (Nat.pow_le_pow_right (by decide) ?_)
    calc fmtBits f * part.length ≤ fmtBits f * per := Nat.mul_le_mul_left _ (List.length_take_le ..)
      _ = 32 := hmul
  simp only [actElem, elemWord, (elemPlace f j).1, (elemPlace f j).2, ← hper, bitsOf]
  rw [Nat.mul_comm (j / per), hval, BitVec.toNat_ofNat, Nat.mod_eq_of_lt hsmall, Nat.shiftRight_eq_div_pow, ← hget,
    ← packed_field hlen]
  congr 2
  have := fmtBits_pos f
  omega

theorem flatWords_length (f : Fmt) (l : List (Nat × Bool)) : 4 * (flatWords f l).length = flatBytes f l.length := by
  rw [flatBytes_eq]
  simp [flatWords]

end Sys2Proof.Machine

namespace Sys2Proof.Machine

/-! ## The first source of a VEC (R220) -/

/-- Element `k` of SRC_A as it is read: its format, its code and whether it is poisoned. -/
def elemA (s : State) (n w k : Nat) : Fmt × Nat × Bool :=
  ((vecElem s n w k).1, (vecElem s n w k).2,
    vecAcc w && (accRow (coreAt s n) (bitsOf w 72 71 * 256 + vecAccRow w + k / 64)).poison)

/-- The elements of lines, each with its line's format. -/
def lineElems (l : List Line) : List (Fmt × Nat × Bool) := l.flatMap fun l => l.2.map fun e => (l.1, e)

theorem chunk_range_map {α : Type} (g : Nat → α) (k m : Nat) :
    chunk k ((List.range (m * k)).map g) m = (List.range m).map fun i => (List.range k).map fun j => g (i * k + j) := by
  refine List.map_congr_left fun i hi => ?_
  have hle : i * k + k ≤ m * k := by
    rw [← Nat.succ_mul]
    exact Nat.mul_le_mul_right k (List.mem_range.1 hi)
  refine List.ext_getElem (by simp; omega) fun j h1 h2 => ?_
  simp

/-- SRC_A of a core without errors. -/
theorem readA_clean {s : State} {n : Nat} (hc : CoreClean (coreAt s n)) (w : Nat) :
    lineElems (readA n w s).1 = (List.range (vecTotal w)).map (elemA s n w) ∧
      CoreBecomes s (readA n w s).2 n (coreAt s n) := by
  unfold readA
  cases hacc : vecAcc w
  · obtain ⟨hval, hnext⟩ := flatRead_clean (.refl s n) hc (fmtIn w) (vecA s n w) (vecTotal w)
    simp only [Bool.false_eq_true, if_false]
    refine ⟨?_, hnext⟩
    rw [hval, vecTotal, chunk_range_map, lineElems, List.map_map, List.flatMap_map]
    simp only [Function.comp_apply, List.map_map]
    refine (range_mul_map (fun i j => (fmtIn w, actElem (coreAt s n) (fmtIn w) (vecA s n w) (i * lineLen w + j), false))
      _ _).trans (List.map_congr_left fun e _ => ?_)
    simp [elemA, vecElem, hacc, Nat.div_add_mod']
  · have hread (i : Nat) : accRead n i s = (accRow (coreAt s n) i, s) := accRead_clean hc.1 i
    have hfold (l : List Nat) (acc : List Line) :
        l.foldl (fun (r : List Line × State) i =>
          let a := accRead n (bitsOf w 72 71 * 256 + vecAccRow w + i) r.2
          (r.1 ++ [(if a.1.fp then 7 else 8, (accVals a.1).map fun v => (v.toNat, a.1.poison))], a.2)) (acc, s) =
        (acc ++ l.map (fun i =>
          let a := accRow (coreAt s n) (bitsOf w 72 71 * 256 + vecAccRow w + i)
          (if a.fp then 7 else 8, (accVals a).map fun v => (v.toNat, a.poison))), s) := by
      induction l generalizing acc with
      | nil => simp
      | cons i l ih => simp [hread, ih]
    simp only [if_true, hfold]
    refine ⟨?_, .refl s n⟩
    rw [List.nil_append, lineElems, List.flatMap_map]
    simp only [accVals, List.map_map]
    refine (range_mul_map _ _ _).trans ?_
    rw [vecTotal, lineLen, hacc, if_pos rfl]
    refine List.map_congr_left fun e _ => ?_
    have hmod : e % 64 < 64 := Nat.mod_lt _ (by decide)
    simp [elemA, vecElem, hacc, accVals, List.getD_eq_getElem?_getD, hmod]

/-! ## Element-wise results (R162, R163, R186) -/

/-- A VEC whose body reads, and then counts and writes one element of DST for each of SRC_A. -/
def BodyWrites (body : Nat → Nat → State → State) (value : State → Nat → Nat → Nat → Nat) : Prop :=
  ∀ s n w, CoreClean (coreAt s n) → ∃ (u : State) (l : List (Nat × Bool)) (e : Ev),
    CoreBecomes s u n (coreAt s n) ∧ body n w s = countEv n e (flatWrite n (fmtOut w) (vecDst s n w) l u) ∧
    l.length = vecTotal w ∧ ∀ k (hk : k < l.length), l[k].1 = value s n w k

/-- Element `k` of DST after an element-wise operation. -/
def laneValue (op : LaneOp) (s : State) (n x k : Nat) : Nat :=
  let a := vecElem s n x k
  let b := if usesB x = true then actElem (coreAt s n) (fmtIn x) (vecB s n x) k else 0
  let d := if vecFunc x = 4 then actElem (coreAt s n) (fmtOut x) (vecDst s n x) k else 0
  if padsZero x k [a.2, b, d] = true then 0
  else (encodeLane (fmtOut x)
    (op a.1 (vecImm x) (decodeAny a.1 a.2) (decodeAny (fmtIn x) b) (decodeAny (fmtOut x) d))).1

/-- Element `k` of DST after the requantiser. -/
def requantValue (s : State) (n x k : Nat) : Nat :=
  let c := coreAt s n
  let a := vecElem s n x k
  let sh := signedOf 6 ((getAt 0 (vecSbase x + k % 64) c.scale).toNat % 64)
  let bias := if x.testBit 97 = true then memWord c.wgt (vecBias x + 4 * (k % 64)) else 0
  if padsZero x k [a.2] = true then 0 else (requantElem x a.1 a.2 sh bias).1

/-- A source that an operation may leave out: its elements, or none. -/
def optionalRead (p : Prop) [Decidable p] (n : Nat) (f : Fmt) (base k : Nat) (s : State) : List (Nat × Bool) × State :=
  if p then flatRead n f base k s else ([], s)

theorem optionalRead_clean {s t : State} {n : Nat} {c : Core} (h : CoreBecomes s t n c) (hc : CoreClean c) (p : Prop)
    [Decidable p] (f : Fmt) (base k : Nat) :
    (∀ j < k, (optionalRead p n f base k t).1.getD j (0, false) = (if p then actElem c f base j else 0, false)) ∧
      CoreBecomes s (optionalRead p n f base k t).2 n c := by
  obtain ⟨hval, hnext⟩ := flatRead_clean h hc f base k
  unfold optionalRead
  split
  · refine ⟨fun j hj => ?_, hnext⟩
    rw [hval]
    simp [List.getD_eq_getElem?_getD, hj]
  · exact ⟨fun _ _ => rfl, h⟩

/-- What an operation gives for each element of SRC_A, by the element's number. -/
def elemResults (f : Nat → Fmt × Nat × Bool → (Nat × Bool) × Ev) (l : List Line) : List ((Nat × Bool) × Ev) :=
  ((List.range (lineElems l).length).zip (lineElems l)).map fun x => f x.1 x.2

theorem elemResults_clean {s : State} {n w : Nat} (hc : CoreClean (coreAt s n))
    (f : Nat → Fmt × Nat × Bool → (Nat × Bool) × Ev) :
    (elemResults f (readA n w s).1).map (·.1) = (List.range (vecTotal w)).map fun k => (f k (elemA s n w k)).1 := by
  rw [elemResults, (readA_clean hc w).1]
  refine List.ext_getElem (by simp) fun k h1 h2 => ?_
  simp

/-- A body that writes its results for the elements of SRC_A, after reads that change nothing. -/
theorem bodyWrites_elemResults {s u : State} {n w : Nat} {body : State} {value : Nat → Nat}
    {f : Nat → Fmt × Nat × Bool → (Nat × Bool) × Ev} (hc : CoreClean (coreAt s n)) (hu : CoreBecomes s u n (coreAt s n))
    (hbody : body = let outs := elemResults f (readA n w s).1
      countEv n (outs.foldl (fun e o => e.plus o.2) noEv) (flatWrite n (fmtOut w) (vecDst s n w) (outs.map (·.1)) u))
    (hf : ∀ k < vecTotal w, (f k (elemA s n w k)).1.1 = value k) :
    ∃ (u : State) (l : List (Nat × Bool)) (e : Ev),
      CoreBecomes s u n (coreAt s n) ∧ body = countEv n e (flatWrite n (fmtOut w) (vecDst s n w) l u) ∧
      l.length = vecTotal w ∧ ∀ k (hk : k < l.length), l[k].1 = value k := by
  refine ⟨u, (List.range (vecTotal w)).map fun k => (f k (elemA s n w k)).1,
    (elemResults f (readA n w s).1).foldl (fun e o => e.plus o.2) noEv, hu, ?_, by simp, fun k hk => ?_⟩
  · rw [hbody, ← elemResults_clean hc]
  · rw [List.getElem_map, List.getElem_range]
    exact hf k (by simpa using hk)

/-- One element through an operation: `b` and `d` are what was read of the other sources. -/
def laneResult (op : LaneOp) (w : Nat) (b d : List (Nat × Bool)) (k : Nat) (x : Fmt × Nat × Bool) : (Nat × Bool) × Ev :=
  let y := b.getD k (0, false)
  let z := d.getD k (0, false)
  let r := if padsZero w k [x.2.1, y.1, z.1] then (0, noEv)
    else encodeLane (fmtOut w)
      (op x.1 (vecImm w) (decodeAny x.1 x.2.1) (decodeAny (fmtIn w) y.1) (decodeAny (fmtOut w) z.1))
  ((r.1, x.2.2 || y.2 || z.2), r.2)

/-- SRC_B of an element-wise operation, and what is there before at DST. -/
def laneReads (n w : Nat) (s : State) : (List (Nat × Bool) × List (Nat × Bool)) × State :=
  let b := optionalRead (usesB w = true) n (fmtIn w) (vecB s n w) (vecTotal w) (readA n w s).2
  let d := optionalRead (vecFunc w = 4) n (fmtOut w) (vecDst s n w) (vecTotal w) b.2
  ((b.1, d.1), d.2)

theorem runLanes_eq (op : LaneOp) (n w : Nat) (s : State) : runLanes op n w s =
    let r := laneReads n w s
    let outs := elemResults (laneResult op w r.1.1 r.1.2) (readA n w s).1
    countEv n (outs.foldl (fun e o => e.plus o.2) noEv)
      (flatWrite n (fmtOut w) (vecDst s n w) (outs.map (·.1)) r.2) := rfl

theorem bodyWrites_runLanes (op : LaneOp) : BodyWrites (runLanes op) (laneValue op) := by
  intro s n w hc
  obtain ⟨-, ha⟩ := readA_clean hc w
  obtain ⟨hb, hbnext⟩ := optionalRead_clean ha hc (usesB w = true) (fmtIn w) (vecB s n w) (vecTotal w)
  obtain ⟨hd, hdnext⟩ := optionalRead_clean hbnext hc (vecFunc w = 4) (fmtOut w) (vecDst s n w) (vecTotal w)
  refine bodyWrites_elemResults hc hdnext (runLanes_eq op n w s) fun k hk => ?_
  simp only [laneReads, laneResult, hb k hk, hd k hk, elemA, laneValue]
  exact apply_ite Prod.fst ..

/-- One element through the requantiser: `sc` and `bi` are the SH and the biases of the columns. -/
def requantResult (w : Nat) (sc : List (Int × Bool)) (bi : List (Word × Bool)) (k : Nat) (x : Fmt × Nat × Bool) :
    (Nat × Bool) × Ev :=
  let sh := sc.getD (k % 64) (0, false)
  let b := bi.getD (k % 64) (0, false)
  let r := if padsZero w k [x.2.1] then (0, noEv) else requantElem w x.1 x.2.1 sh.1 b.1
  ((r.1, x.2.2 || sh.2 || b.2), r.2)

/-- Byte `i` of a word of four bytes. -/
theorem bitsOf_word (x0 x1 x2 x3 : Byte) {i : Nat} (hi : i < 4) :
    bitsOf (x3 ++ x2 ++ x1 ++ x0 : Word).toNat (8 * i + 7) (8 * i) = [x0, x1, x2, x3][i].toNat := by
  rw [bitsOf, show 8 * i + 7 + 1 - 8 * i = 8 by omega, ← BitVec.extractLsb'_toNat]
  congr 1
  refine BitVec.eq_of_getLsbD_eq fun j hj => ?_
  simp only [BitVec.getLsbD_extractLsb', BitVec.getLsbD_append, hj, decide_true, Bool.true_and]
  interval_cases i
  · rw [if_pos (by omega)]; simp
  · rw [if_neg (by omega), if_pos (by omega)]; simp
  · rw [if_neg (by omega), if_neg (by omega), if_pos (by omega)]; simp; congr 1; omega
  · rw [if_neg (by omega), if_neg (by omega), if_neg (by omega)]; simp; congr 1; omega

theorem signedOf_mod (w v : Nat) : signedOf w (v % 2 ^ w) = signedOf w v := by
  simp only [signedOf, Nat.mod_mod]

/-- A scale entry of a core without errors (R161). -/
theorem scaleRead_clean {s : State} {n : Nat} (h : (coreAt s n).syn = []) (b : Nat) :
    scaleRead n b s = (signedOf 6 ((getAt 0 b (coreAt s n).scale).toNat % 64), false, s) := by
  have hsyn : coreSyn (coreAt s n) 5 (4 * (b / 4)) = 0 := by rw [coreSyn, h]; rfl
  have hlt : b % 4 < 4 := Nat.mod_lt _ (by decide)
  have hbyte (i : Nat) (hi : i < 4) :
      [getAt 0 (4 * (b / 4) + 0) (coreAt s n).scale, getAt 0 (4 * (b / 4) + 1) (coreAt s n).scale,
        getAt 0 (4 * (b / 4) + 2) (coreAt s n).scale, getAt 0 (4 * (b / 4) + 3) (coreAt s n).scale][i] =
      getAt 0 (4 * (b / 4) + i) (coreAt s n).scale := by
    interval_cases i <;> rfl
  simp only [scaleRead, coreWord_clean hsyn, bitsOf_word _ _ _ _ hlt, hbyte _ hlt, Nat.div_add_mod]
  rw [show (64 : Nat) = 2 ^ 6 from rfl, signedOf_mod]

theorem scaleRow_clean {s t : State} {n : Nat} {c : Core} (h : CoreBecomes s t n c) (hc : CoreClean c) (w : Nat) :
    scaleRow n w t = ((List.range 64).map fun k =>
      (signedOf 6 ((getAt 0 (vecSbase w + k) c.scale).toNat % 64), false), t) := by
  have hread (b : Nat) : scaleRead n b t = (signedOf 6 ((getAt 0 b c.scale).toNat % 64), false, t) := by
    rw [scaleRead_clean (h.core ▸ hc.1), h.core]
  have hfold (l : List Nat) (acc : List (Int × Bool)) :
      l.foldl (fun (r : List (Int × Bool) × State) k =>
        let x := scaleRead n (vecSbase w + k) r.2
        (r.1 ++ [(x.1, x.2.1)], x.2.2)) (acc, t) =
      (acc ++ l.map fun k => (signedOf 6 ((getAt 0 (vecSbase w + k) c.scale).toNat % 64), false), t) := by
    induction l generalizing acc with
    | nil => simp
    | cons k l ih => simp [hread, ih]
  exact hfold _ []

theorem biasRow_clean {s t : State} {n : Nat} {c : Core} (h : CoreBecomes s t n c) (hc : CoreClean c) (w : Nat) :
    (∀ k < 64, (biasRow n w t).1.getD k (0, false) =
      (if w.testBit 97 = true then memWord c.wgt (vecBias w + 4 * k) else 0, false)) ∧
      CoreBecomes s (biasRow n w t).2 n c := by
  obtain ⟨hval, hnext⟩ := coreReads_clean h hc true (vecBias w) 64
  unfold biasRow
  split
  · refine ⟨fun k hk => ?_, hnext⟩
    rw [hval]
    simp [List.getD_eq_getElem?_getD, hk]
  · exact ⟨fun _ hk => List.getD_replicate _ hk, h⟩

theorem requantise_eq (n w : Nat) (s : State) : requantise n w s =
    let sc := scaleRow n w (readA n w s).2
    let bi := biasRow n w sc.2
    let outs := elemResults (requantResult w sc.1 bi.1) (readA n w s).1
    countEv n (outs.foldl (fun e o => e.plus o.2) noEv)
      (flatWrite n (fmtOut w) (vecDst s n w) (outs.map (·.1)) bi.2) := rfl

theorem bodyWrites_requantise : BodyWrites requantise requantValue := by
  intro s n w hc
  obtain ⟨-, ha⟩ := readA_clean hc w
  obtain ⟨hb, hbnext⟩ := biasRow_clean ha hc w
  refine bodyWrites_elemResults (u := (biasRow n w (scaleRow n w (readA n w s).2).2).2) hc ?_ (requantise_eq n w s)
    fun k hk => ?_
  · rwa [scaleRow_clean ha hc]
  · have hmod : k % 64 < 64 := Nat.mod_lt _ (by decide)
    have hsh : ((List.range 64).map fun k => (signedOf 6 ((getAt 0 (vecSbase w + k) (coreAt s n).scale).toNat % 64),
        false)).getD (k % 64) (0, false) =
        (signedOf 6 ((getAt 0 (vecSbase w + k % 64) (coreAt s n).scale).toNat % 64), false) := by
      simp [List.getD_eq_getElem?_getD, hmod]
    simp only [scaleRow_clean ha hc, requantResult, hb _ hmod, hsh, elemA, requantValue]
    exact apply_ite Prod.fst ..

/-! ## Element-wise rows (R220) -/

/-- A row of an element-wise VEC: it writes its values at DST, and beside them only counts. -/
def RowWrites (i : BitVec 7 → BitVec 128 → Instr) (value : State → Nat → Nat → Nat → Nat) : Prop :=
  ∀ (s : State) (core : BitVec 7) (w : BitVec 128),
    let n := core.toNat
    let x := w.toNat
    let c := coreAt s n
    Issues s n x → CoreClean c → wellFormed (i core w) = true →
      ∃ t, exec (i core w) s = .next t ∧ OnlyCore s t n ∧
        coreAt t n = { c with
          act := (coreAt t n).act, cnt := (coreAt t n).cnt, seq := { c.seq with pc := nextPc c.seq } } ∧
        (∀ p, p ∈ vecDests s n x → ∀ a, a < p.1 ∨ p.2 ≤ a → memByte (coreAt t n).act a = memByte c.act a) ∧
        ∀ k, k < vecTotal x →
          actElem (coreAt t n) (fmtOut x) (vecDst s n x) k = value s n x k % 2 ^ fmtBits (fmtOut x)

/-- The functions of the element-wise rows come first in R220. -/
theorem vecDests_elementwise {s : State} {n x : Nat} (h : vecFunc x ≤ 0x20) :
    vecDests s n x = [(vecDst s n x, vecDst s n x + flatBytes (fmtOut x) (vecTotal x))] := by
  have ht : isTensorFunc x = false := by
    rw [isTensorFunc, ← Bool.not_eq_true, List.contains_iff_mem]
    intro hm
    simp only [List.mem_cons, List.not_mem_nil, or_false] at hm
    omega
  unfold vecDests
  dsimp only
  rw [if_neg (by omega), if_neg (by omega), if_neg (by omega), if_neg (by omega), if_neg (by omega), ht]
  rfl

theorem issues_vec {s : State} {n x : Nat} (h : insnOp x = 6) : issues s n x = vecReady s n x := by
  simp only [issues, h]

theorem checksOf_vec {x : Nat} (h : insnOp x = 6) : checksOf x = checkVec := by simp only [checksOf, h]

/-- The word of a well-formed row is a VEC with the row's FUNC. -/
theorem vec_of_wellFormed {w : BitVec 128} {func : Nat} (h : (tileOp w == 6 && tileField w 8 8 == func) = true) :
    insnOp w.toNat = 6 ∧ vecFunc w.toNat = func := by
  simp only [Bool.and_eq_true, beq_iff_eq] at h
  exact ⟨h.1, (bitsOf_eq_tileField w 8 8 (by decide)).trans h.2⟩

/-- A row whose body writes a value for each element. -/
theorem rowWrites_of_body {i : BitVec 7 → BitVec 128 → Instr} {func : Nat} {body : Nat → Nat → State → State}
    {value : State → Nat → Nat → Nat → Nat} (hbody : BodyWrites body value) (hfunc : func ≤ 0x20)
    (hwf : ∀ core w, wellFormed (i core w) = (tileOp w == 6 && tileField w 8 8 == func))
    (hexec : ∀ core w s, exec (i core w) s = vecStep func body core w s) : RowWrites i value := by
  intro s core w n x c hissues hc hw
  obtain ⟨hop, hf⟩ := vec_of_wellFormed (hwf core w ▸ hw)
  obtain ⟨u, l, e, hu, hrun, hlen, hval⟩ := hbody s n x hc
  have hwrite := ((hu.coreWrites (vecDst s n x) (flatWords (fmtOut x) l)).countEv e).advance
  have hstep : exec (i core w) s = .next (advance n (countEv n e (coreWrites n false (vecDst s n x)
      (flatWords (fmtOut x) l) u))) := by
    rw [hexec, vecStep, tileStep_issues hissues (decide_eq_true ⟨hop, hf⟩) (checksOf_vec hop) (issues_vec hop).symm,
      withProg_clean hc.1, hrun]
    rfl
  refine ⟨_, hstep, hwrite.only, by rw [hwrite.core], fun p hp a ha => ?_, fun k hk => ?_⟩
  · rw [vecDests_elementwise (hf.trans_le hfunc), List.mem_singleton] at hp
    subst hp
    rw [hwrite.core]
    refine memByte_memWrites_of_ne hc.2.1 ?_
    rwa [flatWords_length, hlen]
  · have hk' : k < l.length := hlen ▸ hk
    rw [← hval k hk', ← actElem_flatWords hc.2.1 (fmtOut x) (vecDst s n x) l hk', hwrite.core]
    rfl

/-- A row of one operation, by its FUNC. -/
theorem rowWrites_lane {i : BitVec 7 → BitVec 128 → Instr} {op : LaneOp} (func : Nat) (hfunc : func ≤ 0x20 := by decide)
    (hwf : ∀ core w, wellFormed (i core w) = (tileOp w == 6 && tileField w 8 8 == func) := by exact fun _ _ => rfl)
    (hexec : ∀ core w s, exec (i core w) s = vecStep func (runLanes op) core w s := by exact fun _ _ _ => rfl) :
    RowWrites i (laneValue op) :=
  rowWrites_of_body (bodyWrites_runLanes op) hfunc hwf hexec

theorem rowWrites_requantise : RowWrites .vecRequantise requantValue :=
  rowWrites_of_body bodyWrites_requantise (Nat.zero_le _) (fun _ _ => rfl) fun _ _ _ => rfl

/-- Settles O43: each row's body writes its values, by the lemma for its operation. -/
theorem elementwiseVecWritesItsLanes : Obligations.ElementwiseVecWritesItsLanes :=
  ⟨rowWrites_requantise, rowWrites_lane 0x01, rowWrites_lane 0x02, rowWrites_lane 0x03, rowWrites_lane 0x04,
    rowWrites_lane 0x05, rowWrites_lane 0x06, rowWrites_lane 0x08, rowWrites_lane 0x09, rowWrites_lane 0x0A,
    rowWrites_lane 0x0B, rowWrites_lane 0x0C, rowWrites_lane 0x0D, rowWrites_lane 0x10, rowWrites_lane 0x11,
    rowWrites_lane 0x12, rowWrites_lane 0x13, rowWrites_lane 0x14, rowWrites_lane 0x18, rowWrites_lane 0x19,
    rowWrites_lane 0x1A, rowWrites_lane 0x1B, rowWrites_lane 0x1C, rowWrites_lane 0x1D, rowWrites_lane 0x1E,
    rowWrites_lane 0x1F, rowWrites_lane 0x20⟩

end Sys2Proof.Machine

namespace Sys2Proof.Machine

/-! ## The buffers of every core stay in canonical form (O60)

One lemma for each function of the model that gives a state, in the order of the model's files: where the buffers are
canonical before, they are after. Most functions leave the cores as they are, or set fields of a core other than its
buffers. What is not routine stands in a few places: the operations on memory, the resets, and what reads and writes the
words of a buffer. -/

/-- The activation and weight buffers of a core are in canonical form. -/
def CoreWf (c : Core) : Prop := c.act.wf = true ∧ c.wgt.wf = true

/-- The buffers of every listed core are in canonical form. -/
structure CoresWf (s : State) : Prop where
  all : ∀ e ∈ s.cores, CoreWf e.2

section CoreBuffers
variable {α β γ : Type} {s t : State}

theorem mem_putAt {k : Nat} {v : α} {e : Nat × α} {m : List (Nat × α)} (h : e ∈ putAt k v m) : e = (k, v) ∨ e ∈ m := by
  induction m with
  | nil => exact .inl (List.mem_singleton.1 h)
  | cons x r ih =>
    unfold putAt at h
    split at h
    · exact List.mem_cons.1 h
    · split at h
      · exact (List.mem_cons.1 h).imp_right (List.mem_cons_of_mem _)
      · rcases List.mem_cons.1 h with rfl | h
        · exact .inr List.mem_cons_self
        · exact (ih h).imp_right (List.mem_cons_of_mem _)

theorem getAt_mem_or (d : α) (k : Nat) (m : List (Nat × α)) : (∃ e ∈ m, getAt d k m = e.2) ∨ getAt d k m = d := by
  induction m with
  | nil => exact .inr rfl
  | cons x r ih =>
    unfold getAt
    split
    · exact .inl ⟨x, List.mem_cons_self, rfl⟩
    · exact ih.imp_left fun ⟨e, he, heq⟩ => ⟨e, List.mem_cons_of_mem _ he, heq⟩

/-- The buffers of a core that nothing has written. -/
theorem coreWf_empty {c : Core} {i j g k : Nat} (ha : c.act = { id := i, gen := g }) (hw : c.wgt = { id := j, gen :=
  k }) :
    CoreWf c := by
  unfold CoreWf
  rw [ha, hw]
  exact ⟨rfl, rfl⟩

theorem CoreWf.buffer {c : Core} (h : CoreWf c) (wgt : Bool) : (if wgt then c.wgt else c.act).wf = true := by
  cases wgt
  · exact h.1
  · exact h.2

theorem CoreWf.withBuffer {c : Core} {wgt : Bool} {m : Mem} (h : CoreWf c) (hm : m.wf = true) :
    CoreWf (if wgt then { c with wgt := m } else { c with act := m }) := by
  cases wgt
  · exact ⟨hm, h.2⟩
  · exact ⟨h.1, hm⟩

/-- The buffers of `d` are those of `c`. -/
def SameBuffers (c d : Core) : Prop := (d.act, d.wgt) = (c.act, c.wgt)

theorem sameBuffers_foldl {f : Core → α → Core} (hf : ∀ c a, SameBuffers c (f c a)) {l : List α} {c : Core} :
    SameBuffers c (l.foldl f c) := by
  induction l generalizing c with
  | nil => rfl
  | cons a r ih => exact (ih (c := f c a)).trans (hf c a)

namespace CoresWf

/-- Every field but the cores may change. -/
theorem same {now free glb cmd streams frames dests sheaves ports flow pools decEng prepEng encEng refuseLimit
      taintWeight wcs tags bell trk nets jobs clips nextClip clipAreaUsed tests mem flt pwr link slot board tel fw cyc
      clusterSram securitySram psram out pending} (h : CoresWf s) : CoresWf { s with
      now, free, glb, cmd, streams, frames, dests, sheaves, ports, flow, pools, decEng, prepEng, encEng,
      refuseLimit, taintWeight, wcs, tags, bell, trk, nets, jobs, clips, nextClip, clipAreaUsed, tests, mem,
      flt, pwr, link, slot, board, tel, fw, cyc, clusterSram, securitySram, psram, out, pending } := ⟨h.all⟩

theorem coreAt (h : CoresWf s) (n : Nat) : CoreWf (coreAt s n) := by
  rcases getAt_mem_or {} n s.cores with ⟨e, he, heq⟩ | heq
  · exact (congrArg CoreWf heq).mpr (h.all e he)
  · exact (congrArg CoreWf heq).mpr ⟨rfl, rfl⟩

protected theorem setCore {n : Nat} {v : Core} (h : CoresWf s) (hv : CoreWf v) : CoresWf (setCore n v s) := by
  refine ⟨fun e he => ?_⟩
  rcases mem_putAt he with rfl | he
  · exact hv
  · exact h.all e he

/-- Fields of a core other than its buffers change. -/
theorem setFields {n : Nat} {v : Core} (h : CoresWf s) (hv : SameBuffers (Machine.coreAt s n) v) :
    CoresWf (Machine.setCore n v s) := by
  obtain ⟨hact, hwgt⟩ := Prod.mk.inj hv
  refine h.setCore ?_
  unfold CoreWf
  rw [hact, hwgt]
  exact h.coreAt n

/-- Every core changes, and the buffers of each stay canonical. -/
theorem mapped {f : Core → Core} (h : CoresWf s) (hf : ∀ c, CoreWf c → CoreWf (f c)) (ht : t.cores = mapAt f s.cores) :
    CoresWf t := by
  refine ⟨fun e he => ?_⟩
  rw [ht] at he
  obtain ⟨x, hx, rfl⟩ := List.mem_map.1 he
  exact hf x.2 (h.all x hx)

theorem ite {c : Prop} {i : Decidable c} (hs : CoresWf s) (ht : CoresWf t) : CoresWf (if c then s else t) := by
  split
  · exact hs
  · exact ht

theorem ite_1 {c : Prop} {i : Decidable c} {x y : State × β} (hx : CoresWf x.1) (hy : CoresWf y.1) :
    CoresWf (if c then x else y).1 := by
  split
  · exact hx
  · exact hy

theorem ite_2 {c : Prop} {i : Decidable c} {x y : β × State} (hx : CoresWf x.2) (hy : CoresWf y.2) :
    CoresWf (if c then x else y).2 := by
  split
  · exact hx
  · exact hy

theorem ite_2_2 {c : Prop} {i : Decidable c} {x y : β × γ × State} (hx : CoresWf x.2.2) (hy : CoresWf y.2.2) :
    CoresWf (if c then x else y).2.2 := by
  split
  · exact hx
  · exact hy

theorem fst {b : β} (h : CoresWf s) : CoresWf (s, b).1 := h

theorem snd {b : β} (h : CoresWf s) : CoresWf (b, s).2 := h

theorem thd {b : β} {c : γ} (h : CoresWf s) : CoresWf (b, c, s).2.2 := h

theorem foldl {f : State → α → State} {l : List α} (h : CoresWf s) (hf : ∀ s a, CoresWf s → CoresWf (f s a)) :
    CoresWf (l.foldl f s) := by
  induction l generalizing s with
  | nil => exact h
  | cons a r ih => exact ih (hf s a h)

theorem foldl_2 {f : β × State → α → β × State} {x : β × State} {l : List α} (h : CoresWf x.2)
    (hf : ∀ x a, CoresWf x.2 → CoresWf (f x a).2) : CoresWf (l.foldl f x).2 := by
  induction l generalizing x with
  | nil => exact h
  | cons a r ih => exact ih (hf x a h)

theorem foldl_2_2 {f : β × γ × State → α → β × γ × State} {x : β × γ × State} {l : List α} (h : CoresWf x.2.2)
    (hf : ∀ x a, CoresWf x.2.2 → CoresWf (f x a).2.2) : CoresWf (l.foldl f x).2.2 := by
  induction l generalizing x with
  | nil => exact h
  | cons a r ih => exact ih (hf x a h)

/-- The accumulator is a pair that each step builds anew. -/
theorem foldl_pair {g : β × State → α → β} {f : β × State → α → State} {x : β × State} {l : List α} (h : CoresWf x.2)
    (hf : ∀ x a, CoresWf x.2 → CoresWf (f x a)) : CoresWf (l.foldl (fun x a => (g x a, f x a)) x).2 := h.foldl_2 hf

theorem foldl_triple {g : β × γ × State → α → β} {k : β × γ × State → α → γ} {f : β × γ × State → α → State}
    {x : β × γ × State} {l : List α} (h : CoresWf x.2.2) (hf : ∀ x a, CoresWf x.2.2 → CoresWf (f x a)) :
    CoresWf (l.foldl (fun x a => (g x a, k x a, f x a)) x).2.2 := h.foldl_2_2 hf

/-- A state that a result names is the one the result carries. -/
theorem of_eq_2 {x : β × State} {b : β} (h : CoresWf x.2) (e : x = (b, t)) : CoresWf t := by
  rwa [e] at h

theorem of_eq_2_2 {x : β × γ × State} {b : β} {c : γ} (h : CoresWf x.2.2) (e : x = (b, c, t)) : CoresWf t := by
  rwa [e] at h

end CoresWf

/-- A result that, where it is a next state, has its buffers in canonical form. -/
def KeepsCoresWf (r : Res) : Prop := ∀ t, r = .next t → CoresWf t

theorem KeepsCoresWf.next (h : CoresWf s) : KeepsCoresWf (.next s) := fun _ e => Host.Outcome.next.inj e ▸ h

theorem KeepsCoresWf.fault {e : Fault} : KeepsCoresWf (.fault e) := fun _ h => nomatch h

theorem KeepsCoresWf.ite {c : Prop} {i : Decidable c} {x y : Res} (hx : KeepsCoresWf x) (hy : KeepsCoresWf y) :
    KeepsCoresWf (if c then x else y) := by
  split
  · exact hx
  · exact hy

/-! ### Machine/Flags -/

protected theorem CoresWf.hwSet {o b : Nat} (h : CoresWf s) : CoresWf (hwSet o b s) := h.same

protected theorem CoresWf.hwPeak {o v : Nat} (h : CoresWf s) : CoresWf (hwPeak o v s) := h.same

protected theorem CoresWf.updateWire (h : CoresWf s) : CoresWf (updateWire s) := by
  unfold Machine.updateWire
  exact .ite (.ite h.same h) (.ite h.same h)

protected theorem CoresWf.dropWire (h : CoresWf s) : CoresWf (dropWire s) := .ite h.same h

protected theorem CoresWf.restoreWire (h : CoresWf s) : CoresWf (restoreWire s) := .ite h.same h

/-! ### Machine/Ops -/

protected theorem CoresWf.setStream {c : Nat} {v : Stream} (h : CoresWf s) : CoresWf (setStream c v s) := h.same

protected theorem CoresWf.setSq {n : Nat} {v : SubRing} (h : CoresWf s) : CoresWf (setSq n v s) := h.same

protected theorem CoresWf.setCq {n : Nat} {v : ComRing} (h : CoresWf s) : CoresWf (setCq n v s) := h.same

protected theorem CoresWf.setMr {n : Nat} {v : MetaRing} (h : CoresWf s) : CoresWf (setMr n v s) := h.same

protected theorem CoresWf.setDec {n : Nat} {v : VidEngine} (h : CoresWf s) : CoresWf (setDec n v s) := h.same

protected theorem CoresWf.setPrep {n : Nat} {v : VidEngine} (h : CoresWf s) : CoresWf (setPrep n v s) := h.same

protected theorem CoresWf.setEnc {n : Nat} {v : EncEngine} (h : CoresWf s) : CoresWf (setEnc n v s) := h.same

protected theorem CoresWf.setPort {n : Nat} {v : Port} (h : CoresWf s) : CoresWf (setPort n v s) := h.same

protected theorem CoresWf.setDest {n : Nat} {v : DgDest} (h : CoresWf s) : CoresWf (setDest n v s) := h.same

protected theorem CoresWf.setNet {n : Nat} {v : Network} (h : CoresWf s) : CoresWf (setNet n v s) := h.same

protected theorem CoresWf.setWc {n : Nat} {v : WorkCounter} (h : CoresWf s) : CoresWf (setWc n v s) := h.same

protected theorem CoresWf.send {o : Output} (h : CoresWf s) : CoresWf (send o s) := h.same

protected theorem CoresWf.hostWrite {addr : Nat} {bytes : List Byte} (h : CoresWf s) :
    CoresWf (hostWrite addr bytes s) :=
  h.same

protected theorem CoresWf.hostWrites {addr : Nat} {bytes : List Byte} (h : CoresWf s) :
    CoresWf (hostWrites addr bytes s) :=
  h.foldl fun _ _ h => h.hostWrite

protected theorem CoresWf.leaveLow (h : CoresWf s) : CoresWf (leaveLow s) := .ite h.same h

protected theorem CoresWf.enterLow (h : CoresWf s) : CoresWf (enterLow s) := .ite h.same h

protected theorem CoresWf.pmeD3hot (h : CoresWf s) : CoresWf (pmeD3hot s) :=
  .ite (.ite h.same (CoresWf.leaveLow h.same)) h

protected theorem CoresWf.recordFault {r : FaultRec} (h : CoresWf s) : CoresWf (recordFault r s) := by
  unfold Machine.recordFault
  exact .ite h.same (.ite (.updateWire (.pmeD3hot (.hwSet (.leaveLow h.same)))) (.leaveLow h.same))

protected theorem CoresWf.faultSimple {code scope : Nat} (h : CoresWf s) : CoresWf (faultSimple code scope s) :=
  h.recordFault

protected theorem CoresWf.reportEcc {memory scope : Nat} {e : EccEvent} (h : CoresWf s) :
    CoresWf (reportEcc memory scope s e) := by
  unfold Machine.reportEcc
  dsimp only
  split
  · exact h
  · exact h.same
  · exact .ite (.recordFault (.ite (.recordFault (.same h.same)) (.same h.same)))
      (.ite (.recordFault (.same h.same)) (.same h.same))
  · exact .ite (.same h.same) (.recordFault (.same h.same))

protected theorem CoresWf.reportEccs {memory scope : Nat} {es : List EccEvent} (h : CoresWf s) :
    CoresWf (reportEccs memory scope es s) := h.foldl fun _ _ h => h.reportEcc

protected theorem CoresWf.notePcUe {a : Nat} (h : CoresWf s) : CoresWf (notePcUe a s) := .ite h.same h

protected theorem CoresWf.losePc {p : Nat} (h : CoresWf s) : CoresWf (losePc p s) :=
  .ite (.ite h (.ite h.recordFault h.recordFault.same)) (.updateWire (.recordFault (.hwSet h.same)))

protected theorem CoresWf.reportDpa {scope : Nat} {es : List EccEvent} (h : CoresWf s) :
    CoresWf (reportDpa scope es s) :=
  h.foldl fun _ _ h => .ite (.ite h.reportEcc.notePcUe.losePc h.reportEcc.notePcUe) h.reportEcc

protected theorem CoresWf.faultDpa (h : CoresWf s) : CoresWf (faultDpa s) := h.recordFault

protected theorem CoresWf.dpaReads {scope a n : Nat} (h : CoresWf s) : CoresWf (dpaReads scope a n s).2 := by
  induction n generalizing a s with
  | zero => exact h
  | succ n ih =>
    refine ih (.ite_2 h.faultDpa ?_)
    split
    · exact h
    · exact CoresWf.reportDpa h.same

protected theorem CoresWf.dpaWrites {a : Nat} {l : List (Word × Bool)} (h : CoresWf s) : CoresWf (dpaWrites a l s) := by
  induction l generalizing a s with
  | nil => exact h
  | cons e r ih => exact ih (h.faultDpa.ite h.same)

protected theorem CoresWf.dpaBytes {scope a n : Nat} (h : CoresWf s) : CoresWf (dpaBytes scope a n s).2.2 := h.dpaReads

protected theorem CoresWf.dpaStore {a : Nat} {l : List Byte} (h : CoresWf s) : CoresWf (dpaStore a l s) := h.dpaWrites

protected theorem CoresWf.noteEntry (h : CoresWf s) : CoresWf (noteEntry s) := h.same

protected theorem CoresWf.writeReply {n : Nat} {r : Reply} (h : CoresWf s) : CoresWf (writeReply n r s) :=
  .ite (.updateWire (.noteEntry (.hwSet h.hostWrite.setCq.same))) h.hostWrite.setCq

protected theorem CoresWf.drainReplies {n : Nat} {l : List Reply} (h : CoresWf s) : CoresWf (drainReplies n l s) := by
  induction l generalizing s with
  | nil => exact h.setCq
  | cons r rs ih => exact (ih h.writeReply).ite h.setCq

protected theorem CoresWf.flushCq {n : Nat} (h : CoresWf s) : CoresWf (flushCq n s) := h.drainReplies

protected theorem CoresWf.pushReply {r : Reply} (h : CoresWf s) : CoresWf (pushReply r s) := h.drainReplies

protected theorem CoresWf.flushAllCq (h : CoresWf s) : CoresWf (flushAllCq s) := h.foldl fun _ _ h => h.flushCq

protected theorem CoresWf.releaseReplies {ring : BitVec 6} {l : List Outstanding} {blocked : Bool} (h : CoresWf s) :
    CoresWf (releaseReplies ring l blocked s) := by
  induction l generalizing blocked s with
  | nil => exact h
  | cons o os ih =>
    unfold Machine.releaseReplies
    refine .ite ?_ (ih h.same)
    split
    · exact .ite (ih h.same) (.ite (ih h) (ih h.pushReply))
    · exact ih h.same

protected theorem CoresWf.releaseRing {ring : BitVec 6} (h : CoresWf s) : CoresWf (releaseRing ring s) :=
  .releaseReplies h.same

protected theorem CoresWf.finish {cmd : BitVec 6 × BitVec 16} {r : Reply} (h : CoresWf s) : CoresWf (finish cmd r s) :=
  .releaseRing h.same

protected theorem CoresWf.finishAll {cmds : List (BitVec 6 × BitVec 16)} {r : Reply} (h : CoresWf s) :
    CoresWf (finishAll cmds r s) := h.foldl fun _ _ h => h.finish

protected theorem CoresWf.finishCause {w : WaitCause} {r : Reply} (h : CoresWf s) : CoresWf (finishCause w r s) :=
  h.finishAll

protected theorem CoresWf.enterOos {code : Nat} (h : CoresWf s) : CoresWf (enterOos code s) := .ite h h.same

protected theorem CoresWf.wakeDomain {d : Nat} (h : CoresWf s) : CoresWf (wakeDomain d s) := by
  unfold Machine.wakeDomain
  dsimp only
  refine .ite ?_ ?_
  · split
    · exact h.same
    · exact h
  · exact h.same

protected theorem CoresWf.drawFree (h : CoresWf s) : CoresWf (drawFree s).2 := h.same

protected theorem CoresWf.setLevel {p v : Nat} (h : CoresWf s) : CoresWf (setLevel p v s) := h.same

protected theorem CoresWf.sendControl {n : Nat} {k : ControlOut} (h : CoresWf s) : CoresWf (sendControl n k s) :=
  .ite h (.ite h.setPort h.send)

protected theorem CoresWf.releaseTx {n : Nat} (h : CoresWf s) : CoresWf (releaseTx n s) :=
  .ite h (h.setPort.foldl fun _ _ h => h.send)

protected theorem CoresWf.psramStore {a : Nat} {l : List Byte} (h : CoresWf s) : CoresWf (psramStore a l s) := h.same

protected theorem CoresWf.meetPoison {u : UnitId} {b : Bool} (h : CoresWf s) : CoresWf (meetPoison u b s) :=
  .ite h.same h

/-! ### Machine/Operands -/

protected theorem CoresWf.fetch {ring : BitVec 6} (h : CoresWf s) : CoresWf (fetch ring s) := h.setSq

protected theorem CoresWf.wait_ {f : Fetched} {cause : WaitCause} (h : CoresWf s) : CoresWf (wait_ f cause s) := h.same

protected theorem CoresWf.answer {f : Fetched} {r : Reply} (h : CoresWf s) : CoresWf (answer f r s) :=
  h.wait_.releaseRing

/-- A packet is fetched, queued or answered, or its body runs. -/
theorem CoresWf.packetStep {mine : Packet → Bool} {ring : BitVec 6} {p : Packet} {body : Fetched → State → State}
    (h : CoresWf s) (hb : ∀ f s, CoresWf s → CoresWf (body f s)) : KeepsCoresWf (packetStep mine ring p body s) := by
  unfold Machine.packetStep
  dsimp only
  refine .ite .fault ?_
  split
  · exact .ite (.next h) (.next (hb _ _ h.same))
  · refine .ite (.next h) ?_
    split
    · exact .next h.fetch.answer
    · exact .next (h.fetch.wait_.ite (hb _ _ h.fetch))

protected theorem CoresWf.answerWrite {f : Fetched} {r : Reply} {addr : Nat} {bytes : List Byte} (h : CoresWf s) :
    CoresWf (answerWrite f r addr bytes s) := .ite h.answer (.ite h.answer h.hostWrites.answer)

/-! ### Machine/Streams -/

protected theorem CoresWf.setPoolUsed {n : Nat} {used : List (Nat × Nat)} (h : CoresWf s) :
    CoresWf (setPoolUsed n used s) :=
  .ite (.updateWire (.hwSet (.same (.hwPeak h.same)))) (.hwPeak h.same)

protected theorem CoresWf.poolAlloc {n owner count : Nat} (h : CoresWf s) : CoresWf (poolAlloc n owner count s).2 :=
  .ite_2 (.snd h.setPoolUsed) (.snd h.same)

protected theorem CoresWf.poolFree {n : Nat} {blocks : List Nat} (h : CoresWf s) : CoresWf (poolFree n blocks s) :=
  .foldl (.ite h h.setPoolUsed) fun _ _ h => h.recordFault

protected theorem CoresWf.refreshMr {n : Nat} (h : CoresWf s) : CoresWf (refreshMr n s) := h.setMr

protected theorem CoresWf.refreshAllMr (h : CoresWf s) : CoresWf (refreshAllMr s) := h.foldl fun _ _ h => h.refreshMr

protected theorem CoresWf.dropRecord {c : Nat} (h : CoresWf s) : CoresWf (dropRecord c s) := h.setStream

protected theorem CoresWf.storeRecord {bytes : List Byte} {ext : Option (List Byte)} {bs : List Nat} (h : CoresWf s) :
    CoresWf (storeRecord bytes ext bs s) := by
  unfold Machine.storeRecord
  dsimp only
  split
  · exact h.dpaStore.dpaStore
  · exact h.dpaStore

protected theorem CoresWf.enqueueRing {c : Nat} {bytes : List Byte} {born : Option Nat} {ext : Option (List Byte)}
    (h : CoresWf s) : CoresWf (enqueueRing c bytes born ext s) := by
  unfold Machine.enqueueRing
  dsimp only
  split
  · next heq => exact .dropRecord (h.poolAlloc.of_eq_2 heq)
  · next heq => exact .refreshMr (.setMr (.storeRecord (h.poolAlloc.of_eq_2 heq)))

protected theorem CoresWf.enqueueDatagram {c : Nat} {bytes : List Byte} {born : Option Nat} {ext : Option (List Byte)}
    (h : CoresWf s) : CoresWf (enqueueDatagram c bytes born ext s) := by
  unfold Machine.enqueueDatagram
  dsimp only
  split
  · next heq => exact .setDest (.dropRecord (h.poolAlloc.of_eq_2 heq))
  · next heq => exact .setDest (.storeRecord (h.poolAlloc.of_eq_2 heq))

protected theorem CoresWf.enqueueRecord {c : Nat} {bytes : List Byte} {born : Option Nat} {ext : Option (List Byte)}
    (h : CoresWf s) : CoresWf (enqueueRecord c bytes born ext s) :=
  .ite (.enqueueDatagram (.ite (.enqueueRing (.ite h.setStream h)) (.ite h.setStream h)))
    (.ite (.enqueueRing (.ite h.setStream h)) (.ite h.setStream h))

protected theorem CoresWf.streamEvent {c event detail data : Nat} (h : CoresWf s) :
    CoresWf (streamEvent c event detail data s) := h.enqueueRecord

protected theorem CoresWf.reportLtr {before : Bool} (h : CoresWf s) : CoresWf (reportLtr before s) := .ite h h.send

protected theorem CoresWf.supersede {c : Nat} (h : CoresWf s) : CoresWf (supersede c s) :=
  .ite h h.setMr.setDest.poolFree

protected theorem CoresWf.transition {c : Nat} {dest : StreamState} {event detail faultSeq : Nat} (h : CoresWf s) :
    CoresWf (transition c dest event detail faultSeq s) :=
  .ite (.updateWire (.hwSet h.setStream.reportLtr.supersede.enqueueRecord.same))
    h.setStream.reportLtr.supersede.enqueueRecord

protected theorem CoresWf.transitionByReply {c : Nat} {dest : StreamState} (h : CoresWf s) :
    CoresWf (transitionByReply c dest s) := h.setStream.reportLtr

protected theorem CoresWf.setClip {k : Clip} (h : CoresWf s) : CoresWf (setClip k s) := h.same

protected theorem CoresWf.killTransfers {p : Transfer → Bool} {pr : ParkRecord → Bool} (h : CoresWf s) :
    CoresWf (killTransfers p pr s) := .poolFree h.same

protected theorem CoresWf.clipSweep {num : Nat} (h : CoresWf s) : CoresWf (clipSweep num s) := by
  unfold Machine.clipSweep
  split
  · exact h
  · exact .ite h (.poolFree h.same)

protected theorem CoresWf.endClip {num : BitVec 16} {outcome detail : Nat} (h : CoresWf s) :
    CoresWf (endClip num outcome detail s) := by
  unfold Machine.endClip
  dsimp only
  split
  · exact h
  · refine CoresWf.finishCause ?_
    refine CoresWf.clipSweep ?_
    refine CoresWf.setClip ?_
    refine CoresWf.same ?_
    refine CoresWf.killTransfers ?_
    split
    · exact h.enqueueRecord.setEnc
    · exact h.enqueueRecord

protected theorem CoresWf.endClipsOf {c outcome : Nat} (h : CoresWf s) : CoresWf (endClipsOf c outcome s) :=
  h.foldl fun _ _ h => h.endClip

protected theorem CoresWf.removeFlow {c : Nat} (h : CoresWf s) : CoresWf (removeFlow c s) := h.same

protected theorem CoresWf.leaveGroup {c : Nat} (h : CoresWf s) : CoresWf (leaveGroup c s) :=
  .ite (.ite h h.setPort.sendControl) h

protected theorem CoresWf.dropWindow {c : Nat} (h : CoresWf s) : CoresWf (dropWindow c s) := h.setStream.poolFree

protected theorem CoresWf.dropPushes {c : Nat} (h : CoresWf s) : CoresWf (dropPushes c s) :=
  h.foldl fun _ _ h => h.killTransfers.finish

protected theorem CoresWf.leaveSheaf {c : Nat} (h : CoresWf s) : CoresWf (leaveSheaf c s) := by
  unfold Machine.leaveSheaf
  dsimp only
  split
  · exact h
  · exact h.same

protected theorem CoresWf.sheafBoundary (h : CoresWf s) : CoresWf (sheafBoundary s) := by
  unfold Machine.sheafBoundary
  dsimp only
  refine .foldl h.same fun _ _ h => ?_
  split
  · exact .ite h.setStream h
  · exact .ite (.foldl (.same (.ite h.setStream h)) fun _ _ h => h.setStream.streamEvent)
      (.same (.ite h.setStream h))

protected theorem CoresWf.unmapHeld {x : HeldPages} (h : CoresWf s) : CoresWf (unmapHeld x s) := h.same

protected theorem CoresWf.giveBack {x : HeldPages} (h : CoresWf s) : CoresWf (giveBack x s) := .ite h.same h.unmapHeld

protected theorem CoresWf.releaseHeld (h : CoresWf s) : CoresWf (releaseHeld s) :=
  .foldl h.same fun _ _ h => h.unmapHeld

protected theorem CoresWf.freePinned {c : Nat} (h : CoresWf s) : CoresWf (freePinned c s) := h.giveBack.setStream

protected theorem CoresWf.giveUp {held : Bool} {c : Nat} (h : CoresWf s) : CoresWf (giveUp held c s) :=
  .setStream (.leaveSheaf (.dropWindow (.dropPushes (.ite h.leaveGroup h))))

protected theorem CoresWf.shedStream {c detail : Nat} (h : CoresWf s) : CoresWf (shedStream c detail s) :=
  .ite h.endClipsOf.removeFlow.transition.giveUp h

protected theorem CoresWf.faultStream {c : Nat} {r : FaultRec} (h : CoresWf s) : CoresWf (faultStream c r s) :=
  .ite h.recordFault.endClipsOf.transition.giveUp h

/-! ### Machine/Rings -/

protected theorem CoresWf.errCfg {k : RingKind} {r : BitVec 6} (h : CoresWf s) : CoresWf (errCfg k r s) :=
  .updateWire (.hwSet h.same)

protected theorem CoresWf.errSize {k : RingKind} {r : BitVec 6} (h : CoresWf s) : CoresWf (errSize k r s) :=
  .updateWire (.hwSet h.same)

protected theorem CoresWf.errDoorbell {r : BitVec 6} (h : CoresWf s) : CoresWf (errDoorbell r s) :=
  .updateWire (.hwSet h.same)

protected theorem CoresWf.errBusy {k : RingKind} {r : BitVec 6} (h : CoresWf s) : CoresWf (errBusy k r s) :=
  .updateWire (.hwSet h.same)

protected theorem CoresWf.doorbell {n : BitVec 6} {tail : Nat} (h : CoresWf s) : CoresWf (doorbell n tail s) :=
  .ite h.errDoorbell (.ite h.errDoorbell h.setSq)

protected theorem CoresWf.execDoorbellWrite {offset : BitVec 16} {value : Word} (h : CoresWf s) :
    KeepsCoresWf (execDoorbellWrite offset value s) := .next (.ite h.doorbell h)

protected theorem CoresWf.cfgSq {n : BitVec 6} {w : Word} (h : CoresWf s) : CoresWf (cfgSq n w s) :=
  .ite (.ite (.errCfg (.ite h h.setSq)) (.ite h h.setSq)) (.ite h.setSq (.ite h.setSq h.setSq.errSize))

protected theorem CoresWf.cfgCq {n : BitVec 6} {w : Word} (h : CoresWf s) : CoresWf (cfgCq n w s) :=
  .ite (.ite (.errCfg (.ite h.setCq (.ite h.setCq.errBusy h.setCq.setCq)))
    (.ite h.setCq (.ite h.setCq.errBusy h.setCq.setCq))) (.ite h.setCq (.ite h.setCq.flushCq h.setCq.errSize))

protected theorem CoresWf.cfgMr {n : BitVec 6} {w : Word} (h : CoresWf s) : CoresWf (cfgMr n w s) :=
  .ite (.ite (.errCfg (.ite h.setMr (.ite h.setMr.errBusy h.setMr.setMr)))
    (.ite h.setMr (.ite h.setMr.errBusy h.setMr.setMr))) (.ite h.setMr (.ite h.setMr.refreshMr h.setMr.errSize))

protected theorem CoresWf.cfgWrite {k : RingKind} {n : BitVec 6} {w : Word} (h : CoresWf s) :
    CoresWf (cfgWrite k n w s) := by
  unfold Machine.cfgWrite
  split
  · exact h.cfgSq
  · exact h.cfgCq
  · exact h.cfgMr

protected theorem CoresWf.execRingEnable {kind : RingKind} {ring : BitVec 6} {cfg : Word} (h : CoresWf s) :
    KeepsCoresWf (execRingEnable kind ring cfg s) := by
  unfold Machine.execRingEnable
  refine .ite ?_ ?_
  · exact .fault
  · exact .next (.ite h.cfgWrite h)

protected theorem CoresWf.execRingDisable {kind : RingKind} {ring : BitVec 6} {cfg : Word} (h : CoresWf s) :
    KeepsCoresWf (execRingDisable kind ring cfg s) := by
  unfold Machine.execRingDisable
  refine .ite ?_ ?_
  · exact .fault
  · exact .next (.ite h.cfgWrite h)

protected theorem CoresWf.ringCreditBody {f : Fetched} (h : CoresWf s) : CoresWf (ringCreditBody f s) :=
  .ite (.ite h.answer (.ite h.answer h.setCq.flushCq)) (.ite h.answer (.ite h.answer h.setMr.refreshMr))

protected theorem CoresWf.execRingCredit {ring : BitVec 6} {p : Packet} (h : CoresWf s) :
    KeepsCoresWf (execRingCredit ring p s) := h.packetStep (fun _ _ h => h.ringCreditBody)

protected theorem CoresWf.execReplyDeadline {ring : BitVec 6} {tag : BitVec 16} (h : CoresWf s) :
    KeepsCoresWf (execReplyDeadline ring tag s) := by
  unfold Machine.execReplyDeadline
  dsimp only
  refine .next ?_
  split
  · exact h
  · exact .pushReply h.same

protected theorem CoresWf.writeMrEntry {n : Nat} {bytes : List Byte} (h : CoresWf s) :
    CoresWf (writeMrEntry n bytes s) :=
  .ite (.updateWire (.noteEntry (.hwSet h.hostWrite.setMr.same))) h.hostWrite.setMr

protected theorem CoresWf.countRecord {q : QRec} {late : Bool} (h : CoresWf s) : CoresWf (countRecord q late s) :=
  h.setStream

protected theorem CoresWf.lastRecordCheck {c : Nat} (h : CoresWf s) : CoresWf (lastRecordCheck c s) := by
  unfold Machine.lastRecordCheck
  dsimp only
  refine h.foldl fun _ _ h => ?_
  split
  · exact .ite h h.finish
  · exact h

protected theorem CoresWf.lastRecordSweep (h : CoresWf s) : CoresWf (lastRecordSweep s) :=
  h.foldl fun _ _ h => h.lastRecordCheck

protected theorem CoresWf.execRecordEgress {mr : BitVec 6} (h : CoresWf s) : KeepsCoresWf (execRecordEgress mr s) := by
  unfold Machine.execRecordEgress
  dsimp only
  refine .next ?_
  split
  · exact h.refreshMr
  · refine .ite ?_ ?_
    · exact h.refreshMr
    · refine CoresWf.refreshMr ?_
      refine CoresWf.lastRecordCheck ?_
      refine CoresWf.countRecord ?_
      refine CoresWf.poolFree ?_
      refine CoresWf.setMr ?_
      split
      · exact h.refreshMr.writeMrEntry.writeMrEntry
      · exact h.refreshMr.writeMrEntry

protected theorem CoresWf.execDatagramSend {mr : BitVec 6} (h : CoresWf s) : KeepsCoresWf (execDatagramSend mr s) := by
  unfold Machine.execDatagramSend
  dsimp only
  refine .next ?_
  refine .ite ?_ ?_
  · exact h
  · split
    · exact h
    · exact .ite h (h.send.setDest.foldl fun _ _ h => h.poolFree.countRecord.lastRecordCheck)

protected theorem CoresWf.execNextHopResolved {mr : BitVec 6} (h : CoresWf s) :
    KeepsCoresWf (execNextHopResolved mr s) :=
  .next (.ite h.setDest h)

protected theorem CoresWf.hostReturned (h : CoresWf s) : CoresWf (hostReturned s) := h.flushAllCq.refreshAllMr

protected theorem CoresWf.execIntCoalTimer (h : CoresWf s) : KeepsCoresWf (execIntCoalTimer s) := by
  unfold Machine.execIntCoalTimer
  dsimp only
  refine .next ?_
  split
  · exact .ite (.updateWire h.same) h
  · exact h

protected theorem CoresWf.execInterruptDisableWrite {command : BitVec 16} (h : CoresWf s) :
    KeepsCoresWf (execInterruptDisableWrite command s) :=
  .ite (.next h) (.next (.hostReturned (.ite (.dropWire h.same) (.ite (.restoreWire h.same) h.same))))

/-! ### Machine/Resets -/

/-- No core is listed. -/
protected theorem CoresWf.powerOnReset : CoresWf (powerOnReset s) := ⟨fun _ he => nomatch he⟩

protected theorem CoresWf.functionReset (h : CoresWf s) : CoresWf (functionReset s) :=
  .mapped h (fun _ _ => coreWf_empty rfl rfl) rfl

protected theorem CoresWf.retireCore {n : Nat} (h : CoresWf s) : CoresWf (retireCore n s) :=
  .setCore h (coreWf_empty rfl rfl)

protected theorem CoresWf.postFail {f : PostFail} (h : CoresWf s) : CoresWf (postFail f s) := by
  unfold Machine.postFail
  dsimp only
  refine .ite ?_ ?_
  · split
    · exact h.retireCore.recordFault
    · exact h.setDec.recordFault
    · exact h.setPrep.recordFault
    · exact h.setEnc.recordFault
    · exact h
  · exact .ite h.recordFault h

protected theorem CoresWf.classCheck (h : CoresWf s) : CoresWf (classCheck s) := .ite h.faultSimple.enterOos h

protected theorem CoresWf.startRounds (h : CoresWf s) : CoresWf (startRounds s) := h.same

protected theorem CoresWf.becomeReady (h : CoresWf s) : CoresWf (becomeReady s) := by
  unfold Machine.becomeReady
  dsimp only
  exact .ite (.updateWire (.hwSet (.hwSet (.same (.faultSimple (.startRounds h.same)))))) (.startRounds h.same)

/-! ### Machine/Recovery -/

protected theorem CoresWf.corePowerOn {n : Nat} (h : CoresWf s) : CoresWf (corePowerOn n s) :=
  .ite h (.setCore (.same h.drawFree) (coreWf_empty rfl rfl))

protected theorem CoresWf.corePowerOff {n : Nat} (h : CoresWf s) : CoresWf (corePowerOff n s) :=
  .setCore h (coreWf_empty rfl rfl)

protected theorem CoresWf.coreLoad {n : Nat} (h : CoresWf s) : CoresWf (coreLoad n s).2 := by
  unfold Machine.coreLoad
  dsimp only
  exact .ite_2 (.snd (h.setFields rfl)) (.ite_2 (.snd h.dpaBytes) (.snd (h.dpaBytes.setCore (h.coreAt n))))

protected theorem CoresWf.captureOne {bulk : Bool} {n : Nat} (h : CoresWf s) : CoresWf (captureOne bulk n s) := by
  unfold Machine.captureOne
  dsimp only
  split
  · exact h.same
  · exact h

protected theorem CoresWf.captureTransfers (h : CoresWf s) : CoresWf (captureTransfers s) :=
  .foldl (h.foldl fun _ _ h => h.captureOne) fun _ _ h => h.captureOne

protected theorem CoresWf.resumeTransfer {p : ParkRecord} (h : CoresWf s) : CoresWf (resumeTransfer p s) :=
  .ite (.same h.same) (.same h.same)

protected theorem CoresWf.resumeCaptured (h : CoresWf s) : CoresWf (resumeCaptured s) :=
  h.foldl fun _ _ h => .resumeTransfer h.same

protected theorem CoresWf.endJob {ring : BitVec 6} {tag : BitVec 16} {r : Reply} (h : CoresWf s) :
    CoresWf (endJob ring tag r s) := by
  unfold Machine.endJob
  dsimp only
  split
  · exact h
  · exact .finishCause (.finish h.killTransfers.poolFree.same)

protected theorem CoresWf.endJobs {r : Reply} (h : CoresWf s) : CoresWf (endJobs r s) := h.foldl fun _ _ h => h.endJob

protected theorem CoresWf.abortUnits (h : CoresWf s) : CoresWf (abortUnits s) :=
  .mapped (f := fun c => { c with busy := false, seq := { c.seq with stopped := true } }) h (fun _ hc => hc) rfl

protected theorem CoresWf.startReset {r : FaultRec} {sus : List Suspect} (h : CoresWf s) :
    CoresWf (startReset r sus s) := by
  unfold Machine.startReset
  dsimp only
  refine .ite ?_ ?_
  · exact h.same
  · split
    · exact h.recordFault.same
    · exact .abortUnits (.captureTransfers h.recordFault.same)

protected theorem CoresWf.eccReset {unit : BitVec 16} {before : Word} {sus : List Suspect} (h : CoresWf s) :
    CoresWf (eccReset unit before sus s) := h.startReset.foldl fun _ _ h => h.startReset

protected theorem CoresWf.dropFrame {c seq : Nat} (h : CoresWf s) : CoresWf (dropFrame c seq s) :=
  h.poolFree.poolFree.same

protected theorem CoresWf.loseList (h : CoresWf s) : CoresWf (loseList s) := .same (h.foldl fun _ _ h => h.setStream)

protected theorem CoresWf.testGroups {cores : List Nat} (h : CoresWf s) : CoresWf (testGroups cores s) := h.same

protected theorem CoresWf.refault {x y : Suspect} (h : CoresWf s) : CoresWf (refault x y s) := by
  unfold Machine.refault
  split
  · exact h.faultStream.dropFrame
  · exact h.faultStream.dropFrame
  · exact h.endJob
  · exact .ite (.loseList h.same) (.same h.same)
  · refine .ite (.foldl ?_ fun _ _ h => h.faultStream) (.testGroups h.same)
    split
    · exact .setNet h.same
    · exact h.same
  · exact h

protected theorem CoresWf.endReplay {x : Suspect} (h : CoresWf s) : CoresWf (endReplay x s) := h.same

protected theorem CoresWf.countReset {step : Nat} {seq : Word} (h : CoresWf s) : CoresWf (countReset step seq s) :=
  .ite (.enterOos (.recordFault h.hwSet.same)) h.hwSet.same

protected theorem CoresWf.writeShift {q : Word} {d : Nat} (h : CoresWf s) : CoresWf (writeShift q d s) := h.same

protected theorem CoresWf.restartEngines (h : CoresWf s) : CoresWf (restartEngines s) := h.same

protected theorem CoresWf.restoreCores (h : CoresWf s) : CoresWf (restoreCores s) :=
  h.foldl fun _ _ h => .setFields (.coreLoad (.setCore h.drawFree (coreWf_empty rfl rfl))) rfl

protected theorem CoresWf.completeReset {rs : Reset} (h : CoresWf s) : CoresWf (completeReset rs s) :=
  .countReset (.foldl (.foldl (.resumeCaptured (.writeShift h.restoreCores.restartEngines.same)) fun _ _ h =>
    h.refault) fun _ _ h => h.endJob)

protected theorem CoresWf.execComputeResetComplete (h : CoresWf s) : KeepsCoresWf (execComputeResetComplete s) := by
  unfold Machine.execComputeResetComplete
  refine .next ?_
  split
  · exact .ite h h.completeReset
  · exact h

protected theorem CoresWf.execResetTimeout (h : CoresWf s) : KeepsCoresWf (execResetTimeout s) := by
  unfold Machine.execResetTimeout
  dsimp only
  refine .next ?_
  split
  · exact .ite h (.enterOos h.recordFault.same)
  · exact h

protected theorem CoresWf.execFabricError {index : BitVec 12} (h : CoresWf s) :
    KeepsCoresWf (execFabricError index s) :=
  .next h.startReset

protected theorem CoresWf.copyRecords (h : CoresWf s) : CoresWf (copyRecords s) :=
  .foldl (h.foldl fun _ _ h => h.psramStore) fun _ _ h => h.psramStore

protected theorem CoresWf.execFaultLogCopy (h : CoresWf s) : KeepsCoresWf (execFaultLogCopy s) :=
  .next (.ite h (.enterLow h.copyRecords.same))

/-! ### Machine/Parks -/

protected theorem CoresWf.clipComplete {num : Nat} (h : CoresWf s) : CoresWf (clipComplete num s) := by
  unfold Machine.clipComplete
  split
  · exact h
  · exact .ite h.endClip h

protected theorem CoresWf.clipFault {num : Nat} {cause : Byte} (h : CoresWf s) : CoresWf (clipFault num cause s) := by
  unfold Machine.clipFault
  split
  · exact h.clipSweep
  · exact .ite h.endClip h.setClip

protected theorem CoresWf.killReport {cls : Nat} {owner : Word} {cause : Byte} {blocks : List Nat} (h : CoresWf s) :
    CoresWf (killReport cls owner cause blocks s) := by
  unfold Machine.killReport
  dsimp only
  split
  · exact h.poolFree.finish
  · exact .endJob h.poolFree.same
  · exact h.poolFree.clipFault
  · exact h.poolFree.finish
  · exact .ite h.poolFree.clipFault h.poolFree.finish
  · exact h.poolFree

protected theorem CoresWf.parkTransfer {bulk : Bool} {n : Nat} {t : Transfer} {cause : Byte} {faultAddr retries : Nat}
    (h : CoresWf s) : CoresWf (parkTransfer bulk n t cause faultAddr retries s) := by
  unfold Machine.parkTransfer
  dsimp only
  split
  · exact .killReport h.same
  · exact .same (.recordFault h.same)

protected theorem CoresWf.freezeRecord {bulk : Bool} {n : Nat} {t : Transfer} (h : CoresWf s) :
    CoresWf (freezeRecord bulk n t s) := by
  unfold Machine.freezeRecord
  dsimp only
  split
  · exact h
  · exact .poolFree h.same

protected theorem CoresWf.freezeOne {bulk : Bool} {n : Nat} {t : Transfer} (h : CoresWf s) :
    CoresWf (freezeOne bulk n t s) :=
  .ite (.freezeRecord h.same) h.same

protected theorem CoresWf.freezeJob {ring : BitVec 6} {tag : BitVec 16} (h : CoresWf s) :
    CoresWf (freezeJob ring tag s) :=
  .foldl (h.foldl fun _ _ h => h.foldl fun _ _ h1 => h1.freezeOne) fun _ _ h => h.foldl fun _ _ h1 => h1.freezeOne

protected theorem CoresWf.thawOne {i : Nat} {p : ParkRecord} (h : CoresWf s) : CoresWf (thawOne i p s) := by
  unfold Machine.thawOne
  dsimp only
  split
  · next heq => exact .ite h (.same (h.poolAlloc.of_eq_2 heq))
  · next heq => exact .resumeTransfer (.same (h.poolAlloc.of_eq_2 heq))

protected theorem CoresWf.thawJob {ring : BitVec 6} {tag : BitVec 16} (h : CoresWf s) : CoresWf (thawJob ring tag s) :=
  h.foldl fun _ _ h => h.thawOne

protected theorem CoresWf.parkAction {i : Nat} {p : ParkRecord} (h : CoresWf s) : CoresWf (parkAction i p s) := by
  unfold Machine.parkAction
  dsimp only
  refine .ite ?_ ?_
  · exact h
  · refine .ite ?_ ?_
    · refine .ite ?_ ?_
      · exact h
      · refine .ite ?_ ?_
        · exact .ite (.setMr (.same (h.foldl fun _ _ h => h.dropRecord.poolFree))) h.same
        · split
          · exact .setSq h.same
          · exact .flushCq (.setCq h.same)
          · exact .refreshMr (.setMr h.same)
    · exact .killReport h.same

protected theorem CoresWf.execParkRecordAction {index : BitVec 10} (h : CoresWf s) :
    KeepsCoresWf (execParkRecordAction index s) := by
  unfold Machine.execParkRecordAction
  refine .next ?_
  split
  · exact h.parkAction
  · exact h

/-! ### Machine/RollCall -/

protected theorem CoresWf.nextClassDown (h : CoresWf s) : CoresWf (nextClassDown s) :=
  h.foldl fun _ _ h => h.setFields rfl

/-! ### Machine/Crop -/

protected theorem CoresWf.dpaGather {ws : List Nat} (h : CoresWf s) : CoresWf (dpaGather ws s).2 := by
  unfold Machine.dpaGather
  dsimp only
  exact h.foldl_pair fun _ _ h => h.dpaReads

protected theorem CoresWf.countEv {n : Nat} {e : Ev} (h : CoresWf s) : CoresWf (countEv n e s) := h.setFields rfl

protected theorem CoresWf.cropWords {x : Nat} {r : CropRec} {n : Nat} {box geom : List Byte} (h : CoresWf s) :
    CoresWf (cropWords x r n box geom s).2.2 := h.dpaGather

protected theorem CoresWf.listEntry {r : CropRec} {cap n e : Nat} (h : CoresWf s) :
    CoresWf (listEntry r cap n e s).2.2.2 :=
  h.dpaBytes.dpaBytes

protected theorem CoresWf.regionOf {x : Nat} {r : CropRec} {cap n e : Nat} (h : CoresWf s) :
    CoresWf (regionOf x r cap n e s).2.2 := .ite_2_2 (.thd h.listEntry.dpaBytes.cropWords) (.thd h.listEntry)

protected theorem CoresWf.cropAll {x : Nat} {r : CropRec} {ns : List Nat} (h : CoresWf s) :
    CoresWf (cropAll x r ns s).2.2 := by
  unfold Machine.cropAll
  dsimp only
  refine h.foldl_2_2 fun _ _ h => ?_
  split
  · exact h.regionOf.dpaWrites
  · exact h.regionOf

/-! ### Machine/Bell -/

protected theorem CoresWf.noteHang {kind index cores slot : Nat} (h : CoresWf s) :
    CoresWf (noteHang kind index cores slot s) :=
  h.hwSet.same

protected theorem CoresWf.missedLayer (h : CoresWf s) : CoresWf (missedLayer s).1 := by
  unfold Machine.missedLayer
  dsimp only
  split
  · exact h.killTransfers.same
  · exact .ite_1 (.fst h) (.fst h)

protected theorem CoresWf.tileMissing {n : Nat} (h : CoresWf s) : CoresWf (tileMissing n s) :=
  h.missedLayer.noteHang.startReset.same

protected theorem CoresWf.markPoison (h : CoresWf s) : CoresWf (markPoison s) := h.same

protected theorem CoresWf.storeRowMap {b : Nat} {rows : List Row} (h : CoresWf s) : CoresWf (storeRowMap b rows s) :=
  .dpaStore h.same

protected theorem CoresWf.closeLayer (h : CoresWf s) : CoresWf (closeLayer s) := by
  unfold Machine.closeLayer
  dsimp only
  refine CoresWf.same ?_
  split
  · exact .endReplay (.foldl (.markPoison (h.foldl fun _ _ h => h.setWc)) fun _ _ h => h.storeRowMap)
  · exact .foldl (.markPoison (h.foldl fun _ _ h => h.setWc)) fun _ _ h => h.storeRowMap

protected theorem CoresWf.markFrames {ids : List Nat} (h : CoresWf s) : CoresWf (markFrames ids s) := h.same

protected theorem CoresWf.writeRows {w : BitVec 4096} (h : CoresWf s) : CoresWf (writeRows w s) := by
  unfold Machine.writeRows
  dsimp only
  refine .ite ?_ ?_
  · exact h
  · refine .ite ?_ ?_
    · exact h.storeRowMap
    · split
      · exact h
      · exact .ite h.markFrames.storeRowMap h.markFrames.storeRowMap.recordFault

protected theorem CoresWf.runCore {n entry arg : Nat} (h : CoresWf s) : CoresWf (runCore n entry arg s) :=
  h.setFields rfl

protected theorem CoresWf.sleepCore {n : Nat} (h : CoresWf s) : CoresWf (sleepCore n s) :=
  .ite (h.setFields rfl) h.corePowerOff

protected theorem CoresWf.addAction {a : Action} (h : CoresWf s) : CoresWf (addAction a s) := h.same

protected theorem CoresWf.queueTimed {c : Nat} {t : Transfer} (h : CoresWf s) : CoresWf (queueTimed c t s) := h.same

protected theorem CoresWf.slotActions {phys : Nat → Nat} {b : BeBase} {i : Nat} {job : Option (BitVec 6 × BitVec 16)}
    {w : BitVec 4096} (h : CoresWf s) : CoresWf (slotActions phys b i job w s) := by
  unfold Machine.slotActions
  refine .ite ?_ (.addAction (.wakeDomain (.same ?_)))
  all_goals
    refine .foldl (.foldl (.foldl (.foldl h fun _ _ h => h.setWc) fun _ _ h => .foldl h fun _ _ h => ?_)
      fun _ _ h => .ite h.queueTimed.addAction h) fun _ _ h => .ite (.foldl h fun _ _ h => h.addAction) h
    split
    · exact h.runCore.addAction
    · exact h.sleepCore
    · exact h

protected theorem CoresWf.wakeGroups {phys : Nat → Nat} {i : Nat} {w : BitVec 4096} (h : CoresWf s) :
    CoresWf (wakeGroups phys i w s) := h.foldl fun _ _ h => h.corePowerOn.setFields rfl

protected theorem CoresWf.preempt (h : CoresWf s) : CoresWf (preempt s) := h.foldl fun _ _ h => h.freezeJob

protected theorem CoresWf.startInput {j : Job} (h : CoresWf s) : CoresWf (startInput j s) := by
  unfold Machine.startInput
  dsimp only
  refine .ite ?_ ?_
  · exact h
  · refine .ite ?_ ?_
    · exact h.same
    · split
      · next heq => exact .ite h (.same (h.poolAlloc.of_eq_2 heq))
      · next heq => exact .same (.same (h.poolAlloc.of_eq_2 heq))

protected theorem CoresWf.startInputs (h : CoresWf s) : CoresWf (startInputs s) := h.foldl fun _ _ h => h.startInput

protected theorem CoresWf.stopGap {g : Gap} (h : CoresWf s) : CoresWf (stopGap g s) := h.same

protected theorem CoresWf.placeLayer {g : Gap} (h : CoresWf s) : CoresWf (placeLayer g s) := by
  unfold Machine.placeLayer
  dsimp only
  refine .ite ?_ ?_
  · exact h
  · refine .ite ?_ ?_
    · exact h.stopGap
    · split
      · exact h.stopGap
      · split
        · exact h.stopGap
        · exact .same (.thawJob (h.foldl fun _ _ h => h.freezeJob))

protected theorem CoresWf.issueSlot {i : Nat} {w : BitVec 4096} (h : CoresWf s) : CoresWf (issueSlot i w s) := by
  unfold Machine.issueSlot
  dsimp only
  split
  · exact .placeLayer (.slotActions
      (.wakeGroups (.same (.ite (.writeRows (.ite (.preempt (.ite h.closeLayer h)) (.ite h.closeLayer h)))
      (.ite (.preempt (.ite h.closeLayer h)) (.ite h.closeLayer h))))))
  · exact .slotActions (.wakeGroups
      (.same (.ite (.writeRows (.ite (.preempt (.ite h.closeLayer h)) (.ite h.closeLayer h)))
      (.ite (.preempt (.ite h.closeLayer h)) (.ite h.closeLayer h)))))

protected theorem CoresWf.issueGapSlot {g : Gap} {w : BitVec 4096} {rest : List (BitVec 4096)} (h : CoresWf s) :
    CoresWf (issueGapSlot g w rest s) := by
  unfold Machine.issueGapSlot
  dsimp only
  refine .ite ?_ ?_
  · exact h
  · split
    · exact h.tileMissing
    · exact .slotActions (.wakeGroups (.same (.ite h.closeLayer h)))

protected theorem CoresWf.retryInputs (h : CoresWf s) : CoresWf (retryInputs s) := by
  unfold Machine.retryInputs
  dsimp only
  split
  · exact .thawJob (.ite h h.startInputs)
  · exact .ite h h.startInputs

protected theorem CoresWf.fetchSlot {i : Nat} {w : BitVec 4096} {body : State → State} (h : CoresWf s)
    (hb : ∀ s, CoresWf s → CoresWf (body s)) : CoresWf (fetchSlot i w body s) :=
  .ite (hb _ h) (.ite (hb _ (h.foldl_pair fun _ _ h => h.dpaReads)) (.eccReset (h.foldl_pair fun _ _ h => h.dpaReads)))

protected theorem CoresWf.execSlotIssue (h : CoresWf s) : KeepsCoresWf (execSlotIssue s) := by
  unfold Machine.execSlotIssue
  dsimp only
  refine .next ?_
  refine .ite ?_ ?_
  · exact h
  · split
    · split
      · exact h.retryInputs.issueGapSlot
      · split
        · exact h.retryInputs
        · refine .ite ?_ ?_
          · exact h.retryInputs
          · split
            · exact h.retryInputs.tileMissing
            · exact h.retryInputs.fetchSlot (fun _ h => h.issueSlot)
    · split
      · exact h.retryInputs
      · refine .ite ?_ ?_
        · exact h.retryInputs
        · split
          · exact h.retryInputs.tileMissing
          · exact h.retryInputs.fetchSlot (fun _ h => h.issueSlot)

protected theorem CoresWf.startOutput {j : Job} (h : CoresWf s) : CoresWf (startOutput j s) := .ite h.endJob h.same

protected theorem CoresWf.jobAdvance {k : BitVec 6 × BitVec 16} {ran : Nat} (h : CoresWf s) :
    CoresWf (jobAdvance k ran s) := by
  unfold Machine.jobAdvance
  dsimp only
  split
  · exact h
  · exact .ite (.endJob (.endReplay (.same (.ite h.poolFree h))))
      (.ite (.startOutput (.endReplay (.same (.ite h.poolFree h))))
      (.endReplay (.same (.ite h.poolFree h))))

protected theorem CoresWf.finishLayer {g : Gap} {k : BitVec 6 × BitVec 16} (h : CoresWf s) :
    CoresWf (finishLayer g k s) :=
  .placeLayer (.jobAdvance h.same)

protected theorem CoresWf.cropFinish {core : Nat} {a : Action} (h : CoresWf s) : CoresWf (cropFinish core a s).2 := by
  unfold Machine.cropFinish
  dsimp only
  exact .ite_2 (.snd h) (h.foldl_pair fun _ _ h => h.cropAll.countEv)

protected theorem CoresWf.unitEnds {a : Action} (h : CoresWf s) : CoresWf (unitEnds a s).2 := by
  unfold Machine.unitEnds
  split
  · exact h.corePowerOff.ite h
  · exact h.same
  · exact h.cropFinish
  · refine h.foldl fun _ _ h => ?_
    split
    · exact h.endReplay
    · exact h

protected theorem CoresWf.execUnitFinish {u : UnitId} {poisonRows : List Nat} (h : CoresWf s) :
    KeepsCoresWf (execUnitFinish u poisonRows s) := by
  unfold Machine.execUnitFinish
  dsimp only
  refine .next ?_
  split
  · exact h
  · refine .ite ?_ ?_
    · exact h
    · split
      · exact .ite (.finishLayer (.same (.unitEnds h.same))) (.same (.unitEnds h.same))
      · exact .same (.unitEnds h.same)

protected theorem CoresWf.execCoreReady {core : BitVec 7} (h : CoresWf s) : KeepsCoresWf (execCoreReady core s) :=
  .next (.ite h (.ite (h.coreLoad.setFields rfl) h.coreLoad))

protected theorem CoresWf.execWakeTimeout {core : BitVec 7} (h : CoresWf s) :
    KeepsCoresWf (execWakeTimeout core s) := by
  unfold Machine.execWakeTimeout
  dsimp only
  refine .next ?_
  split
  · exact h
  · exact .ite h (.startReset (.testGroups (h.noteHang.foldl fun _ _ h => h.setFields rfl)))

protected theorem CoresWf.execActionHang {u : UnitId} (h : CoresWf s) : KeepsCoresWf (execActionHang u s) := by
  unfold Machine.execActionHang
  dsimp only
  refine .next ?_
  split
  · exact h
  · exact .ite h h.noteHang.testGroups.startReset

/-! ### Machine/Tile -/

protected theorem CoresWf.coreEvents {n memory : Nat} {es : List EccEvent} (h : CoresWf s) :
    CoresWf (coreEvents n memory es s) := h.reportEccs

protected theorem CoresWf.coreReads {n : Nat} {wgt : Bool} {a k : Nat} (h : CoresWf s) :
    CoresWf (coreReads n wgt a k s).2 :=
  .coreEvents (.setCore h ((h.coreAt n).withBuffer (memReads_wf _ ((h.coreAt n).buffer wgt) _)))

protected theorem CoresWf.coreWrites {n : Nat} {wgt : Bool} {a : Nat} {l : List (Word × Bool)} (h : CoresWf s) :
    CoresWf (coreWrites n wgt a l s) := by
  refine .setCore h.meetPoison ?_
  obtain ⟨hact, hwgt⟩ := (CoresWf.meetPoison h).coreAt n
  cases wgt
  · exact ⟨memWrites_wf _ hact _, hwgt⟩
  · exact ⟨hact, memWrites_wf _ hwgt _⟩

protected theorem CoresWf.coreBytes {n : Nat} {wgt : Bool} {a k : Nat} (h : CoresWf s) :
    CoresWf (coreBytes n wgt a k s).2.2 :=
  h.coreReads

protected theorem CoresWf.coreStore {n a : Nat} {l : List Byte} {poison : Bool} (h : CoresWf s) :
    CoresWf (coreStore n a l poison s) := h.coreWrites

protected theorem CoresWf.coreWord {n memory off : Nat} {raw : Word} {put : Word → Core → Core} {scope : Nat}
    (h : CoresWf s) (hput : ∀ v c, SameBuffers c (put v c)) : CoresWf (coreWord n memory off raw put scope s).2.2 := by
  unfold Machine.coreWord
  dsimp only
  split
  · exact h
  · exact h.reportEcc
  · exact .reportEcc (h.setFields (hput _ _))
  · exact .reportEcc (h.setFields rfl)

protected theorem CoresWf.accFix {n i : Nat} {l : List Nat} (h : CoresWf s) : CoresWf (accFix n i l s) := by
  induction l generalizing s with
  | nil => exact h
  | cons k ks ih =>
    unfold Machine.accFix
    exact ih (.ite (.setFields (h.coreWord fun _ _ => rfl) rfl) (h.coreWord fun _ _ => rfl))

protected theorem CoresWf.accRead {n i : Nat} (h : CoresWf s) : CoresWf (accRead n i s).2 := h.accFix

protected theorem CoresWf.accWrite {n i : Nat} {r : AccRow} (h : CoresWf s) : CoresWf (accWrite n i r s) :=
  .setCore (.meetPoison (.ite h.hwSet h)) (h.coreAt n)

protected theorem CoresWf.scaleRead {n b : Nat} (h : CoresWf s) : CoresWf (scaleRead n b s).2.2 :=
  h.coreWord fun _ _ => rfl

protected theorem CoresWf.progWord {scope n a : Nat} (h : CoresWf s) : CoresWf (progWord scope n a s).2.2 := by
  unfold Machine.progWord
  dsimp only
  exact h.foldl_triple fun _ _ h => h.coreWord fun _ _ => rfl

protected theorem CoresWf.fetchInsn {n a : Nat} (h : CoresWf s) : CoresWf (fetchInsn n a s).2.2 := h.progWord

protected theorem CoresWf.insnFault {n op res amount : Nat} (h : CoresWf s) : CoresWf (insnFault n op res amount s) :=
  .startReset (.testGroups (.noteHang (.setFields h.hwSet rfl)))

protected theorem CoresWf.advance {n : Nat} (h : CoresWf s) : CoresWf (advance n s) := h.setFields rfl

/-- An instruction of a tile program faults, waits or runs its body. -/
theorem CoresWf.tileStep {mine : Nat → Bool} {checks : List Check} {ready : State → Nat → Nat → Bool}
    {body : Nat → Nat → State → State} {core : BitVec 7} {w : BitVec 128} (h : CoresWf s)
    (hb : ∀ n w s, CoresWf s → CoresWf (body n w s)) : KeepsCoresWf (tileStep mine checks ready body core w s) := by
  unfold Machine.tileStep
  dsimp only
  refine .ite .fault (.next (.ite h (.ite h.insnFault (.ite h.fetchInsn.eccReset ?_))))
  split
  · exact h.fetchInsn.insnFault
  · refine .ite h.fetchInsn ?_
    split
    · exact h.fetchInsn.insnFault
    · exact .ite (hb _ _ _ h.fetchInsn).advance h.fetchInsn

protected theorem CoresWf.loadTile {n w : Nat} (h : CoresWf s) : CoresWf (loadTile n w s) := h.coreBytes.setFields rfl

protected theorem CoresWf.scaleWord {n wd : Nat} {l : List (Option (Byte × Bool))} (h : CoresWf s) :
    CoresWf (scaleWord n wd l s) := by
  have hput : ∀ (c : Core) (e : Nat × Option (Byte × Bool)), SameBuffers c (match e.2 with
      | some b => { c with scale := putAt (4 * wd + e.1) b.1 c.scale }
      | none => c) := by
    intro c e
    split
    · rfl
    · rfl
  exact .ite (h.setFields (sameBuffers_foldl hput)) (.ite h.scaleRead (h.scaleRead.setFields (sameBuffers_foldl hput)))

protected theorem CoresWf.loadScales {n w : Nat} (h : CoresWf s) : CoresWf (loadScales n w s) :=
  h.coreReads.foldl fun _ _ h => h.scaleWord

protected theorem CoresWf.execWloadWeights {core : BitVec 7} {w : BitVec 128} (h : CoresWf s) :
    KeepsCoresWf (execWloadWeights core w s) := h.tileStep (fun _ _ _ h => h.loadTile)

protected theorem CoresWf.execWloadScales {core : BitVec 7} {w : BitVec 128} (h : CoresWf s) :
    KeepsCoresWf (execWloadScales core w s) := h.tileStep (fun _ _ _ h => h.loadScales)

protected theorem CoresWf.endProgram {n x : Nat} (h : CoresWf s) : CoresWf (endProgram n x s) := h.setFields rfl

protected theorem CoresWf.setSteps {n w : Nat} (h : CoresWf s) : CoresWf (setSteps n w s) := h.setFields rfl

protected theorem CoresWf.setMark {n w : Nat} (h : CoresWf s) : CoresWf (setMark n w s) := h.setFields rfl

protected theorem CoresWf.setParam {n w : Nat} (h : CoresWf s) : CoresWf (setParam n w s) := h.setFields rfl

protected theorem CoresWf.execSyncEnd {core : BitVec 7} {w : BitVec 128} (h : CoresWf s) :
    KeepsCoresWf (execSyncEnd core w s) := h.tileStep (fun _ _ _ h => h.endProgram)

protected theorem CoresWf.execSyncSteps {core : BitVec 7} {w : BitVec 128} (h : CoresWf s) :
    KeepsCoresWf (execSyncSteps core w s) := h.tileStep (fun _ _ _ h => h.setSteps)

protected theorem CoresWf.execSyncQuiet {core : BitVec 7} {w : BitVec 128} (h : CoresWf s) :
    KeepsCoresWf (execSyncQuiet core w s) := h.tileStep (fun _ _ _ h => h)

protected theorem CoresWf.execSyncMarks {core : BitVec 7} {w : BitVec 128} (h : CoresWf s) :
    KeepsCoresWf (execSyncMarks core w s) := h.tileStep (fun _ _ _ h => h.setMark)

protected theorem CoresWf.execSyncParam {core : BitVec 7} {w : BitVec 128} (h : CoresWf s) :
    KeepsCoresWf (execSyncParam core w s) := h.tileStep (fun _ _ _ h => h.setParam)

protected theorem CoresWf.claimLimit {w : Nat} (h : CoresWf s) : CoresWf (claimLimit w s).2.2 := by
  unfold Machine.claimLimit
  dsimp only
  refine .ite_2_2 ?_ ?_
  · split
    · exact .ite_2_2 (.thd h.dpaReads) (.thd h.dpaReads)
    · exact h
  · exact h

protected theorem CoresWf.latchClaim {w : Nat} (h : CoresWf s) : CoresWf (latchClaim w s) := .ite h h.claimLimit.setWc

protected theorem CoresWf.claimTile {n w : Nat} (h : CoresWf s) : CoresWf (claimTile n w s) :=
  .ite (h.setFields rfl) (.ite (h.latchClaim.setFields rfl) (h.latchClaim.setWc.setFields rfl))

protected theorem CoresWf.execClaim {core : BitVec 7} {w : BitVec 128} (h : CoresWf s) :
    KeepsCoresWf (execClaim core w s) :=
  h.tileStep (fun _ _ _ h => h.claimTile)

protected theorem CoresWf.issueDma {n w : Nat} (h : CoresWf s) : CoresWf (issueDma n w s) := h.queueTimed

protected theorem CoresWf.execDmaIn {core : BitVec 7} {w : BitVec 128} (h : CoresWf s) :
    KeepsCoresWf (execDmaIn core w s) :=
  h.tileStep (fun _ _ _ h => h.issueDma)

protected theorem CoresWf.execDmaOut {core : BitVec 7} {w : BitVec 128} (h : CoresWf s) :
    KeepsCoresWf (execDmaOut core w s) :=
  h.tileStep (fun _ _ _ h => h.issueDma)

/-! ### Machine/Array -/

protected theorem CoresWf.runVector {n w j row : Nat} {acts : List Nat} {poison : Bool} (h : CoresWf s) :
    CoresWf (runVector n w j row acts poison s) := .countEv (.accWrite (.ite_2 h.accRead (.snd h)))

protected theorem CoresWf.coreGather {n : Nat} {ws : List Nat} (h : CoresWf s) : CoresWf (coreGather n ws s).2 := by
  unfold Machine.coreGather
  dsimp only
  exact h.foldl_pair fun _ _ h => h.coreReads

protected theorem CoresWf.countStalls {n : Nat} (h : CoresWf s) : CoresWf (countStalls n s) := h.hwPeak.setFields rfl

protected theorem CoresWf.runPass {n w : Nat} {src : State → Nat → Nat → Nat → BlockSrc} (h : CoresWf s) :
    CoresWf (runPass n w src s) := .countStalls (h.foldl fun _ _ h => h.foldl fun _ _ h1 => h1.coreGather.runVector)

protected theorem CoresWf.runMatmul {n w : Nat} (h : CoresWf s) : CoresWf (runMatmul n w s) := h.runPass

protected theorem CoresWf.execMatmul {core : BitVec 7} {w : BitVec 128} (h : CoresWf s) :
    KeepsCoresWf (execMatmul core w s) :=
  h.tileStep (fun _ _ _ h => h.runMatmul)

protected theorem CoresWf.withProg {n a k : Nat} {body : State → State} (h : CoresWf s)
    (hb : ∀ s, CoresWf s → CoresWf (body s)) :
    CoresWf (withProg n a k body s) :=
  .ite (hb _ (h.foldl_pair fun _ _ h => h.fetchInsn)) (.eccReset (h.foldl_pair fun _ _ h => h.fetchInsn))

protected theorem CoresWf.runConv {n w : Nat} (h : CoresWf s) : CoresWf (runConv n w s) :=
  h.withProg (fun _ h => h.runPass)

protected theorem CoresWf.execConv {core : BitVec 7} {w : BitVec 128} (h : CoresWf s) :
    KeepsCoresWf (execConv core w s) :=
  h.tileStep (fun _ _ _ h => h.runConv)

protected theorem CoresWf.poolTile {n w : Nat} (h : CoresWf s) : CoresWf (poolTile n w s) :=
  h.foldl fun _ _ h => h.coreGather.coreWrites.countEv

protected theorem CoresWf.execPool {core : BitVec 7} {w : BitVec 128} (h : CoresWf s) :
    KeepsCoresWf (execPool core w s) :=
  h.tileStep (fun _ _ _ h => h.withProg (fun _ h1 => h1.poolTile))

protected theorem CoresWf.runCrop {n w : Nat} (h : CoresWf s) : CoresWf (runCrop n w s) := by
  unfold Machine.runCrop
  dsimp only
  split
  · exact h.regionOf
  · exact .ite h.regionOf.countEv.dpaWrites h.regionOf.countEv.coreWrites

protected theorem CoresWf.execCrop {core : BitVec 7} {w : BitVec 128} (h : CoresWf s) :
    KeepsCoresWf (execCrop core w s) :=
  h.tileStep (fun _ _ _ h => h.runCrop)

/-! ### Machine/Vector -/

protected theorem CoresWf.flatRead {n : Nat} {f : Fmt} {base k : Nat} (h : CoresWf s) :
    CoresWf (flatRead n f base k s).2 :=
  h.coreGather

protected theorem CoresWf.flatWrite {n : Nat} {f : Fmt} {base : Nat} {l : List (Nat × Bool)} (h : CoresWf s) :
    CoresWf (flatWrite n f base l s) := h.coreWrites

protected theorem CoresWf.readA {n w : Nat} (h : CoresWf s) : CoresWf (readA n w s).2 := by
  unfold Machine.readA
  dsimp only
  exact .ite_2 (h.foldl_pair fun _ _ h => h.accRead) (.snd h.flatRead)

theorem CoresWf.vecStep {func : Nat} {body : Nat → Nat → State → State} {core : BitVec 7} {w : BitVec 128} (h : CoresWf s)
    (hb : ∀ n w s, CoresWf s → CoresWf (body n w s)) : KeepsCoresWf (vecStep func body core w s) :=
  h.tileStep fun n w _ h => h.withProg (hb n w)

protected theorem CoresWf.runLanes {op : LaneOp} {n w : Nat} (h : CoresWf s) : CoresWf (runLanes op n w s) :=
  .countEv (.flatWrite (.ite_2 (.flatRead (.ite_2 h.readA.flatRead (.snd h.readA)))
    (.snd (.ite_2 h.readA.flatRead (.snd h.readA)))))

protected theorem CoresWf.scaleRow {n w : Nat} (h : CoresWf s) : CoresWf (scaleRow n w s).2 := by
  unfold Machine.scaleRow
  dsimp only
  exact h.foldl_pair fun _ _ h => h.scaleRead

protected theorem CoresWf.biasRow {n w : Nat} (h : CoresWf s) : CoresWf (biasRow n w s).2 := .ite_2 h.coreReads (.snd h)

protected theorem CoresWf.requantise {n w : Nat} (h : CoresWf s) : CoresWf (requantise n w s) :=
  h.readA.scaleRow.biasRow.flatWrite.countEv

protected theorem CoresWf.runNormal {f : List Fp → List (Fp × Ev)} {n w : Nat} (h : CoresWf s) :
    CoresWf (runNormal f n w s) :=
  h.readA.flatWrite.countEv

protected theorem CoresWf.runReduce {f : Line → List (Nat × Ev)} {n w : Nat} (h : CoresWf s) :
    CoresWf (runReduce f n w s) :=
  h.readA.flatWrite.countEv

protected theorem CoresWf.readPart {n base : Nat} {d : Dims} {rows cols : List Nat} (h : CoresWf s) :
    CoresWf (readPart n base d rows cols s).2 := h.coreGather

protected theorem CoresWf.readTensor {n base : Nat} {d : Dims} (h : CoresWf s) : CoresWf (readTensor n base d s).2 :=
  h.readPart

protected theorem CoresWf.writeTensor {n base : Nat} {d : Dims} {f : Nat → Nat → Nat → (Nat × Bool) × Ev} (h : CoresWf s) :
    CoresWf (writeTensor n base d f s) := h.foldl fun _ _ h => h.foldl fun _ _ h1 => h1.coreWrites.countEv

protected theorem CoresWf.depthwise {n w : Nat} (h : CoresWf s) : CoresWf (depthwise n w s) := by
  unfold Machine.depthwise
  exact h.readPart.flatRead.scaleRow.biasRow.writeTensor

protected theorem CoresWf.resample {n w : Nat} (h : CoresWf s) : CoresWf (resample n w s) := by
  unfold Machine.resample
  exact h.readTensor.writeTensor

protected theorem CoresWf.repack {n w : Nat} (h : CoresWf s) : CoresWf (repack n w s) := by
  unfold Machine.repack
  exact h.readTensor.writeTensor

protected theorem CoresWf.transposeHW {n w : Nat} (h : CoresWf s) : CoresWf (transposeHW n w s) := by
  unfold Machine.transposeHW
  exact h.readTensor.writeTensor

protected theorem CoresWf.concat {n w : Nat} (h : CoresWf s) : CoresWf (concat n w s) := by
  unfold Machine.concat
  exact h.readTensor.readTensor.writeTensor

protected theorem CoresWf.splitTensor {n w : Nat} (h : CoresWf s) : CoresWf (splitTensor n w s) := by
  unfold Machine.splitTensor
  exact h.readTensor.writeTensor.writeTensor

protected theorem CoresWf.readList {n a : Nat} (h : CoresWf s) : CoresWf (readList n a s).2.2.2 := h.coreBytes.coreBytes

protected theorem CoresWf.writeList {n a : Nat} {header : List Byte} {entries : List (List Byte)} {dropped : Nat}
    {sorted poison : Bool} (h : CoresWf s) : CoresWf (writeList n a header entries dropped sorted poison s) :=
  h.coreStore

protected theorem CoresWf.decodeBoxes {n w : Nat} (h : CoresWf s) : CoresWf (decodeBoxes n w s) := by
  unfold Machine.decodeBoxes
  exact .ite h.readTensor.readTensor.dpaBytes.readList.writeList
    h.readTensor.readTensor.dpaBytes.readList.writeList.countEv

protected theorem CoresWf.suppress {n w : Nat} (h : CoresWf s) : CoresWf (suppress n w s) :=
  .ite h.readList.writeList h.readList.writeList.countEv

protected theorem CoresWf.execVecRequantise {core : BitVec 7} {w : BitVec 128} (h : CoresWf s) :
    KeepsCoresWf (execVecRequantise core w s) := h.vecStep (fun _ _ _ h => h.requantise)

protected theorem CoresWf.execVecAdd {core : BitVec 7} {w : BitVec 128} (h : CoresWf s) :
    KeepsCoresWf (execVecAdd core w s) :=
  h.vecStep (fun _ _ _ h => h.runLanes)

protected theorem CoresWf.execVecSubtract {core : BitVec 7} {w : BitVec 128} (h : CoresWf s) :
    KeepsCoresWf (execVecSubtract core w s) := h.vecStep (fun _ _ _ h => h.runLanes)

protected theorem CoresWf.execVecMultiply {core : BitVec 7} {w : BitVec 128} (h : CoresWf s) :
    KeepsCoresWf (execVecMultiply core w s) := h.vecStep (fun _ _ _ h => h.runLanes)

protected theorem CoresWf.execVecFusedMultiplyAdd {core : BitVec 7} {w : BitVec 128} (h : CoresWf s) :
    KeepsCoresWf (execVecFusedMultiplyAdd core w s) := h.vecStep (fun _ _ _ h => h.runLanes)

protected theorem CoresWf.execVecMinimum {core : BitVec 7} {w : BitVec 128} (h : CoresWf s) :
    KeepsCoresWf (execVecMinimum core w s) := h.vecStep (fun _ _ _ h => h.runLanes)

protected theorem CoresWf.execVecMaximum {core : BitVec 7} {w : BitVec 128} (h : CoresWf s) :
    KeepsCoresWf (execVecMaximum core w s) := h.vecStep (fun _ _ _ h => h.runLanes)

protected theorem CoresWf.execVecCompare {core : BitVec 7} {w : BitVec 128} (h : CoresWf s) :
    KeepsCoresWf (execVecCompare core w s) := h.vecStep (fun _ _ _ h => h.runLanes)

protected theorem CoresWf.execVecSelect {core : BitVec 7} {w : BitVec 128} (h : CoresWf s) :
    KeepsCoresWf (execVecSelect core w s) := h.vecStep (fun _ _ _ h => h.runLanes)

protected theorem CoresWf.execVecRelu {core : BitVec 7} {w : BitVec 128} (h : CoresWf s) :
    KeepsCoresWf (execVecRelu core w s) := h.vecStep (fun _ _ _ h => h.runLanes)

protected theorem CoresWf.execVecClip {core : BitVec 7} {w : BitVec 128} (h : CoresWf s) :
    KeepsCoresWf (execVecClip core w s) := h.vecStep (fun _ _ _ h => h.runLanes)

protected theorem CoresWf.execVecLeakyRelu {core : BitVec 7} {w : BitVec 128} (h : CoresWf s) :
    KeepsCoresWf (execVecLeakyRelu core w s) := h.vecStep (fun _ _ _ h => h.runLanes)

protected theorem CoresWf.execVecShift {core : BitVec 7} {w : BitVec 128} (h : CoresWf s) :
    KeepsCoresWf (execVecShift core w s) := h.vecStep (fun _ _ _ h => h.runLanes)

protected theorem CoresWf.execVecConversion {core : BitVec 7} {w : BitVec 128} (h : CoresWf s) :
    KeepsCoresWf (execVecConversion core w s) := h.vecStep (fun _ _ _ h => h.runLanes)

protected theorem CoresWf.execVecDivide {core : BitVec 7} {w : BitVec 128} (h : CoresWf s) :
    KeepsCoresWf (execVecDivide core w s) := h.vecStep (fun _ _ _ h => h.runLanes)

protected theorem CoresWf.execVecReciprocal {core : BitVec 7} {w : BitVec 128} (h : CoresWf s) :
    KeepsCoresWf (execVecReciprocal core w s) := h.vecStep (fun _ _ _ h => h.runLanes)

protected theorem CoresWf.execVecSquareRoot {core : BitVec 7} {w : BitVec 128} (h : CoresWf s) :
    KeepsCoresWf (execVecSquareRoot core w s) := h.vecStep (fun _ _ _ h => h.runLanes)

protected theorem CoresWf.execVecReciprocalSquareRoot {core : BitVec 7} {w : BitVec 128} (h : CoresWf s) :
    KeepsCoresWf (execVecReciprocalSquareRoot core w s) := h.vecStep (fun _ _ _ h => h.runLanes)

protected theorem CoresWf.execVecExp {core : BitVec 7} {w : BitVec 128} (h : CoresWf s) :
    KeepsCoresWf (execVecExp core w s) :=
  h.vecStep (fun _ _ _ h => h.runLanes)

protected theorem CoresWf.execVecExp2 {core : BitVec 7} {w : BitVec 128} (h : CoresWf s) :
    KeepsCoresWf (execVecExp2 core w s) := h.vecStep (fun _ _ _ h => h.runLanes)

protected theorem CoresWf.execVecLog {core : BitVec 7} {w : BitVec 128} (h : CoresWf s) :
    KeepsCoresWf (execVecLog core w s) :=
  h.vecStep (fun _ _ _ h => h.runLanes)

protected theorem CoresWf.execVecLog2 {core : BitVec 7} {w : BitVec 128} (h : CoresWf s) :
    KeepsCoresWf (execVecLog2 core w s) := h.vecStep (fun _ _ _ h => h.runLanes)

protected theorem CoresWf.execVecSigmoid {core : BitVec 7} {w : BitVec 128} (h : CoresWf s) :
    KeepsCoresWf (execVecSigmoid core w s) := h.vecStep (fun _ _ _ h => h.runLanes)

protected theorem CoresWf.execVecTanh {core : BitVec 7} {w : BitVec 128} (h : CoresWf s) :
    KeepsCoresWf (execVecTanh core w s) := h.vecStep (fun _ _ _ h => h.runLanes)

protected theorem CoresWf.execVecSoftplus {core : BitVec 7} {w : BitVec 128} (h : CoresWf s) :
    KeepsCoresWf (execVecSoftplus core w s) := h.vecStep (fun _ _ _ h => h.runLanes)

protected theorem CoresWf.execVecSilu {core : BitVec 7} {w : BitVec 128} (h : CoresWf s) :
    KeepsCoresWf (execVecSilu core w s) := h.vecStep (fun _ _ _ h => h.runLanes)

protected theorem CoresWf.execVecGelu {core : BitVec 7} {w : BitVec 128} (h : CoresWf s) :
    KeepsCoresWf (execVecGelu core w s) := h.vecStep (fun _ _ _ h => h.runLanes)

protected theorem CoresWf.execVecSoftmax {core : BitVec 7} {w : BitVec 128} (h : CoresWf s) :
    KeepsCoresWf (execVecSoftmax core w s) := h.vecStep (fun _ _ _ h => h.runNormal)

protected theorem CoresWf.execVecLayerNormalisation {core : BitVec 7} {w : BitVec 128} (h : CoresWf s) :
    KeepsCoresWf (execVecLayerNormalisation core w s) := h.vecStep (fun _ _ _ h => h.runNormal)

protected theorem CoresWf.execVecSum {core : BitVec 7} {w : BitVec 128} (h : CoresWf s) :
    KeepsCoresWf (execVecSum core w s) :=
  h.vecStep (fun _ _ _ h => h.runReduce)

protected theorem CoresWf.execVecAxisMaximum {core : BitVec 7} {w : BitVec 128} (h : CoresWf s) :
    KeepsCoresWf (execVecAxisMaximum core w s) := h.vecStep (fun _ _ _ h => h.runReduce)

protected theorem CoresWf.execVecAxisMinimum {core : BitVec 7} {w : BitVec 128} (h : CoresWf s) :
    KeepsCoresWf (execVecAxisMinimum core w s) := h.vecStep (fun _ _ _ h => h.runReduce)

protected theorem CoresWf.execVecArgmax {core : BitVec 7} {w : BitVec 128} (h : CoresWf s) :
    KeepsCoresWf (execVecArgmax core w s) := h.vecStep (fun _ _ _ h => h.runReduce)

protected theorem CoresWf.execVecTopK {core : BitVec 7} {w : BitVec 128} (h : CoresWf s) :
    KeepsCoresWf (execVecTopK core w s) := h.vecStep (fun _ _ _ h => h.runReduce)

protected theorem CoresWf.execVecDepthwiseConvolution {core : BitVec 7} {w : BitVec 128} (h : CoresWf s) :
    KeepsCoresWf (execVecDepthwiseConvolution core w s) := h.vecStep (fun _ _ _ h => h.depthwise)

protected theorem CoresWf.execVecResampling {core : BitVec 7} {w : BitVec 128} (h : CoresWf s) :
    KeepsCoresWf (execVecResampling core w s) := h.vecStep (fun _ _ _ h => h.resample)

protected theorem CoresWf.execVecRepacking {core : BitVec 7} {w : BitVec 128} (h : CoresWf s) :
    KeepsCoresWf (execVecRepacking core w s) := h.vecStep (fun _ _ _ h => h.repack)

protected theorem CoresWf.execVecTranspose {core : BitVec 7} {w : BitVec 128} (h : CoresWf s) :
    KeepsCoresWf (execVecTranspose core w s) := h.vecStep (fun _ _ _ h => h.transposeHW)

protected theorem CoresWf.execVecConcatenation {core : BitVec 7} {w : BitVec 128} (h : CoresWf s) :
    KeepsCoresWf (execVecConcatenation core w s) := h.vecStep (fun _ _ _ h => h.concat)

protected theorem CoresWf.execVecSplit {core : BitVec 7} {w : BitVec 128} (h : CoresWf s) :
    KeepsCoresWf (execVecSplit core w s) := h.vecStep (fun _ _ _ h => h.splitTensor)

protected theorem CoresWf.execVecBoxDecoding {core : BitVec 7} {w : BitVec 128} (h : CoresWf s) :
    KeepsCoresWf (execVecBoxDecoding core w s) := h.vecStep (fun _ _ _ h => h.decodeBoxes)

protected theorem CoresWf.execVecNonMaximumSuppression {core : BitVec 7} {w : BitVec 128} (h : CoresWf s) :
    KeepsCoresWf (execVecNonMaximumSuppression core w s) := h.vecStep (fun _ _ _ h => h.suppress)

/-! ### Machine/Tracking -/

protected theorem CoresWf.rowsOp {arg : Nat} (h : CoresWf s) : CoresWf (rowsOp arg s) := h.storeRowMap.dpaStore.same

protected theorem CoresWf.execRows {lists : List RecList} (h : CoresWf s) : KeepsCoresWf (execRows lists s) := by
  unfold Machine.execRows
  dsimp only
  refine .next ?_
  split
  · exact h
  · exact .same (.rowsOp h.same)

protected theorem CoresWf.storeEntry {l : RecList} {j : Nat} {e : BoxEntry} (h : CoresWf s) :
    CoresWf (storeEntry l j e s) := by
  unfold Machine.storeEntry
  split
  · exact h.dpaWrites
  · exact h

protected theorem CoresWf.editEntry {n i j : Nat} {f : BoxEntry → BoxEntry} (h : CoresWf s) :
    CoresWf (editEntry n i j f s) := by
  unfold Machine.editEntry
  dsimp only
  refine CoresWf.same ?_
  refine h.foldl fun _ _ h => ?_
  split
  · exact h.storeEntry
  · exact h

protected theorem CoresWf.addFree {c : Nat} {k : Int} (h : CoresWf s) : CoresWf (addFree c k s) := h.setStream

protected theorem CoresWf.leaveTrack {id : Nat} (h : CoresWf s) : CoresWf (leaveTrack id s) := by
  unfold Machine.leaveTrack
  dsimp only
  split
  · exact h
  · exact .same (.ite h.addFree h)

protected theorem CoresWf.missTrack {matched : Bool} {maxMiss seq id : Nat} (h : CoresWf s) :
    CoresWf (missTrack matched maxMiss seq id s) := by
  unfold Machine.missTrack
  dsimp only
  split
  · exact h
  · exact .ite (.leaveTrack h.same) h.same

protected theorem CoresWf.growTrack {a : TrackParams} {seq : Nat} {p : Pair} {d : BoxEntry} (h : CoresWf s) :
    CoresWf (growTrack a seq p d s) := by
  unfold Machine.growTrack
  dsimp only
  split
  · exact h
  · exact .ite h (.ite h.same (.ite (.same h.same) h.same))

protected theorem CoresWf.joinEntry {a : TrackParams} {n i j : Nat} {f : FrameRec} {d : BoxEntry} (h : CoresWf s) :
    CoresWf (joinEntry a n i j f d s) := by
  unfold Machine.joinEntry
  dsimp only
  split
  · exact .ite (.editEntry h.addFree.same) (.editEntry h.same)
  · exact .editEntry h.same

protected theorem CoresWf.applyStep {net : List RoundMatch} {q : Nat} (h : CoresWf s) :
    CoresWf (applyStep net q s) := by
  unfold Machine.applyStep
  dsimp only
  refine .foldl (.foldl (.foldl (.foldl (.foldl h ?_) ?_) ?_) ?_) ?_
  · exact fun _ _ h => h.foldl fun _ _ h => .ite h.editEntry.same h.editEntry
  · exact fun _ _ h => .ite h h.same
  · exact fun _ _ h => h.foldl fun _ _ h => h.missTrack
  · intro _ _ h
    split
    · exact h.growTrack
    · exact h
  · exact fun _ _ h => h.foldl fun _ _ h => h.joinEntry.ite h

protected theorem CoresWf.applyOp {predicted : List Predicted} (h : CoresWf s) : CoresWf (applyOp predicted s) :=
  h.foldl fun _ _ h => h.applyStep

protected theorem CoresWf.execApply {lists : List RecList} {predicted : List Predicted} (h : CoresWf s) :
    KeepsCoresWf (execApply lists predicted s) := by
  unfold Machine.execApply
  dsimp only
  refine .next ?_
  split
  · exact h
  · exact .same (.applyOp h.same)

protected theorem CoresWf.dropTracks {c : Nat} (h : CoresWf s) : CoresWf (dropTracks c s) :=
  h.foldl fun _ _ h => h.leaveTrack

protected theorem CoresWf.refreshHeadroom (h : CoresWf s) : CoresWf (refreshHeadroom s) := h.same

protected theorem CoresWf.emitFrame {i : Nat} {f : FrameRec} (h : CoresWf s) : CoresWf (emitFrame i f s) :=
  h.foldl fun _ _ h => h.enqueueRecord

protected theorem CoresWf.emitAll (h : CoresWf s) : CoresWf (emitAll s) :=
  .ite h (.same (h.foldl fun _ _ h => h.emitFrame))

protected theorem CoresWf.execEmit {lists : List RecList} (h : CoresWf s) : KeepsCoresWf (execEmit lists s) := by
  unfold Machine.execEmit
  dsimp only
  refine .next ?_
  split
  · exact h
  · exact .lastRecordSweep (.same (.emitAll h.same))

/-! ### Machine/Boundary -/

protected theorem CoresWf.failArea {area : BitVec 2} {rule slot : Nat} (h : CoresWf s) :
    CoresWf (failArea area rule slot s) :=
  .updateWire (.hwSet h.recordFault.same)

protected theorem CoresWf.dropNext (h : CoresWf s) : CoresWf (dropNext s) := h.same

protected theorem CoresWf.dropStandby (h : CoresWf s) : CoresWf (dropStandby s) := h.same

protected theorem CoresWf.execTimetableCheckComplete {standby : Bool} (h : CoresWf s) :
    KeepsCoresWf (execTimetableCheckComplete standby s) := by
  unfold Machine.execTimetableCheckComplete
  dsimp only
  refine .next ?_
  refine .ite ?_ ?_
  · exact h
  · split
    · exact .ite h.same h.same
    · exact .ite h.failArea.dropStandby h.failArea.dropNext

protected theorem CoresWf.execStandbyRebuild (h : CoresWf s) : KeepsCoresWf (execStandbyRebuild s) :=
  .next (.ite h h.same)

protected theorem CoresWf.addChange {c : Change} (h : CoresWf s) : CoresWf (addChange c s) := h.same

protected theorem CoresWf.dropChanges {p : Change → Bool} (h : CoresWf s) : CoresWf (dropChanges p s) := h.same

protected theorem CoresWf.waitLast {cmd : BitVec 6 × BitVec 16} (h : CoresWf s) : CoresWf (waitLast cmd s) := h.same

protected theorem CoresWf.markOld {c : Nat} (h : CoresWf s) : CoresWf (markOld c s) :=
  .ite (.ite h h.setMr) (.setDest (.ite h h.setMr))

protected theorem CoresWf.joinGroup {c : Nat} (h : CoresWf s) : CoresWf (joinGroup c s) :=
  .ite (.ite h h.setPort.sendControl) h

protected theorem CoresWf.wakeEngines {c : Nat} (h : CoresWf s) : CoresWf (wakeEngines c s) := h.wakeDomain.wakeDomain

protected theorem CoresWf.admitNow {c : Nat} {cmd : Option (BitVec 6 × BitVec 16)} (h : CoresWf s) :
    CoresWf (admitNow c cmd s) := by
  unfold Machine.admitNow
  dsimp only
  split
  · exact .lastRecordCheck
      (.waitLast (.markOld (.joinGroup (.transitionByReply h.setStream.wakeEngines.same))))
  · exact .joinGroup (.transitionByReply h.setStream.wakeEngines.same)

protected theorem CoresWf.closeNow {c : Nat} {cmd : Option (BitVec 6 × BitVec 16)} (h : CoresWf s) :
    CoresWf (closeNow c cmd s) := by
  unfold Machine.closeNow
  dsimp only
  split
  · exact h.endClipsOf.removeFlow.transitionByReply.giveUp.setStream.waitLast.lastRecordCheck
  · exact h.endClipsOf.removeFlow.transitionByReply.giveUp.setStream

protected theorem CoresWf.answerChange {cmd : Option (BitVec 6 × BitVec 16)} (h : CoresWf s) :
    CoresWf (answerChange cmd s) := by
  unfold Machine.answerChange
  split
  · exact h.finish
  · exact h

protected theorem CoresWf.applyChange {c : Change} (h : CoresWf s) : CoresWf (applyChange c s) := by
  unfold Machine.applyChange
  dsimp only
  split
  · exact h.admitNow
  · exact h.closeNow
  · exact h.shedStream
  · refine .ite ?_ ?_
    · split
      · exact .finish h.same
      · exact h.same
    · exact .answerChange (.foldl h.same fun _ _ h => h.setStream)
  · exact .answerChange (.same (h.foldl fun _ _ h => .ite h.setStream h))
  · exact .answerChange h.same
  · exact .ite h.setStream h
  · exact h.setStream
  · exact h.setStream.wakeEngines
  · split
    · exact h.setDec
    · exact h.setPrep
    · exact h.setEnc

protected theorem CoresWf.applyChanges (h : CoresWf s) : CoresWf (applyChanges s) :=
  h.dropChanges.foldl fun _ _ h => h.applyChange

protected theorem CoresWf.undoAdmit {c : Nat} (h : CoresWf s) : CoresWf (undoAdmit c s) := h.removeFlow.freePinned

protected theorem CoresWf.refuseAdmission {c : Nat} {cmd : Option (BitVec 6 × BitVec 16)} {r : Reply} (h : CoresWf s) :
    CoresWf (refuseAdmission c cmd r s) := by
  unfold Machine.refuseAdmission
  dsimp only
  split
  · exact h.dropChanges.undoAdmit.finish
  · exact h.dropChanges.undoAdmit

protected theorem CoresWf.recheckAdmissions (h : CoresWf s) : CoresWf (recheckAdmissions s) :=
  h.foldl fun _ _ h => .ite h h.refuseAdmission

protected theorem CoresWf.fuseSheaves {listed : List FrameRec} (h : CoresWf s) : CoresWf (fuseSheaves listed s) :=
  h.foldl fun _ _ h => .ite h h.same

protected theorem CoresWf.makeFrameList {held : List FrameRec} {left : List Nat} (h : CoresWf s) :
    CoresWf (makeFrameList held left s) := .fuseSheaves (.same (h.poolFree.poolFree.foldl fun _ _ h => h.setStream))

protected theorem CoresWf.reloadCores (h : CoresWf s) : CoresWf (reloadCores s) :=
  h.foldl fun _ _ h => .ite h.coreLoad (h.coreLoad.setFields rfl)

protected theorem CoresWf.applyCoreRetire (h : CoresWf s) : CoresWf (applyCoreRetire s) :=
  .ite h (.classCheck (.foldl h.same fun _ _ h => h.retireCore))

protected theorem CoresWf.recheckReady (h : CoresWf s) : CoresWf (recheckReady s) := by
  unfold Machine.recheckReady
  dsimp only
  split
  · refine CoresWf.dropStandby ?_
    refine CoresWf.failArea ?_
    split
    · exact h.failArea.dropNext
    · exact h
  · split
    · exact h.failArea.dropNext
    · exact h

protected theorem CoresWf.shedAll {l : List Nat} {detail : Nat} (h : CoresWf s) : CoresWf (shedAll l detail s) :=
  h.foldl fun _ _ h => h.shedStream

protected theorem CoresWf.swapAreas (h : CoresWf s) : CoresWf (swapAreas s).1 := by
  unfold Machine.swapAreas
  exact .ite_1 (.ite_1 (.fst
    (.reloadCores (.recheckAdmissions
    (.shedAll (.dropNext (.dropStandby h.applyCoreRetire.recheckReady.same))))))
    (.ite_1 (.fst (.reloadCores
    (.applyChanges h.applyCoreRetire.recheckReady.shedAll.recheckAdmissions.same)))
    (.fst h.applyCoreRetire.recheckReady.shedAll.recheckAdmissions.same)))
    (.ite_1 (.fst (.reloadCores (.applyChanges h.same))) (.ite_1 (.fst h.same) (.fst h)))

protected theorem CoresWf.oosBoundary (h : CoresWf s) : CoresWf (oosBoundary s).1 := by
  unfold Machine.oosBoundary
  dsimp only
  refine .ite_1 h (.same (.foldl (.dropChanges (.foldl (.endJobs (.shedAll h.same)) fun _ _ h => h.endClip))
    fun s c h => ?_))
  have hundone : ∀ {u}, CoresWf u → CoresWf (match c.cmd with | some k => finish k (failWith 0x202 0) u | none => u) := by
    intro u hu
    split
    · exact hu.finish
    · exact hu
  refine hundone ?_
  split
  · exact h.undoAdmit
  · exact h.same
  · exact h

protected theorem CoresWf.softSheds (h : CoresWf s) : CoresWf (softSheds s) := .foldl h.same fun _ _ h => h.shedStream

protected theorem CoresWf.wholeTests (h : CoresWf s) : CoresWf (wholeTests s) := .foldl h.same fun _ _ h => h.finish

protected theorem CoresWf.newRound (h : CoresWf s) : CoresWf (newRound s) := h.startRounds.same

protected theorem CoresWf.leaveTracks (h : CoresWf s) : CoresWf (leaveTracks s) :=
  .refreshHeadroom (h.foldl fun _ _ h => h.dropTracks)

protected theorem CoresWf.substBoundary (h : CoresWf s) : CoresWf (substBoundary s) := h.same

protected theorem CoresWf.switchBoundary (h : CoresWf s) : CoresWf (switchBoundary s) := .ite h.same h

protected theorem CoresWf.releaseLeft (h : CoresWf s) : CoresWf (releaseLeft s) := h.foldl fun _ _ h => h.freePinned

protected theorem CoresWf.boundary (h : CoresWf s) : CoresWf (boundary s) :=
  .leaveTracks (.same (.releaseHeld
    (.releaseLeft (.makeFrameList
    (.newRound (.substBoundary
    (.sheafBoundary (.swapAreas
    (.oosBoundary (.softSheds (.same (.switchBoundary (.closeLayer (.wholeTests h.same))))))))))))))

protected theorem CoresWf.execRoundBoundary (h : CoresWf s) : KeepsCoresWf (execRoundBoundary s) := by
  unfold Machine.execRoundBoundary
  dsimp only
  refine .next ?_
  refine .ite ?_ ?_
  · exact h
  · split
    · exact h.tileMissing
    · split
      · exact h.fetchSlot (fun _ h => h.boundary.lastRecordSweep)
      · exact h.boundary.lastRecordSweep

protected theorem CoresWf.decideCore {n : Nat} (h : CoresWf s) : CoresWf (decideCore n s) :=
  .ite h (.recordFault h.same)

protected theorem CoresWf.decideEngine {kind : VideoKind} {i : Nat} (h : CoresWf s) :
    CoresWf (decideEngine kind i s) := by
  unfold Machine.decideEngine
  dsimp only
  split
  · exact .ite h h.setDec.recordFault
  · exact .ite h h.setPrep.recordFault
  · exact .ite h h.setEnc.recordFault

protected theorem CoresWf.rebindPending {kind : VideoKind} {i : Nat} {ks : List ChangeKind} (h : CoresWf s) :
    CoresWf (rebindPending kind i ks s) := by
  unfold Machine.rebindPending
  dsimp only
  refine h.foldl fun _ _ h => ?_
  refine .ite ?_ ?_
  · exact h
  · split
    · exact h.setStream
    · exact h.refuseAdmission
    · exact h.refuseAdmission

protected theorem CoresWf.execEngineRebind {kind : VideoKind} {index : BitVec 5} (h : CoresWf s) :
    KeepsCoresWf (execEngineRebind kind index s) := .next (.ite h (h.rebindPending.foldl fun _ _ h => h.addChange))

protected theorem CoresWf.scrub (h : CoresWf s) : CoresWf (scrub s) :=
  .foldl (h.foldl fun _ _ h => h.dpaReads) fun _ _ h => .foldl
    (.foldl (.foldl (.foldl (h.foldl fun _ _ h1 => h1.coreReads) fun _ _ h1 => h1.coreReads) fun _ _ h1 =>
    h1.accRead) fun _ _ h1 => h1.scaleRead) fun _ _ h1 => h1.progWord

theorem injectMem_wf {a : Nat} {y : BitVec 7} {mask : Word} {marker : Bool} {mm : Mem} (h : mm.wf = true) :
    (injectCore.injectMem a y mask marker mm).wf = true := by
  unfold injectCore.injectMem
  split
  · exact memPutSyn_wf h _ _
  · exact memPutWord_wf h _ _ _

protected theorem CoresWf.injectCore {n m a : Nat} {y : BitVec 7} {mask : Word} {marker : Bool} (h : CoresWf s) :
    CoresWf (injectCore n m a y mask marker s) := by
  unfold Machine.injectCore
  dsimp only
  split
  · exact h.setCore ⟨injectMem_wf (h.coreAt n).1, (h.coreAt n).2⟩
  · exact h.setCore ⟨(h.coreAt n).1, injectMem_wf (h.coreAt n).2⟩
  · refine h.setFields ?_
    split
    · rfl
    · rfl
    · rfl

protected theorem CoresWf.inject {p : Packet} (h : CoresWf s) : CoresWf (inject p s) := by
  unfold Machine.inject
  dsimp only
  exact .ite h.same h.injectCore

protected theorem CoresWf.injections (h : CoresWf s) : CoresWf (injections s) := by
  unfold Machine.injections
  dsimp only
  refine .foldl h.same fun _ _ h => ?_
  split
  · exact h.finish
  · exact h.inject.finish

protected theorem CoresWf.setFailed {b : Bool} {k : VideoKind} {i : Nat} (h : CoresWf s) :
    CoresWf (setFailed b k i s) := by
  unfold Machine.setFailed
  dsimp only
  split
  · exact h.setDec
  · exact h.setPrep
  · exact h.setEnc

/-! ### Machine/Dma -/

protected theorem CoresWf.dpaReadBytes {a n : Nat} (h : CoresWf s) : CoresWf (dpaReadBytes a n s).2 := h.dpaReads

protected theorem CoresWf.dpaWriteBytes {a : Nat} {l : List (Byte × Bool)} (h : CoresWf s) :
    CoresWf (dpaWriteBytes a l s) :=
  h.foldl fun _ _ h => h.faultDpa.ite (CoresWf.reportDpa h.same)

protected theorem CoresWf.coreReadBytes {n : Nat} {wgt : Bool} {a k : Nat} (h : CoresWf s) :
    CoresWf (coreReadBytes n wgt a k s).2 := h.coreReads

protected theorem CoresWf.coreWriteBytes {n : Nat} {wgt : Bool} {a : Nat} {l : List (Byte × Bool)} (h : CoresWf s) :
    CoresWf (coreWriteBytes n wgt a l s) := h.foldl fun _ _ h =>
  .coreEvents (.setCore h ((h.coreAt n).withBuffer (memWriteBytes_wf ((h.coreAt n).buffer wgt) _ _ _ _)))

protected theorem CoresWf.pteRead {xctx page : Nat} (h : CoresWf s) : CoresWf (pteRead xctx page s).2.2 := by
  unfold Machine.pteRead
  exact .thd h.dpaReads

protected theorem CoresWf.translateEntry {e : DmaEngine} {xctx page : Nat} (h : CoresWf s) :
    CoresWf (translateEntry e xctx page s).2.2 := by
  unfold Machine.translateEntry
  dsimp only
  split
  · exact h
  · exact .ite_2_2 h.pteRead (.thd h.pteRead.same)

protected theorem CoresWf.translate {e : DmaEngine} {timed write : Bool} {xctx dva : Nat} (h : CoresWf s) :
    CoresWf (translate e timed write xctx dva s).2.2 :=
  .ite_2_2 (.thd h) (.ite_2_2 (.thd h.translateEntry) (.ite_2_2 (.thd h.translateEntry) (.thd h.translateEntry)))

protected theorem CoresWf.spansOf {e : DmaEngine} {timed write : Bool} {xctx dva len : Nat} (h : CoresWf s) :
    CoresWf (spansOf e timed write xctx dva len s).2.2 := by
  unfold Machine.spansOf
  dsimp only
  split
  · next heq => exact h.translate.of_eq_2_2 heq
  · next heq =>
    have hs := h.translate.of_eq_2_2 heq
    refine .ite_2_2 hs ?_
    split
    · next heq => exact hs.translate.of_eq_2_2 heq
    · next heq => exact hs.translate.of_eq_2_2 heq

protected theorem CoresWf.boundaryFlush {e : DmaEngine} (h : CoresWf s) : CoresWf (boundaryFlush e s) := .ite h h.same

protected theorem CoresWf.invalidate_ {value : Word} (h : CoresWf s) : CoresWf (invalidate_ value s) :=
  .foldl h.same fun _ _ h => .ite h.boundaryFlush h

protected theorem CoresWf.execTlbInvalidate {value : Word} (h : CoresWf s) : KeepsCoresWf (execTlbInvalidate value s) :=
  .next (.ite h.invalidate_ h)

protected theorem CoresWf.ptePut {xctx page : Nat} {e : BitVec 64} (h : CoresWf s) : CoresWf (ptePut xctx page e s) :=
  .ite h.recordFault h.same

protected theorem CoresWf.readGranule {e : DmaEngine} {timed : Bool} {t : Transfer} {k : Nat} (h : CoresWf s) :
    CoresWf (readGranule e timed t k s).2 := by
  unfold Machine.readGranule
  dsimp only
  split
  · exact .ite_2 (.snd h.drawFree) (.snd h.dpaReadBytes)
  · split
    · next heq => exact h.spansOf.of_eq_2_2 heq
    · next heq => exact .foldl_pair (h.spansOf.of_eq_2_2 heq) fun _ _ h => h.dpaReadBytes
  · exact h.coreReadBytes
  · exact h

protected theorem CoresWf.writeSpans {spans : List (Nat × Nat)} {l : List (Byte × Bool)} (h : CoresWf s) :
    CoresWf (writeSpans spans l s) := by
  induction spans generalizing l s with
  | nil => exact h
  | cons e r ih => exact ih h.dpaWriteBytes

protected theorem CoresWf.writeGranule {e : DmaEngine} {timed : Bool} {t : Transfer} {k : Nat} {l : List (Byte × Bool)}
    (h : CoresWf s) : CoresWf (writeGranule e timed t k l s).2.2 := by
  unfold Machine.writeGranule
  dsimp only
  split
  · exact h.dpaWriteBytes
  · split
    · next heq => exact h.spansOf.of_eq_2_2 heq
    · next heq => exact .writeSpans (h.spansOf.of_eq_2_2 heq)
  · exact .ite_2_2 (.thd h) (.ite_2_2 (.thd h.hostWrites) (.thd h))
  · exact h.coreWriteBytes
  · exact h

protected theorem CoresWf.putTransfer {bulk : Bool} {n : Nat} {old : Transfer} {new : List Transfer} (h : CoresWf s) :
    CoresWf (putTransfer bulk n old new s) := .ite h.same h.same

protected theorem CoresWf.completeTransfer {bulk : Bool} {n : Nat} {t : Transfer} (h : CoresWf s) :
    CoresWf (completeTransfer bulk n t s) := by
  unfold Machine.completeTransfer
  dsimp only
  split
  · exact h
  · exact .ite h.putTransfer.endJob h.putTransfer.same
  · exact .ite (.clipSweep (.clipComplete h.putTransfer.poolFree.same)) h
  · exact h.putTransfer

protected theorem CoresWf.settle {bulk : Bool} {n : Nat} {t : Transfer} (h : CoresWf s) :
    CoresWf (settle bulk n t s) := by
  unfold Machine.settle
  dsimp only
  split
  · exact h.parkTransfer
  · exact h
  · exact .ite h.completeTransfer (.ite h.freezeRecord (.ite h h.putTransfer))

protected theorem CoresWf.stepTransfer {bulk : Bool} {n : Nat} {old new : Transfer} (h : CoresWf s) :
    CoresWf (stepTransfer bulk n old new s) := h.putTransfer.settle

protected theorem CoresWf.parkFetch {n : Nat} {cause : Byte} (h : CoresWf s) : CoresWf (parkFetch n cause s) := by
  unfold Machine.parkFetch
  dsimp only
  refine .ite ?_ ?_
  · exact h
  · split
    · exact h
    · exact .setSq h.recordFault.same

protected theorem CoresWf.hostPiece {n : Nat} {old t : Transfer} {k : Nat} {bytes : List Byte} (h : CoresWf s) :
    CoresWf (hostPiece n old t k bytes s) :=
  .ite h.putTransfer (.ite h.writeGranule.stepTransfer h.writeGranule.stepTransfer)

protected theorem CoresWf.hostResponse {engine : BitVec 3} {granule : Nat} {cause : Byte} {bytes : List Byte}
    (h : CoresWf s) : CoresWf (hostResponse engine granule cause bytes s) := by
  unfold Machine.hostResponse
  dsimp only
  split
  · exact .ite h.boundaryFlush.parkFetch h.boundaryFlush
  · exact .ite h.boundaryFlush (.ite h.boundaryFlush.stepTransfer h.boundaryFlush.hostPiece)

protected theorem CoresWf.execHostReadCompletion {engine : BitVec 3} {granule : Nat} {c : Cpl} (h : CoresWf s) :
    KeepsCoresWf (execHostReadCompletion engine granule c s) := .next (.ite h.hostResponse h)

protected theorem CoresWf.execCompletionTimeout {engine : BitVec 3} {granule : Nat} (h : CoresWf s) :
    KeepsCoresWf (execCompletionTimeout engine granule s) := .next (.ite h.hostResponse h)

protected theorem CoresWf.holdIssue (h : CoresWf s) : CoresWf (holdIssue s) := by
  unfold Machine.holdIssue
  refine h.foldl fun _ _ h => ?_
  split
  · exact h.putTransfer
  · exact h

protected theorem CoresWf.parkHostLink (h : CoresWf s) : CoresWf (parkHostLink s) :=
  h.foldl fun _ _ h => h.foldl fun _ _ h1 => .ite h1.freezeRecord h1.parkTransfer

protected theorem CoresWf.timedStop {c : Nat} {t : Transfer} {cause : Byte} {addr : Nat} (h : CoresWf s) :
    CoresWf (timedStop c t cause addr s) := h.noteHang.startReset

protected theorem CoresWf.commitTag {t : Transfer} (h : CoresWf s) : CoresWf (commitTag t s) := by
  unfold Machine.commitTag
  split
  · exact .ite h h.same
  · exact h

protected theorem CoresWf.raiseMark {t : Transfer} {k : Nat} (h : CoresWf s) : CoresWf (raiseMark t k s) := by
  unfold Machine.raiseMark
  dsimp only
  split
  · exact h
  · exact h.setFields rfl

protected theorem CoresWf.putTimed {c : Nat} {old new : Transfer} (h : CoresWf s) : CoresWf (putTimed c old new s) :=
  h.same

protected theorem CoresWf.timedGranule {c : BitVec 4} {k : Nat} {t : Transfer} (h : CoresWf s) :
    CoresWf (timedGranule c k t s) := by
  unfold Machine.timedGranule
  dsimp only
  refine .ite ?_ ?_
  · exact h
  · refine .ite ?_ ?_
    · exact h.putTimed
    · split
      · exact h
      · next heq => exact .timedStop (h.readGranule.of_eq_2 heq)
      · next heq =>
          exact .ite (.timedStop (.writeGranule (h.readGranule.of_eq_2 heq)))
            (.ite h (.ite (.commitTag
            (.raiseMark (.putTimed (.meetPoison (.writeGranule (h.readGranule.of_eq_2 heq))))))
            (.raiseMark (.putTimed (.meetPoison (.writeGranule (h.readGranule.of_eq_2 heq)))))))

protected theorem CoresWf.freeGranule {bulk : Bool} {n : Nat} {e : DmaEngine} {k : Nat} {old : Transfer} (h : CoresWf s) :
    CoresWf (freeGranule bulk n e k old s) := by
  unfold Machine.freeGranule
  dsimp only
  refine .ite ?_ ?_
  · exact h
  · split
    · exact h
    · next heq => exact .stepTransfer (h.readGranule.of_eq_2 heq)
    · next heq =>
        exact .ite (.stepTransfer (.writeGranule (h.readGranule.of_eq_2 heq)))
          (.ite h (.stepTransfer (.writeGranule (h.readGranule.of_eq_2 heq))))

protected theorem CoresWf.execDmaGranuleLand {engine : DmaEngine} {granule : Nat} (h : CoresWf s) :
    KeepsCoresWf (execDmaGranuleLand engine granule s) := by
  unfold Machine.execDmaGranuleLand
  dsimp only
  refine .next ?_
  refine .ite ?_ ?_
  · exact h
  · split
    · exact h.boundaryFlush
    · split
      · exact h.boundaryFlush.timedGranule
      · exact h.boundaryFlush.freeGranule
      · exact h.boundaryFlush.freeGranule

protected theorem CoresWf.execHbmRefresh {pc : BitVec 7} {ports : RefreshPorts} (h : CoresWf s) :
    KeepsCoresWf (execHbmRefresh pc ports s) := by
  unfold Machine.execHbmRefresh
  have hlevels : CoresWf (ports.levels.foldl (fun s e => setLevel e.1 e.2 s) s) := .foldl h fun _ _ h => h.setLevel
  exact .next (.same (.ite hlevels hlevels.hwPeak))

protected theorem CoresWf.execPatrolScrub {addr : BitVec 40} (h : CoresWf s) : KeepsCoresWf (execPatrolScrub addr s) :=
  .next (.ite h.dpaReads.same h)

protected theorem CoresWf.copyGranule {a : Nat} (h : CoresWf s) : CoresWf (copyGranule s a) := by
  unfold Machine.copyGranule
  dsimp only
  split
  · exact h
  · exact h.dpaReads.dpaWrites

protected theorem CoresWf.execSubstituteCopy {granules : List Nat} (h : CoresWf s) :
    KeepsCoresWf (execSubstituteCopy granules s) :=
  .next (.ite (.ite (.same (h.foldl fun _ _ h => h.copyGranule)) (h.foldl fun _ _ h => h.copyGranule)) h)

protected theorem CoresWf.bar2Dword {o : Nat} (h : CoresWf s) : CoresWf (bar2Dword o s).2 :=
  .ite_2 (.snd h) (.ite_2 (.snd h.dpaReads) (.snd h.dpaReads))

protected theorem CoresWf.bar2Dwords {n o : Nat} (h : CoresWf s) : CoresWf (bar2Dwords n o s).2 := by
  induction n generalizing o s with
  | zero => exact h
  | succ n ih => exact ih h.bar2Dword

protected theorem CoresWf.execBar2Read {offset : BitVec 29} {dwords : Nat} (h : CoresWf s) :
    KeepsCoresWf (execBar2Read offset dwords s) := by
  unfold Machine.execBar2Read
  dsimp only
  refine .next ?_
  refine .ite ?_ ?_
  · exact h.send
  · refine CoresWf.send ?_
    split
    · exact h.bar2Dwords.recordFault
    · exact h.bar2Dwords

protected theorem CoresWf.execBar2Write {offset : BitVec 29} {bytes : List Byte} (h : CoresWf s) :
    KeepsCoresWf (execBar2Write offset bytes s) := .next (.ite h (.ite h.dpaWriteBytes h.recordFault))

/-! ### Machine/Query -/

protected theorem CoresWf.execIdentify {ring : BitVec 6} {p : Packet} (h : CoresWf s) :
    KeepsCoresWf (execIdentify ring p s) :=
  h.packetStep (fun _ _ h => h.answer)

protected theorem CoresWf.stallRead (h : CoresWf s) : CoresWf (stallRead s) := h.same

protected theorem CoresWf.execTelemetryRead {ring : BitVec 6} {p : Packet} {m : PowerSample} (h : CoresWf s) :
    KeepsCoresWf (execTelemetryRead ring p m s) := h.packetStep (fun _ _ h => .ite h.answer h.stallRead.answerWrite)

protected theorem CoresWf.readRecords {f : Fetched} (h : CoresWf s) : CoresWf (readRecords f s) := h.answerWrite

protected theorem CoresWf.readCapture {f : Fetched} (h : CoresWf s) : CoresWf (readCapture f s) := by
  unfold Machine.readCapture
  dsimp only
  refine .ite ?_ ?_
  · exact h.answer
  · split
    · exact h.answer
    · exact h.answerWrite

protected theorem CoresWf.execFaultLogRead {ring : BitVec 6} {p : Packet} (h : CoresWf s) :
    KeepsCoresWf (execFaultLogRead ring p s) := h.packetStep (fun _ _ h => .ite h.readRecords h.readCapture)

protected theorem CoresWf.execStreamQuery {ring : BitVec 6} {p : Packet} (h : CoresWf s) :
    KeepsCoresWf (execStreamQuery ring p s) := h.packetStep (fun _ _ h => h.answerWrite)

protected theorem CoresWf.execMaintEcho {ring : BitVec 6} {p : Packet} (h : CoresWf s) :
    KeepsCoresWf (execMaintEcho ring p s) := h.packetStep (fun _ _ h => h.answer)

protected theorem CoresWf.peek {o : Nat} (h : CoresWf s) : CoresWf (peek o s).2 :=
  .ite h.bar2Dwords.recordFault h.bar2Dwords

protected theorem CoresWf.execMaintPeek {ring : BitVec 6} {p : Packet} (h : CoresWf s) :
    KeepsCoresWf (execMaintPeek ring p s) := h.packetStep (fun _ _ h => h.peek.answer)

protected theorem CoresWf.execMaintErrInject {ring : BitVec 6} {p : Packet} (h : CoresWf s) :
    KeepsCoresWf (execMaintErrInject ring p s) := by
  refine h.packetStep fun f s h => ?_
  dsimp only
  split
  · exact h.answer
  · exact .ite h.answer (.wait_ h.same)

protected theorem CoresWf.execMaintCountersClear {ring : BitVec 6} {p : Packet} (h : CoresWf s) :
    KeepsCoresWf (execMaintCountersClear ring p s) := h.packetStep (fun _ _ h => .answer h.same)

protected theorem CoresWf.execSelftestRequest {ring : BitVec 6} {p : Packet} (h : CoresWf s) :
    KeepsCoresWf (execSelftestRequest ring p s) := by
  refine h.packetStep fun f s h => ?_
  dsimp only
  split
  · exact h.answer
  · exact .ite h.answer (.wait_ h.same)

protected theorem CoresWf.execServiceRestore {ring : BitVec 6} {p : Packet} (h : CoresWf s) :
    KeepsCoresWf (execServiceRestore ring p s) := h.packetStep (fun _ _ h => .ite (.answer h.same) h.answer)

/-! ### Machine/Ingest -/

protected theorem CoresWf.coverage {c : Nat} (h : CoresWf s) : CoresWf (coverage c s).2 := by
  unfold Machine.coverage
  dsimp only
  refine .ite_2 h.setStream ?_
  split
  · split
    · exact h.setStream.streamEvent
    · exact h.setStream
  · exact h.setStream

protected theorem CoresWf.replayWrite {c : Nat} {e : ReplayEntry} {data : List (Byte × Bool)} (h : CoresWf s) :
    CoresWf (replayWrite c e data s) := h.setStream.writeSpans

protected theorem CoresWf.runningNow {c : Nat} (h : CoresWf s) : CoresWf (runningNow c s) := .ite h.transition h

protected theorem CoresWf.completeAu {c : Nat} {a : AccessUnit} (h : CoresWf s) : CoresWf (completeAu c a s) :=
  .ite h.setStream.coverage.runningNow.replayWrite.same
    h.setStream.coverage.runningNow.replayWrite.poolFree.poolFree.setStream.setDec.same

protected theorem CoresWf.senderReport {c : Nat} {ntp : BitVec 64} {ts : Word} (h : CoresWf s) :
    CoresWf (senderReport c ntp ts s) := .ite h.setStream.streamEvent h.setStream

protected theorem CoresWf.readPlaced {l : List Placed} (h : CoresWf s) : CoresWf (readPlaced l s).2 := by
  induction l generalizing s with
  | nil => exact h
  | cons p r ih => exact ih (h.foldl_pair fun _ _ h => h.dpaReadBytes)

protected theorem CoresWf.takeAu {c : Nat} {base : BitVec 16} {a : AuSpan} {forced : Bool} (h : CoresWf s) :
    CoresWf (takeAu c base a forced s) := h.setStream.poolFree.readPlaced.completeAu

protected theorem CoresWf.scanAus {c fuel : Nat} (h : CoresWf s) : CoresWf (scanAus c fuel s) := by
  induction fuel generalizing s with
  | zero => exact h
  | succ fuel ih =>
    unfold Machine.scanAus
    split
    · exact h
    · split
      · exact h
      · exact (ih h.takeAu).ite h

protected theorem CoresWf.flushAus {c fuel : Nat} (h : CoresWf s) : CoresWf (flushAus c fuel s) := by
  induction fuel generalizing s with
  | zero => exact h
  | succ fuel ih =>
    unfold Machine.flushAus
    split
    · exact h
    · split
      · exact h
      · exact ih h.takeAu.setStream

protected theorem CoresWf.flushAll {c : Nat} (h : CoresWf s) : CoresWf (flushAll c s) := h.flushAus

protected theorem CoresWf.storePacket {c port : Nat} {k : RtpPacket} (h : CoresWf s) :
    CoresWf (storePacket c port k s).2 := by
  unfold Machine.storePacket
  dsimp only
  refine .ite_2 ?_ ?_
  · exact h.setPort
  · split
    · next heq => exact .setPort (h.poolAlloc.of_eq_2 heq)
    · next heq => exact .foldl (h.poolAlloc.of_eq_2 heq) fun _ _ h => h.dpaStore

protected theorem CoresWf.putPlaced {c : Nat} {base : BitVec 16} {p : Placed} (h : CoresWf s) :
    CoresWf (putPlaced c base p s) := h.setStream.scanAus

protected theorem CoresWf.countDrop {c : Nat} {f : StreamCounts → StreamCounts} (h : CoresWf s) :
    CoresWf (countDrop c f s) :=
  h.setStream

protected theorem CoresWf.dropCandidate {c : Nat} (h : CoresWf s) : CoresWf (dropCandidate c s) := by
  unfold Machine.dropCandidate
  dsimp only
  split
  · exact h
  · exact h.setStream.poolFree.countDrop

protected theorem CoresWf.resync {c port : Nat} {held : Placed} {k : RtpPacket} (h : CoresWf s) :
    CoresWf (resync c port held k s) := h.flushAll.poolFree.setStream.storePacket.putPlaced

protected theorem CoresWf.placePacket_lateAfterFlush {c d : Nat} (h : CoresWf s) :
    CoresWf (placePacket.lateAfterFlush c d s) :=
  h.countDrop.setStream.ite h.countDrop

protected theorem CoresWf.placePacket_place {c port : Nat} {k : RtpPacket} {d : Nat} {base : BitVec 16} {far : Bool}
    (h : CoresWf s) : CoresWf (placePacket.place c port k d base far s) := by
  unfold placePacket.place
  refine .ite ?_ (h.countDrop.ite (h.placePacket_lateAfterFlush.ite (h.countDrop.ite h.storePacket.putPlaced)))
  split
  · next heq => exact h.storePacket.of_eq_2 heq
  · next heq => exact (h.storePacket.of_eq_2 heq).setStream

protected theorem CoresWf.placePacket {c port : Nat} {k : RtpPacket} (h : CoresWf s) :
    CoresWf (placePacket c port k s) := by
  unfold Machine.placePacket
  dsimp only
  split
  · exact h.setStream.resync.ite h.setStream.dropCandidate.placePacket_place
  · exact h.setStream.placePacket_place

protected theorem CoresWf.unprotect {c : Nat} {rtcp : Bool} {index : Nat} {payload : List Byte} (h : CoresWf s) :
    CoresWf (unprotect c rtcp index payload s).2 := by
  unfold Machine.unprotect
  dsimp only
  refine .ite_2 ?_ ?_
  · exact h
  · split
    · exact h.countDrop
    · exact .ite_2 (.snd h.countDrop) (.ite_2 (.snd h.countDrop) (.snd h.setStream))

protected theorem CoresWf.rtcpPacket {c : Nat} {f : Frame} (h : CoresWf s) : CoresWf (rtcpPacket c f s) := by
  unfold Machine.rtcpPacket
  split
  · next heq => exact h.unprotect.of_eq_2 heq
  · next heq => exact .ite (.senderReport (h.unprotect.of_eq_2 heq)) (h.unprotect.of_eq_2 heq)

protected theorem CoresWf.rtpPacket {c port : Nat} {f : Frame} (h : CoresWf s) : CoresWf (rtpPacket c port f s) := by
  unfold Machine.rtpPacket
  dsimp only
  refine .ite ?_ ?_
  · exact h.countDrop
  · split
    · next heq => exact h.unprotect.of_eq_2 heq
    · next heq =>
        exact .ite (.countDrop (h.unprotect.of_eq_2 heq)) (.placePacket (.setLevel (h.unprotect.of_eq_2 heq)))

protected theorem CoresWf.execFrameReceive {port : BitVec 1} {f : Frame} (h : CoresWf s) :
    KeepsCoresWf (execFrameReceive port f s) := by
  unfold Machine.execFrameReceive
  dsimp only
  refine .next ?_
  refine .ite ?_ ?_
  · exact h
  · refine .ite ?_ ?_
    · exact h.setPort
    · refine .ite ?_ ?_
      · exact h.setPort
      · refine .ite ?_ ?_
        · exact h.setPort.setPort
        · refine .ite ?_ ?_
          · exact h.setPort
          · refine .ite ?_ ?_
            · exact h.setPort.setPort
            · split
              · exact h.setPort.setPort
              · exact .ite h.setPort (.ite h.setPort.rtcpPacket h.setPort.rtpPacket)

protected theorem CoresWf.execPauseFrame {port : BitVec 1} {quanta : BitVec 16} (h : CoresWf s) :
    KeepsCoresWf (execPauseFrame port quanta s) := .next (.ite h h.setPort.releaseTx)

protected theorem CoresWf.answerIf {own : Bool} {n : Nat} {k : ControlKind} (h : CoresWf s) :
    CoresWf (answerIf own n k s) :=
  .ite h.sendControl h

protected theorem CoresWf.reportGroups {n : Nat} {v6 : Bool} (h : CoresWf s) : CoresWf (reportGroups n v6 s) :=
  h.foldl fun _ _ h => h.sendControl

protected theorem CoresWf.askNextHop {n : Nat} (h : CoresWf s) : CoresWf (askNextHop n s) := .ite h.sendControl h

protected theorem CoresWf.controlBody {n : Nat} {k : ControlKind} (h : CoresWf s) : CoresWf (controlBody n k s) := by
  unfold Machine.controlBody
  dsimp only
  split
  · exact h.answerIf
  · exact h.answerIf
  · exact h.answerIf
  · exact h.answerIf
  · exact .reportGroups (.ite h.setPort h)
  · exact .reportGroups (.ite h.setPort h)
  · exact h.setPort.foldl fun _ _ h => h.askNextHop
  · exact h

protected theorem CoresWf.execControlPacket {port : BitVec 1} {k : ControlKind} (h : CoresWf s) :
    KeepsCoresWf (execControlPacket port k s) := .next (.ite h (.ite h.setPort h.setPort.controlBody))

protected theorem CoresWf.execReorderWaitExpiry {ctx : BitVec 12} (h : CoresWf s) :
    KeepsCoresWf (execReorderWaitExpiry ctx s) := by
  unfold Machine.execReorderWaitExpiry
  dsimp only
  refine .next ?_
  split
  · exact h
  · split
    · exact h
    · split
      · exact h
      · exact .ite h h.takeAu.scanAus

protected theorem CoresWf.flushPort {n : Nat} (h : CoresWf s) : CoresWf (flushPort n s) :=
  h.foldl fun _ _ h => h.flushAll

protected theorem CoresWf.setLink {n : Nat} {up : Bool} (h : CoresWf s) : CoresWf (setLink n up s) :=
  .ite h (.ite (h.hwSet.setPort.updateWire.reportGroups.reportGroups.foldl fun _ _ h => h.askNextHop)
    h.hwSet.setPort.updateWire.flushPort)

protected theorem CoresWf.execPortLinkChange {port : BitVec 1} {up : Bool} (h : CoresWf s) :
    KeepsCoresWf (execPortLinkChange port up s) := .next (.ite h.setLink h)

protected theorem CoresWf.execTruantTimeout {ctx : BitVec 12} (h : CoresWf s) :
    KeepsCoresWf (execTruantTimeout ctx s) :=
  .next (.ite h.transition h)

protected theorem CoresWf.execStashMove (h : CoresWf s) : KeepsCoresWf (execStashMove s) := .next (.ite h.same h)

protected theorem CoresWf.execPoolStage3Shed (h : CoresWf s) : KeepsCoresWf (execPoolStage3Shed s) := by
  unfold Machine.execPoolStage3Shed
  dsimp only
  refine .next ?_
  refine .ite ?_ ?_
  · exact h
  · split
    · exact h
    · exact h.same

protected theorem CoresWf.configPort {p : Packet} (h : CoresWf s) : CoresWf (configPort p s) :=
  .ite h.setLink.setPort h.setLink.setPort.wakeDomain.wakeDomain

protected theorem CoresWf.discardCopies {l : List QRec} (h : CoresWf s) : CoresWf (discardCopies l s) :=
  h.foldl fun _ _ h => h.setStream.poolFree.lastRecordCheck

protected theorem CoresWf.configDest {p : Packet} (h : CoresWf s) : CoresWf (configDest p s) :=
  .ite h.setDest.askNextHop h.setDest.discardCopies

protected theorem CoresWf.configAny {p : Packet} (h : CoresWf s) : CoresWf (configAny p s) :=
  .ite h.configPort h.configDest

protected theorem CoresWf.portConfigBody {f : Fetched} (h : CoresWf s) : CoresWf (portConfigBody f s) :=
  .answer (.ite h.same h.configAny)

protected theorem CoresWf.execPortConfigPort {ring : BitVec 6} {p : Packet} (h : CoresWf s) :
    KeepsCoresWf (execPortConfigPort ring p s) := h.packetStep (fun _ _ h => h.portConfigBody)

protected theorem CoresWf.execPortConfigDatagram {ring : BitVec 6} {p : Packet} (h : CoresWf s) :
    KeepsCoresWf (execPortConfigDatagram ring p s) := h.packetStep (fun _ _ h => h.portConfigBody)

protected theorem CoresWf.applyDeferred (h : CoresWf s) : CoresWf (applyDeferred s) :=
  .foldl h.same fun _ _ h => h.configAny

protected theorem CoresWf.loadKey {c kslot : Nat} {k : KeySlot} (h : CoresWf s) : CoresWf (loadKey c kslot k s) :=
  h.setStream

protected theorem CoresWf.keyLoadBody {blob : HostRead (List Byte)} {f : Fetched} (h : CoresWf s) :
    CoresWf (keyLoadBody blob f s) := by
  unfold Machine.keyLoadBody
  dsimp only
  refine .ite ?_ ?_
  · exact h.answer
  · split
    · exact h.answer
    · split
      · exact h.answer
      · exact h.loadKey.answer

protected theorem CoresWf.execKeyLoad {ring : BitVec 6} {p : Packet} {blob : HostRead (List Byte)} (h : CoresWf s) :
    KeepsCoresWf (execKeyLoad ring p blob s) := h.packetStep (fun _ _ h => h.keyLoadBody)

protected theorem CoresWf.noteAu {cmd : BitVec 6 × BitVec 16} {a : AuPush} (h : CoresWf s) : CoresWf (noteAu cmd a s) :=
  h.same

protected theorem CoresWf.auPushBody {f : Fetched} (h : CoresWf s) : CoresWf (auPushBody f s) := by
  unfold Machine.auPushBody
  dsimp only
  refine .ite ?_ ?_
  · exact h.answer
  · refine .ite ?_ ?_
    · exact h.answer
    · refine .ite ?_ ?_
      · exact h.answer
      · refine .ite ?_ ?_
        · exact h.answer
        · split
          · next heq => exact .answer (h.poolAlloc.of_eq_2 heq)
          · next heq => exact .noteAu (.wait_ (.same (h.poolAlloc.of_eq_2 heq)))

protected theorem CoresWf.execAuPush {ring : BitVec 6} {p : Packet} (h : CoresWf s) :
    KeepsCoresWf (execAuPush ring p s) :=
  h.packetStep (fun _ _ h => h.auPushBody)

protected theorem CoresWf.readIngest {blocks : List Nat} {n : Nat} (h : CoresWf s) :
    CoresWf (readIngest blocks n s).2 := by
  unfold Machine.readIngest
  dsimp only
  exact h.foldl_pair fun _ _ h => h.dpaReadBytes

protected theorem CoresWf.execAuPushComplete {ring : BitVec 6} {tag : BitVec 16} {refFree : Bool} (h : CoresWf s) :
    KeepsCoresWf (execAuPushComplete ring tag refFree s) := by
  unfold Machine.execAuPushComplete
  dsimp only
  refine .next ?_
  split
  · exact .finish (.completeAu (.readIngest h.same))
  · exact h

/-! ### Machine/Admission -/

protected theorem CoresWf.streamOpenBody {f : Fetched} (h : CoresWf s) : CoresWf (streamOpenBody f s) :=
  .ite h.answer h.setStream.answer

protected theorem CoresWf.execStreamOpen {ring : BitVec 6} {p : Packet} (h : CoresWf s) :
    KeepsCoresWf (execStreamOpen ring p s) := h.packetStep (fun _ _ h => h.streamOpenBody)

protected theorem CoresWf.mapPages {x bits : Nat} {pages : List Nat} (h : CoresWf s) :
    CoresWf (mapPages x bits pages s) :=
  .ite h (h.foldl fun _ _ h => h.ptePut)

protected theorem CoresWf.beginAdmission {f : Fetched} {ad : AdmitParams} (h : CoresWf s) :
    CoresWf (beginAdmission f ad s) :=
  .addChange (.wait_ (.mapPages (.setStream h.freePinned.same)))

protected theorem CoresWf.streamAdmitBody {pages units : List Nat} {f : Fetched} (h : CoresWf s) :
    CoresWf (streamAdmitBody pages units f s) := by
  unfold Machine.streamAdmitBody
  dsimp only
  split
  · exact h.answer
  · refine .ite ?_ ?_
    · exact h.answer
    · refine .ite ?_ ?_
      · exact h.answer
      · split
        · exact h.answer
        · exact h.beginAdmission

protected theorem CoresWf.execStreamAdmit {ring : BitVec 6} {p : Packet} {pages units : List Nat} (h : CoresWf s) :
    KeepsCoresWf (execStreamAdmit ring p pages units s) := h.packetStep (fun _ _ h => h.streamAdmitBody)

protected theorem CoresWf.abortAdmission {c : Nat} (h : CoresWf s) : CoresWf (abortAdmission c s) := by
  unfold Machine.abortAdmission
  dsimp only
  split
  · exact h
  · split
    · exact h.dropChanges.undoAdmit.finish
    · exact h.dropChanges.undoAdmit

protected theorem CoresWf.streamCloseBody {f : Fetched} (h : CoresWf s) : CoresWf (streamCloseBody f s) :=
  .ite h.answer (.ite h.abortAdmission.wait_.addChange h.abortAdmission.wait_.closeNow)

protected theorem CoresWf.execStreamClose {ring : BitVec 6} {p : Packet} (h : CoresWf s) :
    KeepsCoresWf (execStreamClose ring p s) := h.packetStep (fun _ _ h => h.streamCloseBody)

protected theorem CoresWf.shedRankBody {f : Fetched} (h : CoresWf s) : CoresWf (shedRankBody f s) :=
  .ite h.answer h.setStream.answer

protected theorem CoresWf.execShedRankSet {ring : BitVec 6} {p : Packet} (h : CoresWf s) :
    KeepsCoresWf (execShedRankSet ring p s) := h.packetStep (fun _ _ h => h.shedRankBody)

protected theorem CoresWf.sheafDefineBody {f : Fetched} (h : CoresWf s) : CoresWf (sheafDefineBody f s) := by
  unfold Machine.sheafDefineBody
  dsimp only
  split
  · exact h.answer
  · refine .ite ?_ ?_
    · exact h.answer
    · split
      · split
        · exact h.answer
        · exact .addChange (.wait_ h.same)
      · exact h.answer

protected theorem CoresWf.execSheafDefine {ring : BitVec 6} {p : Packet} (h : CoresWf s) :
    KeepsCoresWf (execSheafDefine ring p s) := h.packetStep (fun _ _ h => h.sheafDefineBody)

protected theorem CoresWf.changeOrNow {f : Fetched} {k : ChangeKind} (h : CoresWf s) : CoresWf (changeOrNow f k s) :=
  .ite h.wait_.addChange h.wait_.applyChange

protected theorem CoresWf.sheafDissolveBody {f : Fetched} (h : CoresWf s) : CoresWf (sheafDissolveBody f s) :=
  .ite h.answer h.changeOrNow

protected theorem CoresWf.execSheafDissolve {ring : BitVec 6} {p : Packet} (h : CoresWf s) :
    KeepsCoresWf (execSheafDissolve ring p s) := h.packetStep (fun _ _ h => h.sheafDissolveBody)

protected theorem CoresWf.roundConfigBody {f : Fetched} (h : CoresWf s) : CoresWf (roundConfigBody f s) := by
  unfold Machine.roundConfigBody
  dsimp only
  split
  · exact h.answer
  · exact h.changeOrNow

protected theorem CoresWf.execRoundConfig {ring : BitVec 6} {p : Packet} (h : CoresWf s) :
    KeepsCoresWf (execRoundConfig ring p s) := h.packetStep (fun _ _ h => h.roundConfigBody)

protected theorem CoresWf.execSlipRollCall {ctx : BitVec 12} (h : CoresWf s) : KeepsCoresWf (execSlipRollCall ctx s) :=
  .next (.ite h (.ite h.setStream.addChange h.setStream))

protected theorem CoresWf.execRelockRollCall {ctx : BitVec 12} (h : CoresWf s) :
    KeepsCoresWf (execRelockRollCall ctx s) := by
  unfold Machine.execRelockRollCall
  dsimp only
  refine .next ?_
  refine .ite ?_ ?_
  · exact h
  · split
    · exact .ite h.setStream.streamEvent.addChange h.setStream.streamEvent
    · exact h.setStream.streamEvent

/-! ### Machine/NetLoad -/

protected theorem CoresWf.storeWeights {pages : List Nat} {weights : List Byte} (h : CoresWf s) :
    CoresWf (storeWeights pages weights s) := h.foldl fun _ _ h => h.dpaStore

protected theorem CoresWf.loadImage {n : Nat} {v : Network} {w m units : List Nat} {weights : List Byte} (h : CoresWf s) :
    CoresWf (loadImage n v w m units weights s) := .mapPages (.storeWeights (.storeWeights h.setNet.same))

protected theorem CoresWf.networkLoadBody {image : HostRead (List Byte)} {pages : List Nat} {f : Fetched} (h : CoresWf s) :
    CoresWf (networkLoadBody image pages f s) := by
  unfold Machine.networkLoadBody
  dsimp only
  split
  · exact h.answer
  · split
    · exact h.answer
    · split
      · exact h.answer
      · split
        · exact .ite h.answer h.loadImage.answer
        · exact h.answer
        · exact h.answer

protected theorem CoresWf.execNetworkLoad {ring : BitVec 6} {p : Packet} {image : HostRead (List Byte)}
    {pages : List Nat} (h : CoresWf s) :
    KeepsCoresWf (execNetworkLoad ring p image pages s) := h.packetStep (fun _ _ h => h.networkLoadBody)

protected theorem CoresWf.unloadImage {n : Nat} {v : Network} (h : CoresWf s) : CoresWf (unloadImage n v s) :=
  .giveBack h.same

protected theorem CoresWf.networkUnloadBody {f : Fetched} (h : CoresWf s) : CoresWf (networkUnloadBody f s) := by
  unfold Machine.networkUnloadBody
  dsimp only
  split
  · exact h.answer
  · split
    · exact h.answer
    · exact .ite h.answer h.unloadImage.answer

protected theorem CoresWf.execNetworkUnload {ring : BitVec 6} {p : Packet} (h : CoresWf s) :
    KeepsCoresWf (execNetworkUnload ring p s) := h.packetStep (fun _ _ h => h.networkUnloadBody)

/-! ### Machine/Assembly -/

protected theorem CoresWf.storeImages {c : AreaContent} (h : CoresWf s) : CoresWf (storeImages c s) :=
  h.foldl fun _ _ h => .ite h.dpaStore h

protected theorem CoresWf.cleanArea {a : Nat} (h : CoresWf s) : CoresWf (cleanArea a s) := h.same

protected theorem CoresWf.execTimetableMarkComplete {standby : Bool} {area : BitVec 2} {w : AreaWrite} (h : CoresWf s) :
    KeepsCoresWf (execTimetableMarkComplete standby area w s) :=
  .next (.ite h (.ite (.same (.storeImages (.cleanArea (.same (.ite h.same h)))))
    (.same (.storeImages (.cleanArea (.same (.ite h.same h)))))))

/-! ### Machine/Video -/

protected theorem CoresWf.readWords {ad : AdmitParams} {off n : Nat} (h : CoresWf s) :
    CoresWf (readWords ad off n s).2 := by
  induction n generalizing off s with
  | zero =>
    rw [Machine.readWords]
    exact h
  | succ n ih =>
    rw [Machine.readWords]
    exact ih h.dpaReads

protected theorem CoresWf.writeWords {ad : AdmitParams} {off : Nat} {l : List (Word × Bool)} (h : CoresWf s) :
    CoresWf (writeWords ad off l s) := by
  induction l generalizing off s with
  | nil => exact h
  | cons w r ih =>
    rw [writeWords_cons]
    exact ih h.dpaWrites

protected theorem CoresWf.storeRows {ad : AdmitParams} {off pitch : Nat} {rows : List (List Byte)} (h : CoresWf s) :
    CoresWf (storeRows ad off pitch rows s) := h.foldl fun _ _ h => h.writeWords

protected theorem CoresWf.concealBlock {ad : AdmitParams} {a : ParamSet} {src : Option Nat} {dst i : Nat} (h : CoresWf s) :
    CoresWf (concealBlock ad a src dst i s).2 := by
  refine h.foldl_pair fun _ _ h => CoresWf.writeWords ?_
  split
  · exact h.readWords
  · exact h

protected theorem CoresWf.readBlock {ad : AdmitParams} {a : ParamSet} {src i : Nat} (h : CoresWf s) :
    CoresWf (readBlock ad a src i s).2 := by
  unfold Machine.readBlock
  dsimp only
  exact h.foldl_pair fun _ _ h => h.readWords

protected theorem CoresWf.fetchRefs {ad : AdmitParams} {a : ParamSet} {refs : List RefPic} {blocks : List BlockFacts}
    (h : CoresWf s) : CoresWf (fetchRefs ad a refs blocks s).2 := by
  unfold Machine.fetchRefs
  refine h.foldl_pair fun _ _ h => .foldl_2 h fun _ _ h => ?_
  split
  · exact h
  · exact h.readBlock

protected theorem CoresWf.readPlane {ad : AdmitParams} {off pitch b w x5 : Nat} (h : CoresWf s) :
    CoresWf (readPlane ad off pitch b w x5 s).2 := by
  unfold Machine.readPlane
  dsimp only
  exact h.foldl_pair fun _ _ h => h.readWords

protected theorem CoresWf.storeSamples {ad : AdmitParams} {off pitch b : Nat} {rows : List (List (Nat × Bool))}
    (h : CoresWf s) : CoresWf (storeSamples ad off pitch b rows s) := h.foldl fun _ _ h => h.writeWords

protected theorem CoresWf.writeCopy {ad : AdmitParams} {a : ParamSet} {src k : Nat} (h : CoresWf s) :
    CoresWf (writeCopy ad a src k s).2 := .ite_2 (.snd h) (.snd h.readPlane.readPlane.storeSamples.storeSamples)

protected theorem CoresWf.writePicture {ad : AdmitParams} {a : ParamSet} {p : PicFacts} {refs : List RefPic}
    {gone : List Nat} {buffer : Nat} (h : CoresWf s) : CoresWf (writePicture ad a p refs gone buffer s).2 := by
  unfold Machine.writePicture
  dsimp only
  exact .foldl_pair h.storeRows.storeRows fun _ _ h => h.concealBlock

protected theorem CoresWf.writeDecoder {ad : AdmitParams} {off : Nat} {l : List Byte} (h : CoresWf s) :
    CoresWf (writeDecoder ad off l s) := h.foldl fun _ _ h => h.dpaWrites

protected theorem CoresWf.decodeEnded {f g : FrameRec} (h : CoresWf s) : CoresWf (decodeEnded f g s) := by
  unfold Machine.decodeEnded
  dsimp only
  refine .ite ?_ ?_
  · split
    · exact .same h.poolFree.poolFree.same
    · exact h.poolFree.poolFree.same
  · exact h.poolFree.poolFree.same

protected theorem CoresWf.countDecode {n outcome cycles : Nat} {ctx : BitVec 12} (h : CoresWf s) :
    CoresWf (countDecode n outcome cycles ctx s) := h.hwPeak.setDec

protected theorem CoresWf.countRefusal {c : Nat} {counts : Bool} (h : CoresWf s) : CoresWf (countRefusal c counts s) :=
  .ite h (.ite h.setStream.faultStream h.setStream)

protected theorem CoresWf.refusePicture {n outcome : Nat} {p : PicFacts} {f : FrameRec} (h : CoresWf s) :
    CoresWf (refusePicture n outcome p f s) := h.setStream.decodeEnded.countDecode.countRefusal

protected theorem CoresWf.readAu {f : FrameRec} (h : CoresWf s) : CoresWf (readAu f s).2 := by
  unfold Machine.readAu
  exact .foldl_pair (.foldl_pair h fun _ _ h => h.dpaReads) fun _ _ h => h.dpaReads

protected theorem CoresWf.decodeFrame {st : Stream} {a : ParamSet} {short disc : Bool} {p : PicFacts}
    {refs : List RefPic} {seq buffer : Nat} (h : CoresWf s) :
    CoresWf (decodeFrame st a short disc p refs seq buffer s).2.2 := h.fetchRefs.writePicture

protected theorem CoresWf.decodeHidden {c : Nat} {a : ParamSet} {short disc : Bool} {p : PicFacts} {seq : Nat}
    {l : List HiddenFrame} {i : Nat} {refs : List RefPic} (h : CoresWf s) :
    CoresWf (decodeHidden c a short disc p seq l i refs s).2 := by
  induction l generalizing i refs s with
  | nil => exact h
  | cons x r ih => exact ih h.decodeFrame

protected theorem CoresWf.decodeOne {n : Nat} {a : ParamSet} {p : PicFacts} {f : FrameRec} (h : CoresWf s) :
    CoresWf (decodeOne n a p f s) :=
  h.readAu.decodeHidden.decodeFrame.writeCopy.writeDecoder.setStream.decodeEnded.countDecode

protected theorem CoresWf.noPicture {n : Nat} {f : FrameRec} (h : CoresWf s) : CoresWf (noPicture n f s) :=
  h.dropFrame.setDec

protected theorem CoresWf.decodeStep {n : Nat} {p : PicFacts} {f : FrameRec} (h : CoresWf s) :
    CoresWf (decodeStep n p f s) := by
  unfold Machine.decodeStep
  dsimp only
  refine .ite ?_ ?_
  · exact h.setStream.endReplay.noPicture
  · split
    · exact h.setStream.endReplay.refusePicture
    · exact h.setStream.endReplay.decodeOne

protected theorem CoresWf.execDecodePicture {engine : BitVec 5} {f : PicFacts} (h : CoresWf s) :
    KeepsCoresWf (execDecodePicture engine f s) := by
  unfold Machine.execDecodePicture
  refine .next ?_
  split
  · exact h
  · exact h.decodeStep

protected theorem CoresWf.execDecodeWatchdog {engine : BitVec 5} (h : CoresWf s) :
    KeepsCoresWf (execDecodeWatchdog engine s) := by
  unfold Machine.execDecodeWatchdog
  dsimp only
  refine .next ?_
  split
  · exact h
  · exact .ite h h.startReset

protected theorem CoresWf.writeInput {ad : AdmitParams} {off : Nat} {l : List (Word × Bool)} (h : CoresWf s) :
    CoresWf (writeInput ad off l s) := by
  induction l generalizing off s with
  | nil => exact h
  | cons w r ih => exact ih h.dpaWrites

protected theorem CoresWf.readSource {f : FrameRec} (h : CoresWf s) : CoresWf (readSource f s).2 :=
  h.readPlane.readPlane

protected theorem CoresWf.prepare {f : FrameRec} {d : InputDesc} {k : Nat} (h : CoresWf s) :
    CoresWf (prepare f d k s).2 := by
  unfold Machine.prepare
  dsimp only
  exact .writeInput (.foldl_pair h.readSource fun _ _ h => h.writeInput)

protected theorem CoresWf.inputDone {j : Nat} {f : FrameRec} {late : Bool} {i k cycles : Nat} {sat : Bool} (h : CoresWf s) :
    CoresWf (inputDone j f late i k cycles sat s) :=
  .ite (.endReplay (.setPrep (.ite (.hwPeak (.ite h.same h.same)) (.ite h.same h.same))))
    (.setPrep (.ite (.hwPeak (.ite h.same h.same)) (.ite h.same h.same)))

protected theorem CoresWf.execPrepareInput {engine : BitVec 4} {ctx : BitVec 12} {seq : Word} {input cycles : Nat}
    (h : CoresWf s) : KeepsCoresWf (execPrepareInput engine ctx seq input cycles s) := by
  unfold Machine.execPrepareInput
  dsimp only
  refine .next ?_
  split
  · exact h
  · refine .ite ?_ ?_
    · exact h
    · split
      · exact h
      · exact h.prepare.inputDone

protected theorem CoresWf.execPrepWatchdog {engine : BitVec 4} (h : CoresWf s) :
    KeepsCoresWf (execPrepWatchdog engine s) := by
  unfold Machine.execPrepWatchdog
  dsimp only
  refine .next ?_
  split
  · exact h
  · exact .ite h h.startReset

/-! ### Machine/Clips -/

protected theorem CoresWf.clipRequestBody {lists : HostRead ClipLists} {f : Fetched} (h : CoresWf s) :
    CoresWf (clipRequestBody lists f s) := by
  unfold Machine.clipRequestBody
  dsimp only
  split
  · exact h.answer
  · refine .ite ?_ ?_
    · exact h.answer
    · refine .ite ?_ ?_
      · exact h.answer
      · refine .ite ?_ ?_
        · exact h.answer
        · split
          · exact h.answer
          · refine .ite ?_ ?_
            · exact h.answer
            · refine .ite ?_ ?_
              · exact h.answer
              · split
                · exact h.answer
                · exact .ite h.answer (.answer h.same)

protected theorem CoresWf.execClipRequest {ring : BitVec 6} {p : Packet} {lists : HostRead ClipLists} (h : CoresWf s) :
    KeepsCoresWf (execClipRequest ring p lists s) := h.packetStep (fun _ _ h => h.clipRequestBody)

protected theorem CoresWf.clipCancelBody {f : Fetched} (h : CoresWf s) : CoresWf (clipCancelBody f s) := by
  unfold Machine.clipCancelBody
  dsimp only
  split
  · exact h.answer
  · exact .ite h.wait_.endClip h.wait_.setClip

protected theorem CoresWf.execClipCancel {ring : BitVec 6} {p : Packet} (h : CoresWf s) :
    KeepsCoresWf (execClipCancel ring p s) := h.packetStep (fun _ _ h => h.clipCancelBody)

protected theorem CoresWf.startSource {num : BitVec 16} (h : CoresWf s) : CoresWf (startSource num s) := by
  unfold Machine.startSource
  dsimp only
  split
  · exact h
  · refine .ite ?_ ?_
    · exact h
    · split
      · exact h
      · split
        · next heq => exact h.poolAlloc.of_eq_2 heq
        · next heq => exact .same (h.poolAlloc.of_eq_2 heq)

protected theorem CoresWf.execClipStart (h : CoresWf s) : KeepsCoresWf (execClipStart s) := by
  unfold Machine.execClipStart
  dsimp only
  refine .next ?_
  refine .ite ?_ ?_
  · exact h
  · split
    · exact .ite h (.startSource (.setClip (.same (.ite h.setEnc.wakeDomain.sendControl h.setEnc.wakeDomain))))
    · exact h

protected theorem CoresWf.dropSource {num : BitVec 16} {blocks : List Nat} (h : CoresWf s) :
    CoresWf (dropSource num blocks s) := .poolFree h.same

protected theorem CoresWf.giveEncoder {k : Clip} {p : ClipPic} (h : CoresWf s) : CoresWf (giveEncoder k p s) := by
  unfold Machine.giveEncoder
  dsimp only
  split
  · exact h
  · exact h.setEnc.send

protected theorem CoresWf.clipDecoded {e : Nat} {k : Clip} {p : PicFacts} {len : Nat} {flags : BitVec 4} {ts : Word}
    {cap : BitVec 64} (h : CoresWf s) : CoresWf (clipDecoded e k p len flags ts cap s) := by
  unfold Machine.clipDecoded
  dsimp only
  refine .ite ?_ ?_
  · exact h.setClip.setDec
  · split
    · exact h.countDecode.setClip
    · exact .ite h.countDecode.setClip (.ite h.countDecode.setClip h.countDecode.setClip.giveEncoder)

protected theorem CoresWf.execClipDecodePicture {clip : BitVec 16} {f : PicFacts} (h : CoresWf s) :
    KeepsCoresWf (execClipDecodePicture clip f s) := by
  unfold Machine.execClipDecodePicture
  dsimp only
  refine .next ?_
  split
  · exact h
  · refine .ite ?_ ?_
    · exact h
    · refine .ite ?_ ?_
      · exact h.endClip
      · split
        · exact h.startSource
        · split
          · exact h
          · exact .startSource (.clipComplete
              (.ite h.wakeDomain.dropSource.setClip h.wakeDomain.dropSource.clipDecoded))

protected theorem CoresWf.stageBytes {blocks : List Nat} {l : List Byte} (h : CoresWf s) :
    CoresWf (stageBytes blocks l s) :=
  h.foldl fun _ _ h => h.dpaStore

protected theorem CoresWf.emitPicture {k : Clip} {p : ClipPic} {unit stream : List Byte}
    {hostBlocks rtpBlocks : List Nat} (h : CoresWf s) : CoresWf (emitPicture k p unit stream hostBlocks rtpBlocks s).2 :=
  .ite_2 (.snd h.stageBytes.stageBytes.same) (.snd h.stageBytes.stageBytes)

protected theorem CoresWf.clipBoundary {k : Clip} {full : Bool} (h : CoresWf s) : CoresWf (clipBoundary k full s) := by
  unfold Machine.clipBoundary
  split
  · exact h.endClip
  · exact .ite h.endClip (.ite h.endClip h.clipComplete)

protected theorem CoresWf.encodeStep {k : Clip} {e : Nat} {p : ClipPic} {mode : RateMode} {stream : List Byte}
    (h : CoresWf s) : CoresWf (encodeStep k e p mode stream s) := by
  unfold Machine.encodeStep
  dsimp only
  refine .ite ?_ ?_
  · exact h.setEnc.endReplay.setClip.clipBoundary
  · split
    · next heq => exact h.setEnc.endReplay.poolAlloc.of_eq_2 heq
    · next heq => exact .clipBoundary (.setClip (.emitPicture (h.setEnc.endReplay.poolAlloc.of_eq_2 heq)))

protected theorem CoresWf.segmentWait {k : Clip} (h : CoresWf s) : CoresWf (segmentWait k s) := .ite h (.setClip h.same)

protected theorem CoresWf.execClipEncodePicture {clip : BitVec 16} {header : Nat} {rowBits : List (Nat × Nat × Nat)}
    {stream : List Byte} (h : CoresWf s) : KeepsCoresWf (execClipEncodePicture clip header rowBits stream s) := by
  unfold Machine.execClipEncodePicture
  dsimp only
  refine .next ?_
  split
  · exact h
  · split
    · exact .ite h (.ite h.encodeStep h.segmentWait)
    · exact h

protected theorem CoresWf.execClipPacketSend {clip : BitVec 16} (h : CoresWf s) :
    KeepsCoresWf (execClipPacketSend clip s) := by
  unfold Machine.execClipPacketSend
  dsimp only
  refine .next ?_
  split
  · exact h
  · split
    · exact h
    · exact .ite h h.send.setClip.poolFree.clipSweep

protected theorem CoresWf.execEncWatchdog {engine : BitVec 3} (h : CoresWf s) :
    KeepsCoresWf (execEncWatchdog engine s) := by
  unfold Machine.execEncWatchdog
  dsimp only
  refine .next ?_
  refine .ite ?_ ?_
  · exact h
  · split
    · exact h
    · split
      · exact h
      · exact .ite h h.startReset

/-! ### Machine/Fw -/

protected theorem CoresWf.fwEvent {bit : Nat} {w : Fw} (h : CoresWf s) : CoresWf (fwEvent bit w s) :=
  .updateWire (.hwSet (.hwSet h.same))

protected theorem CoresWf.spoilTarget {kind : Nat} (h : CoresWf s) : CoresWf (spoilTarget kind s) :=
  .ite h.same h.same

protected theorem CoresWf.storeImage {kind : Nat} {m : FwImage} (h : CoresWf s) : CoresWf (storeImage kind m s) :=
  .ite h.fwEvent h.fwEvent

protected theorem CoresWf.fwStageBody {kind : Nat} {image : HostRead (List Byte)} {programmed : Bool} {f : Fetched}
    (h : CoresWf s) : CoresWf (fwStageBody kind image programmed f s) := by
  unfold Machine.fwStageBody
  dsimp only
  refine .ite ?_ ?_
  · exact h.answer
  · split
    · exact h.spoilTarget.answer
    · split
      · exact .answer (.ite h.spoilTarget.psramStore h.spoilTarget)
      · exact .ite (.answer (.ite h.spoilTarget.psramStore h.spoilTarget))
          (.answer (.storeImage (.ite h.spoilTarget.psramStore h.spoilTarget)))

protected theorem CoresWf.execFwStageBailiff {ring : BitVec 6} {p : Packet} {image : HostRead (List Byte)}
    {programmed : Bool} (h : CoresWf s) :
    KeepsCoresWf (execFwStageBailiff ring p image programmed s) := h.packetStep (fun _ _ h => h.fwStageBody)

protected theorem CoresWf.execFwStagePatch {ring : BitVec 6} {p : Packet} {image : HostRead (List Byte)}
    {programmed : Bool} (h : CoresWf s) :
    KeepsCoresWf (execFwStagePatch ring p image programmed s) := h.packetStep (fun _ _ h => h.fwStageBody)

protected theorem CoresWf.fwArmBailiffBody {f : Fetched} (h : CoresWf s) : CoresWf (fwArmBailiffBody f s) :=
  .ite h.answer (.answer h.same)

protected theorem CoresWf.fwArmPatchBody {f : Fetched} (h : CoresWf s) : CoresWf (fwArmPatchBody f s) := by
  unfold Machine.fwArmPatchBody
  dsimp only
  split
  · exact h.answer
  · exact .ite h.answer (.answer h.same)

protected theorem CoresWf.execFwArmBailiff {ring : BitVec 6} {p : Packet} (h : CoresWf s) :
    KeepsCoresWf (execFwArmBailiff ring p s) := h.packetStep (fun _ _ h => h.fwArmBailiffBody)

protected theorem CoresWf.execFwArmPatch {ring : BitVec 6} {p : Packet} (h : CoresWf s) :
    KeepsCoresWf (execFwArmPatch ring p s) := h.packetStep (fun _ _ h => h.fwArmPatchBody)

protected theorem CoresWf.beginSwitch {cmd : Option (BitVec 6 × BitVec 16)} (h : CoresWf s) :
    CoresWf (beginSwitch cmd s) :=
  h.same

protected theorem CoresWf.fwActivateBody {f : Fetched} (h : CoresWf s) : CoresWf (fwActivateBody f s) := by
  unfold Machine.fwActivateBody
  dsimp only
  split
  · exact h.answer
  · exact .ite h.beginSwitch.wait_ (.ite (.wait_ h.same) h.answer)

protected theorem CoresWf.fwDisarmBody {f : Fetched} (h : CoresWf s) : CoresWf (fwDisarmBody f s) := by
  unfold Machine.fwDisarmBody
  dsimp only
  split
  · exact h.answer
  · exact .ite (.answer h.same) h.answer

protected theorem CoresWf.execFwActivate {ring : BitVec 6} {p : Packet} (h : CoresWf s) :
    KeepsCoresWf (execFwActivate ring p s) := h.packetStep (fun _ _ h => h.fwActivateBody)

protected theorem CoresWf.execFwDisarm {ring : BitVec 6} {p : Packet} (h : CoresWf s) :
    KeepsCoresWf (execFwDisarm ring p s) :=
  h.packetStep (fun _ _ h => h.fwDisarmBody)

protected theorem CoresWf.execQuiesceTimeout (h : CoresWf s) : KeepsCoresWf (execQuiesceTimeout s) :=
  .next (.ite h.same h)

protected theorem CoresWf.fwFallback (h : CoresWf s) : CoresWf (fwFallback s) :=
  .finishAll (.fwEvent h.faultSimple.same)

protected theorem CoresWf.execBootLoadComplete {blocksOk : Bool} (h : CoresWf s) :
    KeepsCoresWf (execBootLoadComplete blocksOk s) :=
  .next (.ite h (.ite h.fwFallback (.finishAll (.fwEvent h.same))))

protected theorem CoresWf.execRemainingBlockLoad {block : Nat} {ok : Bool} (h : CoresWf s) :
    KeepsCoresWf (execRemainingBlockLoad block ok s) := .next (.ite h (.ite h.same (.ite h.fwFallback h)))

protected theorem CoresWf.execSyncInEdge (h : CoresWf s) : KeepsCoresWf (execSyncInEdge s) :=
  .next (.ite h (.ite (.ite h.leaveLow.pmeD3hot.same h.leaveLow.pmeD3hot.beginSwitch) h.leaveLow.fwEvent))

protected theorem CoresWf.execConfirmRequest (h : CoresWf s) : KeepsCoresWf (execConfirmRequest s) :=
  .next (.ite h h.fwEvent)

protected theorem CoresWf.execTrialTimeout (h : CoresWf s) : KeepsCoresWf (execTrialTimeout s) :=
  .next (.ite h.leaveLow.fwFallback h)

protected theorem CoresWf.bailiffRestart {reason : Nat} (h : CoresWf s) : CoresWf (bailiffRestart reason s) :=
  .ite h (.ite h.fwFallback (.fwEvent h.faultSimple.same))

protected theorem CoresWf.execAliveTimeout (h : CoresWf s) : KeepsCoresWf (execAliveTimeout s) :=
  .next (.ite h.leaveLow.bailiffRestart h)

protected theorem CoresWf.execFirewallBlock {write : Bool} (h : CoresWf s) : KeepsCoresWf (execFirewallBlock write s) :=
  .next h.bailiffRestart

protected theorem CoresWf.execMgmtSramError (h : CoresWf s) : KeepsCoresWf (execMgmtSramError s) :=
  .next h.bailiffRestart

protected theorem CoresWf.fwCtrl {value : Word} (h : CoresWf s) : CoresWf (fwCtrl value s) :=
  .ite (.fwFallback (.ite h.same h)) (.ite h.same h)

protected theorem CoresWf.execFwConfirm {value : Word} (h : CoresWf s) : KeepsCoresWf (execFwConfirm value s) := by
  unfold Machine.execFwConfirm
  refine .ite ?_ ?_
  · exact .fault
  · exact .next (.ite h.fwCtrl h)

protected theorem CoresWf.execFwReject {value : Word} (h : CoresWf s) : KeepsCoresWf (execFwReject value s) := by
  unfold Machine.execFwReject
  refine .ite ?_ ?_
  · exact .fault
  · exact .next (.ite h.fwCtrl h)

protected theorem CoresWf.doeRespond {bytes : List Byte} (h : CoresWf s) : CoresWf (doeRespond bytes s) :=
  .ite (.send h.same) h

protected theorem CoresWf.spdmStep {need : Nat} {bytes : List Byte} (h : CoresWf s) : CoresWf (spdmStep need bytes s) :=
  .ite h.doeRespond h.doeRespond

protected theorem CoresWf.setSpdm {n : Nat} (h : CoresWf s) : CoresWf (setSpdm n s) := .ite h.same h

protected theorem CoresWf.execGetVersion (h : CoresWf s) : KeepsCoresWf (execGetVersion s) := .next h.setSpdm.doeRespond

protected theorem CoresWf.execGetCapabilities (h : CoresWf s) : KeepsCoresWf (execGetCapabilities s) :=
  .next (.spdmStep (.ite h.setSpdm h))

protected theorem CoresWf.execNegotiateAlgorithms (h : CoresWf s) : KeepsCoresWf (execNegotiateAlgorithms s) :=
  .next (.spdmStep (.ite h.setSpdm h))

protected theorem CoresWf.execGetDigests (h : CoresWf s) : KeepsCoresWf (execGetDigests s) := .next h.spdmStep

protected theorem CoresWf.execGetCertificate {slot offset length : Nat} (h : CoresWf s) :
    KeepsCoresWf (execGetCertificate slot offset length s) := .next h.spdmStep

protected theorem CoresWf.spdmNonce (h : CoresWf s) : CoresWf (spdmNonce s).2 := h.drawFree

protected theorem CoresWf.execChallenge {slot : Nat} {nonce : List Byte} (h : CoresWf s) :
    KeepsCoresWf (execChallenge slot nonce s) := .next (.ite h.spdmStep h.spdmNonce.spdmStep)

protected theorem CoresWf.execGetMeasurements {nonce : List Byte} (h : CoresWf s) :
    KeepsCoresWf (execGetMeasurements nonce s) := .next h.spdmNonce.spdmStep

protected theorem CoresWf.execSpdmUnsupportedRequest {code : Byte} (h : CoresWf s) :
    KeepsCoresWf (execSpdmUnsupportedRequest code s) := .next h.doeRespond

protected theorem CoresWf.execDoeAbort (h : CoresWf s) : KeepsCoresWf (execDoeAbort s) := .next (.ite h.same h)

/-! ### Machine/Power -/

protected theorem CoresWf.idleAgain {d : Nat} (h : CoresWf s) : CoresWf (idleAgain d s) := by
  unfold Machine.idleAgain
  dsimp only
  split
  · exact h.setDec
  · exact h.setPrep
  · exact h.setEnc
  · exact h

protected theorem CoresWf.powerUp {d : Nat} (h : CoresWf s) : CoresWf (powerUp d s) :=
  .ite h.corePowerOn (.ite h.wakeDomain h.wakeDomain.idleAgain)

protected theorem CoresWf.clearBank {b : Nat} (h : CoresWf s) : CoresWf (clearBank b s) := h.same

protected theorem CoresWf.switchOff {d : Nat} {mode : BitVec 2} (h : CoresWf s) : CoresWf (switchOff d mode s) :=
  .ite h.corePowerOff (.ite h (.ite (.clearBank h.same) h.same))

protected theorem CoresWf.recessEnterBody {f : Fetched} (h : CoresWf s) : CoresWf (recessEnterBody f s) := by
  unfold Machine.recessEnterBody
  dsimp only
  split
  · exact h.answer
  · split
    · exact h.answer
    · exact .wait_ h.same

protected theorem CoresWf.execRecessEnter {ring : BitVec 6} {p : Packet} (h : CoresWf s) :
    KeepsCoresWf (execRecessEnter ring p s) := h.packetStep (fun _ _ h => h.recessEnterBody)

protected theorem CoresWf.recessReached {e : RecessEntry} (h : CoresWf s) : CoresWf (recessReached e s) :=
  .finish (.enterLow h.same)

protected theorem CoresWf.entryStep {d : Nat} (h : CoresWf s) : CoresWf (entryStep d s) := by
  unfold Machine.entryStep
  dsimp only
  split
  · exact h
  · exact .ite h (.ite (.recessReached h.same) h.same)

protected theorem CoresWf.refuseBy {d reason : Nat} (h : CoresWf s) : CoresWf (refuseBy d reason s) := by
  unfold Machine.refuseBy
  dsimp only
  split
  · exact .ite (.idleAgain h.same)
      (.finish (.updateWire (.hwSet (.newRound (.same (.foldl h.same fun _ _ h => h.powerUp))))))
  · exact .idleAgain h.same

protected theorem CoresWf.askOff {d : Nat} {mode : BitVec 2} (h : CoresWf s) : CoresWf (askOff d mode s) := .send h.same

protected theorem CoresWf.execEngineIdleOff {kind : VideoKind} {index : BitVec 5} (h : CoresWf s) :
    KeepsCoresWf (execEngineIdleOff kind index s) := .next (.ite h.askOff h)

protected theorem CoresWf.execOffReq {domain : BitVec 9} {mode : BitVec 2} (h : CoresWf s) :
    KeepsCoresWf (execOffReq domain mode s) := .next (.ite h.askOff h)

protected theorem CoresWf.execAck {domain : BitVec 9} (h : CoresWf s) : KeepsCoresWf (execAck domain s) := by
  unfold Machine.execAck
  dsimp only
  refine .next ?_
  split
  · exact h
  · exact .ite h (.entryStep (.switchOff h.same))

protected theorem CoresWf.execDelay {domain : BitVec 9} {reason : Byte} {us : Nat} (h : CoresWf s) :
    KeepsCoresWf (execDelay domain reason us s) := by
  unfold Machine.execDelay
  dsimp only
  refine .next ?_
  split
  · exact h
  · exact .ite h h.same

protected theorem CoresWf.execRefuse {domain : BitVec 9} {reason : Byte} (h : CoresWf s) :
    KeepsCoresWf (execRefuse domain reason s) := by
  unfold Machine.execRefuse
  dsimp only
  refine .next ?_
  split
  · exact h
  · exact .ite h.refuseBy h

protected theorem CoresWf.execDelayExpired {domain : BitVec 9} (h : CoresWf s) :
    KeepsCoresWf (execDelayExpired domain s) := by
  unfold Machine.execDelayExpired
  dsimp only
  refine .next ?_
  split
  · exact .ite h.refuseBy h
  · exact h

protected theorem CoresWf.requestWake {d : Nat} (h : CoresWf s) : CoresWf (requestWake d s) :=
  .ite (.ite h h.same) (.send h.same)

protected theorem CoresWf.execWakeReq {domain : BitVec 9} (h : CoresWf s) : KeepsCoresWf (execWakeReq domain s) :=
  .next (.ite h.requestWake h)

protected theorem CoresWf.execReady {domain : BitVec 9} (h : CoresWf s) : KeepsCoresWf (execReady domain s) :=
  .next (.ite (.powerUp h.same) h)

protected theorem CoresWf.touchDomain {d : Nat} (h : CoresWf s) : CoresWf (touchDomain d s) := h.same

protected theorem CoresWf.hostWake {d : Nat} {stallUs : BitVec 16} (h : CoresWf s) : CoresWf (hostWake d stallUs s) :=
  .ite h (.ite h.requestWake
    (.ite (.same (.ite (.hwPeak h.same) (.powerUp (.hwPeak h.same))))
    (.ite (.hwPeak h.same) (.powerUp (.hwPeak h.same)))))

protected theorem CoresWf.execHostAccessWake {offset : BitVec 24} {stallUs : BitVec 16} (h : CoresWf s) :
    KeepsCoresWf (execHostAccessWake offset stallUs s) := .next (.ite h h.hostWake)

protected theorem CoresWf.execRecessDomainRevert {domain : BitVec 9} (h : CoresWf s) :
    KeepsCoresWf (execRecessDomainRevert domain s) := by
  unfold Machine.execRecessDomainRevert
  dsimp only
  refine .next ?_
  refine .ite ?_ ?_
  · exact h
  · split
    · exact h
    · exact .ite h.same (.switchOff h.same)

protected theorem CoresWf.recessExitBody {f : Fetched} (h : CoresWf s) : CoresWf (recessExitBody f s) :=
  .ite h.answer (.wait_ h.leaveLow.same)

protected theorem CoresWf.execRecessExit {ring : BitVec 6} {p : Packet} (h : CoresWf s) :
    KeepsCoresWf (execRecessExit ring p s) := h.packetStep (fun _ _ h => h.recessExitBody)

protected theorem CoresWf.exitCore {n : Nat} (h : CoresWf s) : CoresWf (exitCore n s) := h.coreLoad.setFields rfl

protected theorem CoresWf.recessReset {banksOff : Bool} (h : CoresWf s) : CoresWf (recessReset banksOff s) := h.same

/-- The stages of a Recess exit, in the order of the definition. -/
protected theorem CoresWf.finishExit {cmd : BitVec 6 × BitVec 16} (h : CoresWf s) : CoresWf (finishExit cmd s) := by
  unfold Machine.finishExit
  extract_lets todo woken reset loaded rounded answered pwr released switched later
  have hwoken : CoresWf woken := h.foldl fun _ _ h => h.powerUp
  have hreset : CoresWf reset := hwoken.recessReset
  have hloaded : CoresWf loaded := .applyDeferred (hreset.foldl fun _ _ h => h.exitCore)
  have hanswered : CoresWf answered := hloaded.newRound.finish
  have hreleased : CoresWf released := hanswered.same
  have hswitched : CoresWf switched := .ite (hreleased.beginSwitch.ite hreleased) hanswered
  clear_value switched
  have hcleared : CoresWf { switched with flt := { switched.flt with later := [] } } := hswitched.same
  exact hcleared.foldl fun _ _ h => h.startReset

protected theorem CoresWf.execRecessExitRoundStart (h : CoresWf s) : KeepsCoresWf (execRecessExitRoundStart s) := by
  unfold Machine.execRecessExitRoundStart
  refine .next ?_
  split
  · next cmd _ =>
    have hexit : CoresWf (Machine.finishExit cmd s) := h.finishExit
    generalize Machine.finishExit cmd s = u at hexit
    exact .ite h (.ite hexit.same hexit)
  · exact h

protected theorem CoresWf.execAonFullReached (h : CoresWf s) : KeepsCoresWf (execAonFullReached s) := by
  unfold Machine.execAonFullReached
  dsimp only
  refine .next ?_
  split
  · exact .ite (.foldl h.same fun _ _ h => h.requestWake) h
  · exact h

protected theorem CoresWf.execClkreqLinkExit (h : CoresWf s) : KeepsCoresWf (execClkreqLinkExit s) :=
  .next (.ite (.hostReturned (.restoreWire (.leaveLow h.same))) h)

protected theorem CoresWf.execBrownout (h : CoresWf s) : KeepsCoresWf (execBrownout s) :=
  .next (.enterOos (.faultSimple (.hwSet h.same)))

protected theorem CoresWf.execBrownoutRecovery (h : CoresWf s) : KeepsCoresWf (execBrownoutRecovery s) :=
  .next (.ite (.enterLow h.same) h)

/-! ### Machine/Fallow -/

protected theorem CoresWf.testHangs {r : FallowResult} {cores : List Nat} (h : CoresWf s) :
    CoresWf (testHangs r cores s) :=
  h.foldl fun _ _ h => h.corePowerOff

protected theorem CoresWf.testHang {r : FallowResult} {k : VideoKind} {i : Nat} (h : CoresWf s) :
    CoresWf (testHang r k i s) :=
  .ite h.switchOff h

protected theorem CoresWf.testedCore {n : Nat} (h : CoresWf s) : CoresWf (testedCore n s) :=
  .ite h (.ite h.same (.setCore h.drawFree (coreWf_empty rfl rfl)))

protected theorem CoresWf.coreResult {fail : Bool} {n : Nat} (h : CoresWf s) : CoresWf (coreResult fail n s) :=
  .ite (h.setFields rfl) (.ite (.decideCore (h.setFields rfl)) (.recordFault (.same (h.setFields rfl))))

protected theorem CoresWf.testGroup {g : Nat} {r : FallowResult} (h : CoresWf s) : CoresWf (testGroup g r s) :=
  .testHangs (.foldl (.foldl h.same fun _ _ h => h.testedCore) fun _ _ h => h.coreResult)

protected theorem CoresWf.testVideo {r : FallowResult} (h : CoresWf s) : CoresWf (testVideo r s) :=
  .ite h.same (.ite (.same h.same)
    (.ite (.setFailed h.same)
    (.ite (.decideEngine (.setFailed (.testHang h.same)))
    (.same (.recordFault (.setFailed (.testHang h.same)))))))

protected theorem CoresWf.noteTrained {g : Nat} {fail : Bool} (h : CoresWf s) : CoresWf (noteTrained g fail s) := h.same

protected theorem CoresWf.trainGroup {g : Nat} {fail : Bool} (h : CoresWf s) : CoresWf (trainGroup g fail s) :=
  .ite h.noteTrained.same (.ite (.losePc h.noteTrained.same) h.noteTrained.same)

protected theorem CoresWf.runSegment {r : FallowResult} {t : TestReq} (h : CoresWf s) :
    CoresWf (runSegment r t s).2 := by
  unfold Machine.runSegment
  have htested : CoresWf (testHangs r (testCores s t) ((testCores s t).foldl (fun s n => testedCore n s) s)) :=
    .testHangs (h.foldl fun _ _ h => h.testedCore)
  have hhung : ∀ {u}, CoresWf u → CoresWf (match t.test with
      | 3 => testHang r .decode t.target u
      | 4 => testHang r .prep t.target u
      | 5 => testHang r .encode t.target u
      | _ => u) := by
    intro u hu
    split
    · exact hu.testHang
    · exact hu.testHang
    · exact hu.testHang
    · exact hu
  have hdecided : ∀ {u}, CoresWf u → CoresWf (match t.test with
      | 3 => decideEngine .decode t.target u
      | 4 => decideEngine .prep t.target u
      | 5 => decideEngine .encode t.target u
      | _ => ((testCores s t).filter (coreFailed r)).foldl (fun s n => decideCore n s) u) := by
    intro u hu
    split
    · exact hu.decideEngine
    · exact hu.decideEngine
    · exact hu.decideEngine
    · exact hu.foldl fun _ _ h => h.decideCore
  have hs := hhung htested
  exact .ite_2 h (.ite_2 (.snd (.ite hs.trainGroup hs))
    (.ite_2 (.snd (.ite hs.trainGroup hs)) (.snd (hdecided hs))))

protected theorem CoresWf.runSegments {r : FallowResult} {k : Nat} {t : TestReq} (h : CoresWf s) :
    CoresWf (runSegments r k t s).2 := by
  induction k generalizing t s with
  | zero => exact h
  | succ k ih => exact ih h.runSegment

protected theorem CoresWf.requestedTest {r : FallowResult} (h : CoresWf s) : CoresWf (requestedTest r s).2 := by
  unfold Machine.requestedTest
  dsimp only
  split
  · exact h
  · exact .ite_2 (.snd h)
      (.ite_2 (.snd (.finish h.same))
      (.ite_2 (.snd (.same (.ite_2 h.runSegments h.runSegment)))
      (.ite_2 (.snd (.same (.ite_2 h.runSegments h.runSegment)))
      (.snd (.finish (.same (.ite_2 h.runSegments h.runSegment)))))))

protected theorem CoresWf.execFallowSlot {r : FallowResult} (h : CoresWf s) : KeepsCoresWf (execFallowSlot r s) :=
  .next (.ite h (.lastRecordSweep
    (.same (.ite (.ite (.ite (.requestedTest (.scrub (.injections (.same (.ite h.emitAll h)))))
    (.testGroup (.requestedTest (.scrub (.injections (.same (.ite h.emitAll h)))))))
    (.testVideo (.ite (.requestedTest (.scrub (.injections (.same (.ite h.emitAll h)))))
    (.testGroup (.requestedTest (.scrub (.injections (.same (.ite h.emitAll h)))))))))
    (.trainGroup (.ite (.ite (.requestedTest (.scrub (.injections (.same (.ite h.emitAll h)))))
    (.testGroup (.requestedTest (.scrub (.injections (.same (.ite h.emitAll h)))))))
    (.testVideo (.ite (.requestedTest (.scrub (.injections (.same (.ite h.emitAll h)))))
    (.testGroup (.requestedTest (.scrub (.injections (.same (.ite h.emitAll h))))))))))))))

/-! ### Machine/Host -/

protected theorem CoresWf.configOn (h : CoresWf s) : CoresWf (configOn s) := h.same

protected theorem CoresWf.removalCause {c : BitVec 3} (h : CoresWf s) : CoresWf (removalCause c s) := h.same

protected theorem CoresWf.surprise {c : BitVec 3} (h : CoresWf s) : CoresWf (surprise c s) :=
  .ite h.removalCause.faultSimple h

protected theorem CoresWf.linkGone (h : CoresWf s) : CoresWf (linkGone s) := CoresWf.parkHostLink h.same

protected theorem CoresWf.execLinkLoss (h : CoresWf s) : KeepsCoresWf (execLinkLoss s) :=
  .next (.ite h h.linkGone.surprise)

protected theorem CoresWf.execRefclkLost (h : CoresWf s) : KeepsCoresWf (execRefclkLost s) :=
  .next (.ite (.surprise (.linkGone h.same)) h.same)

protected theorem CoresWf.execRefclkReturn (h : CoresWf s) : KeepsCoresWf (execRefclkReturn s) := .next h.same

protected theorem CoresWf.execLinkReturnL0 (h : CoresWf s) : KeepsCoresWf (execLinkReturnL0 s) :=
  .next (.ite h.same (.ite (.hostReturned (.restoreWire h.same)) h))

protected theorem CoresWf.execL0sEntry {transmit : Bool} (h : CoresWf s) : KeepsCoresWf (execL0sEntry transmit s) :=
  .next (.ite (.send h.same) h)

protected theorem CoresWf.execL1Request {substate : Bool} (h : CoresWf s) : KeepsCoresWf (execL1Request substate s) :=
  .next (.ite (.enterLow (.send h.same)) h)

protected theorem CoresWf.execD3hotEntry {pmcsr : BitVec 16} (h : CoresWf s) : KeepsCoresWf (execD3hotEntry pmcsr s) :=
  .next (.ite (.enterLow (.same h.configOn.dropWire.holdIssue)) h)

protected theorem CoresWf.execD0Return {pmcsr : BitVec 16} (h : CoresWf s) : KeepsCoresWf (execD0Return pmcsr s) :=
  have hs := h.configOn.leaveLow
  .next (.ite (.hostReturned (.restoreWire hs.same)) h)

protected theorem CoresWf.execPmeTurnOff (h : CoresWf s) : KeepsCoresWf (execPmeTurnOff s) :=
  .next (.ite (.same h.dropWire.send) h)

protected theorem CoresWf.cardWake (h : CoresWf s) : CoresWf (cardWake s) :=
  .ite h.pmeD3hot (.ite (.send h.same) h)

protected theorem CoresWf.execFlr (h : CoresWf s) : KeepsCoresWf (execFlr s) :=
  .next (.ite (.same h.configOn.dropWire) h)

protected theorem CoresWf.execFlrComplete (h : CoresWf s) : KeepsCoresWf (execFlrComplete s) :=
  .next (.ite h (.ite h.functionReset.same h.functionReset.becomeReady))

protected theorem CoresWf.execPresenceLost (h : CoresWf s) : KeepsCoresWf (execPresenceLost s) :=
  .next (.ite h (.ite (.cardWake h.same)
    (.surprise (.updateWire (.holdIssue (.hwSet (.same (.cardWake h.same))))))))

protected theorem CoresWf.execPresenceRestored (h : CoresWf s) : KeepsCoresWf (execPresenceRestored s) :=
  .next (.ite h (.ite (.cardWake h.same)
    (.hostReturned (.updateWire (.hwSet (.same (.cardWake h.same)))))))

protected theorem CoresWf.execAttnBtnPress (h : CoresWf s) : KeepsCoresWf (execAttnBtnPress s) :=
  .next (.ite (.leaveLow (.cardWake h.same))
    (.updateWire (.hwSet (.same (.leaveLow (.cardWake h.same))))))

protected theorem CoresWf.outOfReset (h : CoresWf s) : CoresWf (outOfReset s) :=
  .ite h (.ite (.faultSimple h.same) h.same)

protected theorem CoresWf.execPerstAssert (h : CoresWf s) : KeepsCoresWf (execPerstAssert s) :=
  .next (.ite h .powerOnReset)

protected theorem CoresWf.execPerstDeassert {fails : List PostFail} (h : CoresWf s) :
    KeepsCoresWf (execPerstDeassert fails s) :=
  .next (.ite h (.ite (.outOfReset h.same)
    (.classCheck (.foldl (.outOfReset h.same) fun _ _ h => h.postFail))))

protected theorem CoresWf.execBootComplete (h : CoresWf s) : KeepsCoresWf (execBootComplete s) :=
  .next (.ite h.becomeReady h)

protected theorem CoresWf.execMainPwrgdRise (h : CoresWf s) : KeepsCoresWf (execMainPwrgdRise s) :=
  .next (.ite h (.outOfReset h.same))

protected theorem CoresWf.execMainPwrgdFall (h : CoresWf s) : KeepsCoresWf (execMainPwrgdFall s) :=
  .next (.ite h .powerOnReset)

protected theorem CoresWf.execAonPowerUp (s : State) : KeepsCoresWf (execAonPowerUp s) :=
  .next (CoresWf.powerOnReset (s := s) |>.same)

protected theorem CoresWf.execRailFault {rails : List (BitVec 4)} (h : CoresWf s) :
    KeepsCoresWf (execRailFault rails s) := by
  unfold Machine.execRailFault
  refine .next ?_
  split
  · exact h
  · exact .ite h .powerOnReset

protected theorem CoresWf.thermalShed (h : CoresWf s) : CoresWf (thermalShed s) := by
  unfold Machine.thermalShed
  dsimp only
  split
  · exact h
  · exact h.same

protected theorem CoresWf.emergency {entered : Bool} (h : CoresWf s) : CoresWf (emergency entered s) :=
  .ite (.ite h h.thermalShed) (.ite h.same (.enterOos (.ite h.same (.faultSimple h.same))))

protected theorem CoresWf.execThermalSample {t : Temps} (h : CoresWf s) : KeepsCoresWf (execThermalSample t s) :=
  .next (.ite h.same
    (.ite (.ite (.faultSimple (.hwSet (.ite (.hwSet h.same) h.same)))
    (.ite (.hwSet h.same) h.same))
    (.emergency (.ite (.faultSimple (.hwSet (.ite (.hwSet h.same) h.same)))
    (.ite (.hwSet h.same) h.same)))))

protected theorem CoresWf.execThermalShedTimer (h : CoresWf s) : KeepsCoresWf (execThermalShedTimer s) := by
  unfold Machine.execThermalShedTimer
  refine .next ?_
  split
  · exact .ite h.thermalShed h
  · exact h

protected theorem CoresWf.execThermalTrip (h : CoresWf s) : KeepsCoresWf (execThermalTrip s) :=
  .next (.ite h .powerOnReset)

protected theorem CoresWf.execPcieRequestUnsupported {r : BadRequest} (h : CoresWf s) :
    KeepsCoresWf (execPcieRequestUnsupported r s) := by
  unfold Machine.execPcieRequestUnsupported
  refine .next (.ite h ?_)
  split
  · exact h.send
  · exact h.send
  · exact h.send
  · exact .ite h h.send
  · exact .ite h h.send
  · exact .ite h.send h.send
  · exact .ite h.same h.send
  · exact h
  · exact .ite h.send h.send
  · exact .ite h.configOn.send h

protected theorem CoresWf.execPoisonedWrite {bar : Nat} {offset : BitVec 29} (h : CoresWf s) :
    KeepsCoresWf (execPoisonedWrite bar offset s) := .next (.ite h (.ite h.same h.send))

/-! ### Machine/Jobs -/

protected theorem CoresWf.jobSubmitBody {f : Fetched} (h : CoresWf s) : CoresWf (jobSubmitBody f s) := by
  unfold Machine.jobSubmitBody
  dsimp only
  split
  · exact h.answer
  · split
    · exact h.answer
    · exact .startInputs (.wait_ h.same)

protected theorem CoresWf.execJobSubmit {ring : BitVec 6} {p : Packet} (h : CoresWf s) :
    KeepsCoresWf (execJobSubmit ring p s) := h.packetStep (fun _ _ h => h.jobSubmitBody)

protected theorem CoresWf.jobCancelBody {f : Fetched} (h : CoresWf s) : CoresWf (jobCancelBody f s) := by
  unfold Machine.jobCancelBody
  dsimp only
  split
  · exact h.answer
  · exact .ite h.wait_.same h.wait_.endJob

protected theorem CoresWf.execJobCancel {ring : BitVec 6} {p : Packet} (h : CoresWf s) :
    KeepsCoresWf (execJobCancel ring p s) := h.packetStep (fun _ _ h => h.jobCancelBody)

/-! ### Machine/Regs -/

protected theorem CoresWf.glbWrite {o : Nat} {v : Word} {be : BitVec 4} (h : CoresWf s) :
    CoresWf (glbWrite o v be s) := by
  unfold Machine.glbWrite
  dsimp only
  split
  · exact h.same
  · exact h.same
  · exact h.same
  · exact h.same
  · exact h.same
  · exact h.same
  · exact h.same
  · exact h

protected theorem CoresWf.cmdClear {o : Nat} (h : CoresWf s) : CoresWf (cmdClear o s) := by
  unfold Machine.cmdClear
  dsimp only
  split
  · exact h.setMr
  · exact h

protected theorem CoresWf.setBase {k : RingKind} {n : Nat} {b : BitVec 64} (h : CoresWf s) :
    CoresWf (setBase k n b s) := by
  unfold Machine.setBase
  dsimp only
  split
  · exact h.setSq
  · exact h.setCq
  · exact h.setMr

protected theorem CoresWf.baseWrite {k : RingKind} {n : Nat} {lo hi : Word} (h : CoresWf s) :
    CoresWf (baseWrite k n lo hi s) :=
  .ite h.errCfg h.setBase

protected theorem CoresWf.ringWrite {k : RingKind} {n o : Nat} {v : Word} {be : BitVec 4} (h : CoresWf s) :
    CoresWf (ringWrite k n o v be s) := by
  unfold Machine.ringWrite
  dsimp only
  split
  · exact h.baseWrite
  · exact h.baseWrite
  · exact h.cfgWrite
  · exact h

protected theorem CoresWf.cmdWrite {o : Nat} {v : Word} {be : BitVec 4} (h : CoresWf s) :
    CoresWf (cmdWrite o v be s) := by
  unfold Machine.cmdWrite
  dsimp only
  split
  · exact h.same
  · exact h.same
  · split
    · exact h.ringWrite
    · exact h

protected theorem CoresWf.portClear {n o : Nat} (h : CoresWf s) : CoresWf (portClear n o s) := by
  unfold Machine.portClear
  dsimp only
  split
  · exact h.setPort
  · exact h.setPort
  · exact h.setPort
  · exact h.setPort
  · exact h.setPort
  · exact h.setPort
  · exact h

protected theorem CoresWf.ingClear {o : Nat} (h : CoresWf s) : CoresWf (ingClear o s) := .ite h.portClear h

protected theorem CoresWf.ingWrite {o : Nat} {v : Word} {be : BitVec 4} (h : CoresWf s) : CoresWf (ingWrite o v be s) :=
  .ite h.setPort h

protected theorem CoresWf.poolClear {o : Nat} (h : CoresWf s) : CoresWf (poolClear o s) := by
  unfold Machine.poolClear
  dsimp only
  refine .ite ?_ ?_
  · split
    · exact h.same
    · exact h.same
    · exact h
  · exact h

protected theorem CoresWf.decClear {o : Nat} (h : CoresWf s) : CoresWf (decClear o s) := by
  unfold Machine.decClear
  dsimp only
  split
  · exact h.setDec
  · exact h.setDec
  · exact h.setDec
  · exact h.setDec
  · exact h

protected theorem CoresWf.decWrite {o : Nat} {v : Word} {be : BitVec 4} (h : CoresWf s) : CoresWf (decWrite o v be s) :=
  .ite h.same h

protected theorem CoresWf.encClear {o : Nat} (h : CoresWf s) : CoresWf (encClear o s) := by
  unfold Machine.encClear
  dsimp only
  refine .ite ?_ ?_
  · split
    · exact h.setEnc
    · exact h.setEnc
    · exact h.setEnc
    · exact h
  · exact h

protected theorem CoresWf.prepClear {o : Nat} (h : CoresWf s) : CoresWf (prepClear o s) := by
  unfold Machine.prepClear
  dsimp only
  refine .ite ?_ ?_
  · split
    · exact h.setPrep
    · exact h.setPrep
    · exact h.setPrep
    · exact h
  · exact h

protected theorem CoresWf.bellClear {o : Nat} (h : CoresWf s) : CoresWf (bellClear o s) := by
  unfold Machine.bellClear
  dsimp only
  split
  · exact h.same
  · exact h.same
  · exact h.same
  · exact h.same
  · exact h

protected theorem CoresWf.bellWrite {o : Nat} {v : Word} {be : BitVec 4} (h : CoresWf s) :
    CoresWf (bellWrite o v be s) := by
  unfold Machine.bellWrite
  dsimp only
  split
  · exact h.same
  · exact h.same
  · exact h

protected theorem CoresWf.furrowClear {o : Nat} (h : CoresWf s) : CoresWf (furrowClear o s) := by
  unfold Machine.furrowClear
  dsimp only
  split
  · exact h.setFields rfl
  · exact h.setFields rfl
  · exact h.setFields rfl
  · exact h.setFields rfl
  · exact h.setFields rfl
  · exact h.setFields rfl
  · exact h.setFields rfl
  · exact h.setFields rfl
  · exact h

protected theorem CoresWf.furrowWrite {o : Nat} {v : Word} {be : BitVec 4} (h : CoresWf s) :
    CoresWf (furrowWrite o v be s) := by
  unfold Machine.furrowWrite
  dsimp only
  split
  · exact h.setFields rfl
  · exact h.setFields rfl
  · exact h

protected theorem CoresWf.trkClear {o : Nat} (h : CoresWf s) : CoresWf (trkClear o s) := by
  unfold Machine.trkClear
  dsimp only
  split
  · exact h.same
  · exact h.same
  · exact h

protected theorem CoresWf.memClear {o : Nat} (h : CoresWf s) : CoresWf (memClear o s) := by
  unfold Machine.memClear
  dsimp only
  split
  · exact h.same
  · exact h.same
  · exact h.same
  · exact h.same
  · exact h.same
  · exact h

protected theorem CoresWf.memRegWrite {o : Nat} {v : Word} {be : BitVec 4} (h : CoresWf s) :
    CoresWf (memRegWrite o v be s) := by
  unfold Machine.memRegWrite
  dsimp only
  split
  · exact h.same
  · exact .ite h h.invalidate_
  · exact h

protected theorem CoresWf.pwrClear {o : Nat} (h : CoresWf s) : CoresWf (pwrClear o s) := by
  unfold Machine.pwrClear
  dsimp only
  split
  · exact h.same
  · exact h.same
  · exact h

protected theorem CoresWf.pwrWrite {o : Nat} {v : Word} {be : BitVec 4} (h : CoresWf s) :
    CoresWf (pwrWrite o v be s) := by
  unfold Machine.pwrWrite
  dsimp only
  split
  · exact h.same
  · exact .enterLow h.same
  · exact h

protected theorem CoresWf.telClear {o : Nat} (h : CoresWf s) : CoresWf (telClear o s) := .ite h.same h

protected theorem CoresWf.telWrite {o : Nat} {v : Word} {be : BitVec 4} (h : CoresWf s) : CoresWf (telWrite o v be s) :=
  .ite h.same h

protected theorem CoresWf.fltClear {o : Nat} (h : CoresWf s) : CoresWf (fltClear o s) := by
  unfold Machine.fltClear
  dsimp only
  split
  · exact h.same
  · exact h.same
  · exact h

protected theorem CoresWf.fltWrite {o : Nat} {v : Word} {be : BitVec 4} (h : CoresWf s) : CoresWf (fltWrite o v be s) :=
  .ite h.same h

protected theorem CoresWf.slotClear {o : Nat} (h : CoresWf s) : CoresWf (slotClear o s) := .ite h.drawFree h

protected theorem CoresWf.slotWrite {o : Nat} {v : Word} {be : BitVec 4} (h : CoresWf s) :
    CoresWf (slotWrite o v be s) := by
  unfold Machine.slotWrite
  dsimp only
  split
  · exact h.same
  · exact .send (.send h.same)
  · exact h

protected theorem CoresWf.fwmClear {o : Nat} (h : CoresWf s) : CoresWf (fwmClear o s) := .ite h.same h

protected theorem CoresWf.fwmWrite {o : Nat} {v : Word} {be : BitVec 4} (h : CoresWf s) :
    CoresWf (fwmWrite o v be s) := by
  unfold Machine.fwmWrite
  dsimp only
  split
  · exact h.same
  · exact h.fwCtrl
  · exact h

protected theorem CoresWf.regClear {o : Nat} (h : CoresWf s) : CoresWf (regClear o s) := by
  unfold Machine.regClear
  split
  · exact h
  · exact h.cmdClear
  · exact h.ingClear
  · exact h.decClear
  · exact h.encClear
  · exact h.prepClear
  · exact h.bellClear
  · exact h.furrowClear
  · exact h.trkClear
  · exact h.memClear
  · exact h.poolClear
  · exact h.pwrClear
  · exact h.fltClear
  · exact h.slotClear
  · exact h.fwmClear
  · exact h.telClear
  · exact h

protected theorem CoresWf.readDone {o : Nat} (h : CoresWf s) : CoresWf (readDone o s) := h.regClear.same

protected theorem CoresWf.regWrite {o : Nat} {v : Word} {be : BitVec 4} (h : CoresWf s) :
    CoresWf (regWrite o v be s) := by
  unfold Machine.regWrite
  dsimp only
  split
  · exact h.glbWrite
  · exact h.cmdWrite
  · exact h.ingWrite
  · exact h.decWrite
  · exact h
  · exact h
  · exact h.bellWrite
  · exact h.furrowWrite
  · exact h
  · exact h.memRegWrite
  · exact h
  · exact h.pwrWrite
  · exact h.fltWrite
  · exact h.slotWrite
  · exact h.fwmWrite
  · exact h.telWrite
  · exact h

protected theorem CoresWf.wakeFor {d : Nat} (h : CoresWf s) : CoresWf (wakeFor d s) := .ite h h.drawFree.hostWake

protected theorem CoresWf.regAccess {offset : BitVec 24} {work : Nat → State → State} (h : CoresWf s)
    (hw : ∀ o s, CoresWf s → CoresWf (work o s)) : CoresWf (regAccess offset work s) :=
  h.ite (h.send.ite ((hw _ _ h.wakeFor.touchDomain).ite h.wakeFor))

protected theorem CoresWf.writeDword {offset : BitVec 24} {value : Word} {be : BitVec 4} (h : CoresWf s) :
    CoresWf (writeDword offset value be s) := h.regAccess (fun _ _ h => h.regWrite.updateWire)

protected theorem CoresWf.execRegisterWrite {offset : BitVec 24} {value : BitVec 64} {be : BitVec 8} (h : CoresWf s) :
    KeepsCoresWf (execRegisterWrite offset value be s) := .next (.ite h.writeDword.writeDword h.writeDword)

protected theorem CoresWf.execRegisterReadClear {r : RegRead} (h : CoresWf s) :
    KeepsCoresWf (execRegisterReadClear r s) :=
  .next (h.regAccess (fun _ _ h => .ite h.readDone.readDone.send.updateWire h.readDone.send.updateWire))

/-! ### Every row of the opcode table -/

/-- One case for each row: its own lemma, or where the row is a packet or a tile step the lemma of its body. -/
protected theorem CoresWf.exec {c : Instr} (h : CoresWf s) : KeepsCoresWf (exec c s) := by
  cases c with
  | identify => exact h.execIdentify
  | telemetryRead => exact h.execTelemetryRead
  | faultLogRead => exact h.execFaultLogRead
  | portConfigPort => exact h.execPortConfigPort
  | portConfigDatagram => exact h.execPortConfigDatagram
  | streamOpen => exact h.execStreamOpen
  | streamAdmit => exact h.execStreamAdmit
  | streamClose => exact h.execStreamClose
  | streamQuery => exact h.execStreamQuery
  | keyLoad => exact h.execKeyLoad
  | sheafDefine => exact h.execSheafDefine
  | sheafDissolve => exact h.execSheafDissolve
  | shedRankSet => exact h.execShedRankSet
  | networkLoad => exact h.execNetworkLoad
  | networkUnload => exact h.execNetworkUnload
  | roundConfig => exact h.execRoundConfig
  | clipRequest => exact h.execClipRequest
  | clipCancel => exact h.execClipCancel
  | selftestRequest => exact h.execSelftestRequest
  | serviceRestore => exact h.execServiceRestore
  | recessEnter => exact h.execRecessEnter
  | recessExit => exact h.execRecessExit
  | recessExitRoundStart => exact h.execRecessExitRoundStart
  | fwStageBailiff => exact h.execFwStageBailiff
  | fwStagePatch => exact h.execFwStagePatch
  | fwArmBailiff => exact h.execFwArmBailiff
  | fwArmPatch => exact h.execFwArmPatch
  | fwActivate => exact h.execFwActivate
  | fwDisarm => exact h.execFwDisarm
  | quiesceTimeout => exact h.execQuiesceTimeout
  | bootLoadComplete => exact h.execBootLoadComplete
  | auPush => exact h.execAuPush
  | auPushComplete => exact h.execAuPushComplete
  | jobSubmit => exact h.execJobSubmit
  | jobCancel => exact h.execJobCancel
  | ringCredit => exact h.execRingCredit
  | maintEcho => exact h.execMaintEcho
  | maintPeek => exact h.execMaintPeek
  | maintErrInject => exact h.execMaintErrInject
  | maintCountersClear => exact h.execMaintCountersClear
  | replyDeadline => exact h.execReplyDeadline
  | doorbellWrite => exact h.execDoorbellWrite
  | ringEnable => exact h.execRingEnable
  | ringDisable => exact h.execRingDisable
  | registerWrite => exact h.execRegisterWrite
  | registerReadClear => exact h.execRegisterReadClear
  | hostAccessWake => exact h.execHostAccessWake
  | recessDomainRevert => exact h.execRecessDomainRevert
  | tlbInvalidate => exact h.execTlbInvalidate
  | fwConfirm => exact h.execFwConfirm
  | fwReject => exact h.execFwReject
  | bar2Read => exact h.execBar2Read
  | bar2Write => exact h.execBar2Write
  | pcieRequestUnsupported => exact h.execPcieRequestUnsupported
  | poisonedWrite bar offset => exact h.execPoisonedWrite (bar := bar) (offset := offset)
  | hostReadCompletion => exact h.execHostReadCompletion
  | completionTimeout => exact h.execCompletionTimeout
  | parkRecordAction => exact h.execParkRecordAction
  | dmaGranuleLand => exact h.execDmaGranuleLand
  | intCoalTimer => exact h.execIntCoalTimer
  | interruptDisableWrite => exact h.execInterruptDisableWrite
  | flr => exact h.execFlr
  | flrComplete => exact h.execFlrComplete
  | d3hotEntry => exact h.execD3hotEntry
  | d0Return => exact h.execD0Return
  | pmeTurnOff => exact h.execPmeTurnOff
  | l0sEntry => exact h.execL0sEntry
  | l1Request => exact h.execL1Request
  | linkLoss => exact h.execLinkLoss
  | linkReturnL0 => exact h.execLinkReturnL0
  | refclkLost => exact h.execRefclkLost
  | perstAssert => exact h.execPerstAssert
  | perstDeassert => exact h.execPerstDeassert
  | bootComplete => exact h.execBootComplete
  | presenceLost => exact h.execPresenceLost
  | presenceRestored => exact h.execPresenceRestored
  | attnBtnPress => exact h.execAttnBtnPress
  | mainPwrgdRise => exact h.execMainPwrgdRise
  | mainPwrgdFall => exact h.execMainPwrgdFall
  | aonPowerUp => exact CoresWf.execAonPowerUp s
  | railFault => exact h.execRailFault
  | brownout => exact h.execBrownout
  | aonFullReached => exact h.execAonFullReached
  | syncInEdge => exact h.execSyncInEdge
  | thermalSample => exact h.execThermalSample
  | thermalShedTimer => exact h.execThermalShedTimer
  | thermalTrip => exact h.execThermalTrip
  | frameReceive => exact h.execFrameReceive
  | pauseFrame => exact h.execPauseFrame
  | controlPacket => exact h.execControlPacket
  | reorderWaitExpiry => exact h.execReorderWaitExpiry
  | portLinkChange => exact h.execPortLinkChange
  | truantTimeout => exact h.execTruantTimeout
  | slipRollCall => exact h.execSlipRollCall
  | relockRollCall => exact h.execRelockRollCall
  | stashMove => exact h.execStashMove
  | poolStage3Shed => exact h.execPoolStage3Shed
  | decodePicture => exact h.execDecodePicture
  | decodeWatchdog => exact h.execDecodeWatchdog
  | prepareInput => exact h.execPrepareInput
  | prepWatchdog => exact h.execPrepWatchdog
  | slotIssue => exact h.execSlotIssue
  | coreReady => exact h.execCoreReady
  | unitFinish => exact h.execUnitFinish
  | actionHang => exact h.execActionHang
  | wakeTimeout => exact h.execWakeTimeout
  | roundBoundary => exact h.execRoundBoundary
  | fallowSlot => exact h.execFallowSlot
  | hbmRefresh => exact h.execHbmRefresh
  | patrolScrub => exact h.execPatrolScrub
  | substituteCopy => exact h.execSubstituteCopy
  | timetableMarkComplete => exact h.execTimetableMarkComplete
  | timetableCheckComplete => exact h.execTimetableCheckComplete
  | standbyRebuild => exact h.execStandbyRebuild
  | engineRebind => exact h.execEngineRebind
  | rows => exact h.execRows
  | apply => exact h.execApply
  | emit => exact h.execEmit
  | recordEgress => exact h.execRecordEgress
  | datagramSend => exact h.execDatagramSend
  | nextHopResolved => exact h.execNextHopResolved
  | wloadWeights => exact h.execWloadWeights
  | wloadScales => exact h.execWloadScales
  | matmul => exact h.execMatmul
  | conv => exact h.execConv
  | pool => exact h.execPool
  | crop => exact h.execCrop
  | vecRequantise => exact h.execVecRequantise
  | vecAdd => exact h.execVecAdd
  | vecSubtract => exact h.execVecSubtract
  | vecMultiply => exact h.execVecMultiply
  | vecFusedMultiplyAdd => exact h.execVecFusedMultiplyAdd
  | vecMinimum => exact h.execVecMinimum
  | vecMaximum => exact h.execVecMaximum
  | vecCompare => exact h.execVecCompare
  | vecSelect => exact h.execVecSelect
  | vecRelu => exact h.execVecRelu
  | vecClip => exact h.execVecClip
  | vecLeakyRelu => exact h.execVecLeakyRelu
  | vecShift => exact h.execVecShift
  | vecConversion => exact h.execVecConversion
  | vecDivide => exact h.execVecDivide
  | vecReciprocal => exact h.execVecReciprocal
  | vecSquareRoot => exact h.execVecSquareRoot
  | vecReciprocalSquareRoot => exact h.execVecReciprocalSquareRoot
  | vecExp => exact h.execVecExp
  | vecExp2 => exact h.execVecExp2
  | vecLog => exact h.execVecLog
  | vecLog2 => exact h.execVecLog2
  | vecSigmoid => exact h.execVecSigmoid
  | vecTanh => exact h.execVecTanh
  | vecSoftplus => exact h.execVecSoftplus
  | vecSilu => exact h.execVecSilu
  | vecGelu => exact h.execVecGelu
  | vecSoftmax => exact h.execVecSoftmax
  | vecLayerNormalisation => exact h.execVecLayerNormalisation
  | vecSum => exact h.execVecSum
  | vecAxisMaximum => exact h.execVecAxisMaximum
  | vecAxisMinimum => exact h.execVecAxisMinimum
  | vecArgmax => exact h.execVecArgmax
  | vecTopK => exact h.execVecTopK
  | vecDepthwiseConvolution => exact h.execVecDepthwiseConvolution
  | vecResampling => exact h.execVecResampling
  | vecRepacking => exact h.execVecRepacking
  | vecTranspose => exact h.execVecTranspose
  | vecConcatenation => exact h.execVecConcatenation
  | vecSplit => exact h.execVecSplit
  | vecBoxDecoding => exact h.execVecBoxDecoding
  | vecNonMaximumSuppression => exact h.execVecNonMaximumSuppression
  | syncEnd => exact h.execSyncEnd
  | syncSteps => exact h.execSyncSteps
  | syncQuiet => exact h.execSyncQuiet
  | syncMarks => exact h.execSyncMarks
  | syncParam => exact h.execSyncParam
  | claim => exact h.execClaim
  | dmaIn => exact h.execDmaIn
  | dmaOut => exact h.execDmaOut
  | fabricError => exact h.execFabricError
  | computeResetComplete => exact h.execComputeResetComplete
  | resetTimeout => exact h.execResetTimeout
  | faultLogCopy => exact h.execFaultLogCopy
  | engineIdleOff => exact h.execEngineIdleOff
  | offReq => exact h.execOffReq
  | wakeReq => exact h.execWakeReq
  | ack => exact h.execAck
  | delay => exact h.execDelay
  | refuse => exact h.execRefuse
  | ready => exact h.execReady
  | delayExpired => exact h.execDelayExpired
  | clipStart => exact h.execClipStart
  | clipDecodePicture => exact h.execClipDecodePicture
  | clipEncodePicture => exact h.execClipEncodePicture
  | clipPacketSend => exact h.execClipPacketSend
  | encWatchdog => exact h.execEncWatchdog
  | aliveTimeout => exact h.execAliveTimeout
  | firewallBlock write => exact CoresWf.execFirewallBlock (write := write) h
  | mgmtSramError => exact h.execMgmtSramError
  | confirmRequest => exact h.execConfirmRequest
  | trialTimeout => exact h.execTrialTimeout
  | getVersion => exact h.execGetVersion
  | getCapabilities => exact h.execGetCapabilities
  | negotiateAlgorithms => exact h.execNegotiateAlgorithms
  | getDigests => exact h.execGetDigests
  | getCertificate => exact h.execGetCertificate
  | challenge => exact h.execChallenge
  | getMeasurements => exact h.execGetMeasurements
  | spdmUnsupportedRequest => exact h.execSpdmUnsupportedRequest
  | doeAbort => exact h.execDoeAbort
  | clkreqLinkExit => exact h.execClkreqLinkExit
  | refclkReturn => exact h.execRefclkReturn
  | brownoutRecovery => exact h.execBrownoutRecovery
  | remainingBlockLoad => exact h.execRemainingBlockLoad

protected theorem CoresWf.tick (h : CoresWf s) : CoresWf (tick s) := by
  obtain ⟨_, _, _, ht⟩ := tick_eq s
  obtain ⟨_, _, _, hn⟩ := nextInstant_eq s
  rw [ht, hn]
  exact h.same

end CoreBuffers

/-- Settles O60: a command keeps the buffers canonical by its function's lemma, and an idle fast cycle touches no core. -/
theorem coreBuffersStayCanonical : Obligations.CoreBuffersStayCanonical := by
  unfold Obligations.CoreBuffersStayCanonical
  intro s t hbuffers hstep
  have h : CoresWf s := ⟨hbuffers⟩
  cases hp : s.pending with
  | nil =>
    rw [step_of_idle hp] at hstep
    obtain rfl := Host.Outcome.next.inj hstep
    exact h.tick.all
  | cons c rest =>
    rw [step_of_pending hp] at hstep
    have hfront : CoresWf { s with pending := rest } := h.same
    exact (hfront.exec t hstep).all

end Sys2Proof.Machine
